-- ==== Sys2Proof/Word.lean ====
section
/-! DEFINITION. The word types of the GM4620 and their plainest arithmetic. -/
namespace Sys2Proof

/-- A byte of memory (R4). -/
abbrev Byte := BitVec 8

/-- A control register, an s register, an instruction word (R4, R94, R97). -/
abbrev W64 := BitVec 64

end Sys2Proof
end

