-- ==== Sys2Proof/Syntax.lean ====
section
/-! DEFINITION. The commands of the GM4620 and the operands they carry. A core instruction carries its core and the
operand bits [51:0] of its word (R97); a register command carries the port it arrives on; an event carries what the
outside supplies. -/
namespace Sys2Proof

abbrev CoreId := Fin 128
abbrev HoopId := Fin 16
abbrev LinkId := Fin 64
abbrev SapId := Fin 16
abbrev GrpId := Fin 8
abbrev Folio := BitVec 20
abbrev DevNum := BitVec 12

/-- The ports a control access or a memory write arrives on (Table 14-10): P0 Colophon, P1 management port,
P2 Spine kernel, P3 a user process of the Spine, P6 test port. -/
inductive Port where | p0 | p1 | p2 | p3 | p6
deriving DecidableEq, Repr

/-- The engines of a core that hold dispatched instructions (R104). -/
inductive Engine where | mm | rc | vx | at | dm
deriving DecidableEq, Repr

/-- A tile of the tile cache: the Toile address of its tensor object and its block number (R212). -/
structure TileKey where
  addr : BitVec 52
  blk : Nat
deriving DecidableEq, Repr

/-- The answer to a transaction (R257, Table 10-7): a completion with its data and old value, a refusal, or a
completion that reports an uncorrectable error in the data. -/
inductive Reply where
  | done (dat : List Byte) (old : BitVec 64)
  | refused
  | ecc
deriving DecidableEq, Repr

/-- Where a transaction stands in its flow, and the requester's tag that it carries or returns (Table 10-5). -/
structure FlowPos where
  seq : BitVec 16
  tag : BitVec 16
deriving DecidableEq, Repr

/-- What ends a transaction of the device (R243, R257, R259): a completion or refusal, the answer to a request for a read
lease, or the acknowledgement of a flow's transaction of a type that has no response. -/
inductive Ended where
  | reply (h : FlowPos) (r : Reply)
  | lease (h : FlowPos) (granted : Bool)
  | flow (cls : Fin 4) (seq : BitVec 16)
deriving DecidableEq, Repr

/-- The flits of receive buffering that a control flit hands back, for each class (R248, R258). -/
structure Credits where
  request : BitVec 8
  response : BitVec 8
  lining : BitVec 8
  management : BitVec 8
deriving DecidableEq, Repr

/-- A transaction header (Table 10-5). -/
structure TxnHeader where
  typ : BitVec 4
  cls : BitVec 2
  dest : DevNum
  src : DevNum
  seq : BitVec 16
  hops : BitVec 3
  len : BitVec 6
  offset : BitVec 40
  sub : BitVec 8
  tag : BitVec 16
  opa : BitVec 64
  opb : BitVec 64
  /-- the data that comes with it: the first 28 bytes in the header flit, the rest in its data flits -/
  dat : List Byte := []
deriving DecidableEq, Repr

/-- A HELLO (Table 10-6). -/
structure HelloMsg where
  devnum : DevNum
  fabricId : BitVec 32
  link : BitVec 6
  lifecycle : BitVec 2
  epoch : BitVec 32
  quorum : Bool
  digest : BitVec 128
  firmware : BitVec 32
deriving DecidableEq, Repr

/-- A TIME message or reply with its four stamps (R261) and what the sender advertises of its root. -/
structure TimeMsg where
  t1 : BitVec 64
  t2 : BitVec 64
  t3 : BitVec 64
  t4 : BitVec 64
  rootPrio : BitVec 8
  root : DevNum
  hops : BitVec 3
deriving DecidableEq, Repr

/-- The source base of an RTP flow (R266, Table 12-2). -/
structure SrcBase where
  ssrc : BitVec 32
  baseTs : BitVec 32
  anchorI : BitVec 32
  anchorT : BitVec 64
deriving DecidableEq, Repr

/-- What LINE.OPEN carries (Table 10-8). -/
structure LineParams where
  binder : BitVec 12
  size : BitVec 32
  external : Bool
  hop : BitVec 13
  frames : BitVec 7
  lookback : BitVec 17
  channels : BitVec 5
  fs : BitVec 18
  hoop : BitVec 4
  egress : BitVec 4
  base : Option SrcBase
deriving DecidableEq, Repr

/-- A stamp entry (Table 2-4). -/
structure StampEntry where
  time : BitVec 64
  first : BitVec 32
  count : BitVec 16
  invalid : Bool
  resetMark : Bool
  slip : Bool
  gap : Bool
deriving DecidableEq, Repr

/-- A LINE.ACK: an acknowledgement or a refusal with its reason (R265 to R267). -/
inductive LineResult where | ack | stale | seq | noRoom
deriving DecidableEq, Repr

/-- A member's answer to a LEASE request (R271, R273, R276, R339). -/
inductive LeaseReply where
  | renewed (expiry : BitVec 64)
  | renewRefused (epoch : BitVec 32)
  | promoted (x : DevNum)
  | promoteRefused (x : DevNum)
  | joined (epoch : BitVec 32) (expiry : BitVec 64)
deriving DecidableEq, Repr

/-- A data line over periods of BCLK: its level at the rising and at the falling edge of each. -/
abbrev LineLevels := List (Bool × Bool)

/-- An IEC 60958 subframe: whether its preamble begins a block, and its time slots 4 to 31, slot 4 as bit 0 (R285, R286). -/
structure SubFrame where
  start : Bool
  slots : BitVec 28
deriving DecidableEq, Repr

/-- What the pins of a serial audio port show in a frame (Table 11-2): FSYNC at the capturing edge of each BCLK period, the
lines D0 to D3, and the subframes A and B of an IEC port's biphase-mark signal. -/
structure PortFrame where
  port : SapId
  sync : List Bool
  lines : List LineLevels
  iec : Option (SubFrame × SubFrame)
deriving DecidableEq, Repr

/-- A received Ethernet frame after its FCS check (R308, R311). -/
structure EthFrame where
  bytes : List Byte
  fcsOk : Bool
deriving DecidableEq, Repr

/-- A frame handed to an Ethernet port to send (R309). -/
structure TxFrame where
  bytes : List Byte
  oneStepSync : Bool
deriving DecidableEq, Repr

/-- The end of an I2C or I3C transfer (R325). -/
inductive BusResult where | ok | addrNak | dataNak | timeout | lost
deriving DecidableEq, Repr

/-- A signed management command: the challenge it names, the public key and the signature (R362). -/
structure SignedReq where
  chal : BitVec 128
  key : BitVec 456
  sig : BitVec 912
deriving DecidableEq, Repr

/-- A debug access of the test port (R363). -/
inductive DebugOp where
  | readReg (addr : BitVec 64)
  | writeReg (addr : BitVec 64) (v : BitVec 64)
  | readMem (addr : BitVec 40) (len : Nat)
  | writeMem (addr : BitVec 40) (dat : List Byte)
deriving DecidableEq, Repr

/-- A clock whose loss is detected (R391, R328). -/
inductive ClockSource where | refclk | xbar | arith | spine | hbm | mgmt | ethSerdes (e : Fin 2)
deriving DecidableEq, Repr

/-- Where SLOT_WRITE writes: the slot that it names, 0 A and 1 B, and the offset in it (Table 14-9). -/
structure SlotPlace where
  slot : Fin 2
  off : Nat
deriving DecidableEq, Repr

/-- What AVSBus reads back: the VDD_CORE current in mA, and whether the regulator reports its target reached (R368). -/
structure AvsReading where
  ma : Nat
  reached : Bool
deriving DecidableEq, Repr

/-- A PMBus reading of one mapped rail: rail, millivolts, current (R369). -/
structure RailReading where
  rail : Fin 10
  mv : BitVec 16
  current : BitVec 20
deriving DecidableEq, Repr

/-- The status of one mapped regulator read after PMB_ALERT_N (R369). -/
structure RailStatus where
  rail : Fin 10
  status : BitVec 16
deriving DecidableEq, Repr


/-- The commands of the GM4620: one constructor per row of opcode_table.json. -/
inductive Instr where
  /-- REGISTER_WRITE (R5): A control-space write to a register field with no behaviour of its own sets the field, clears w1c bits or zeroes sat counters. -/
  | regWrite (p : Port) (addr : BitVec 64) (width : Nat) (v : BitVec 64)
  /-- OPEN (R38): FOL OPEN checks the folio, binder, hoop, addresses, ring and partner and starts writing the initial state. -/
  | folOpen (p : Port) (n : Folio)
  /-- OPEN_COMPLETE (R38): The initial state and header reach the state page, the folio enters IDLE and busy clears. -/
  | openComplete
  /-- CLOSE (R40): FOL CLOSE is checked and accepted, setting close_pending for an ACTIVE folio. -/
  | folClose (p : Port) (n : Folio)
  /-- FOLIO_CLOSE_COMPLETE (R40): At the gathering boundary the folio unbinds any source, writes its end-of-stream record, tells its partner and enters FREE. -/
  | folioCloseComplete (n : Folio)
  /-- RESET (R41): FOL RESET sets reset_pending for an IDLE, READY or ACTIVE folio. -/
  | folReset (p : Port) (n : Folio)
  /-- MOVE (R41): FOL MOVE changes the folio's hoop, or defers the move to the end of the current release. -/
  | folMove (p : Port) (n : Folio)
  /-- STATE_SWAP_OUT (R54): A committed copy is written back to the state page if changed and its state-store space freed. -/
  | stateSwapOut (n : Folio)
  /-- STATE_LOAD (R54): The committed state of each non-resident member is swapped or streamed into the state store. -/
  | stateLoad (h : HoopId) (ser : Nat)
  /-- SCHEDULER_PICK (R47): When cores are free the hoop scheduler chooses a binder by earliest deadline, reserves cores and opens a section. -/
  | schedulerPick (h : HoopId)
  /-- SECTION_FILL_TIMEOUT (R47): w_B after the earliest member's ready time passes and the open section closes. -/
  | sectionFillTimeout (h : HoopId) (ser : Nat)
  /-- SECTION_DEADLINE_CLOSE (R47): The earliest member's deadline less the section time is reached and the open section closes. -/
  | sectionDeadlineClose (h : HoopId) (ser : Nat)
  /-- SECTION_HANDOVER (R58): A formed section is handed to a group of cores waiting in ST.NEXT, which receive the section word and member table. -/
  | sectionHandover (h : HoopId) (ser : Nat)
  /-- SECTION_COMMIT (R61): Stage 9 starts once every core has issued ST.COMMIT and every wait is met, writing headers, deltas and directory fields. -/
  | sectionCommit (h : HoopId) (ser : Nat)
  /-- COMMIT_COMPLETE (R61): Stage 9 ends, ST.COMMIT retires on every core, deltas go to lining and unlined gatherings become releasable. -/
  | commitComplete (h : HoopId) (ser : Nat)
  /-- GATHERING_RELEASE (R63): A gathering's token records are written to its usable egress ring once it has room and the write index advances. -/
  | gatheringRelease (n : Folio)
  /-- ST_NEXT (R58): ST.NEXT waits for the core's group to be given a section. -/
  | stNext (c : CoreId) (ops : BitVec 52)
  /-- ST_EMIT (R59): ST.EMIT writes one token record for a member to the section's holding area. -/
  | stEmit (c : CoreId) (ops : BitVec 52)
  /-- ST_RESET (R60): ST.RESET sets reset_pending for a member when the section commits. -/
  | stReset (c : CoreId) (ops : BitVec 52)
  /-- ST_COMMIT (R61): ST.COMMIT marks the core ready for stage 9, or abandons the section on a fenced device. -/
  | stCommit (c : CoreId) (ops : BitVec 52)
  /-- ILLEGAL_INSTRUCTION (R99): An instruction word of reserved class or unlisted operation raises ILLEGAL_OP at issue. -/
  | illegalInstruction (c : CoreId) (w : BitVec 64)
  /-- RESUME (R125): A write of COREc_CTRL.resume releases a held core. -/
  | coreResumeWrite (p : Port) (c : CoreId)
  /-- CORE_RESUME (R125): Once dispatched instructions complete, the core restarts at COREc_ENTRY with flags cleared and no section. -/
  | coreResume (c : CoreId)
  /-- WATCHDOG (R126): limit_us passes before stage 9 starts and the core raises WATCHDOG. -/
  | watchdog (c : CoreId)
  /-- SC_ADD (R109): Scalar add. -/
  | scAdd (c : CoreId) (ops : BitVec 52)
  /-- SC_SUB (R109): Scalar subtract. -/
  | scSub (c : CoreId) (ops : BitVec 52)
  /-- SC_MUL (R109): Scalar multiply, low 64 bits. -/
  | scMul (c : CoreId) (ops : BitVec 52)
  /-- SC_AND (R109): Scalar bitwise and. -/
  | scAnd (c : CoreId) (ops : BitVec 52)
  /-- SC_OR (R109): Scalar bitwise or. -/
  | scOr (c : CoreId) (ops : BitVec 52)
  /-- SC_XOR (R109): Scalar bitwise exclusive or. -/
  | scXor (c : CoreId) (ops : BitVec 52)
  /-- SC_SHL (R109): Scalar shift left by register. -/
  | scShl (c : CoreId) (ops : BitVec 52)
  /-- SC_SHR (R109): Scalar logical shift right by register. -/
  | scShr (c : CoreId) (ops : BitVec 52)
  /-- SC_SRA (R109): Scalar arithmetic shift right by register. -/
  | scSra (c : CoreId) (ops : BitVec 52)
  /-- SC_MIN (R109): Scalar signed minimum. -/
  | scMin (c : CoreId) (ops : BitVec 52)
  /-- SC_MAX (R109): Scalar signed maximum. -/
  | scMax (c : CoreId) (ops : BitVec 52)
  /-- SC_MINU (R109): Scalar unsigned minimum. -/
  | scMinu (c : CoreId) (ops : BitVec 52)
  /-- SC_MAXU (R109): Scalar unsigned maximum. -/
  | scMaxu (c : CoreId) (ops : BitVec 52)
  /-- SC_SLT (R109): Scalar set if less than, signed. -/
  | scSlt (c : CoreId) (ops : BitVec 52)
  /-- SC_SLTU (R109): Scalar set if less than, unsigned. -/
  | scSltu (c : CoreId) (ops : BitVec 52)
  /-- SC_ADDI (R109): Scalar add immediate. -/
  | scAddi (c : CoreId) (ops : BitVec 52)
  /-- SC_ANDI (R109): Scalar and immediate. -/
  | scAndi (c : CoreId) (ops : BitVec 52)
  /-- SC_ORI (R109): Scalar or immediate. -/
  | scOri (c : CoreId) (ops : BitVec 52)
  /-- SC_SHLI (R109): Scalar shift left by immediate. -/
  | scShli (c : CoreId) (ops : BitVec 52)
  /-- SC_SHRI (R109): Scalar logical shift right by immediate. -/
  | scShri (c : CoreId) (ops : BitVec 52)
  /-- SC_SRAI (R109): Scalar arithmetic shift right by immediate. -/
  | scSrai (c : CoreId) (ops : BitVec 52)
  /-- SC_SLTI (R109): Scalar set if less than immediate. -/
  | scSlti (c : CoreId) (ops : BitVec 52)
  /-- SC_LI (R109): Scalar load sign-extended immediate. -/
  | scLi (c : CoreId) (ops : BitVec 52)
  /-- SC_LIH (R109): Scalar load upper 32 bits. -/
  | scLih (c : CoreId) (ops : BitVec 52)
  /-- SC_LD (R110): Scalar 64-bit load from a Toile address. -/
  | scLd (c : CoreId) (ops : BitVec 52)
  /-- SC_LDW (R110): Scalar 32-bit load from a Toile address. -/
  | scLdw (c : CoreId) (ops : BitVec 52)
  /-- SC_ST (R110): Scalar 64-bit store to a Toile address. -/
  | scSt (c : CoreId) (ops : BitVec 52)
  /-- SC_STW (R110): Scalar 32-bit store to a Toile address. -/
  | scStw (c : CoreId) (ops : BitVec 52)
  /-- SC_B (R109): Unconditional branch. -/
  | scB (c : CoreId) (ops : BitVec 52)
  /-- SC_BEQ (R109): Branch if equal. -/
  | scBeq (c : CoreId) (ops : BitVec 52)
  /-- SC_BNE (R109): Branch if not equal. -/
  | scBne (c : CoreId) (ops : BitVec 52)
  /-- SC_BLT (R109): Branch if less, signed. -/
  | scBlt (c : CoreId) (ops : BitVec 52)
  /-- SC_BGE (R109): Branch if greater or equal, signed. -/
  | scBge (c : CoreId) (ops : BitVec 52)
  /-- SC_BLTU (R109): Branch if less, unsigned. -/
  | scBltu (c : CoreId) (ops : BitVec 52)
  /-- SC_BGEU (R109): Branch if greater or equal, unsigned. -/
  | scBgeu (c : CoreId) (ops : BitVec 52)
  /-- SC_BF (R109): Branch if a flag is set. -/
  | scBf (c : CoreId) (ops : BitVec 52)
  /-- SC_CALL (R109): Branch and link. -/
  | scCall (c : CoreId) (ops : BitVec 52)
  /-- SC_JR (R110): Jump to a register target. -/
  | scJr (c : CoreId) (ops : BitVec 52)
  /-- SC_RDF (R109): Read the flags register. -/
  | scRdf (c : CoreId) (ops : BitVec 52)
  /-- SC_CLF (R95): Clear selected flags. -/
  | scClf (c : CoreId) (ops : BitVec 52)
  /-- SC_CRR (R111): Read a permitted register of the own CORE block. -/
  | scCrr (c : CoreId) (ops : BitVec 52)
  /-- SC_CRW (R111): Write a permitted register of the own CORE block. -/
  | scCrw (c : CoreId) (ops : BitVec 52)
  /-- SC_TIME (R109): Read device time at issue. -/
  | scTime (c : CoreId) (ops : BitVec 52)
  /-- SC_ID (R111): Read the core identity word. -/
  | scId (c : CoreId) (ops : BitVec 52)
  /-- SC_NOP (R109): Do nothing. -/
  | scNop (c : CoreId) (ops : BitVec 52)
  /-- DM_COPY (R113): Copy a tensor element by element over the destination bounds, padding where the source is short. -/
  | dmCopy (c : CoreId) (ops : BitVec 52)
  /-- DM_PREF (R114): Start bringing a tensor's tiles into the tile cache. -/
  | dmPref (c : CoreId) (ops : BitVec 52)
  /-- DM_PACK (R232): Compress a tensor, alone or as a delta on a base, into a tensor object. -/
  | dmPack (c : CoreId) (ops : BitVec 52)
  /-- DM_TLD (R116): Load a tensor descriptor from memory. -/
  | dmTld (c : CoreId) (ops : BitVec 52)
  /-- DM_TST (R116): Store a tensor descriptor to memory. -/
  | dmTst (c : CoreId) (ops : BitVec 52)
  /-- DM_TBASE (R116): Set a descriptor's base. -/
  | dmTbase (c : CoreId) (ops : BitVec 52)
  /-- DM_TCAP (R116): Set one capacity of a descriptor. -/
  | dmTcap (c : CoreId) (ops : BitVec 52)
  /-- DM_RDW (R117): Read 8 bytes of a tensor into a scalar register. -/
  | dmRdw (c : CoreId) (ops : BitVec 52)
  /-- DM_WRW (R117): Write a scalar register into 8 bytes of a tensor. -/
  | dmWrw (c : CoreId) (ops : BitVec 52)
  /-- DM_VLD (R117): Load 256 bytes of a tensor into a v register. -/
  | dmVld (c : CoreId) (ops : BitVec 52)
  /-- DM_VST (R117): Store a v register into 256 bytes of a tensor. -/
  | dmVst (c : CoreId) (ops : BitVec 52)
  /-- SY_FENCE (R118): Wait until earlier accesses to the named kinds have completed. -/
  | syFence (c : CoreId) (ops : BitVec 52)
  /-- SY_BAR (R118): Wait until every core of the group has issued SY.BAR, then fence. -/
  | syBar (c : CoreId) (ops : BitVec 52)
  /-- MM_GRP (R139): Multiply activations by grouped weights into accumulator tiles along the chosen walk. -/
  | mmGrp (c : CoreId) (ops : BitVec 52)
  /-- MM_LUT (R146): Compute integer group products on the vector engine's lookup path. -/
  | mmLut (c : CoreId) (ops : BitVec 52)
  /-- MM_COMBINE (R143): Issue a cross-core sum of accumulator tiles and wait for the participants. -/
  | mmCombine (c : CoreId) (ops : BitVec 52)
  /-- COMBINE_RENDEZVOUS (R145): Every named participant has issued MM.COMBINE and the tiles are summed at the root. -/
  | combineRendezvous (c : CoreId)
  /-- MM_TALLOC (R136): Allocate a run of accumulator tiles and write a descriptor of them. -/
  | mmTalloc (c : CoreId) (ops : BitVec 52)
  /-- MM_TFREE (R136): Free the tiles a descriptor's extent touches. -/
  | mmTfree (c : CoreId) (ops : BitVec 52)
  /-- TILE_STAGING (R140): Tile-cache space for an instruction's tiles becomes available and the reservation is made. -/
  | tileStaging (c : CoreId)
  /-- TILE_EXPANDED (R229): The expander finishes decoding a tile, checks it and marks it valid or corrupt. -/
  | tileExpanded (h : HoopId) (k : TileKey)
  /-- TILE_UNPIN (R239): A staged tile's pin is released and any pending invalidation takes effect. -/
  | tileUnpin (h : HoopId) (k : TileKey)
  /-- CORE_SELF_TEST (R147): A core's array self-test against the LUT path completes, clearing lut_mode and setting its readiness bit. -/
  | coreSelfTest (c : CoreId) (pass : Bool)
  /-- SHADOW_ARM (R333): shadow_period passes and the core arms the shadow check. -/
  | shadowArm (c : CoreId)
  /-- SHADOW_CHECK (R333): The shadow recomputation of one output block completes and is compared bit for bit. -/
  | shadowCheck (c : CoreId)
  /-- RESIDUE_RECOVERY (R332): The rerun self-test after a residue alarm ends and lut_mode is cleared or kept. -/
  | residueRecovery (c : CoreId) (pass : Bool)
  /-- RC_GATE (R166): Evaluate gated recurrent cells frame by frame. -/
  | rcGate (c : CoreId) (ops : BitVec 52)
  /-- RC_SCAN (R161): Evaluate a diagonal linear recurrence over each member's frames. -/
  | rcScan (c : CoreId) (ops : BitVec 52)
  /-- RC_LCONV (R169): Evaluate a long modal convolution with near and far parts. -/
  | rcLconv (c : CoreId) (ops : BitVec 52)
  /-- RC_ANCHOR (R164): Fold offsets into anchors exactly. -/
  | rcAnchor (c : CoreId) (ops : BitVec 52)
  /-- VX_ADD (R176): Lane-wise add. -/
  | vxAdd (c : CoreId) (ops : BitVec 52)
  /-- VX_SUB (R176): Lane-wise subtract. -/
  | vxSub (c : CoreId) (ops : BitVec 52)
  /-- VX_MUL (R176): Lane-wise multiply. -/
  | vxMul (c : CoreId) (ops : BitVec 52)
  /-- VX_FMA (R176): Lane-wise fused multiply-add. -/
  | vxFma (c : CoreId) (ops : BitVec 52)
  /-- VX_MAX (R176): Lane-wise maximum. -/
  | vxMax (c : CoreId) (ops : BitVec 52)
  /-- VX_MIN (R176): Lane-wise minimum. -/
  | vxMin (c : CoreId) (ops : BitVec 52)
  /-- VX_ABS (R176): Lane-wise absolute value. -/
  | vxAbs (c : CoreId) (ops : BitVec 52)
  /-- VX_LOG (R175): Lane-wise bitwise operation. -/
  | vxLog (c : CoreId) (ops : BitVec 52)
  /-- VX_SHF (R175): Lane-wise shift. -/
  | vxShf (c : CoreId) (ops : BitVec 52)
  /-- VX_CMP (R177): Lane-wise compare into a mask register. -/
  | vxCmp (c : CoreId) (ops : BitVec 52)
  /-- VX_SEL (R175): Lane-wise select by mask. -/
  | vxSel (c : CoreId) (ops : BitVec 52)
  /-- VX_SPLAT (R175): Broadcast a scalar to every lane. -/
  | vxSplat (c : CoreId) (ops : BitVec 52)
  /-- VX_IOTA (R175): Write an ascending index sequence. -/
  | vxIota (c : CoreId) (ops : BitVec 52)
  /-- VX_CVT (R178): Convert lanes between formats by part. -/
  | vxCvt (c : CoreId) (ops : BitVec 52)
  /-- VX_FN (R179): Evaluate a transcendental function lane-wise. -/
  | vxFn (c : CoreId) (ops : BitVec 52)
  /-- VX_CMPR (R180): Compress active lanes to the bottom and count them. -/
  | vxCmpr (c : CoreId) (ops : BitVec 52)
  /-- VX_EXPD (R180): Expand packed lanes into active lanes. -/
  | vxExpd (c : CoreId) (ops : BitVec 52)
  /-- VX_PERM (R181): Permute lanes by an index vector. -/
  | vxPerm (c : CoreId) (ops : BitVec 52)
  /-- VX_RED (R182): Reduce active lanes to one 32-bit result. -/
  | vxRed (c : CoreId) (ops : BitVec 52)
  /-- VX_QNT (R187): Quantise rows at a site with scale choice, running maxima, monitoring and optional second pass. -/
  | vxQnt (c : CoreId) (ops : BitVec 52)
  /-- VX_DQ (R188): Dequantise codes to FP32 or BF16 rows. -/
  | vxDq (c : CoreId) (ops : BitVec 52)
  /-- VX_HAD (R189): Apply a Hadamard transform to each row. -/
  | vxHad (c : CoreId) (ops : BitVec 52)
  /-- VX_ROWG (R185): Gather rows through a row map. -/
  | vxRowg (c : CoreId) (ops : BitVec 52)
  /-- VX_ROWS (R185): Scatter rows through a row map, optionally filling unnamed rows. -/
  | vxRows (c : CoreId) (ops : BitVec 52)
  /-- AT_WIN (R204): Walk each member's leaf ring and compute windowed causal attention. -/
  | atWin (c : CoreId) (ops : BitVec 52)
  /-- AT_APPEND (R202): Quantise and write the gathering's keys and values into primary and mirror leaves. -/
  | atAppend (c : CoreId) (ops : BitVec 52)
  /-- AT_FREE (R208): A write to HOOPh_AT_FREE requests that a leaf be freed once its earlier pins are released. -/
  | atFree (p : Port) (h : HoopId) (leaf : BitVec 44)
  /-- AT_FREE_DONE (R208): The last earlier pin of a leaf being freed is released and busy returns to 0. -/
  | atFreeDone (h : HoopId)
  /-- PATROL_SCRUB (R217): The patrol scrub reads the next line of its pass and corrects or poisons it. -/
  | patrolScrub
  /-- RECAL_AUTO (R218): recal_period or temperature drift starts the recalibration of a pseudo-channel. -/
  | recalAuto (pc : Fin 32)
  /-- HBM_RECAL (R218): A write to HBM_RECAL requests the recalibration of one pseudo-channel. -/
  | hbmRecal (p : Port) (pc : Fin 32) (go : Bool)
  /-- RECAL_DONE (R218): Training of a pseudo-channel ends, new or old timing applies and held requests resume. -/
  | recalDone (conv : Bool)
  /-- HBM_TEMP_READOUT (R214): Every 1 ms the stack temperature is read and the refresh rate set. -/
  | hbmTempReadout (temp : BitVec 8)
  /-- TC_INVAL (R212): A write to HOOPh_TC_INVAL invalidates every tile, pinned ones at unpin. -/
  | tcInval (p : Port) (h : HoopId) (all : Bool)
  /-- DT_LOAD (R227): A write to HOOPh_DT_LOAD requests a decode-table load into a slot. -/
  | dtLoad (p : Port) (h : HoopId) (addr : BitVec 45) (slot : Fin 4)
  /-- DT_LOAD_COMPLETE (R227): The slot's in-flight count reaches 0 and the table is read, checked and loaded. -/
  | dtLoadComplete (h : HoopId)
  /-- REGISTER (R238): Binder REGISTER checks an image and gives it a binder number. -/
  | bndRegister (p : Port) (b : BitVec 12)
  /-- DEREGISTER (R238): Binder DEREGISTER frees a binder number. -/
  | bndDeregister (p : Port) (b : BitVec 12)
  /-- LOAD (R238): Binder LOAD places a binder on each hoop of the mask with its tables and site records. -/
  | bndLoad (p : Port) (b : BitVec 12)
  /-- UNLOAD (R239): Binder UNLOAD removes a binder from the masked hoops and invalidates its tiles. -/
  | bndUnload (p : Port) (b : BitVec 12)
  /-- SWAP (R240): Binder SWAP loads a successor and diverts the predecessor's folios to it at gathering boundaries. -/
  | bndSwap (p : Port) (b : BitVec 12)
  /-- PEER_READ (R241): A device serves or refuses a READ from a peer against its export table. -/
  | peerRead (src : DevNum) (seq : BitVec 16) (tag : BitVec 16) (off : BitVec 40) (len : Nat)
  /-- PEER_WRITE (R241): A device serves or refuses a WRITE from a peer, waiting for read leases. -/
  | peerWrite (src : DevNum) (seq : BitVec 16) (tag : BitVec 16) (off : BitVec 40) (dat : List Byte)
  /-- PEER_ATOMIC (R260): A device performs an indivisible add, compare-and-swap or max for a peer. -/
  | peerAtomic (src : DevNum) (seq : BitVec 16) (tag : BitVec 16) (sub : BitVec 8) (off : BitVec 40) (opa : BitVec 64) (opb : BitVec 64)
  /-- COMPLETION (R259): A completion or refusal for an outstanding transaction arrives at the requester. -/
  | completion (src : DevNum) (r : Ended)
  /-- RECALL (R243): A read lease holder receives a RECALL and releases its lease. -/
  | recall (src : DevNum) (h : FlowPos) (addr : BitVec 52)
  /-- READ_LEASE_EXPIRY (R243): A read lease reaches its time limit and waiting owner writes proceed. -/
  | readLeaseExpiry (e : Fin 256) (holder : DevNum) (page : Nat)
  /-- TRANSACTION_FORWARD (R256): A transaction for another device is forwarded by route or dropped. -/
  | transactionForward (hd : TxnHeader)
  /-- RESEND_TIMEOUT (R259): Half the transaction timeout passes unanswered and the transaction is resent. -/
  | resendTimeout (tag : BitVec 16)
  /-- TRANSACTION_TIMEOUT (R259): The full timeout passes and the requester gives up with TOILE_UNREACH or TIMEOUT. -/
  | transactionTimeout (tag : BitVec 16)
  /-- SEQ_GAP_TIMEOUT (R259): A missing sequence held past the timeout is skipped and counted in TOILE_GAP. -/
  | seqGapTimeout (src : DevNum) (cls : Fin 4)
  /-- LASER_LOSS (R245): A wavelength below 12.0 dBm for 1 µs clears laser_ok and takes the engine's links down. -/
  | laserLoss (e : Fin 8) (lane : Fin 8)
  /-- LASER_RESTORE (R245): All eight wavelengths return above 12.5 dBm and the links retrain. -/
  | laserRestore (e : Fin 8)
  /-- FLIT_RECEIVED (R249): A numbered flit is accepted in sequence or dropped with a negative acknowledgement. -/
  | flitReceived (l : LinkId) (content : BitVec 480) (crc : BitVec 32) (sym : Nat) (uncorr : Nat)
  /-- ACK_RECEIVED (R249): An acknowledgement frees covered flits from the replay buffer. -/
  | ackReceived (l : LinkId) (seq : BitVec 12) (c : Credits)
  /-- NAK_RECEIVED (R249): A negative acknowledgement makes the transmitter replay from the named sequence. -/
  | nakReceived (l : LinkId) (seq : BitVec 12)
  /-- REPLAY_TIMEOUT (R249): No acknowledgement within 4 µs plus twice the delay and the oldest flit is replayed. -/
  | replayTimeout (l : LinkId)
  /-- REPLAY_LIMIT (R249): 16 replays without progress take the link down with reason RETRY. -/
  | replayLimit (l : LinkId)
  /-- LOSS_OF_SIGNAL (R250): Loss of signal or lock on a receive lane takes the link down with reason LOS. -/
  | lossOfSignal (l : LinkId)
  /-- FEC_ERROR_LIMIT (R250): 64 uncorrectable codewords within 1 ms take the link down with reason FEC. -/
  | fecErrorLimit (l : LinkId)
  /-- LINK_ENABLE (R252): Setting or clearing FLNKl_CTRL.enable starts training or takes the link to OFF. -/
  | linkEnable (p : Port) (l : LinkId) (on : Bool)
  /-- LINK_RETRAIN (R252): A write of retrain takes the link down with reason DISABLED and restarts training. -/
  | linkRetrain (p : Port) (l : LinkId)
  /-- TRAIN_TIMEOUT (R252): A link not UP 20 ms after training starts goes down with reason TRAIN. -/
  | trainTimeout (l : LinkId)
  /-- RETRAIN_DELAY_END (R252): 100 ms after a TRAIN failure the link restarts training. -/
  | retrainDelayEnd (l : LinkId)
  /-- HELLO (R253): A peer's HELLO is checked and the link comes UP or goes down. -/
  | hello (l : LinkId) (m : HelloMsg)
  /-- TOILE_DEVNUM_WRITE (R251): A write of the device number takes effect only while every link is OFF. -/
  | toileDevnumWrite (p : Port) (v : BitVec 64)
  /-- TOILE_RT_CONFIRM (R254): A write confirms or clears a pending route entry. -/
  | toileRtConfirm (p : Port) (dev : DevNum) (accept : Bool)
  /-- TIME_EXCHANGE (R261): Every 1 ms an UP link sends TIME stamps to its peer. -/
  | timeExchange (l : LinkId)
  /-- TIME (R262): A TIME message or reply updates offset and delay and steps or slews device time. -/
  | timeMsg (l : LinkId) (m : TimeMsg)
  /-- BEAT_SEND (R263): Every 500 µs a HELLO.BEAT is sent to each watched peer. -/
  | beatSend
  /-- BEAT (R263): A HELLO.BEAT from a watched peer is received. -/
  | beat (dev : DevNum) (h : FlowPos) (epoch : BitVec 32)
  /-- BEAT_TIMEOUT (R263): No BEAT from a watched peer for 2 ms, or its route lost, declares the peer lost. -/
  | beatTimeout (dev : DevNum)
  /-- LINE_OPEN (R266): A partner receives LINE.OPEN and reserves a shadow or refuses. -/
  | lineOpen (src : DevNum) (h : FlowPos) (n : Folio) (m : LineParams)
  /-- LINE_OPEN_TIMEOUT (R266): No answer to LINE.OPEN within the timeout clears lined on the home folio. -/
  | lineOpenTimeout (n : Folio)
  /-- LINE_DELTA (R267): A partner applies a delta to its shadow, checks the CRC and acknowledges or refuses. -/
  | lineDelta (src : DevNum) (h : FlowPos) (n : Folio) (seq : BitVec 32) (next : BitVec 32) (crc : BitVec 32) (dat : List Byte)
  /-- LINE_FULL (R267): A partner replaces its shadow with a full state and acknowledges. -/
  | lineFull (src : DevNum) (h : FlowPos) (n : Folio) (seq : BitVec 32) (next : BitVec 32) (crc : BitVec 32) (dat : List Byte)
  /-- LINE_ACK (R268): The home receives a lining acknowledgement or refusal for a folio. -/
  | lineAck (src : DevNum) (h : FlowPos) (n : Folio) (seq : BitVec 32) (r : LineResult)
  /-- DELTA_RESEND (R268): ack_timeout passes without acknowledgement and the DELTA is resent. -/
  | deltaResend (n : Folio)
  /-- LINE_REL (R268): A partner records a confirmed release in rel_seq. -/
  | lineRel (src : DevNum) (h : FlowPos) (n : Folio) (seq : BitVec 32)
  /-- LINE_CLOSE (R269): A partner frees the shadow, its slot and reserved folio number. -/
  | lineClose (src : DevNum) (h : FlowPos) (n : Folio) (seq : BitVec 32)
  /-- LINE_AUDIO (R266): A partner writes a stamp entry and samples, or a base update, to the shadow ring. -/
  | lineAudio (src : DevNum) (h : FlowPos) (n : Folio) (st : StampEntry) (ssrc : BitVec 32) (ts : BitVec 32) (dat : List Byte)
  /-- REPARTNER (R268): TOILE REPARTNER sets a new lining partner for an IDLE or READY folio. -/
  | repartner (p : Port) (n : Folio) (dev : DevNum)
  /-- REJOIN (R276): TOILE REJOIN frees every folio, drops shadows and sends LEASE.JOIN. -/
  | rejoin (p : Port)
  /-- LEASE_RENEW_SEND (R271): Every 10 ms the device sends LEASE.RENEW to each quorum member. -/
  | leaseRenewSend
  /-- LEASE_RENEW (R271): A quorum member grants or refuses a renewal and updates its record. -/
  | leaseRenew (src : DevNum) (h : FlowPos) (epoch : BitVec 32) (t : BitVec 64)
  /-- LEASE_GRANT (R271): A grant or refusal reaches the requesting device and its lease expiry is recomputed. -/
  | leaseGrant (m : DevNum) (h : FlowPos) (r : LeaseReply)
  /-- GRANT_EXPIRY (R271): A member's grant expires unrenewed. -/
  | grantExpiry (m : DevNum)
  /-- LEASE_EXPIRY (R272): The device's lease expiry passes and it fences. -/
  | leaseExpiry
  /-- PROMOTE_RESEND (R273): Every 1 ms while the home stays lost the partner resends LEASE.PROMOTE. -/
  | promoteResend (x : DevNum)
  /-- LEASE_PROMOTE (R273): A quorum member grants, holds or refuses a promotion request. -/
  | leasePromote (src : DevNum) (h : FlowPos) (x : DevNum) (e : BitVec 32)
  /-- PROMOTE_HOLD_EXPIRY (R273): A held promotion reaches expiry plus 10 ms; the member revokes, raises the epoch and grants. -/
  | promoteHoldExpiry (x : DevNum)
  /-- LEASE_JOIN (R276): A quorum member receives LEASE.JOIN and answers at once or after expiry plus 10 ms. -/
  | leaseJoin (src : DevNum) (h : FlowPos) (epoch : BitVec 32)
  /-- JOIN_ANSWER_DUE (R276): A held JOIN reaches the record's expiry plus 10 ms and is answered with a new epoch. -/
  | joinAnswerDue (x : DevNum)
  /-- QUORUM_QUIET_END (R277): 60 ms after its reset a quorum member starts answering LEASE requests. -/
  | quorumQuietEnd
  /-- TOILE_QUORUM_WRITE (R278): A write of the standalone bit takes effect only while every folio is FREE. -/
  | toileQuorumWrite (p : Port) (v : BitVec 64)
  /-- LEASE_RESIGN (R339): A quorum member revokes a resigning device's epoch and acknowledges. -/
  | leaseResign (src : DevNum) (h : FlowPos) (e : BitVec 32)
  /-- TOILE_XCMD_READ (R260): Spine software issues a single READ transaction. -/
  | xcmdRead (p : Port) (len : BitVec 6)
  /-- TOILE_XCMD_WRITE (R260): Spine software issues a single WRITE transaction. -/
  | xcmdWrite (p : Port) (len : BitVec 6)
  /-- TOILE_XCMD_ADD (R260): Spine software issues an atomic add. -/
  | xcmdAdd (p : Port) (len : BitVec 6)
  /-- TOILE_XCMD_CAS (R260): Spine software issues an atomic compare-and-swap. -/
  | xcmdCas (p : Port) (len : BitVec 6)
  /-- TOILE_XCMD_MAX (R260): Spine software issues an atomic unsigned max. -/
  | xcmdMax (p : Port) (len : BitVec 6)
  /-- TAKE_READ_LEASE (R243): Spine software takes a read lease on a 4 KiB range. -/
  | takeReadLease (p : Port) (len : BitVec 6)
  /-- RELEASE_READ_LEASE (R243): Spine software releases a read lease. -/
  | releaseReadLease (p : Port) (len : BitVec 6)
  /-- SAP_START (R298): A write of start checks a port's configuration and sets pending or records err. -/
  | sapStart (p : Port) (a : SapId) (v : BitVec 64)
  /-- SAP_STOP (R299): A write of stop ends a port's data at the next frame edge. -/
  | sapStop (p : Port) (a : SapId) (v : BitVec 64)
  /-- SAP_RESTART (R294): A write of restart takes a port from RATE_STOP to RELOCK. -/
  | sapRestart (p : Port) (a : SapId) (v : BitVec 64)
  /-- AUD_GRP_START (R291): A write of a start time arms an idle alignment group or is refused. -/
  | audGrpStart (p : Port) (k : GrpId) (t : BitVec 64)
  /-- GROUP_FRAME_ZERO (R291): Device time reaches T and the group's frame 0 begins, starting pending ports. -/
  | groupFrameZero (k : GrpId)
  /-- AUD_GRP_STOP (R291): A write of stop stops the group at its next block boundary. -/
  | audGrpStop (p : Port) (k : GrpId)
  /-- GROUP_FRAME (R290): At a group frame the group reads one frame from each member port, slipping or filling as needed. -/
  | groupFrame (k : GrpId) (fr : List PortFrame)
  /-- BLOCK_COMPLETE (R292): A 64-frame block completes, is stamped and passed toward HBM for each binding. -/
  | blockComplete (k : GrpId)
  /-- PORT_BLOCK_WRITE (R301): A bound block writes its frames and stamp entry to the folio's ingress ring. -/
  | portBlockWrite (k : GrpId)
  /-- LEAD_END (R299): A master port's lead frames end and it enters RUN; its lines as they were during the lead. -/
  | leadEnd (a : SapId) (heard : List LineLevels)
  /-- TAIL_END (R299): A master port's tail frames end and its clocks stop. -/
  | tailEnd (a : SapId)
  /-- FSYNC_LOSS (R293): No FSYNC edge or preamble for 2 periods puts a port in LOST and raises CLOCK_LOST. -/
  | fsyncLoss (a : SapId)
  /-- RELOCK_DONE (R293): 256 good frames in RELOCK refill the buffer and return the port to RUN. -/
  | relockDone (a : SapId)
  /-- RATE_WINDOW (R294): Each 256-frame window measures a port's rate and stops it on a 0.5 % deviation. -/
  | rateWindow (a : SapId) (ns : Nat)
  /-- MCLK_IN_LOSS (R288): AUD_MCLK_IN shows no edge for 2 µs and the audio PLL holds over. -/
  | mclkInLoss
  /-- AUDIO_PLL_RELOCK (R288): The audio PLL relocks after its reference returns and clears holdover. -/
  | audioPllRelock
  /-- CS_BLOCK_END (R286): A 192-frame channel-status block ends and is stored or discarded. -/
  | csBlockEnd (a : SapId)
  /-- AUD_BIND (R301): Audio BIND gives a folio capture entries of one group. -/
  | audBind (p : Port) (n : Folio)
  /-- AUD_UNBIND (R301): Audio UNBIND stops a folio's port writes at the next block boundary. -/
  | audUnbind (p : Port) (n : Folio)
  /-- AUD_CH_GAIN_WRITE (R303): A gain write sets a change pending for a zero crossing. -/
  | audChGainWrite (p : Port) (ch : Fin 384) (v : BitVec 64)
  /-- AUD_CH_SRC_WRITE (R303): A route write to a bound entry sets a change pending for a zero crossing. -/
  | audChSrcWrite (p : Port) (ch : Fin 384) (v : BitVec 64)
  /-- ZC_TIMEOUT (R303): zc_timeout_ms passes and the pending change ramps in. -/
  | zcTimeout (ch : Fin 384)
  /-- RAMP_END (R303): A gain or route ramp ends and ramping clears. -/
  | rampEnd (ch : Fin 384)
  /-- AUD_OUT_ENABLE (R304): Setting or clearing an output stream's enable binds or unbinds its entries. -/
  | audOutEnable (p : Port) (o : Fin 16) (v : BitVec 64)
  /-- PRSNT_CHANGE (R306): A debounced PRSNT_N edge starts an identity read or stops the port and detaches. -/
  | prsntChange (a : SapId) (present : Bool)
  /-- MODULE_IDENTITY_READ (R321): The identity record read over the module bus completes. -/
  | moduleIdentityRead (a : SapId) (ack : Bool) (rec : List Byte)
  /-- FRAME_RECEIVED (R311): An Ethernet frame is checked, stamped and classified to a flow's jitter buffer or Spine OS. -/
  | frameReceived (e : Fin 2) (f : EthFrame)
  /-- PACKET_WRITE (R313): At playout time a held packet is written to the ring as one block. -/
  | packetWrite (f : BitVec 16)
  /-- CONCEALMENT_WRITE (R313): At playout time with no packet a block of invalid zero samples is written. -/
  | concealmentWrite (f : BitVec 16)
  /-- FRAME_TRANSMIT (R309): An Ethernet frame is sent, one-step Sync messages getting their transmit stamp. -/
  | frameTransmit (e : Fin 2) (f : TxFrame)
  /-- ETH_TIME_ADJ (R309): A write corrects device time by slewing when the device is time root or has no root. -/
  | ethTimeAdj (p : Port) (v : BitVec 64)
  /-- INGRESS_ADD (R315): ADD writes and validates a flow entry. -/
  | ingressAdd (p : Port) (f : BitVec 16)
  /-- INGRESS_DELETE (R315): DELETE clears a valid unbound flow entry. -/
  | ingressDelete (p : Port) (f : BitVec 16)
  /-- INGRESS_BIND (R315): BIND binds a flow entry to a live or shadow folio. -/
  | ingressBind (p : Port) (f : BitVec 16) (n : Folio)
  /-- INGRESS_UNBIND (R315): UNBIND stops a flow's writes and discards held packets. -/
  | ingressUnbind (p : Port) (f : BitVec 16)
  /-- PUSH (R317): A write of INGRESS_PUSH0 writes one stamp entry for software-placed samples and advances the indices. -/
  | push (p : Port) (v : BitVec 64)
  /-- I2C_WRITE (R325): A Spine write transfer on a module bus. -/
  | i2cWrite (p : Port) (g : Fin 4) (v : BitVec 64)
  /-- I2C_READ (R325): A Spine read transfer on a module bus. -/
  | i2cRead (p : Port) (g : Fin 4) (v : BitVec 64)
  /-- I2C_WRITE_READ (R325): A Spine write then read across a repeated start. -/
  | i2cWriteRead (p : Port) (g : Fin 4) (v : BitVec 64)
  /-- ENTDAA (R325): I3C dynamic address assignment to up to 4 targets. -/
  | entdaa (p : Port) (g : Fin 4) (v : BitVec 64)
  /-- BROADCAST_CCC (R325): An I3C broadcast common command code with data. -/
  | broadcastCcc (p : Port) (g : Fin 4) (v : BitVec 64)
  /-- I2C_TRANSFER_END (R325): A bus transfer ends, writing result and rcount and clearing busy. -/
  | i2cTransferEnd (g : Fin 4) (r : BusResult) (dat : List Byte)
  /-- SCL_TIMEOUT (R325): A target holding SCL low for 25 ms ends the transfer with TIMEOUT. -/
  | sclTimeout (g : Fin 4)
  /-- UART_CFG_WRITE (R326): A baud write takes effect after the character in progress. -/
  | uartCfgWrite (p : Port) (v : BitVec 64)
  /-- GET_CHALLENGE (R362): Management command returning the present challenge. -/
  | getChallenge (chal : BitVec 128)
  /-- GET_CERT (R354): Management command returning the identity certificate. -/
  | getCert (chal : BitVec 128)
  /-- ATTEST (R358): Management command returning a signed attestation report. -/
  | attest (chal : BitVec 128) (nonce : List Byte)
  /-- REG_READ (R362): Signed command reading up to 64 control registers. -/
  | regRead (q : SignedReq) (addr : BitVec 64) (cnt : Nat)
  /-- REG_WRITE (R362): Signed command writing up to 64 control registers at P1. -/
  | mgmtRegWrite (q : SignedReq) (addr : BitVec 64) (vals : List (BitVec 64))
  /-- SLOT_ERASE (R362): Signed command erasing the slot not booted except its identity region. -/
  | slotErase (q : SignedReq)
  /-- SLOT_WRITE (R362): Signed command writing up to 1,024 bytes of the slot not booted. -/
  | slotWrite (q : SignedReq) (off : SlotPlace) (dat : List Byte)
  /-- SLOT_COMMIT (R362): Signed command writing the slot header as new. -/
  | slotCommit (q : SignedReq)
  /-- COLO_RESTART (R343): Signed command restarting the Colophon, which chooses a slot again. -/
  | coloRestart (q : SignedReq)
  /-- CLAIM (R349): A vendor claim ticket writes owner_digest and makes DEPLOYED pending. -/
  | claim (chal : BitVec 128) (ticket : List Byte)
  /-- SVN_ADVANCE (R362): Signed command blowing svn_floor up to the running firmware's svn. -/
  | svnAdvance (q : SignedReq)
  /-- RETURN (R349): Signed command making RETURN pending. -/
  | returnCmd (q : SignedReq)
  /-- JTAG_UNLOCK (R363): Signed command with a token unlocking the test port until expiry. -/
  | jtagUnlock (q : SignedReq) (token : List Byte)
  /-- CHALLENGE_REFRESH (R362): Every 60 s the Colophon draws a new challenge. -/
  | challengeRefresh
  /-- JTAG_EXPIRY (R363): Device time passes the unlock expiry and the port locks. -/
  | jtagExpiry
  /-- IDCODE (R363): JTAG IDCODE returns 0x1462_0B67. -/
  | idcode
  /-- BYPASS (R363): JTAG BYPASS. -/
  | bypass (tdi : Bool)
  /-- SAMPLE_PRELOAD (R363): JTAG SAMPLE/PRELOAD, acting as BYPASS while locked. -/
  | samplePreload (pins : List Bool) (pre : List Bool)
  /-- EXTEST (R363): JTAG EXTEST, acting as BYPASS while locked. -/
  | extest (pins : List Bool)
  /-- DEBUG_ACCESS (R363): JTAG debug access to control space and memory while unlocked. -/
  | debugAccess (a : DebugOp)
  /-- ATT_REPORT (R359): SEC_ATT_CMD op 1 starts collecting a signed attestation report. -/
  | attReport (p : Port)
  /-- ATT_CERT (R359): SEC_ATT_CMD op 2 starts writing the certificate to the buffer. -/
  | attCert (p : Port)
  /-- ATT_DONE (R359): The report or certificate is written over the buffer and busy clears. -/
  | attDone
  /-- LOCKSTEP_MISMATCH (R335): A Spine pair's outputs differ and all Spine cores stop. -/
  | lockstepMismatch (pair : Fin 8)
  /-- SPINE_RESTART (R336): The Spine restarts while hoops, ingress and fabric continue. -/
  | spineRestart
  /-- SPINE_READY (R336): Spine OS reports ready and the spine readiness bit sets. -/
  | spineReady
  /-- SPINE_CARRY_TIMEOUT (R336): carry_s passes without Spine OS ready and the device retires fatally. -/
  | spineCarryTimeout
  /-- CLOCK_FAULT (R337): REFCLK loss or PLL lock loss is detected and the device retires fatally. -/
  | clockFault (k : ClockSource)
  /-- RAIL_FAULT (R367): A rail out of range for 10 µs or a falling power-good logs, retires fatally and powers down. -/
  | railFault (r : Fin 10)
  /-- RETIRE (R340): A retire write or fatal escalation stops new sections and starts retiring. -/
  | retire (p : Port)
  /-- RETIRE_FENCE (R340): In-flight sections done, the retiring device fences and sends LEASE.RESIGN. -/
  | retireFence
  /-- RESIGN_ACK (R340): A majority acknowledges RESIGN and the device stops beats and renewals. -/
  | resignAck (m : DevNum) (h : FlowPos)
  /-- RESIGN_TIMEOUT (R340): 1 ms after RESIGN the device stops beats and renewals regardless. -/
  | resignTimeout
  /-- HOOP_DRAIN (R344): Setting or clearing HOOPh_MAINT.drain starts or ends draining a hoop. -/
  | hoopDrain (p : Port) (h : HoopId) (on : Bool)
  /-- UCODE_LOAD (R344): A write of load on a drained hoop starts loading signed microcode. -/
  | ucodeLoad (p : Port) (h : HoopId)
  /-- UCODE_LOAD_DONE (R344): The verified microcode is loaded and the scheduler restarts. -/
  | ucodeLoadDone (h : HoopId)
  /-- COLOPHON_READY (R356): Colophon firmware reports ready and a trying slot is marked good. -/
  | colophonReady (provision : Bool)
  /-- COLOPHON_BOOT_WATCHDOG (R356): A trying slot's firmware fails to report ready in 3 s and the Colophon restarts. -/
  | colophonBootWatchdog
  /-- SPINE_OS_LOADED (R357): Spine OS is read, hashed and verified into HBM and the Spine starts. -/
  | spineOsLoaded
  /-- STANDBY (R370): PWR_CMD STANDBY powers the device down when permitted. -/
  | standby (p : Port)
  /-- RUN (R370): PWR_CMD RUN starts power-up from STANDBY. -/
  | run (p : Port)
  /-- DEVICE_RESET (R373): PWR_CMD device reset resets every non-always-on domain and reruns boot. -/
  | deviceReset (p : Port)
  /-- POWER_DOWN (R372): Rails switch off in reverse order and the state becomes STANDBY. -/
  | powerDown
  /-- POWER_GOOD (R371): A rail's power-good arrives and the next enable rises in sequence. -/
  | powerGood (r : Fin 8)
  /-- PG_TIMEOUT (R371): A power-good missing 3 ms after its enable is a rail fault. -/
  | pgTimeout (r : Fin 8)
  /-- HBM_TRAINED (R371): HBM interface training ends and the HBM readiness bit sets. -/
  | hbmTrained
  /-- AON_POR (R373): AON_POR_N rises, straps are sampled and boot starts; falling resets everything. -/
  | aonPor (high : Bool) (phyad : BitVec 5)
  /-- RST_N (R373): RST_N low holds the main domain in reset; its rise reruns boot. -/
  | rstN (high : Bool)
  /-- AVS_READ (R368): Every 50 µs the VDD_CORE current is read for the power loops. -/
  | avsRead (ma : AvsReading)
  /-- AVS_TIMEOUT (R368): A target not reached in 50 µs sets avs_err and restores the old target. -/
  | avsTimeout
  /-- PMBUS_POLL (R369): Every 1 ms the Colophon reads voltage and current of each mapped rail. -/
  | pmbusPoll (vals : List RailReading)
  /-- PMB_ALERT (R369): A falling PMB_ALERT_N makes the Colophon read and record regulator status. -/
  | pmbAlert (vals : List RailStatus)
  /-- PWR_ARITH_WRITE (R376): A write of the arithmetic clock target starts a DVFS change. -/
  | pwrArithWrite (p : Port) (v : BitVec 64)
  /-- DVFS_STEP (R376): Every 2 µs the arithmetic PLL steps 100 MHz toward the target. -/
  | dvfsStep
  /-- HOOP_POWER_OFF (R378): A hoop idle for idle_ms powers off, retaining its state store. -/
  | hoopPowerOff (h : HoopId)
  /-- HOOP_WAKE_GRANT (R379): The power control grants up to two queued hoop starts per 20 µs. -/
  | hoopWakeGrant
  /-- HOOP_WAKE_DONE (R379): A woken hoop's clock starts, cores restart at entry and the hoop forms sections. -/
  | hoopWakeDone (h : HoopId)
  /-- ARITH_PLL_STOP (R375): 100 ms after the last hoop powers off the arithmetic PLL stops. -/
  | arithPllStop
  /-- THERMAL_SAMPLE (R380): Every 100 µs the sensors are read and warnings, throttling or trips applied. -/
  | thermalSample (temps : List (BitVec 8))
  /-- POWER_CAP_TICK (R381): The slow power-cap loop adjusts the cap duty every 1 ms. -/
  | powerCapTick
  /-- OSCILLATOR_TRIM (R375): Once per second the always-on oscillator is trimmed against the RTC crystal. -/
  | oscillatorTrim (edge : Bool)
  /-- PWR_RTC_WRITE (R373): A write of PWR_RTC takes effect only in STANDBY. -/
  | pwrRtcWrite (p : Port) (v : BitVec 64)
  /-- LANE_LOCK (R252): The receive lanes of a training link lock their clocks, find codeword alignment from the markers and are deskewed. -/
  | laneLock (l : LinkId)
  /-- LINK_START (R252): The link-start control flits of the peer arrive and both sequence counters reset to 0, letting the link go on to the TIME exchange and HELLO. -/
  | linkStart (l : LinkId)
  /-- SLAVE_FRAME (R290): A slave or IEC receiving port takes one complete frame on its own clock into its elastic buffer, entering RELOCK from LOST when edges return and counting good frames; the frame took a period in picoseconds. -/
  | slaveFrame (a : SapId) (fr : PortFrame) (ps : Nat)
  /-- AUDIO_PLL_LOCK (R375): The audio PLL locks about 5 ms after AUD_PLL_CFG.enable is set, and the SAP readiness bits set. -/
  | audioPllLock
  /-- ETH_LINK_CHANGE (R308): An enabled Ethernet port's PCS aligns or loses alignment, changing ETHe_STAT.link and its COLO_READY bit. -/
  | ethLinkChange (e : Fin 2) (up : Bool)
  /-- PHY_LINK_CHANGE (R318): The management PHY's link comes up or goes down, setting or clearing the management readiness bit. -/
  | phyLinkChange (up : Bool)
  /-- UART_RECEIVE (R320): A character arrives on UART_RX and is taken, or rx_overrun or framing_err is set. -/
  | uartReceive (b : Byte) (stop : Bool) (taken : Bool)
  /-- ENGINE_INSTRUCTION_COMPLETE (R107): An instruction dispatched to an engine finishes executing, releasing interlocks and pins and raising any deferred fault state. -/
  | engineInstructionComplete (c : CoreId) (e : Engine)
  /-- READ_LEASE_REQUEST (R243): A serving device receives a peer's request to take or release a read lease on a 4 KiB range, granting or refusing it and freeing waiting owner writes on release. -/
  | readLeaseRequest (src : DevNum) (h : FlowPos) (addr : BitVec 40) (take : Bool)
  /-- MEMORY_WRITE (R21): The Spine, the Colophon or a debug initiator writes the local address space, taking effect or being refused for holes and the read-only folio directory. -/
  | memoryWrite (p : Port) (addr : BitVec 40) (dat : List Byte)
  /-- ENGINE_SWITCH_OFF (R366): An optical engine switches off its supply 1 ms after the last of its links has enable cleared. -/
  | engineSwitchOff (e : Fin 8)
  /-- LEAD_START (R299): A pending master port begins its clock lead CLK_LEAD frames before the group's start time T. -/
  | leadStart (a : SapId)
  /-- ETH_TIME_FREQ (R309): A write of the frequency trim disciplines device time while the device is time root or has no root, and is ignored otherwise. -/
  | ethTimeFreq (p : Port) (v : BitVec 64)
deriving DecidableEq, Repr

end Sys2Proof
end

