-- ==== Sys2Proof/Machine/Number.lean ====
section
/-! DEFINITION. Number formats and their arithmetic (R69 to R74): exact dyadic values, reading under R73, rounding to
nearest with ties to even, saturation with its count, FP32 subnormals as zero. -/
namespace Sys2Proof.Machine

/-- An exact value (-1)^neg * m * 2^e. `inf` marks the largest finite value that an infinite operand is taken as, and exact
products with it: 0 times such a value is the 0 × ∞ of R73. -/
structure Dy where
  neg : Bool
  m : Nat
  e : Int
  inf : Bool := false
deriving DecidableEq, Repr

/-- A group sum of the array that failed its residue check: row, column and group, and whether its re-run failed too
(R148, R149). -/
structure Slip where
  m : Nat
  n : Nat
  g : Nat
  again : Bool
deriving DecidableEq, Repr

/-- Counts that arithmetic raises: saturated elements, NaNs replaced (R74), limited decays, and failed residue checks. -/
structure Cnt where
  sat : Nat := 0
  nan : Nat := 0
  /-- decays and poles limited (R160) -/
  clamp : Nat := 0
  /-- failed residue checks, oldest first -/
  slips : List Slip := []
deriving DecidableEq, Repr

/-- A computation that counts. -/
abbrev NM := StateM Cnt

/-- Count one saturation. -/
def satTick : NM Unit := modify (fun c => { c with sat := c.sat + 1 })

/-- Count one NaN. -/
def nanTick : NM Unit := modify (fun c => { c with nan := c.nan + 1 })

/-- Note a failed residue check. -/
def slipTick (x : Slip) : NM Unit := modify (fun c => { c with slips := c.slips ++ [x] })

/-- A binary floating-point format: exponent bits, fraction bits, bias, bits of the largest finite magnitude, and
whether subnormals are flushed. -/
structure Fmt where
  eb : Nat
  fb : Nat
  bias : Nat
  maxBits : Nat
  flush : Bool
deriving DecidableEq, Repr

/-- FP8 E4M3: no infinity; 0b1111_111 is NaN (R70). -/
def fp8 : Fmt := ⟨4, 3, 7, 0x7E, false⟩
def fp16 : Fmt := ⟨5, 10, 15, 0x7BFF, false⟩
def bf16 : Fmt := ⟨8, 7, 127, 0x7F7F, false⟩
/-- FP32: subnormals read and written as zero (R70). -/
def fp32 : Fmt := ⟨8, 23, 127, 0x7F7FFFFF, true⟩

/-- The positive zero. -/
def Dy.zero : Dy := { neg := false, m := 0, e := 0 }

/-- An integer as a value. -/
def Dy.ofInt (i : Int) : Dy := { neg := decide (i < 0), m := i.natAbs, e := 0 }

/-- The sign bit of a pattern. -/
def Fmt.sign (F : Fmt) (b : Nat) : Bool := b.testBit (F.eb + F.fb)

/-- The value of a finite pattern. -/
def Fmt.val (F : Fmt) (b : Nat) : Dy :=
  let ex := b / 2 ^ F.fb % 2 ^ F.eb
  let fr := b % 2 ^ F.fb
  if ex = 0 then
    if F.flush then { neg := F.sign b, m := 0, e := 0 } else { neg := F.sign b, m := fr, e := 1 - (F.bias : Int) - F.fb }
  else { neg := F.sign b, m := 2 ^ F.fb + fr, e := (ex : Int) - F.bias - F.fb }

/-- A pattern without its sign. -/
def Fmt.mag (F : Fmt) (b : Nat) : Nat := b % 2 ^ (F.eb + F.fb)

/-- The pattern of an infinity of the format, if it has one. -/
def Fmt.isInf (F : Fmt) (b : Nat) : Bool := F.fb != 3 && F.mag b == (2 ^ F.eb - 1) * 2 ^ F.fb

/-- A NaN pattern. -/
def Fmt.isNan (F : Fmt) (b : Nat) : Bool := decide (F.maxBits < F.mag b) && !F.isInf b

/-- Read a pattern as a number (R73): an infinity is the largest finite value and counts one saturation, a NaN is +0
and counts one NaN. -/
def Fmt.read (F : Fmt) (b : Nat) : NM Dy :=
  if F.isInf b then do satTick; pure { F.val F.maxBits with neg := F.sign b, inf := true }
  else if F.isNan b then do nanTick; pure Dy.zero
  else pure (F.val b)

/-- m * 2^e as a multiple of 2^q, rounded to nearest with ties to even. -/
def rneShift (m : Nat) (e q : Int) : Nat :=
  if q ≤ e then m * 2 ^ (e - q).toNat
  else
    let d := (q - e).toNat
    let lo := m % 2 ^ d
    let hi := m / 2 ^ d
    if 2 * lo < 2 ^ d then hi else if 2 ^ d < 2 * lo then hi + 1 else hi + hi % 2

/-- m * 2^e as a multiple of 2^q, rounded up. -/
def upShift (m : Nat) (e q : Int) : Nat :=
  if q ≤ e then m * 2 ^ (e - q).toNat else (m + 2 ^ (q - e).toNat - 1) / 2 ^ (q - e).toNat

/-- m * 2^e as a multiple of 2^q, rounded down. -/
def downShift (m : Nat) (e q : Int) : Nat := if q ≤ e then m * 2 ^ (e - q).toNat else m / 2 ^ (q - e).toNat

/-- The magnitude pattern of m * 2^e under a rounding, before saturation. -/
def Fmt.pattern (F : Fmt) (rnd : Nat → Int → Int → Nat) (m : Nat) (e : Int) : Nat :=
  if m = 0 then 0
  else
    let top : Int := e + m.log2
    let q : Int := max (top - F.fb) (1 - (F.bias : Int) - F.fb)
    let r := rnd m e q
    if r < 2 ^ F.fb then r
    else
      let ex : Nat := (q + F.fb + F.bias).toNat
      ex * 2 ^ F.fb + (r - 2 ^ F.fb)

/-- Round to the format (R71, R72): saturates at the largest magnitude and counts; an FP32 subnormal is a zero. -/
def Fmt.round (F : Fmt) (d : Dy) : NM Nat :=
  let p := F.pattern rneShift d.m d.e
  let sg := if d.neg then 2 ^ (F.eb + F.fb) else 0
  if F.maxBits < p then do satTick; pure (sg + F.maxBits)
  else if F.flush ∧ p < 2 ^ F.fb then pure sg
  else pure (sg + p)

/-- Round to FP32 and take the value (fl32 of R77). -/
def fl32 (d : Dy) : NM Dy := do let b ← fp32.round d; pure (fp32.val b)

/-- The FP32 pattern of a value that FP32 holds exactly. -/
def bits32 (d : Dy) : Nat := ((fp32.round d).run {}).1

/-- Round up to FP16, toward the larger value (R84 to R87), saturating at 65,504 of either sign. -/
def roundUp16 (d : Dy) : NM Nat :=
  let p := fp16.pattern (if d.neg then downShift else upShift) d.m d.e
  let sg := if d.neg then 2 ^ 15 else 0
  if fp16.maxBits < p then do satTick; pure (sg + fp16.maxBits) else pure (sg + p)

/-! ### Exact arithmetic -/

def Dy.mul (a b : Dy) : Dy := { neg := a.neg != b.neg, m := a.m * b.m, e := a.e + b.e, inf := a.inf || b.inf }

/-- The signed integer of a value at exponent q at most its own. -/
def Dy.at (a : Dy) (q : Int) : Int :=
  let v : Int := a.m * 2 ^ (a.e - q).toNat
  if a.neg then -v else v

def Dy.add (a b : Dy) : Dy :=
  if a.m = 0 ∧ b.m = 0 then { neg := a.neg && b.neg, m := 0, e := 0 }
  else
    let q := min a.e b.e
    let v := a.at q + b.at q
    { neg := decide (v < 0), m := v.natAbs, e := q }

def Dy.negate (a : Dy) : Dy := { a with neg := !a.neg }

def Dy.sub (a b : Dy) : Dy := a.add b.negate

def Dy.abs (a : Dy) : Dy := { a with neg := false }

/-- a < b. -/
def Dy.lt (a b : Dy) : Bool := let q := min a.e b.e; decide (a.at q < b.at q)

def Dy.le (a b : Dy) : Bool := !b.lt a

def Dy.max (a b : Dy) : Dy := if a.lt b then b else a

def Dy.min (a b : Dy) : Dy := if b.lt a then b else a

/-- A value times 2^k. -/
def Dy.scale (a : Dy) (k : Int) : Dy := { a with e := a.e + k }

/-- The quotient with 66 or more significant bits and a sticky last bit; b is not zero. -/
def Dy.quot (a b : Dy) : Dy :=
  let k := 66 + b.m.log2 - a.m.log2
  let n := a.m * 2 ^ k
  { neg := a.neg != b.neg, m := n / b.m * 2 + (if n % b.m = 0 then 0 else 1), e := a.e - b.e - k - 1 }

/-- A product: 0 times an infinite operand, finite though that has been made, is +0 and counts a NaN (R73). -/
def mulNM (a b : Dy) : NM Dy :=
  if (a.inf && b.m == 0) || (b.inf && a.m == 0) then do nanTick; pure Dy.zero else pure (a.mul b)

/-- A sum: of infinite operands of opposite signs, +0, with a NaN counted (R73; DEDUCED, log entry 93). -/
def addNM (a b : Dy) : NM Dy :=
  if a.inf && b.inf && a.neg != b.neg then do nanTick; pure Dy.zero else pure (a.add b)

/-- Division under R72 and R73: 0 / 0 is +0 and counts a NaN, as is the quotient of two infinite operands (DEDUCED, log entry
93); x / 0 is the largest magnitude and counts a saturation. -/
def divNM (F : Fmt) (a b : Dy) : NM Dy :=
  if a.inf && b.inf then do nanTick; pure Dy.zero
  else if b.m = 0 then
    if a.m = 0 then do nanTick; pure Dy.zero
    else do satTick; pure { F.val F.maxBits with neg := a.neg != b.neg }
  else if a.m = 0 then pure { neg := a.neg != b.neg, m := 0, e := 0 } else pure (a.quot b)

/-- The square root of a magnitude with a sticky last bit. -/
def Dy.sqrt (a : Dy) : Dy :=
  let sh : Nat := 2 * 70 + (if a.e % 2 = 0 then 0 else 1)
  let n := a.m * 2 ^ sh
  let r := Nat.sqrt n
  { neg := false, m := r * 2 + (if r * r = n then 0 else 1), e := (a.e - sh) / 2 - 1 }

/-- Round to the nearest integer, ties to even. -/
def Dy.rne (a : Dy) : Int :=
  let r : Int := rneShift a.m a.e 0
  if a.neg then -r else r

/-- Floor. -/
def Dy.floor (a : Dy) : Int := if 0 ≤ a.e then a.at 0 else (if a.neg then -(a.m : Int) else a.m) / 2 ^ (-a.e).toNat

/-- Clamp an integer, counting a saturation (R72). -/
def clampNM (lo hi x : Int) : NM Int :=
  if x < lo then do satTick; pure lo else if hi < x then do satTick; pure hi else pure x

/-! ### Element formats (Table 3-1) -/

/-- Bits of an element of a format code. -/
def elemBits (f : Nat) : Nat :=
  if f ≤ 2 then 4 else if f ≤ 5 then 8 else if f = 6 ∨ f = 7 ∨ f = 9 then 16 else 32

/-- The floating-point format of codes 0x5 to 0x8. -/
def floatFmt (f : Nat) : Option Fmt :=
  if f = 5 then some fp8 else if f = 6 then some fp16 else if f = 7 then some bf16 else if f = 8 then some fp32 else none

/-- A code as a signed integer of w bits. -/
def sext (w v : Nat) : Int := if v % 2 ^ w < 2 ^ (w - 1) then (v % 2 ^ w : Nat) else ((v % 2 ^ w : Nat) : Int) - 2 ^ w

/-- An integer as a w-bit code. -/
def code (w : Nat) (x : Int) : Nat := (x % 2 ^ w).toNat

/-- Range of the codes of an integer format that a conversion may write (Table 3-1, R72). -/
def intRange (f : Nat) : Int × Int :=
  if f = 0 then (-8, 7) else if f = 1 then (-7, 7) else if f = 2 then (0, 15) else if f = 3 then (-128, 127)
  else if f = 4 then (0, 255) else if f = 9 then (-32768, 32767) else (-2147483648, 2147483647)

/-- The integer that an element of an integer format holds. -/
def elemInt (f v : Nat) : Int := if f = 2 then (v % 16 : Nat) else if f = 4 then (v % 256 : Nat) else sext (elemBits f) v

/-- The number an element holds, read under R73. -/
def readElem (f v : Nat) : NM Dy :=
  match floatFmt f with
  | some F => F.read (v % 2 ^ elemBits f)
  | none => pure (Dy.ofInt (elemInt f v))

/-- A padding field converted to a format (Table 4-5): BF16 for the floating formats, a 16-bit integer for the
others. -/
def padElem (f pad : Nat) : NM Nat :=
  match floatFmt f with
  | some F => do let d ← bf16.read pad; F.round d
  | none => do let (lo, hi) := intRange f; let x ← clampNM lo hi (sext 16 pad); pure (code (elemBits f) x)

end Sys2Proof.Machine
end

