-- ==== Sys2Proof/Machine/Codec.lean ====
section
/-! DEFINITION. Check codes and the coding of lining deltas (R222, R248, R265). -/
namespace Sys2Proof.Machine

/-- One bit of a reflected CRC-32 with polynomial `poly`. -/
def crcBit (poly : BitVec 32) (c : BitVec 32) : BitVec 32 :=
  if c.getLsbD 0 then (c >>> 1) ^^^ poly else c >>> 1

/-- One byte of a reflected CRC-32. -/
def crcByte (poly : BitVec 32) (c : BitVec 32) (b : Byte) : BitVec 32 :=
  (List.range 8).foldl (fun c _ => crcBit poly c) (c ^^^ b.setWidth 32)

/-- A reflected CRC-32 over bytes, initial value and final inversion all ones. -/
def crc (poly : BitVec 32) (l : List Byte) : BitVec 32 := ~~~ (l.foldl (crcByte poly) 0xFFFFFFFF)

/-- CRC-32C, polynomial 0x1EDC_6F41 (R248). -/
def crc32c (l : List Byte) : BitVec 32 := crc 0x82F63B78 l

/-- CRC-32 of IEEE 802.3 (R222). -/
def crc32 (l : List Byte) : BitVec 32 := crc 0xEDB88320 l

/-- Bits of a list of Booleans as bytes, least significant bit first. -/
def packBits (l : List Bool) : List Byte :=
  (List.range ((l.length + 7) / 8)).map (fun k =>
    BitVec.ofNat 8 (((l.drop (8 * k)).take 8).foldr (fun b v => b.toNat + 2 * v) 0))

/-- 64-byte lines of a list, each filled with zeros. -/
def lines64 (l : List Byte) : List (List Byte) :=
  (List.range ((l.length + 63) / 64)).map (fun k =>
    let x := (l.drop (64 * k)).take 64
    x ++ List.replicate (64 - x.length) 0)

/-- The coded XOR delta of two states (R265): a bitmap of lines, then for each set line a byte mask and the non-zero
bytes. -/
def encodeDelta (old new : List Byte) : List Byte :=
  let x := List.zipWith (· ^^^ ·) old new
  let ls := lines64 x
  let setL (l : List Byte) : Bool := l.any (· != 0)
  packBits (ls.map setL) ++ ls.flatMap (fun l =>
    if setL l then packBits (l.map (· != 0)) ++ l.filter (· != 0) else [])

/-- Bit k of packed bytes. -/
def bitAt (l : List Byte) (k : Nat) : Bool := (l.getD (k / 8) 0).getLsbD (k % 8)

/-- Apply a byte mask: the masked bytes of a line are XORed with the next bytes of the code. -/
def applyMask (mask : List Byte) : Nat → List Byte → List Byte → List Byte × List Byte
  | _, [], cs => ([], cs)
  | k, b :: bs, cs =>
    if bitAt mask k then
      let (r, cs') := applyMask mask (k + 1) bs cs.tail
      ((b ^^^ cs.headD 0) :: r, cs')
    else
      let (r, cs') := applyMask mask (k + 1) bs cs
      (b :: r, cs')

/-- Apply a delta's lines from line k on. -/
def applyLines (bitmap : List Byte) : Nat → List (List Byte) → List Byte → List Byte
  | _, [], _ => []
  | k, l :: ls, cs =>
    if bitAt bitmap k then
      let (r, cs') := applyMask (cs.take 8) 0 l (cs.drop 8)
      r ++ applyLines bitmap (k + 1) ls cs'
    else l ++ applyLines bitmap (k + 1) ls cs

/-- The state that a coded delta makes of a copy of S bytes (R265). -/
def applyDelta (copy delta : List Byte) : List Byte :=
  let n := ((copy.length + 63) / 64 + 7) / 8
  (applyLines (delta.take n) 0 (lines64 copy) (delta.drop n)).take copy.length

end Sys2Proof.Machine
end

