-- ==== Sys2Proof/Config.lean ====
section
/-! DEFINITION. What the spec leaves open: free values, and functions of the device that it bounds without fixing them.
None has a body: nothing can be proved of the value it takes. -/
namespace Sys2Proof.Config

/-- A value the spec leaves open, selected by the counter `free` of State. -/
opaque freeValue : Nat → BitVec 64

/-- How far the device's result of a function lies from the exact one, as a fraction of the bound in units of 2^-63, by
function and operand: sign, significand, exponent (R160, R165, R179, R206). -/
opaque deviation : Nat → Bool → Nat → Int → BitVec 64
/-- Where a run of FP32 terms is split for summing, among the places that a tree of the fewest levels allows: the
association order, which the spec does not fix (R162, R93, R206). Arguments: terms in all, first and last term of the run. -/
opaque split : Nat → Nat → Nat → Nat
/-- Whether an output sample that the fade makes no whole word is taken up or down (R305): frame, frames, word. -/
opaque fadeUp : Nat → Nat → BitVec 32 → Bool
/-- Whether a playout time that is no whole number of ns is taken up or down (R312): ns times fs, and fs. -/
opaque playUp : Int → Nat → Bool
/-- What the fused VDD_CORE voltage adds, in mV, at a frequency of 100 MHz units, 4 to 13 (R376). -/
opaque vStep : Nat → Nat
/-- The power-cap duty that brings P to peak_w, by the duty and P when it is exceeded (R381). -/
opaque capFall : Nat → Nat → Nat
/-- What a hoop's activity limiter takes off its duty, modulo 16, by device time and hoop (R379). -/
opaque limiter : Nat → Nat → Nat
/-- Whether the expander of a hoop waits for input at a device time, by time and hoop (R230). -/
opaque inputLate : Nat → Nat → Bool
/-- A tap of the PDM filters, signed, in units of 2^-24, by the CIC ratio, the stage and its distance from the centre tap: the
spec bounds the response of the chain and gives no tap (R283, R284). -/
opaque pdmTap : Nat → Nat → Nat → BitVec 24
/-- Whether a filter output that is no whole number is taken up or down (R283): numerator and denominator. -/
opaque pdmUp : Int → Nat → Bool
/-- What the device's own hardware takes from n bytes of HBM at an address whose line holds no valid data (R216). -/
opaque badRead : Nat → Nat → Nat
/-- Whether a raw 4-bit tensor at a Toile address has a side area although R220's place for it is none that its reader may read:
no field of a descriptor says it (R220, log entry 72). -/
opaque sideArea : Nat → Bool
/-- The bits of a flit whose layout the spec does not give (R248, log entry 78): tag, time and place in its transaction. -/
opaque flitBits : Nat → Nat → Nat → BitVec 480
/-- The characters that the Spine OS console sends at a ns of device time (R320). -/
opaque console : Nat → List (BitVec 8)
/-- The characters of the Colophon's boot record, which the spec does not give, by the free-value counter (R320). -/
opaque bootRecord : Nat → List (BitVec 8)

end Sys2Proof.Config
end

