-- ==== Sys2Proof/Machine/RegMap.lean ====
section
/-! DEFINITION. The register map: every register family of the control space with its address, strides, reset
condition and fields, as the register tables of the chapters give them (R5, R26). -/
namespace Sys2Proof.Machine

/-- Register field types (R5, Table 0-4). -/
inductive FldKind where | rw | ro | w1c | wo | sat
deriving DecidableEq, Repr

/-- A register field of a family: the address of instance (i, j) is base + s1 * i + s2 * j; the field is bits
[lo + width - 1 : lo]; rst is its reset value. -/
structure Fld where
  base : Nat
  s1 : Nat
  s2 : Nat
  lo : Nat
  width : Nat
  rst : Nat
  kind : FldKind
deriving DecidableEq, Repr

/-- A register family: n1 by n2 registers of one layout. powerUp: reset by power-up only, not by device reset. -/
structure Fam where
  base : Nat
  s1 : Nat
  n1 : Nat
  s2 : Nat
  n2 : Nat
  powerUp : Bool
  flds : List Fld
deriving DecidableEq, Repr

namespace R

def FOL_CMD_op : Fld := ⟨0xf000200000, 0x0, 0x0, 0, 4, 0, .wo⟩
def FOL_CMD_folio : Fld := ⟨0xf000200000, 0x0, 0x0, 4, 20, 0, .wo⟩
/-- FOL_CMD (02_folios.md). -/
def FOL_CMD : Fam := ⟨0xf000200000, 0x0, 1, 0x0, 1, false, [FOL_CMD_op, FOL_CMD_folio]⟩
def FOL_ARG0_binder : Fld := ⟨0xf000200008, 0x0, 0x0, 0, 12, 0, .rw⟩
def FOL_ARG0_hoop : Fld := ⟨0xf000200008, 0x0, 0x0, 12, 4, 0, .rw⟩
def FOL_ARG0_hoop_auto : Fld := ⟨0xf000200008, 0x0, 0x0, 16, 1, 0, .rw⟩
def FOL_ARG0_lined : Fld := ⟨0xf000200008, 0x0, 0x0, 17, 1, 0, .rw⟩
def FOL_ARG0_partner : Fld := ⟨0xf000200008, 0x0, 0x0, 18, 12, 0, .rw⟩
def FOL_ARG0_egress : Fld := ⟨0xf000200008, 0x0, 0x0, 30, 4, 0, .rw⟩
/-- FOL_ARG0 (02_folios.md). -/
def FOL_ARG0 : Fam := ⟨0xf000200008, 0x0, 1, 0x0, 1, false, [FOL_ARG0_binder, FOL_ARG0_hoop, FOL_ARG0_hoop_auto, FOL_ARG0_lined, FOL_ARG0_partner, FOL_ARG0_egress]⟩
def FOL_ARG1_state_page : Fld := ⟨0xf000200010, 0x0, 0x0, 0, 52, 0, .rw⟩
/-- FOL_ARG1 (02_folios.md). -/
def FOL_ARG1 : Fam := ⟨0xf000200010, 0x0, 1, 0x0, 1, false, [FOL_ARG1_state_page]⟩
def FOL_ARG2_ring_base : Fld := ⟨0xf000200018, 0x0, 0x0, 0, 40, 0, .rw⟩
def FOL_ARG2_ring_log2 : Fld := ⟨0xf000200018, 0x0, 0x0, 40, 5, 0, .rw⟩
/-- FOL_ARG2 (02_folios.md). -/
def FOL_ARG2 : Fam := ⟨0xf000200018, 0x0, 1, 0x0, 1, false, [FOL_ARG2_ring_base, FOL_ARG2_ring_log2]⟩
def FOL_STATUS_busy : Fld := ⟨0xf000200020, 0x0, 0x0, 0, 1, 0, .ro⟩
def FOL_STATUS_result : Fld := ⟨0xf000200020, 0x0, 0x0, 8, 8, 0, .ro⟩
def FOL_STATUS_folio : Fld := ⟨0xf000200020, 0x0, 0x0, 16, 20, 0, .ro⟩
/-- FOL_STATUS (02_folios.md). -/
def FOL_STATUS : Fam := ⟨0xf000200020, 0x0, 1, 0x0, 1, false, [FOL_STATUS_busy, FOL_STATUS_result, FOL_STATUS_folio]⟩
def FOL_RING_BASE_base : Fld := ⟨0xf000200028, 0x0, 0x0, 0, 40, 0, .rw⟩
/-- FOL_RING_BASE (02_folios.md). -/
def FOL_RING_BASE : Fam := ⟨0xf000200028, 0x0, 1, 0x0, 1, false, [FOL_RING_BASE_base]⟩
def FOL_EVT_BASE_base : Fld := ⟨0xf000200030, 0x0, 0x0, 0, 40, 0, .rw⟩
def FOL_EVT_BASE_log2 : Fld := ⟨0xf000200030, 0x0, 0x0, 40, 5, 0, .rw⟩
def FOL_EVT_BASE_enable : Fld := ⟨0xf000200030, 0x0, 0x0, 45, 1, 0, .rw⟩
def FOL_EVT_BASE_irq : Fld := ⟨0xf000200030, 0x0, 0x0, 46, 1, 0, .rw⟩
/-- FOL_EVT_BASE (02_folios.md). -/
def FOL_EVT_BASE : Fam := ⟨0xf000200030, 0x0, 1, 0x0, 1, false, [FOL_EVT_BASE_base, FOL_EVT_BASE_log2, FOL_EVT_BASE_enable, FOL_EVT_BASE_irq]⟩
def FOL_EVT_WR_index : Fld := ⟨0xf000200038, 0x0, 0x0, 0, 32, 0, .ro⟩
/-- FOL_EVT_WR (02_folios.md). -/
def FOL_EVT_WR : Fam := ⟨0xf000200038, 0x0, 1, 0x0, 1, false, [FOL_EVT_WR_index]⟩
def FOL_EVT_RD_index : Fld := ⟨0xf000200040, 0x0, 0x0, 0, 32, 0, .rw⟩
/-- FOL_EVT_RD (02_folios.md). -/
def FOL_EVT_RD : Fam := ⟨0xf000200040, 0x0, 1, 0x0, 1, false, [FOL_EVT_RD_index]⟩
def FOL_EVT_MASK_mask : Fld := ⟨0xf000200048, 0x0, 0x0, 1, 21, 0, .rw⟩
/-- FOL_EVT_MASK (02_folios.md). -/
def FOL_EVT_MASK : Fam := ⟨0xf000200048, 0x0, 1, 0x0, 1, false, [FOL_EVT_MASK_mask]⟩
def FOL_EVT_DROPPED_count : Fld := ⟨0xf000200050, 0x0, 0x0, 0, 33, 0, .sat⟩
/-- FOL_EVT_DROPPED (02_folios.md). -/
def FOL_EVT_DROPPED : Fam := ⟨0xf000200050, 0x0, 1, 0x0, 1, false, [FOL_EVT_DROPPED_count]⟩
def FOL_EVTCNT_count : Fld := ⟨0xf000200408, 0x8, 0x0, 0, 33, 0, .sat⟩
/-- FOL_EVTCNT (02_folios.md). -/
def FOL_EVTCNT : Fam := ⟨0xf000200408, 0x8, 21, 0x0, 1, false, [FOL_EVTCNT_count]⟩
def FOL_EGR_BASE_base : Fld := ⟨0xf000200100, 0x20, 0x0, 0, 40, 0, .rw⟩
def FOL_EGR_BASE_log2 : Fld := ⟨0xf000200100, 0x20, 0x0, 40, 5, 0, .rw⟩
def FOL_EGR_BASE_enable : Fld := ⟨0xf000200100, 0x20, 0x0, 45, 1, 0, .rw⟩
def FOL_EGR_BASE_irq : Fld := ⟨0xf000200100, 0x20, 0x0, 46, 1, 0, .rw⟩
/-- FOL_EGR_BASE (02_folios.md). -/
def FOL_EGR_BASE : Fam := ⟨0xf000200100, 0x20, 16, 0x0, 1, false, [FOL_EGR_BASE_base, FOL_EGR_BASE_log2, FOL_EGR_BASE_enable, FOL_EGR_BASE_irq]⟩
def FOL_EGR_WR_index : Fld := ⟨0xf000200108, 0x20, 0x0, 0, 32, 0, .ro⟩
/-- FOL_EGR_WR (02_folios.md). -/
def FOL_EGR_WR : Fam := ⟨0xf000200108, 0x20, 16, 0x0, 1, false, [FOL_EGR_WR_index]⟩
def FOL_EGR_RD_index : Fld := ⟨0xf000200110, 0x20, 0x0, 0, 32, 0, .rw⟩
/-- FOL_EGR_RD (02_folios.md). -/
def FOL_EGR_RD : Fam := ⟨0xf000200110, 0x20, 16, 0x0, 1, false, [FOL_EGR_RD_index]⟩
def FOL_EGR_STALL_count : Fld := ⟨0xf000200118, 0x20, 0x0, 0, 33, 0, .sat⟩
/-- FOL_EGR_STALL (02_folios.md). -/
def FOL_EGR_STALL : Fam := ⟨0xf000200118, 0x20, 16, 0x0, 1, false, [FOL_EGR_STALL_count]⟩
def HOOP_SCHED_STAT_ready : Fld := ⟨0xf001000800, 0x100000, 0x0, 0, 11, 0, .ro⟩
def HOOP_SCHED_STAT_busy_slots : Fld := ⟨0xf001000800, 0x100000, 0x0, 11, 4, 0, .ro⟩
def HOOP_SCHED_STAT_fenced : Fld := ⟨0xf001000800, 0x100000, 0x0, 15, 1, 0, .ro⟩
/-- HOOP_SCHED_STAT (02_folios.md). -/
def HOOP_SCHED_STAT : Fam := ⟨0xf001000800, 0x100000, 16, 0x0, 1, false, [HOOP_SCHED_STAT_ready, HOOP_SCHED_STAT_busy_slots, HOOP_SCHED_STAT_fenced]⟩
def HOOP_SECTIONS_count : Fld := ⟨0xf001000808, 0x100000, 0x0, 0, 33, 0, .sat⟩
/-- HOOP_SECTIONS (02_folios.md). -/
def HOOP_SECTIONS : Fam := ⟨0xf001000808, 0x100000, 16, 0x0, 1, false, [HOOP_SECTIONS_count]⟩
def HOOP_ABANDONED_count : Fld := ⟨0xf001000810, 0x100000, 0x0, 0, 33, 0, .sat⟩
/-- HOOP_ABANDONED (02_folios.md). -/
def HOOP_ABANDONED : Fam := ⟨0xf001000810, 0x100000, 16, 0x0, 1, false, [HOOP_ABANDONED_count]⟩
def HOOP_DROPPED_count : Fld := ⟨0xf001000818, 0x100000, 0x0, 0, 33, 0, .sat⟩
/-- HOOP_DROPPED (02_folios.md). -/
def HOOP_DROPPED : Fam := ⟨0xf001000818, 0x100000, 16, 0x0, 1, false, [HOOP_DROPPED_count]⟩
def HOOP_LATE_count : Fld := ⟨0xf001000820, 0x100000, 0x0, 0, 33, 0, .sat⟩
/-- HOOP_LATE (02_folios.md). -/
def HOOP_LATE : Fam := ⟨0xf001000820, 0x100000, 16, 0x0, 1, false, [HOOP_LATE_count]⟩
def HOOP_EMIT_DROP_count : Fld := ⟨0xf001000828, 0x100000, 0x0, 0, 33, 0, .sat⟩
/-- HOOP_EMIT_DROP (02_folios.md). -/
def HOOP_EMIT_DROP : Fam := ⟨0xf001000828, 0x100000, 16, 0x0, 1, false, [HOOP_EMIT_DROP_count]⟩
def CORE_NUM_SAT_count : Fld := ⟨0xf002003000, 0x10000, 0x0, 0, 33, 0, .sat⟩
/-- CORE_NUM_SAT (03_numbers.md). -/
def CORE_NUM_SAT : Fam := ⟨0xf002003000, 0x10000, 128, 0x0, 1, false, [CORE_NUM_SAT_count]⟩
def CORE_NUM_NAN_count : Fld := ⟨0xf002003008, 0x10000, 0x0, 0, 33, 0, .sat⟩
/-- CORE_NUM_NAN (03_numbers.md). -/
def CORE_NUM_NAN : Fam := ⟨0xf002003008, 0x10000, 128, 0x0, 1, false, [CORE_NUM_NAN_count]⟩
def CORE_QMON_CFG_sat_thr : Fld := ⟨0xf002003100, 0x10000, 0x20, 0, 16, 0, .rw⟩
def CORE_QMON_CFG_low_code : Fld := ⟨0xf002003100, 0x10000, 0x20, 16, 4, 0, .rw⟩
def CORE_QMON_CFG_low_frac : Fld := ⟨0xf002003100, 0x10000, 0x20, 20, 8, 0, .rw⟩
def CORE_QMON_CFG_enable : Fld := ⟨0xf002003100, 0x10000, 0x20, 28, 1, 0, .rw⟩
/-- CORE_QMON_CFG (03_numbers.md). -/
def CORE_QMON_CFG : Fam := ⟨0xf002003100, 0x10000, 128, 0x20, 16, false, [CORE_QMON_CFG_sat_thr, CORE_QMON_CFG_low_code, CORE_QMON_CFG_low_frac, CORE_QMON_CFG_enable]⟩
def CORE_QMON_SAT_count : Fld := ⟨0xf002003108, 0x10000, 0x20, 0, 33, 0, .sat⟩
/-- CORE_QMON_SAT (03_numbers.md). -/
def CORE_QMON_SAT : Fam := ⟨0xf002003108, 0x10000, 128, 0x20, 16, false, [CORE_QMON_SAT_count]⟩
def CORE_QMON_LOW_count : Fld := ⟨0xf002003110, 0x10000, 0x20, 0, 33, 0, .sat⟩
/-- CORE_QMON_LOW (03_numbers.md). -/
def CORE_QMON_LOW : Fam := ⟨0xf002003110, 0x10000, 128, 0x20, 16, false, [CORE_QMON_LOW_count]⟩
def CORE_QMON_OPS_count : Fld := ⟨0xf002003118, 0x10000, 0x20, 0, 33, 0, .sat⟩
/-- CORE_QMON_OPS (03_numbers.md). -/
def CORE_QMON_OPS : Fam := ⟨0xf002003118, 0x10000, 128, 0x20, 16, false, [CORE_QMON_OPS_count]⟩
def CORE_CTRL_hold_on_fault : Fld := ⟨0xf002000000, 0x10000, 0x0, 0, 1, 0, .rw⟩
def CORE_CTRL_resume : Fld := ⟨0xf002000000, 0x10000, 0x0, 1, 1, 0, .wo⟩
def CORE_CTRL_fault_irq : Fld := ⟨0xf002000000, 0x10000, 0x0, 2, 1, 1, .rw⟩
/-- CORE_CTRL (04_programming.md). -/
def CORE_CTRL : Fam := ⟨0xf002000000, 0x10000, 128, 0x0, 1, false, [CORE_CTRL_hold_on_fault, CORE_CTRL_resume, CORE_CTRL_fault_irq]⟩
def CORE_STATUS_run_state : Fld := ⟨0xf002000008, 0x10000, 0x0, 0, 2, 0, .ro⟩
def CORE_STATUS_section : Fld := ⟨0xf002000008, 0x10000, 0x0, 2, 1, 0, .ro⟩
def CORE_STATUS_clock_gated : Fld := ⟨0xf002000008, 0x10000, 0x0, 3, 1, 0, .ro⟩
def CORE_STATUS_powered : Fld := ⟨0xf002000008, 0x10000, 0x0, 4, 1, 0, .ro⟩
def CORE_STATUS_binder : Fld := ⟨0xf002000008, 0x10000, 0x0, 5, 12, 0, .ro⟩
/-- CORE_STATUS (04_programming.md). -/
def CORE_STATUS : Fam := ⟨0xf002000008, 0x10000, 128, 0x0, 1, false, [CORE_STATUS_run_state, CORE_STATUS_section, CORE_STATUS_clock_gated, CORE_STATUS_powered, CORE_STATUS_binder]⟩
def CORE_ENTRY_entry : Fld := ⟨0xf002000010, 0x10000, 0x0, 0, 52, 0, .ro⟩
/-- CORE_ENTRY (04_programming.md). -/
def CORE_ENTRY : Fam := ⟨0xf002000010, 0x10000, 128, 0x0, 1, false, [CORE_ENTRY_entry]⟩
def CORE_FAULT_code : Fld := ⟨0xf002000018, 0x10000, 0x0, 0, 8, 0, .ro⟩
def CORE_FAULT_in_section : Fld := ⟨0xf002000018, 0x10000, 0x0, 8, 1, 0, .ro⟩
def CORE_FAULT_at_issue : Fld := ⟨0xf002000018, 0x10000, 0x0, 9, 1, 0, .ro⟩
def CORE_FAULT_dim : Fld := ⟨0xf002000018, 0x10000, 0x0, 10, 2, 0, .ro⟩
def CORE_FAULT_operand : Fld := ⟨0xf002000018, 0x10000, 0x0, 12, 2, 0, .ro⟩
def CORE_FAULT_streak : Fld := ⟨0xf002000018, 0x10000, 0x0, 14, 4, 0, .ro⟩
/-- CORE_FAULT (04_programming.md). -/
def CORE_FAULT : Fam := ⟨0xf002000018, 0x10000, 128, 0x0, 1, false, [CORE_FAULT_code, CORE_FAULT_in_section, CORE_FAULT_at_issue, CORE_FAULT_dim, CORE_FAULT_operand, CORE_FAULT_streak]⟩
def CORE_FAULT_PC_pc : Fld := ⟨0xf002000020, 0x10000, 0x0, 0, 52, 0, .ro⟩
/-- CORE_FAULT_PC (04_programming.md). -/
def CORE_FAULT_PC : Fam := ⟨0xf002000020, 0x10000, 128, 0x0, 1, false, [CORE_FAULT_PC_pc]⟩
def CORE_FAULT_WORD_word : Fld := ⟨0xf002000028, 0x10000, 0x0, 0, 64, 0, .ro⟩
/-- CORE_FAULT_WORD (04_programming.md). -/
def CORE_FAULT_WORD : Fam := ⟨0xf002000028, 0x10000, 128, 0x0, 1, false, [CORE_FAULT_WORD_word]⟩
def CORE_FAULT_INFO_info : Fld := ⟨0xf002000030, 0x10000, 0x0, 0, 64, 0, .ro⟩
/-- CORE_FAULT_INFO (04_programming.md). -/
def CORE_FAULT_INFO : Fam := ⟨0xf002000030, 0x10000, 128, 0x0, 1, false, [CORE_FAULT_INFO_info]⟩
def CORE_FAULTS_count : Fld := ⟨0xf002000038, 0x10000, 0x0, 0, 33, 0, .sat⟩
/-- CORE_FAULTS (04_programming.md). -/
def CORE_FAULTS : Fam := ⟨0xf002000038, 0x10000, 128, 0x0, 1, false, [CORE_FAULTS_count]⟩
def CORE_WDOG_limit_us : Fld := ⟨0xf002000040, 0x10000, 0x0, 0, 24, 25000, .rw⟩
/-- CORE_WDOG (04_programming.md). -/
def CORE_WDOG : Fam := ⟨0xf002000040, 0x10000, 128, 0x0, 1, false, [CORE_WDOG_limit_us]⟩
def CORE_MM_CTRL_lut_mode : Fld := ⟨0xf002001000, 0x10000, 0x0, 0, 1, 1, .rw⟩
/-- CORE_MM_CTRL (05_matrix.md). -/
def CORE_MM_CTRL : Fam := ⟨0xf002001000, 0x10000, 128, 0x0, 1, false, [CORE_MM_CTRL_lut_mode]⟩
def CORE_MM_ALLOC_map : Fld := ⟨0xf002001008, 0x10000, 0x0, 0, 16, 0, .ro⟩
/-- CORE_MM_ALLOC (05_matrix.md). -/
def CORE_MM_ALLOC : Fam := ⟨0xf002001008, 0x10000, 128, 0x0, 1, false, [CORE_MM_ALLOC_map]⟩
def CORE_MM_RESIDUE_count : Fld := ⟨0xf002001010, 0x10000, 0x0, 0, 33, 0, .sat⟩
/-- CORE_MM_RESIDUE (05_matrix.md). -/
def CORE_MM_RESIDUE : Fam := ⟨0xf002001010, 0x10000, 128, 0x0, 1, false, [CORE_MM_RESIDUE_count]⟩
def CORE_MM_RETRY_OK_count : Fld := ⟨0xf002001018, 0x10000, 0x0, 0, 33, 0, .sat⟩
/-- CORE_MM_RETRY_OK (05_matrix.md). -/
def CORE_MM_RETRY_OK : Fam := ⟨0xf002001018, 0x10000, 128, 0x0, 1, false, [CORE_MM_RETRY_OK_count]⟩
def CORE_MM_LUT_FIX_count : Fld := ⟨0xf002001020, 0x10000, 0x0, 0, 33, 0, .sat⟩
/-- CORE_MM_LUT_FIX (05_matrix.md). -/
def CORE_MM_LUT_FIX : Fam := ⟨0xf002001020, 0x10000, 128, 0x0, 1, false, [CORE_MM_LUT_FIX_count]⟩
def CORE_MM_DEFER_PC_pc : Fld := ⟨0xf002001028, 0x10000, 0x0, 0, 52, 0, .ro⟩
/-- CORE_MM_DEFER_PC (05_matrix.md). -/
def CORE_MM_DEFER_PC : Fam := ⟨0xf002001028, 0x10000, 128, 0x0, 1, false, [CORE_MM_DEFER_PC_pc]⟩
def CORE_MM_BUSY_count : Fld := ⟨0xf002001030, 0x10000, 0x0, 0, 33, 0, .sat⟩
/-- CORE_MM_BUSY (05_matrix.md). -/
def CORE_MM_BUSY : Fam := ⟨0xf002001030, 0x10000, 128, 0x0, 1, false, [CORE_MM_BUSY_count]⟩
def CORE_MM_STAGE_WAIT_count : Fld := ⟨0xf002001038, 0x10000, 0x0, 0, 33, 0, .sat⟩
/-- CORE_MM_STAGE_WAIT (05_matrix.md). -/
def CORE_MM_STAGE_WAIT : Fam := ⟨0xf002001038, 0x10000, 128, 0x0, 1, false, [CORE_MM_STAGE_WAIT_count]⟩
def CORE_RC_CLAMP_count : Fld := ⟨0xf002002000, 0x10000, 0x0, 0, 33, 0, .sat⟩
/-- CORE_RC_CLAMP (06_recurrence.md). -/
def CORE_RC_CLAMP : Fam := ⟨0xf002002000, 0x10000, 128, 0x0, 1, false, [CORE_RC_CLAMP_count]⟩
def CORE_RC_RESETS_count : Fld := ⟨0xf002002008, 0x10000, 0x0, 0, 33, 0, .sat⟩
/-- CORE_RC_RESETS (06_recurrence.md). -/
def CORE_RC_RESETS : Fam := ⟨0xf002002008, 0x10000, 128, 0x0, 1, false, [CORE_RC_RESETS_count]⟩
def CORE_RC_BUSY_count : Fld := ⟨0xf002002010, 0x10000, 0x0, 0, 33, 0, .sat⟩
/-- CORE_RC_BUSY (06_recurrence.md). -/
def CORE_RC_BUSY : Fam := ⟨0xf002002010, 0x10000, 128, 0x0, 1, false, [CORE_RC_BUSY_count]⟩
def CORE_VX_BUSY_count : Fld := ⟨0xf002004000, 0x10000, 0x0, 0, 33, 0, .sat⟩
/-- CORE_VX_BUSY (07_vector.md). -/
def CORE_VX_BUSY : Fam := ⟨0xf002004000, 0x10000, 128, 0x0, 1, false, [CORE_VX_BUSY_count]⟩
def CORE_VX_RESCALE_ROWS_count : Fld := ⟨0xf002004008, 0x10000, 0x0, 0, 33, 0, .sat⟩
/-- CORE_VX_RESCALE_ROWS (07_vector.md). -/
def CORE_VX_RESCALE_ROWS : Fam := ⟨0xf002004008, 0x10000, 128, 0x0, 1, false, [CORE_VX_RESCALE_ROWS_count]⟩
def CORE_VX_PERM_RANGE_count : Fld := ⟨0xf002004010, 0x10000, 0x0, 0, 33, 0, .sat⟩
/-- CORE_VX_PERM_RANGE (07_vector.md). -/
def CORE_VX_PERM_RANGE : Fam := ⟨0xf002004010, 0x10000, 128, 0x0, 1, false, [CORE_VX_PERM_RANGE_count]⟩
def CORE_AT_BUSY_count : Fld := ⟨0xf002005000, 0x10000, 0x0, 0, 33, 0, .sat⟩
/-- CORE_AT_BUSY (08_attention.md). -/
def CORE_AT_BUSY : Fam := ⟨0xf002005000, 0x10000, 128, 0x0, 1, false, [CORE_AT_BUSY_count]⟩
def CORE_AT_STALE_count : Fld := ⟨0xf002005008, 0x10000, 0x0, 0, 33, 0, .sat⟩
/-- CORE_AT_STALE (08_attention.md). -/
def CORE_AT_STALE : Fam := ⟨0xf002005008, 0x10000, 128, 0x0, 1, false, [CORE_AT_STALE_count]⟩
def CORE_AT_EMPTY_Q_count : Fld := ⟨0xf002005010, 0x10000, 0x0, 0, 33, 0, .sat⟩
/-- CORE_AT_EMPTY_Q (08_attention.md). -/
def CORE_AT_EMPTY_Q : Fam := ⟨0xf002005010, 0x10000, 128, 0x0, 1, false, [CORE_AT_EMPTY_Q_count]⟩
def CORE_AT_RESCALE_count : Fld := ⟨0xf002005018, 0x10000, 0x0, 0, 33, 0, .sat⟩
/-- CORE_AT_RESCALE (08_attention.md). -/
def CORE_AT_RESCALE : Fam := ⟨0xf002005018, 0x10000, 128, 0x0, 1, false, [CORE_AT_RESCALE_count]⟩
def CORE_AT_MIRROR_SKIP_count : Fld := ⟨0xf002005020, 0x10000, 0x0, 0, 33, 0, .sat⟩
/-- CORE_AT_MIRROR_SKIP (08_attention.md). -/
def CORE_AT_MIRROR_SKIP : Fam := ⟨0xf002005020, 0x10000, 128, 0x0, 1, false, [CORE_AT_MIRROR_SKIP_count]⟩
def HOOP_AT_FREE_leaf : Fld := ⟨0xf001000900, 0x100000, 0x0, 0, 44, 0, .wo⟩
/-- HOOP_AT_FREE (08_attention.md). -/
def HOOP_AT_FREE : Fam := ⟨0xf001000900, 0x100000, 16, 0x0, 1, false, [HOOP_AT_FREE_leaf]⟩
def HOOP_AT_FREE_STAT_busy : Fld := ⟨0xf001000908, 0x100000, 0x0, 0, 1, 0, .ro⟩
/-- HOOP_AT_FREE_STAT (08_attention.md). -/
def HOOP_AT_FREE_STAT : Fam := ⟨0xf001000908, 0x100000, 16, 0x0, 1, false, [HOOP_AT_FREE_STAT_busy]⟩
def HOOP_AT_FREE_WAIT_count : Fld := ⟨0xf001000910, 0x100000, 0x0, 0, 33, 0, .sat⟩
/-- HOOP_AT_FREE_WAIT (08_attention.md). -/
def HOOP_AT_FREE_WAIT : Fam := ⟨0xf001000910, 0x100000, 16, 0x0, 1, false, [HOOP_AT_FREE_WAIT_count]⟩
def HBM_CTRL_scrub_en : Fld := ⟨0xf003000000, 0x0, 0x0, 0, 1, 1, .rw⟩
def HBM_CTRL_recal_auto : Fld := ⟨0xf003000000, 0x0, 0x0, 1, 1, 1, .rw⟩
def HBM_CTRL_recal_period : Fld := ⟨0xf003000000, 0x0, 0x0, 2, 14, 1000, .rw⟩
def HBM_CTRL_recal_dtemp : Fld := ⟨0xf003000000, 0x0, 0x0, 16, 5, 5, .rw⟩
/-- HBM_CTRL (09_memory.md). -/
def HBM_CTRL : Fam := ⟨0xf003000000, 0x0, 1, 0x0, 1, false, [HBM_CTRL_scrub_en, HBM_CTRL_recal_auto, HBM_CTRL_recal_period, HBM_CTRL_recal_dtemp]⟩
def HBM_STAT_recal_pc : Fld := ⟨0xf003000008, 0x0, 0x0, 0, 5, 0, .ro⟩
def HBM_STAT_recal_busy : Fld := ⟨0xf003000008, 0x0, 0x0, 5, 1, 0, .ro⟩
def HBM_STAT_temp : Fld := ⟨0xf003000008, 0x0, 0x0, 6, 8, 0, .ro⟩
def HBM_STAT_hot : Fld := ⟨0xf003000008, 0x0, 0x0, 14, 1, 0, .ro⟩
/-- HBM_STAT (09_memory.md). -/
def HBM_STAT : Fam := ⟨0xf003000008, 0x0, 1, 0x0, 1, false, [HBM_STAT_recal_pc, HBM_STAT_recal_busy, HBM_STAT_temp, HBM_STAT_hot]⟩
def HBM_RECAL_pc : Fld := ⟨0xf003000010, 0x0, 0x0, 0, 5, 0, .wo⟩
def HBM_RECAL_go : Fld := ⟨0xf003000010, 0x0, 0x0, 5, 1, 0, .wo⟩
/-- HBM_RECAL (09_memory.md). -/
def HBM_RECAL : Fam := ⟨0xf003000010, 0x0, 1, 0x0, 1, false, [HBM_RECAL_pc, HBM_RECAL_go]⟩
def HBM_SCRUB_POS_line : Fld := ⟨0xf003000018, 0x0, 0x0, 6, 34, 0, .ro⟩
def HBM_SCRUB_POS_passes : Fld := ⟨0xf003000018, 0x0, 0x0, 40, 24, 0, .ro⟩
/-- HBM_SCRUB_POS (09_memory.md). -/
def HBM_SCRUB_POS : Fam := ⟨0xf003000018, 0x0, 1, 0x0, 1, false, [HBM_SCRUB_POS_line, HBM_SCRUB_POS_passes]⟩
def HBM_ECC_CORR_count : Fld := ⟨0xf003000020, 0x0, 0x0, 0, 33, 0, .sat⟩
/-- HBM_ECC_CORR (09_memory.md). -/
def HBM_ECC_CORR : Fam := ⟨0xf003000020, 0x0, 1, 0x0, 1, false, [HBM_ECC_CORR_count]⟩
def HBM_ECC_UNCORR_count : Fld := ⟨0xf003000028, 0x0, 0x0, 0, 33, 0, .sat⟩
/-- HBM_ECC_UNCORR (09_memory.md). -/
def HBM_ECC_UNCORR : Fam := ⟨0xf003000028, 0x0, 1, 0x0, 1, false, [HBM_ECC_UNCORR_count]⟩
def HBM_ODC_count : Fld := ⟨0xf003000030, 0x0, 0x0, 0, 33, 0, .sat⟩
/-- HBM_ODC (09_memory.md). -/
def HBM_ODC : Fam := ⟨0xf003000030, 0x0, 1, 0x0, 1, false, [HBM_ODC_count]⟩
def HBM_PARITY_count : Fld := ⟨0xf003000038, 0x0, 0x0, 0, 33, 0, .sat⟩
/-- HBM_PARITY (09_memory.md). -/
def HBM_PARITY : Fam := ⟨0xf003000038, 0x0, 1, 0x0, 1, false, [HBM_PARITY_count]⟩
def HBM_RECAL_FAIL_count : Fld := ⟨0xf003000040, 0x0, 0x0, 0, 33, 0, .sat⟩
/-- HBM_RECAL_FAIL (09_memory.md). -/
def HBM_RECAL_FAIL : Fam := ⟨0xf003000040, 0x0, 1, 0x0, 1, false, [HBM_RECAL_FAIL_count]⟩
def HBM_LAST_ERR_line : Fld := ⟨0xf003000048, 0x0, 0x0, 6, 34, 0, .ro⟩
def HBM_LAST_ERR_scrub : Fld := ⟨0xf003000048, 0x0, 0x0, 40, 1, 0, .ro⟩
/-- HBM_LAST_ERR (09_memory.md). -/
def HBM_LAST_ERR : Fam := ⟨0xf003000048, 0x0, 1, 0x0, 1, false, [HBM_LAST_ERR_line, HBM_LAST_ERR_scrub]⟩
def HOOP_TC_STAT_valid : Fld := ⟨0xf001000a00, 0x100000, 0x0, 0, 10, 0, .ro⟩
def HOOP_TC_STAT_pinned : Fld := ⟨0xf001000a00, 0x100000, 0x0, 10, 10, 0, .ro⟩
/-- HOOP_TC_STAT (09_memory.md). -/
def HOOP_TC_STAT : Fam := ⟨0xf001000a00, 0x100000, 16, 0x0, 1, false, [HOOP_TC_STAT_valid, HOOP_TC_STAT_pinned]⟩
def HOOP_TC_INVAL_all : Fld := ⟨0xf001000a08, 0x100000, 0x0, 0, 1, 0, .wo⟩
/-- HOOP_TC_INVAL (09_memory.md). -/
def HOOP_TC_INVAL : Fam := ⟨0xf001000a08, 0x100000, 16, 0x0, 1, false, [HOOP_TC_INVAL_all]⟩
def HOOP_TC_HIT_count : Fld := ⟨0xf001000a10, 0x100000, 0x0, 0, 33, 0, .sat⟩
/-- HOOP_TC_HIT (09_memory.md). -/
def HOOP_TC_HIT : Fam := ⟨0xf001000a10, 0x100000, 16, 0x0, 1, false, [HOOP_TC_HIT_count]⟩
def HOOP_TC_MISS_count : Fld := ⟨0xf001000a18, 0x100000, 0x0, 0, 33, 0, .sat⟩
/-- HOOP_TC_MISS (09_memory.md). -/
def HOOP_TC_MISS : Fam := ⟨0xf001000a18, 0x100000, 16, 0x0, 1, false, [HOOP_TC_MISS_count]⟩
def HOOP_EXP_CFG_stall_thr : Fld := ⟨0xf001000a20, 0x100000, 0x0, 0, 16, 16, .rw⟩
/-- HOOP_EXP_CFG (09_memory.md). -/
def HOOP_EXP_CFG : Fam := ⟨0xf001000a20, 0x100000, 16, 0x0, 1, false, [HOOP_EXP_CFG_stall_thr]⟩
def HOOP_EXP_STALL_count : Fld := ⟨0xf001000a28, 0x100000, 0x0, 0, 33, 0, .sat⟩
/-- HOOP_EXP_STALL (09_memory.md). -/
def HOOP_EXP_STALL : Fam := ⟨0xf001000a28, 0x100000, 16, 0x0, 1, false, [HOOP_EXP_STALL_count]⟩
def HOOP_EXP_INWAIT_count : Fld := ⟨0xf001000a30, 0x100000, 0x0, 0, 33, 0, .sat⟩
/-- HOOP_EXP_INWAIT (09_memory.md). -/
def HOOP_EXP_INWAIT : Fam := ⟨0xf001000a30, 0x100000, 16, 0x0, 1, false, [HOOP_EXP_INWAIT_count]⟩
def HOOP_EXP_CORRUPT_count : Fld := ⟨0xf001000a38, 0x100000, 0x0, 0, 33, 0, .sat⟩
/-- HOOP_EXP_CORRUPT (09_memory.md). -/
def HOOP_EXP_CORRUPT : Fam := ⟨0xf001000a38, 0x100000, 16, 0x0, 1, false, [HOOP_EXP_CORRUPT_count]⟩
def HOOP_DT_LOAD_addr : Fld := ⟨0xf001000a40, 0x100000, 0x0, 0, 45, 0, .wo⟩
def HOOP_DT_LOAD_slot : Fld := ⟨0xf001000a40, 0x100000, 0x0, 45, 2, 0, .wo⟩
/-- HOOP_DT_LOAD (09_memory.md). -/
def HOOP_DT_LOAD : Fam := ⟨0xf001000a40, 0x100000, 16, 0x0, 1, false, [HOOP_DT_LOAD_addr, HOOP_DT_LOAD_slot]⟩
def HOOP_DT_STAT_busy : Fld := ⟨0xf001000a48, 0x100000, 0x0, 0, 1, 0, .ro⟩
def HOOP_DT_STAT_loaded : Fld := ⟨0xf001000a48, 0x100000, 0x0, 1, 4, 0, .ro⟩
def HOOP_DT_STAT_bad : Fld := ⟨0xf001000a48, 0x100000, 0x0, 5, 4, 0, .ro⟩
def HOOP_DT_STAT_inflight : Fld := ⟨0xf001000a48, 0x100000, 0x0, 9, 48, 0, .ro⟩
/-- HOOP_DT_STAT (09_memory.md). -/
def HOOP_DT_STAT : Fam := ⟨0xf001000a48, 0x100000, 16, 0x0, 1, false, [HOOP_DT_STAT_busy, HOOP_DT_STAT_loaded, HOOP_DT_STAT_bad, HOOP_DT_STAT_inflight]⟩
def FOL_BND_CMD_op : Fld := ⟨0xf000200600, 0x0, 0x0, 0, 4, 0, .wo⟩
def FOL_BND_CMD_binder : Fld := ⟨0xf000200600, 0x0, 0x0, 4, 12, 0, .wo⟩
/-- FOL_BND_CMD (09_memory.md). -/
def FOL_BND_CMD : Fam := ⟨0xf000200600, 0x0, 1, 0x0, 1, false, [FOL_BND_CMD_op, FOL_BND_CMD_binder]⟩
def FOL_BND_ARG0_image : Fld := ⟨0xf000200608, 0x0, 0x0, 0, 52, 0, .rw⟩
/-- FOL_BND_ARG0 (09_memory.md). -/
def FOL_BND_ARG0 : Fam := ⟨0xf000200608, 0x0, 1, 0x0, 1, false, [FOL_BND_ARG0_image]⟩
def FOL_BND_ARG1_hoops : Fld := ⟨0xf000200610, 0x0, 0x0, 0, 16, 0, .rw⟩
def FOL_BND_ARG1_binder2 : Fld := ⟨0xf000200610, 0x0, 0x0, 16, 12, 0, .rw⟩
/-- FOL_BND_ARG1 (09_memory.md). -/
def FOL_BND_ARG1 : Fam := ⟨0xf000200610, 0x0, 1, 0x0, 1, false, [FOL_BND_ARG1_hoops, FOL_BND_ARG1_binder2]⟩
def FOL_BND_STATUS_busy : Fld := ⟨0xf000200618, 0x0, 0x0, 0, 1, 0, .ro⟩
def FOL_BND_STATUS_result : Fld := ⟨0xf000200618, 0x0, 0x0, 8, 8, 0, .ro⟩
def FOL_BND_STATUS_detail : Fld := ⟨0xf000200618, 0x0, 0x0, 16, 16, 0, .ro⟩
def FOL_BND_STATUS_binder : Fld := ⟨0xf000200618, 0x0, 0x0, 32, 12, 0, .ro⟩
/-- FOL_BND_STATUS (09_memory.md). -/
def FOL_BND_STATUS : Fam := ⟨0xf000200618, 0x0, 1, 0x0, 1, false, [FOL_BND_STATUS_busy, FOL_BND_STATUS_result, FOL_BND_STATUS_detail, FOL_BND_STATUS_binder]⟩
def FLNK_CTRL_enable : Fld := ⟨0xf004000000, 0x1000, 0x0, 0, 1, 0, .rw⟩
def FLNK_CTRL_retrain : Fld := ⟨0xf004000000, 0x1000, 0x0, 1, 1, 0, .wo⟩
/-- FLNK_CTRL (10_toile.md). -/
def FLNK_CTRL : Fam := ⟨0xf004000000, 0x1000, 64, 0x0, 1, false, [FLNK_CTRL_enable, FLNK_CTRL_retrain]⟩
def FLNK_STAT_state : Fld := ⟨0xf004000008, 0x1000, 0x0, 0, 3, 0, .ro⟩
def FLNK_STAT_lock : Fld := ⟨0xf004000008, 0x1000, 0x0, 3, 8, 0, .ro⟩
def FLNK_STAT_laser_ok : Fld := ⟨0xf004000008, 0x1000, 0x0, 11, 1, 0, .ro⟩
def FLNK_STAT_peer : Fld := ⟨0xf004000008, 0x1000, 0x0, 12, 12, 4095, .ro⟩
def FLNK_STAT_peer_link : Fld := ⟨0xf004000008, 0x1000, 0x0, 24, 6, 0, .ro⟩
def FLNK_STAT_reason : Fld := ⟨0xf004000008, 0x1000, 0x0, 30, 4, 0, .ro⟩
/-- FLNK_STAT (10_toile.md). -/
def FLNK_STAT : Fam := ⟨0xf004000008, 0x1000, 64, 0x0, 1, false, [FLNK_STAT_state, FLNK_STAT_lock, FLNK_STAT_laser_ok, FLNK_STAT_peer, FLNK_STAT_peer_link, FLNK_STAT_reason]⟩
def FLNK_PEER_ID_digest : Fld := ⟨0xf004000010, 0x1000, 0x0, 0, 64, 0, .ro⟩
/-- FLNK_PEER_ID (10_toile.md). -/
def FLNK_PEER_ID : Fam := ⟨0xf004000010, 0x1000, 64, 0x0, 1, false, [FLNK_PEER_ID_digest]⟩
def FLNK_DELAY_delay : Fld := ⟨0xf004000018, 0x1000, 0x0, 0, 24, 0, .ro⟩
/-- FLNK_DELAY (10_toile.md). -/
def FLNK_DELAY : Fam := ⟨0xf004000018, 0x1000, 64, 0x0, 1, false, [FLNK_DELAY_delay]⟩
def FLNK_FEC_SYM_count : Fld := ⟨0xf004000040, 0x1000, 0x0, 0, 33, 0, .sat⟩
/-- FLNK_FEC_SYM (10_toile.md). -/
def FLNK_FEC_SYM : Fam := ⟨0xf004000040, 0x1000, 64, 0x0, 1, false, [FLNK_FEC_SYM_count]⟩
def FLNK_FEC_UNCORR_count : Fld := ⟨0xf004000048, 0x1000, 0x0, 0, 33, 0, .sat⟩
/-- FLNK_FEC_UNCORR (10_toile.md). -/
def FLNK_FEC_UNCORR : Fam := ⟨0xf004000048, 0x1000, 64, 0x0, 1, false, [FLNK_FEC_UNCORR_count]⟩
def FLNK_CRC_ERR_count : Fld := ⟨0xf004000050, 0x1000, 0x0, 0, 33, 0, .sat⟩
/-- FLNK_CRC_ERR (10_toile.md). -/
def FLNK_CRC_ERR : Fam := ⟨0xf004000050, 0x1000, 64, 0x0, 1, false, [FLNK_CRC_ERR_count]⟩
def FLNK_REPLAY_count : Fld := ⟨0xf004000058, 0x1000, 0x0, 0, 33, 0, .sat⟩
/-- FLNK_REPLAY (10_toile.md). -/
def FLNK_REPLAY : Fam := ⟨0xf004000058, 0x1000, 64, 0x0, 1, false, [FLNK_REPLAY_count]⟩
def FLNK_DOWN_count : Fld := ⟨0xf004000060, 0x1000, 0x0, 0, 33, 0, .sat⟩
/-- FLNK_DOWN (10_toile.md). -/
def FLNK_DOWN : Fam := ⟨0xf004000060, 0x1000, 64, 0x0, 1, false, [FLNK_DOWN_count]⟩
def TOILE_DEVNUM_devnum : Fld := ⟨0xf004100000, 0x0, 0x0, 0, 12, 4095, .rw⟩
def TOILE_DEVNUM_fabric_id : Fld := ⟨0xf004100000, 0x0, 0x0, 12, 32, 0, .rw⟩
/-- TOILE_DEVNUM (10_toile.md). -/
def TOILE_DEVNUM : Fam := ⟨0xf004100000, 0x0, 1, 0x0, 1, false, [TOILE_DEVNUM_devnum, TOILE_DEVNUM_fabric_id]⟩
def TOILE_CFG_timeout_us : Fld := ⟨0xf004100008, 0x0, 0x0, 0, 16, 1000, .rw⟩
def TOILE_CFG_pend_irq : Fld := ⟨0xf004100008, 0x0, 0x0, 16, 1, 0, .rw⟩
/-- TOILE_CFG (10_toile.md). -/
def TOILE_CFG : Fam := ⟨0xf004100008, 0x0, 1, 0x0, 1, false, [TOILE_CFG_timeout_us, TOILE_CFG_pend_irq]⟩
def TOILE_RT_CONFIRM_dev : Fld := ⟨0xf004100010, 0x0, 0x0, 0, 12, 0, .wo⟩
def TOILE_RT_CONFIRM_accept : Fld := ⟨0xf004100010, 0x0, 0x0, 12, 1, 0, .wo⟩
/-- TOILE_RT_CONFIRM (10_toile.md). -/
def TOILE_RT_CONFIRM : Fam := ⟨0xf004100010, 0x0, 1, 0x0, 1, false, [TOILE_RT_CONFIRM_dev, TOILE_RT_CONFIRM_accept]⟩
def TOILE_RT_PENDING_dev : Fld := ⟨0xf004100018, 0x0, 0x0, 0, 12, 0, .ro⟩
def TOILE_RT_PENDING_valid : Fld := ⟨0xf004100018, 0x0, 0x0, 12, 1, 0, .ro⟩
/-- TOILE_RT_PENDING (10_toile.md). -/
def TOILE_RT_PENDING : Fam := ⟨0xf004100018, 0x0, 1, 0x0, 1, false, [TOILE_RT_PENDING_dev, TOILE_RT_PENDING_valid]⟩
def TOILE_QUORUM_members : Fld := ⟨0xf004100020, 0x0, 0x0, 0, 60, 0, .rw⟩
def TOILE_QUORUM_count : Fld := ⟨0xf004100020, 0x0, 0x0, 60, 3, 0, .rw⟩
def TOILE_QUORUM_standalone : Fld := ⟨0xf004100020, 0x0, 0x0, 63, 1, 0, .rw⟩
/-- TOILE_QUORUM (10_toile.md). -/
def TOILE_QUORUM : Fam := ⟨0xf004100020, 0x0, 1, 0x0, 1, false, [TOILE_QUORUM_members, TOILE_QUORUM_count, TOILE_QUORUM_standalone]⟩
def TOILE_LEASE_epoch : Fld := ⟨0xf004100028, 0x0, 0x0, 0, 32, 0, .ro⟩
def TOILE_LEASE_leased : Fld := ⟨0xf004100028, 0x0, 0x0, 32, 1, 0, .ro⟩
def TOILE_LEASE_fenced : Fld := ⟨0xf004100028, 0x0, 0x0, 33, 1, 0, .ro⟩
def TOILE_LEASE_member : Fld := ⟨0xf004100028, 0x0, 0x0, 34, 1, 0, .ro⟩
/-- TOILE_LEASE (10_toile.md). -/
def TOILE_LEASE : Fam := ⟨0xf004100028, 0x0, 1, 0x0, 1, false, [TOILE_LEASE_epoch, TOILE_LEASE_leased, TOILE_LEASE_fenced, TOILE_LEASE_member]⟩
def TOILE_LEASE_EXP_expiry : Fld := ⟨0xf004100030, 0x0, 0x0, 0, 64, 0, .ro⟩
/-- TOILE_LEASE_EXP (10_toile.md). -/
def TOILE_LEASE_EXP : Fam := ⟨0xf004100030, 0x0, 1, 0x0, 1, false, [TOILE_LEASE_EXP_expiry]⟩
def TOILE_QREC_BASE_base : Fld := ⟨0xf004100038, 0x0, 0x0, 0, 40, 0, .rw⟩
/-- TOILE_QREC_BASE (10_toile.md). -/
def TOILE_QREC_BASE : Fam := ⟨0xf004100038, 0x0, 1, 0x0, 1, false, [TOILE_QREC_BASE_base]⟩
def TOILE_CMD_op : Fld := ⟨0xf004100040, 0x0, 0x0, 0, 4, 0, .wo⟩
def TOILE_CMD_folio : Fld := ⟨0xf004100040, 0x0, 0x0, 4, 20, 0, .wo⟩
def TOILE_CMD_device : Fld := ⟨0xf004100040, 0x0, 0x0, 24, 12, 0, .wo⟩
/-- TOILE_CMD (10_toile.md). -/
def TOILE_CMD : Fam := ⟨0xf004100040, 0x0, 1, 0x0, 1, false, [TOILE_CMD_op, TOILE_CMD_folio, TOILE_CMD_device]⟩
def TOILE_CMD_STATUS_busy : Fld := ⟨0xf004100048, 0x0, 0x0, 0, 1, 0, .ro⟩
def TOILE_CMD_STATUS_result : Fld := ⟨0xf004100048, 0x0, 0x0, 8, 8, 0, .ro⟩
/-- TOILE_CMD_STATUS (10_toile.md). -/
def TOILE_CMD_STATUS : Fam := ⟨0xf004100048, 0x0, 1, 0x0, 1, false, [TOILE_CMD_STATUS_busy, TOILE_CMD_STATUS_result]⟩
def TOILE_LINE_CFG_ack_timeout_us : Fld := ⟨0xf004100050, 0x0, 0x0, 0, 16, 2000, .rw⟩
def TOILE_LINE_CFG_shadow_first : Fld := ⟨0xf004100050, 0x0, 0x0, 16, 20, 0, .rw⟩
def TOILE_LINE_CFG_shadow_count : Fld := ⟨0xf004100050, 0x0, 0x0, 36, 20, 0, .rw⟩
/-- TOILE_LINE_CFG (10_toile.md). -/
def TOILE_LINE_CFG : Fam := ⟨0xf004100050, 0x0, 1, 0x0, 1, false, [TOILE_LINE_CFG_ack_timeout_us, TOILE_LINE_CFG_shadow_first, TOILE_LINE_CFG_shadow_count]⟩
def TOILE_SHADOW_base : Fld := ⟨0xf004100058, 0x0, 0x0, 0, 40, 0, .rw⟩
/-- TOILE_SHADOW (10_toile.md). -/
def TOILE_SHADOW : Fam := ⟨0xf004100058, 0x0, 1, 0x0, 1, false, [TOILE_SHADOW_base]⟩
def TOILE_POOL_base : Fld := ⟨0xf004100060, 0x0, 0x0, 0, 40, 0, .rw⟩
def TOILE_POOL_slot_log2 : Fld := ⟨0xf004100060, 0x0, 0x0, 40, 5, 0, .rw⟩
def TOILE_POOL_slots : Fld := ⟨0xf004100060, 0x0, 0x0, 45, 19, 0, .rw⟩
/-- TOILE_POOL (10_toile.md). -/
def TOILE_POOL : Fam := ⟨0xf004100060, 0x0, 1, 0x0, 1, false, [TOILE_POOL_base, TOILE_POOL_slot_log2, TOILE_POOL_slots]⟩
def TOILE_TIME_CFG_priority : Fld := ⟨0xf004100068, 0x0, 0x0, 0, 8, 255, .rw⟩
def TOILE_TIME_CFG_root_ok : Fld := ⟨0xf004100068, 0x0, 0x0, 8, 1, 0, .rw⟩
/-- TOILE_TIME_CFG (10_toile.md). -/
def TOILE_TIME_CFG : Fam := ⟨0xf004100068, 0x0, 1, 0x0, 1, false, [TOILE_TIME_CFG_priority, TOILE_TIME_CFG_root_ok]⟩
def TOILE_TIME_STAT_locked : Fld := ⟨0xf004100070, 0x0, 0x0, 0, 1, 0, .ro⟩
def TOILE_TIME_STAT_root : Fld := ⟨0xf004100070, 0x0, 0x0, 1, 12, 4095, .ro⟩
def TOILE_TIME_STAT_hops : Fld := ⟨0xf004100070, 0x0, 0x0, 13, 3, 0, .ro⟩
def TOILE_TIME_STAT_offset : Fld := ⟨0xf004100070, 0x0, 0x0, 16, 32, 0, .ro⟩
/-- TOILE_TIME_STAT (10_toile.md). -/
def TOILE_TIME_STAT : Fam := ⟨0xf004100070, 0x0, 1, 0x0, 1, false, [TOILE_TIME_STAT_locked, TOILE_TIME_STAT_root, TOILE_TIME_STAT_hops, TOILE_TIME_STAT_offset]⟩
def TOILE_XADDR_addr : Fld := ⟨0xf004100078, 0x0, 0x0, 0, 52, 0, .rw⟩
/-- TOILE_XADDR (10_toile.md). -/
def TOILE_XADDR : Fam := ⟨0xf004100078, 0x0, 1, 0x0, 1, false, [TOILE_XADDR_addr]⟩
def TOILE_XBUF_buf : Fld := ⟨0xf004100080, 0x0, 0x0, 0, 40, 0, .rw⟩
/-- TOILE_XBUF (10_toile.md). -/
def TOILE_XBUF : Fam := ⟨0xf004100080, 0x0, 1, 0x0, 1, false, [TOILE_XBUF_buf]⟩
def TOILE_XCMD_op : Fld := ⟨0xf004100088, 0x0, 0x0, 0, 4, 0, .wo⟩
def TOILE_XCMD_len : Fld := ⟨0xf004100088, 0x0, 0x0, 4, 6, 0, .wo⟩
/-- TOILE_XCMD (10_toile.md). -/
def TOILE_XCMD : Fam := ⟨0xf004100088, 0x0, 1, 0x0, 1, false, [TOILE_XCMD_op, TOILE_XCMD_len]⟩
def TOILE_XSTAT_busy : Fld := ⟨0xf004100090, 0x0, 0x0, 0, 1, 0, .ro⟩
def TOILE_XSTAT_result : Fld := ⟨0xf004100090, 0x0, 0x0, 1, 3, 0, .ro⟩
/-- TOILE_XSTAT (10_toile.md). -/
def TOILE_XSTAT : Fam := ⟨0xf004100090, 0x0, 1, 0x0, 1, false, [TOILE_XSTAT_busy, TOILE_XSTAT_result]⟩
def TOILE_REFUSED_count : Fld := ⟨0xf004100200, 0x0, 0x0, 0, 33, 0, .sat⟩
/-- TOILE_REFUSED (10_toile.md). -/
def TOILE_REFUSED : Fam := ⟨0xf004100200, 0x0, 1, 0x0, 1, false, [TOILE_REFUSED_count]⟩
def TOILE_DUP_count : Fld := ⟨0xf004100208, 0x0, 0x0, 0, 33, 0, .sat⟩
/-- TOILE_DUP (10_toile.md). -/
def TOILE_DUP : Fam := ⟨0xf004100208, 0x0, 1, 0x0, 1, false, [TOILE_DUP_count]⟩
def TOILE_GAP_count : Fld := ⟨0xf004100210, 0x0, 0x0, 0, 33, 0, .sat⟩
/-- TOILE_GAP (10_toile.md). -/
def TOILE_GAP : Fam := ⟨0xf004100210, 0x0, 1, 0x0, 1, false, [TOILE_GAP_count]⟩
def TOILE_HOPDROP_count : Fld := ⟨0xf004100218, 0x0, 0x0, 0, 33, 0, .sat⟩
/-- TOILE_HOPDROP (10_toile.md). -/
def TOILE_HOPDROP : Fam := ⟨0xf004100218, 0x0, 1, 0x0, 1, false, [TOILE_HOPDROP_count]⟩
def TOILE_LINE_REFUSED_count : Fld := ⟨0xf004100220, 0x0, 0x0, 0, 33, 0, .sat⟩
/-- TOILE_LINE_REFUSED (10_toile.md). -/
def TOILE_LINE_REFUSED : Fam := ⟨0xf004100220, 0x0, 1, 0x0, 1, false, [TOILE_LINE_REFUSED_count]⟩
def TOILE_LINE_RESEND_count : Fld := ⟨0xf004100228, 0x0, 0x0, 0, 33, 0, .sat⟩
/-- TOILE_LINE_RESEND (10_toile.md). -/
def TOILE_LINE_RESEND : Fam := ⟨0xf004100228, 0x0, 1, 0x0, 1, false, [TOILE_LINE_RESEND_count]⟩
def TOILE_PROMO_FAIL_count : Fld := ⟨0xf004100230, 0x0, 0x0, 0, 33, 0, .sat⟩
/-- TOILE_PROMO_FAIL (10_toile.md). -/
def TOILE_PROMO_FAIL : Fam := ⟨0xf004100230, 0x0, 1, 0x0, 1, false, [TOILE_PROMO_FAIL_count]⟩
def TOILE_PROMO_UNSURE_count : Fld := ⟨0xf004100238, 0x0, 0x0, 0, 33, 0, .sat⟩
/-- TOILE_PROMO_UNSURE (10_toile.md). -/
def TOILE_PROMO_UNSURE : Fam := ⟨0xf004100238, 0x0, 1, 0x0, 1, false, [TOILE_PROMO_UNSURE_count]⟩
def TOILE_EXP_BASE_base : Fld := ⟨0xf004101000, 0x10, 0x0, 0, 40, 0, .rw⟩
/-- TOILE_EXP_BASE (10_toile.md). -/
def TOILE_EXP_BASE : Fam := ⟨0xf004101000, 0x10, 256, 0x0, 1, false, [TOILE_EXP_BASE_base]⟩
def TOILE_EXP_ATTR_pages : Fld := ⟨0xf004101008, 0x10, 0x0, 0, 28, 0, .rw⟩
def TOILE_EXP_ATTR_valid : Fld := ⟨0xf004101008, 0x10, 0x0, 28, 1, 0, .rw⟩
def TOILE_EXP_ATTR_owned : Fld := ⟨0xf004101008, 0x10, 0x0, 29, 1, 0, .rw⟩
def TOILE_EXP_ATTR_peer_read : Fld := ⟨0xf004101008, 0x10, 0x0, 30, 1, 0, .rw⟩
def TOILE_EXP_ATTR_owner : Fld := ⟨0xf004101008, 0x10, 0x0, 31, 12, 0, .rw⟩
/-- TOILE_EXP_ATTR (10_toile.md). -/
def TOILE_EXP_ATTR : Fam := ⟨0xf004101008, 0x10, 256, 0x0, 1, false, [TOILE_EXP_ATTR_pages, TOILE_EXP_ATTR_valid, TOILE_EXP_ATTR_owned, TOILE_EXP_ATTR_peer_read, TOILE_EXP_ATTR_owner]⟩
def TOILE_RT_cand0 : Fld := ⟨0xf004110000, 0x8, 0x0, 0, 7, 0, .rw⟩
def TOILE_RT_cand1 : Fld := ⟨0xf004110000, 0x8, 0x0, 7, 7, 0, .rw⟩
def TOILE_RT_cand2 : Fld := ⟨0xf004110000, 0x8, 0x0, 14, 7, 0, .rw⟩
def TOILE_RT_cand3 : Fld := ⟨0xf004110000, 0x8, 0x0, 21, 7, 0, .rw⟩
def TOILE_RT_pending : Fld := ⟨0xf004110000, 0x8, 0x0, 28, 1, 0, .ro⟩
/-- TOILE_RT (10_toile.md). -/
def TOILE_RT : Fam := ⟨0xf004110000, 0x8, 4096, 0x0, 1, false, [TOILE_RT_cand0, TOILE_RT_cand1, TOILE_RT_cand2, TOILE_RT_cand3, TOILE_RT_pending]⟩
def SAP_CTRL_start : Fld := ⟨0xf005000000, 0x1000, 0x0, 0, 1, 0, .wo⟩
def SAP_CTRL_stop : Fld := ⟨0xf005000000, 0x1000, 0x0, 1, 1, 0, .wo⟩
def SAP_CTRL_restart : Fld := ⟨0xf005000000, 0x1000, 0x0, 2, 1, 0, .wo⟩
def SAP_CTRL_group : Fld := ⟨0xf005000000, 0x1000, 0x0, 3, 3, 0, .rw⟩
def SAP_CTRL_detach_stop : Fld := ⟨0xf005000000, 0x1000, 0x0, 6, 1, 1, .rw⟩
/-- SAP_CTRL (11_audio.md). -/
def SAP_CTRL : Fam := ⟨0xf005000000, 0x1000, 16, 0x0, 1, false, [SAP_CTRL_start, SAP_CTRL_stop, SAP_CTRL_restart, SAP_CTRL_group, SAP_CTRL_detach_stop]⟩
def SAP_FMT_mode : Fld := ⟨0xf005000008, 0x1000, 0x0, 0, 3, 0, .rw⟩
def SAP_FMT_dir : Fld := ⟨0xf005000008, 0x1000, 0x0, 3, 4, 0, .rw⟩
def SAP_FMT_slots : Fld := ⟨0xf005000008, 0x1000, 0x0, 7, 4, 0, .rw⟩
def SAP_FMT_slot_bits : Fld := ⟨0xf005000008, 0x1000, 0x0, 11, 2, 0, .rw⟩
def SAP_FMT_word_bits : Fld := ⟨0xf005000008, 0x1000, 0x0, 13, 2, 0, .rw⟩
def SAP_FMT_delay : Fld := ⟨0xf005000008, 0x1000, 0x0, 15, 1, 0, .rw⟩
def SAP_FMT_fsync_long : Fld := ⟨0xf005000008, 0x1000, 0x0, 16, 1, 0, .rw⟩
def SAP_FMT_bclk_inv : Fld := ⟨0xf005000008, 0x1000, 0x0, 17, 1, 0, .rw⟩
def SAP_FMT_fsync_inv : Fld := ⟨0xf005000008, 0x1000, 0x0, 18, 1, 0, .rw⟩
def SAP_FMT_pdm_swap : Fld := ⟨0xf005000008, 0x1000, 0x0, 19, 1, 0, .rw⟩
def SAP_FMT_pdm_rate : Fld := ⟨0xf005000008, 0x1000, 0x0, 20, 2, 0, .rw⟩
def SAP_FMT_line_en : Fld := ⟨0xf005000008, 0x1000, 0x0, 22, 4, 0, .rw⟩
/-- SAP_FMT (11_audio.md). -/
def SAP_FMT : Fam := ⟨0xf005000008, 0x1000, 16, 0x0, 1, false, [SAP_FMT_mode, SAP_FMT_dir, SAP_FMT_slots, SAP_FMT_slot_bits, SAP_FMT_word_bits, SAP_FMT_delay, SAP_FMT_fsync_long, SAP_FMT_bclk_inv, SAP_FMT_fsync_inv, SAP_FMT_pdm_swap, SAP_FMT_pdm_rate, SAP_FMT_line_en]⟩
def SAP_CLK_master : Fld := ⟨0xf005000010, 0x1000, 0x0, 0, 1, 0, .rw⟩
def SAP_CLK_family : Fld := ⟨0xf005000010, 0x1000, 0x0, 1, 1, 0, .rw⟩
def SAP_CLK_div_n : Fld := ⟨0xf005000010, 0x1000, 0x0, 2, 12, 0, .rw⟩
def SAP_CLK_div_f : Fld := ⟨0xf005000010, 0x1000, 0x0, 14, 16, 0, .rw⟩
def SAP_CLK_mclk_en : Fld := ⟨0xf005000010, 0x1000, 0x0, 30, 1, 0, .rw⟩
def SAP_CLK_mclk_div : Fld := ⟨0xf005000010, 0x1000, 0x0, 31, 12, 0, .rw⟩
/-- SAP_CLK (11_audio.md). -/
def SAP_CLK : Fam := ⟨0xf005000010, 0x1000, 16, 0x0, 1, false, [SAP_CLK_master, SAP_CLK_family, SAP_CLK_div_n, SAP_CLK_div_f, SAP_CLK_mclk_en, SAP_CLK_mclk_div]⟩
def SAP_LEAD_clk_lead : Fld := ⟨0xf005000018, 0x1000, 0x0, 0, 16, 0, .rw⟩
def SAP_LEAD_clk_tail : Fld := ⟨0xf005000018, 0x1000, 0x0, 16, 16, 0, .rw⟩
/-- SAP_LEAD (11_audio.md). -/
def SAP_LEAD : Fam := ⟨0xf005000018, 0x1000, 16, 0x0, 1, false, [SAP_LEAD_clk_lead, SAP_LEAD_clk_tail]⟩
def SAP_STAT_state : Fld := ⟨0xf005000020, 0x1000, 0x0, 0, 3, 0, .ro⟩
def SAP_STAT_fill : Fld := ⟨0xf005000020, 0x1000, 0x0, 3, 4, 0, .ro⟩
def SAP_STAT_prsnt : Fld := ⟨0xf005000020, 0x1000, 0x0, 7, 1, 0, .ro⟩
def SAP_STAT_err : Fld := ⟨0xf005000020, 0x1000, 0x0, 8, 4, 0, .ro⟩
def SAP_STAT_good : Fld := ⟨0xf005000020, 0x1000, 0x0, 12, 9, 0, .ro⟩
def SAP_STAT_rate_ppm : Fld := ⟨0xf005000020, 0x1000, 0x0, 21, 24, 0, .ro⟩
def SAP_STAT_pending : Fld := ⟨0xf005000020, 0x1000, 0x0, 45, 1, 0, .ro⟩
/-- SAP_STAT (11_audio.md). -/
def SAP_STAT : Fam := ⟨0xf005000020, 0x1000, 16, 0x0, 1, false, [SAP_STAT_state, SAP_STAT_fill, SAP_STAT_prsnt, SAP_STAT_err, SAP_STAT_good, SAP_STAT_rate_ppm, SAP_STAT_pending]⟩
def SAP_SLIP_count : Fld := ⟨0xf005000040, 0x1000, 0x0, 0, 33, 0, .sat⟩
/-- SAP_SLIP (11_audio.md). -/
def SAP_SLIP : Fam := ⟨0xf005000040, 0x1000, 16, 0x0, 1, false, [SAP_SLIP_count]⟩
def SAP_LOST_count : Fld := ⟨0xf005000048, 0x1000, 0x0, 0, 33, 0, .sat⟩
/-- SAP_LOST (11_audio.md). -/
def SAP_LOST : Fam := ⟨0xf005000048, 0x1000, 16, 0x0, 1, false, [SAP_LOST_count]⟩
def SAP_UNDERRUN_count : Fld := ⟨0xf005000050, 0x1000, 0x0, 0, 33, 0, .sat⟩
/-- SAP_UNDERRUN (11_audio.md). -/
def SAP_UNDERRUN : Fam := ⟨0xf005000050, 0x1000, 16, 0x0, 1, false, [SAP_UNDERRUN_count]⟩
def SAP_INVALID_count : Fld := ⟨0xf005000058, 0x1000, 0x0, 0, 33, 0, .sat⟩
/-- SAP_INVALID (11_audio.md). -/
def SAP_INVALID : Fam := ⟨0xf005000058, 0x1000, 16, 0x0, 1, false, [SAP_INVALID_count]⟩
def SAP_CS_CRC_count : Fld := ⟨0xf005000060, 0x1000, 0x0, 0, 33, 0, .sat⟩
/-- SAP_CS_CRC (11_audio.md). -/
def SAP_CS_CRC : Fam := ⟨0xf005000060, 0x1000, 16, 0x0, 1, false, [SAP_CS_CRC_count]⟩
def SAP_CS_STAT_seq : Fld := ⟨0xf005000080, 0x1000, 0x0, 0, 16, 0, .ro⟩
def SAP_CS_STAT_pro : Fld := ⟨0xf005000080, 0x1000, 0x0, 16, 1, 0, .ro⟩
def SAP_CS_STAT_block_err : Fld := ⟨0xf005000080, 0x1000, 0x0, 17, 1, 0, .w1c⟩
def SAP_CS_STAT_crc_bad : Fld := ⟨0xf005000080, 0x1000, 0x0, 18, 1, 0, .w1c⟩
/-- SAP_CS_STAT (11_audio.md). -/
def SAP_CS_STAT : Fam := ⟨0xf005000080, 0x1000, 16, 0x0, 1, false, [SAP_CS_STAT_seq, SAP_CS_STAT_pro, SAP_CS_STAT_block_err, SAP_CS_STAT_crc_bad]⟩
def SAP_CSA_bytes : Fld := ⟨0xf005000088, 0x1000, 0x8, 0, 64, 0, .ro⟩
/-- SAP_CSA (11_audio.md). -/
def SAP_CSA : Fam := ⟨0xf005000088, 0x1000, 16, 0x8, 3, false, [SAP_CSA_bytes]⟩
def SAP_CSB_bytes : Fld := ⟨0xf0050000a0, 0x1000, 0x8, 0, 64, 0, .ro⟩
/-- SAP_CSB (11_audio.md). -/
def SAP_CSB : Fam := ⟨0xf0050000a0, 0x1000, 16, 0x8, 3, false, [SAP_CSB_bytes]⟩
def SAP_TXCSA_bytes : Fld := ⟨0xf0050000c0, 0x1000, 0x8, 0, 64, 0, .rw⟩
/-- SAP_TXCSA (11_audio.md). -/
def SAP_TXCSA : Fam := ⟨0xf0050000c0, 0x1000, 16, 0x8, 3, false, [SAP_TXCSA_bytes]⟩
def SAP_TXCSB_bytes : Fld := ⟨0xf0050000d8, 0x1000, 0x8, 0, 64, 0, .rw⟩
/-- SAP_TXCSB (11_audio.md). -/
def SAP_TXCSB : Fam := ⟨0xf0050000d8, 0x1000, 16, 0x8, 3, false, [SAP_TXCSB_bytes]⟩
def SAP_TX_CFG_tx_crc : Fld := ⟨0xf0050000f0, 0x1000, 0x0, 0, 1, 0, .rw⟩
/-- SAP_TX_CFG (11_audio.md). -/
def SAP_TX_CFG : Fam := ⟨0xf0050000f0, 0x1000, 16, 0x0, 1, false, [SAP_TX_CFG_tx_crc]⟩
def AUD_PLL_CFG_ref : Fld := ⟨0xf005010000, 0x0, 0x0, 0, 1, 0, .rw⟩
def AUD_PLL_CFG_enable : Fld := ⟨0xf005010000, 0x0, 0x0, 1, 1, 0, .rw⟩
def AUD_PLL_CFG_mclk_in_hz : Fld := ⟨0xf005010000, 0x0, 0x0, 2, 30, 0, .rw⟩
/-- AUD_PLL_CFG (11_audio.md). -/
def AUD_PLL_CFG : Fam := ⟨0xf005010000, 0x0, 1, 0x0, 1, false, [AUD_PLL_CFG_ref, AUD_PLL_CFG_enable, AUD_PLL_CFG_mclk_in_hz]⟩
def AUD_PLL_STAT_lock48 : Fld := ⟨0xf005010008, 0x0, 0x0, 0, 1, 0, .ro⟩
def AUD_PLL_STAT_lock44 : Fld := ⟨0xf005010008, 0x0, 0x0, 1, 1, 0, .ro⟩
def AUD_PLL_STAT_holdover : Fld := ⟨0xf005010008, 0x0, 0x0, 2, 1, 0, .ro⟩
/-- AUD_PLL_STAT (11_audio.md). -/
def AUD_PLL_STAT : Fam := ⟨0xf005010008, 0x0, 1, 0x0, 1, false, [AUD_PLL_STAT_lock48, AUD_PLL_STAT_lock44, AUD_PLL_STAT_holdover]⟩
def AUD_GRP_CFG_family : Fld := ⟨0xf005010100, 0x40, 0x0, 0, 1, 0, .rw⟩
def AUD_GRP_CFG_div_n : Fld := ⟨0xf005010100, 0x40, 0x0, 1, 20, 0, .rw⟩
def AUD_GRP_CFG_div_f : Fld := ⟨0xf005010100, 0x40, 0x0, 21, 16, 0, .rw⟩
def AUD_GRP_CFG_rate_hz : Fld := ⟨0xf005010100, 0x40, 0x0, 37, 18, 0, .rw⟩
def AUD_GRP_CFG_zc_timeout_ms : Fld := ⟨0xf005010100, 0x40, 0x0, 55, 7, 20, .rw⟩
def AUD_GRP_CFG_relock_reset : Fld := ⟨0xf005010100, 0x40, 0x0, 62, 1, 0, .rw⟩
/-- AUD_GRP_CFG (11_audio.md). -/
def AUD_GRP_CFG : Fam := ⟨0xf005010100, 0x40, 8, 0x0, 1, false, [AUD_GRP_CFG_family, AUD_GRP_CFG_div_n, AUD_GRP_CFG_div_f, AUD_GRP_CFG_rate_hz, AUD_GRP_CFG_zc_timeout_ms, AUD_GRP_CFG_relock_reset]⟩
def AUD_GRP_START_time : Fld := ⟨0xf005010108, 0x40, 0x0, 0, 64, 0, .wo⟩
/-- AUD_GRP_START (11_audio.md). -/
def AUD_GRP_START : Fam := ⟨0xf005010108, 0x40, 8, 0x0, 1, false, [AUD_GRP_START_time]⟩
def AUD_GRP_CTRL_stop : Fld := ⟨0xf005010110, 0x40, 0x0, 0, 1, 0, .wo⟩
/-- AUD_GRP_CTRL (11_audio.md). -/
def AUD_GRP_CTRL : Fam := ⟨0xf005010110, 0x40, 8, 0x0, 1, false, [AUD_GRP_CTRL_stop]⟩
def AUD_GRP_STAT_state : Fld := ⟨0xf005010118, 0x40, 0x0, 0, 2, 0, .ro⟩
def AUD_GRP_STAT_late : Fld := ⟨0xf005010118, 0x40, 0x0, 2, 1, 0, .w1c⟩
def AUD_GRP_STAT_bad_rate : Fld := ⟨0xf005010118, 0x40, 0x0, 3, 1, 0, .w1c⟩
/-- AUD_GRP_STAT (11_audio.md). -/
def AUD_GRP_STAT : Fam := ⟨0xf005010118, 0x40, 8, 0x0, 1, false, [AUD_GRP_STAT_state, AUD_GRP_STAT_late, AUD_GRP_STAT_bad_rate]⟩
def AUD_GRP_BLK_FRAME_frame : Fld := ⟨0xf005010120, 0x40, 0x0, 0, 48, 0, .ro⟩
/-- AUD_GRP_BLK_FRAME (11_audio.md). -/
def AUD_GRP_BLK_FRAME : Fam := ⟨0xf005010120, 0x40, 8, 0x0, 1, false, [AUD_GRP_BLK_FRAME_frame]⟩
def AUD_GRP_BLK_TIME_time : Fld := ⟨0xf005010128, 0x40, 0x0, 0, 64, 0, .ro⟩
/-- AUD_GRP_BLK_TIME (11_audio.md). -/
def AUD_GRP_BLK_TIME : Fam := ⟨0xf005010128, 0x40, 8, 0x0, 1, false, [AUD_GRP_BLK_TIME_time]⟩
def AUD_GRP_DROP_count : Fld := ⟨0xf005010130, 0x40, 0x0, 0, 33, 0, .sat⟩
/-- AUD_GRP_DROP (11_audio.md). -/
def AUD_GRP_DROP : Fam := ⟨0xf005010130, 0x40, 8, 0x0, 1, false, [AUD_GRP_DROP_count]⟩
def AUD_GRP_CLIP_count : Fld := ⟨0xf005010138, 0x40, 0x0, 0, 33, 0, .sat⟩
/-- AUD_GRP_CLIP (11_audio.md). -/
def AUD_GRP_CLIP : Fam := ⟨0xf005010138, 0x40, 8, 0x0, 1, false, [AUD_GRP_CLIP_count]⟩
def AUD_BIND_CMD_op : Fld := ⟨0xf005010400, 0x0, 0x0, 0, 4, 0, .wo⟩
def AUD_BIND_CMD_folio : Fld := ⟨0xf005010400, 0x0, 0x0, 4, 20, 0, .wo⟩
/-- AUD_BIND_CMD (11_audio.md). -/
def AUD_BIND_CMD : Fam := ⟨0xf005010400, 0x0, 1, 0x0, 1, false, [AUD_BIND_CMD_op, AUD_BIND_CMD_folio]⟩
def AUD_BIND_ARG_c0 : Fld := ⟨0xf005010408, 0x0, 0x0, 0, 8, 0, .rw⟩
def AUD_BIND_ARG_count : Fld := ⟨0xf005010408, 0x0, 0x0, 8, 5, 0, .rw⟩
def AUD_BIND_ARG_group : Fld := ⟨0xf005010408, 0x0, 0x0, 13, 3, 0, .rw⟩
/-- AUD_BIND_ARG (11_audio.md). -/
def AUD_BIND_ARG : Fam := ⟨0xf005010408, 0x0, 1, 0x0, 1, false, [AUD_BIND_ARG_c0, AUD_BIND_ARG_count, AUD_BIND_ARG_group]⟩
def AUD_BIND_STATUS_busy : Fld := ⟨0xf005010410, 0x0, 0x0, 0, 1, 0, .ro⟩
def AUD_BIND_STATUS_result : Fld := ⟨0xf005010410, 0x0, 0x0, 8, 8, 0, .ro⟩
def AUD_BIND_STATUS_folio : Fld := ⟨0xf005010410, 0x0, 0x0, 16, 20, 0, .ro⟩
/-- AUD_BIND_STATUS (11_audio.md). -/
def AUD_BIND_STATUS : Fam := ⟨0xf005010410, 0x0, 1, 0x0, 1, false, [AUD_BIND_STATUS_busy, AUD_BIND_STATUS_result, AUD_BIND_STATUS_folio]⟩
def AUD_DISCARD_count : Fld := ⟨0xf005010418, 0x0, 0x0, 0, 33, 0, .sat⟩
/-- AUD_DISCARD (11_audio.md). -/
def AUD_DISCARD : Fam := ⟨0xf005010418, 0x0, 1, 0x0, 1, false, [AUD_DISCARD_count]⟩
def AUD_CH_SRC_port : Fld := ⟨0xf005011000, 0x10, 0x0, 0, 4, 0, .rw⟩
def AUD_CH_SRC_line : Fld := ⟨0xf005011000, 0x10, 0x0, 4, 2, 0, .rw⟩
def AUD_CH_SRC_slot : Fld := ⟨0xf005011000, 0x10, 0x0, 6, 4, 0, .rw⟩
def AUD_CH_SRC_enable : Fld := ⟨0xf005011000, 0x10, 0x0, 10, 1, 0, .rw⟩
def AUD_CH_SRC_bound : Fld := ⟨0xf005011000, 0x10, 0x0, 11, 1, 0, .ro⟩
def AUD_CH_SRC_pending : Fld := ⟨0xf005011000, 0x10, 0x0, 12, 1, 0, .ro⟩
def AUD_CH_SRC_ramping : Fld := ⟨0xf005011000, 0x10, 0x0, 13, 1, 0, .ro⟩
/-- AUD_CH_SRC (11_audio.md). -/
def AUD_CH_SRC : Fam := ⟨0xf005011000, 0x10, 384, 0x0, 1, false, [AUD_CH_SRC_port, AUD_CH_SRC_line, AUD_CH_SRC_slot, AUD_CH_SRC_enable, AUD_CH_SRC_bound, AUD_CH_SRC_pending, AUD_CH_SRC_ramping]⟩
def AUD_CH_GAIN_gain : Fld := ⟨0xf005011008, 0x10, 0x0, 0, 16, 15360, .rw⟩
/-- AUD_CH_GAIN (11_audio.md). -/
def AUD_CH_GAIN : Fam := ⟨0xf005011008, 0x10, 384, 0x0, 1, false, [AUD_CH_GAIN_gain]⟩
def AUD_OUT_BASE_base : Fld := ⟨0xf005013000, 0x40, 0x0, 0, 40, 0, .rw⟩
def AUD_OUT_BASE_log2 : Fld := ⟨0xf005013000, 0x40, 0x0, 40, 5, 0, .rw⟩
def AUD_OUT_BASE_channels : Fld := ⟨0xf005013000, 0x40, 0x0, 45, 4, 0, .rw⟩
def AUD_OUT_BASE_first : Fld := ⟨0xf005013000, 0x40, 0x0, 49, 7, 0, .rw⟩
def AUD_OUT_BASE_format : Fld := ⟨0xf005013000, 0x40, 0x0, 56, 2, 0, .rw⟩
def AUD_OUT_BASE_group : Fld := ⟨0xf005013000, 0x40, 0x0, 58, 3, 0, .rw⟩
def AUD_OUT_BASE_enable : Fld := ⟨0xf005013000, 0x40, 0x0, 61, 1, 0, .rw⟩
/-- AUD_OUT_BASE (11_audio.md). -/
def AUD_OUT_BASE : Fam := ⟨0xf005013000, 0x40, 16, 0x0, 1, false, [AUD_OUT_BASE_base, AUD_OUT_BASE_log2, AUD_OUT_BASE_channels, AUD_OUT_BASE_first, AUD_OUT_BASE_format, AUD_OUT_BASE_group, AUD_OUT_BASE_enable]⟩
def AUD_OUT_START_start : Fld := ⟨0xf005013008, 0x40, 0x0, 0, 48, 0, .rw⟩
/-- AUD_OUT_START (11_audio.md). -/
def AUD_OUT_START : Fam := ⟨0xf005013008, 0x40, 16, 0x0, 1, false, [AUD_OUT_START_start]⟩
def AUD_OUT_WR_index : Fld := ⟨0xf005013010, 0x40, 0x0, 0, 32, 0, .rw⟩
/-- AUD_OUT_WR (11_audio.md). -/
def AUD_OUT_WR : Fam := ⟨0xf005013010, 0x40, 16, 0x0, 1, false, [AUD_OUT_WR_index]⟩
def AUD_OUT_RD_index : Fld := ⟨0xf005013018, 0x40, 0x0, 0, 32, 0, .ro⟩
/-- AUD_OUT_RD (11_audio.md). -/
def AUD_OUT_RD : Fam := ⟨0xf005013018, 0x40, 16, 0x0, 1, false, [AUD_OUT_RD_index]⟩
def AUD_OUT_CFG_ramp : Fld := ⟨0xf005013020, 0x40, 0x0, 0, 9, 50, .rw⟩
/-- AUD_OUT_CFG (11_audio.md). -/
def AUD_OUT_CFG : Fam := ⟨0xf005013020, 0x40, 16, 0x0, 1, false, [AUD_OUT_CFG_ramp]⟩
def AUD_OUT_UNDERRUN_count : Fld := ⟨0xf005013028, 0x40, 0x0, 0, 33, 0, .sat⟩
/-- AUD_OUT_UNDERRUN (11_audio.md). -/
def AUD_OUT_UNDERRUN : Fam := ⟨0xf005013028, 0x40, 16, 0x0, 1, false, [AUD_OUT_UNDERRUN_count]⟩
def ETH_CTRL_enable : Fld := ⟨0xf006000000, 0x10000, 0x0, 0, 1, 0, .rw⟩
def ETH_CTRL_mtu : Fld := ⟨0xf006000000, 0x10000, 0x0, 1, 14, 1518, .rw⟩
/-- ETH_CTRL (12_host.md). -/
def ETH_CTRL : Fam := ⟨0xf006000000, 0x10000, 2, 0x0, 1, false, [ETH_CTRL_enable, ETH_CTRL_mtu]⟩
def ETH_MAC_addr : Fld := ⟨0xf006000008, 0x10000, 0x0, 0, 48, 0, .rw⟩
/-- ETH_MAC (12_host.md). -/
def ETH_MAC : Fam := ⟨0xf006000008, 0x10000, 2, 0x0, 1, false, [ETH_MAC_addr]⟩
def ETH_STAT_link : Fld := ⟨0xf006000010, 0x10000, 0x0, 0, 1, 0, .ro⟩
def ETH_STAT_lane_lock : Fld := ⟨0xf006000010, 0x10000, 0x0, 1, 4, 0, .ro⟩
def ETH_STAT_local_fault : Fld := ⟨0xf006000010, 0x10000, 0x0, 5, 1, 0, .ro⟩
def ETH_STAT_remote_fault : Fld := ⟨0xf006000010, 0x10000, 0x0, 6, 1, 0, .ro⟩
/-- ETH_STAT (12_host.md). -/
def ETH_STAT : Fam := ⟨0xf006000010, 0x10000, 2, 0x0, 1, false, [ETH_STAT_link, ETH_STAT_lane_lock, ETH_STAT_local_fault, ETH_STAT_remote_fault]⟩
def ETH_PTP_LAT_rx_ns : Fld := ⟨0xf006000018, 0x10000, 0x0, 0, 16, 0, .rw⟩
def ETH_PTP_LAT_tx_ns : Fld := ⟨0xf006000018, 0x10000, 0x0, 16, 16, 0, .rw⟩
/-- ETH_PTP_LAT (12_host.md). -/
def ETH_PTP_LAT : Fam := ⟨0xf006000018, 0x10000, 2, 0x0, 1, false, [ETH_PTP_LAT_rx_ns, ETH_PTP_LAT_tx_ns]⟩
def ETH_PTP_STAT_lock : Fld := ⟨0xf006000020, 0x10000, 0x0, 0, 1, 0, .rw⟩
/-- ETH_PTP_STAT (12_host.md). -/
def ETH_PTP_STAT : Fam := ⟨0xf006000020, 0x10000, 2, 0x0, 1, false, [ETH_PTP_STAT_lock]⟩
def ETH_RX_PKTS_count : Fld := ⟨0xf006000100, 0x10000, 0x0, 0, 33, 0, .sat⟩
/-- ETH_RX_PKTS (12_host.md). -/
def ETH_RX_PKTS : Fam := ⟨0xf006000100, 0x10000, 2, 0x0, 1, false, [ETH_RX_PKTS_count]⟩
def ETH_RX_FCS_count : Fld := ⟨0xf006000108, 0x10000, 0x0, 0, 33, 0, .sat⟩
/-- ETH_RX_FCS (12_host.md). -/
def ETH_RX_FCS : Fam := ⟨0xf006000108, 0x10000, 2, 0x0, 1, false, [ETH_RX_FCS_count]⟩
def ETH_RX_DROP_count : Fld := ⟨0xf006000110, 0x10000, 0x0, 0, 33, 0, .sat⟩
/-- ETH_RX_DROP (12_host.md). -/
def ETH_RX_DROP : Fam := ⟨0xf006000110, 0x10000, 2, 0x0, 1, false, [ETH_RX_DROP_count]⟩
def ETH_TX_PKTS_count : Fld := ⟨0xf006000118, 0x10000, 0x0, 0, 33, 0, .sat⟩
/-- ETH_TX_PKTS (12_host.md). -/
def ETH_TX_PKTS : Fam := ⟨0xf006000118, 0x10000, 2, 0x0, 1, false, [ETH_TX_PKTS_count]⟩
def ETH_FEC_CORR_count : Fld := ⟨0xf006000120, 0x10000, 0x0, 0, 33, 0, .sat⟩
/-- ETH_FEC_CORR (12_host.md). -/
def ETH_FEC_CORR : Fam := ⟨0xf006000120, 0x10000, 2, 0x0, 1, false, [ETH_FEC_CORR_count]⟩
def ETH_FEC_UNCORR_count : Fld := ⟨0xf006000128, 0x10000, 0x0, 0, 33, 0, .sat⟩
/-- ETH_FEC_UNCORR (12_host.md). -/
def ETH_FEC_UNCORR : Fam := ⟨0xf006000128, 0x10000, 2, 0x0, 1, false, [ETH_FEC_UNCORR_count]⟩
def ETH_TIME_ADJ_offset_ns : Fld := ⟨0xf006000200, 0x0, 0x0, 0, 32, 0, .wo⟩
/-- ETH_TIME_ADJ (12_host.md). -/
def ETH_TIME_ADJ : Fam := ⟨0xf006000200, 0x0, 1, 0x0, 1, false, [ETH_TIME_ADJ_offset_ns]⟩
def ETH_TIME_FREQ_ppb : Fld := ⟨0xf006000208, 0x0, 0x0, 0, 24, 0, .rw⟩
/-- ETH_TIME_FREQ (12_host.md). -/
def ETH_TIME_FREQ : Fam := ⟨0xf006000208, 0x0, 1, 0x0, 1, false, [ETH_TIME_FREQ_ppb]⟩
def INGRESS_FLOW_BASE_base : Fld := ⟨0xf006100000, 0x0, 0x0, 0, 40, 0, .rw⟩
/-- INGRESS_FLOW_BASE (12_host.md). -/
def INGRESS_FLOW_BASE : Fam := ⟨0xf006100000, 0x0, 1, 0x0, 1, false, [INGRESS_FLOW_BASE_base]⟩
def INGRESS_CMD_op : Fld := ⟨0xf006100008, 0x0, 0x0, 0, 4, 0, .wo⟩
def INGRESS_CMD_flow : Fld := ⟨0xf006100008, 0x0, 0x0, 4, 16, 0, .wo⟩
def INGRESS_CMD_folio : Fld := ⟨0xf006100008, 0x0, 0x0, 20, 20, 0, .wo⟩
/-- INGRESS_CMD (12_host.md). -/
def INGRESS_CMD : Fam := ⟨0xf006100008, 0x0, 1, 0x0, 1, false, [INGRESS_CMD_op, INGRESS_CMD_flow, INGRESS_CMD_folio]⟩
def INGRESS_ARG0_entry_lo : Fld := ⟨0xf006100010, 0x0, 0x0, 0, 64, 0, .rw⟩
/-- INGRESS_ARG0 (12_host.md). -/
def INGRESS_ARG0 : Fam := ⟨0xf006100010, 0x0, 1, 0x0, 1, false, [INGRESS_ARG0_entry_lo]⟩
def INGRESS_ARG1_entry_hi : Fld := ⟨0xf006100018, 0x0, 0x0, 0, 64, 0, .rw⟩
/-- INGRESS_ARG1 (12_host.md). -/
def INGRESS_ARG1 : Fam := ⟨0xf006100018, 0x0, 1, 0x0, 1, false, [INGRESS_ARG1_entry_hi]⟩
def INGRESS_STATUS_busy : Fld := ⟨0xf006100020, 0x0, 0x0, 0, 1, 0, .ro⟩
def INGRESS_STATUS_push_err : Fld := ⟨0xf006100020, 0x0, 0x0, 1, 1, 0, .w1c⟩
def INGRESS_STATUS_result : Fld := ⟨0xf006100020, 0x0, 0x0, 8, 8, 0, .ro⟩
def INGRESS_STATUS_flow : Fld := ⟨0xf006100020, 0x0, 0x0, 16, 16, 0, .ro⟩
/-- INGRESS_STATUS (12_host.md). -/
def INGRESS_STATUS : Fam := ⟨0xf006100020, 0x0, 1, 0x0, 1, false, [INGRESS_STATUS_busy, INGRESS_STATUS_push_err, INGRESS_STATUS_result, INGRESS_STATUS_flow]⟩
def INGRESS_PUSH0_folio : Fld := ⟨0xf006100028, 0x0, 0x0, 0, 20, 0, .wo⟩
def INGRESS_PUSH0_count : Fld := ⟨0xf006100028, 0x0, 0x0, 20, 13, 0, .wo⟩
def INGRESS_PUSH0_invalid : Fld := ⟨0xf006100028, 0x0, 0x0, 33, 1, 0, .wo⟩
def INGRESS_PUSH0_reset_mark : Fld := ⟨0xf006100028, 0x0, 0x0, 34, 1, 0, .wo⟩
def INGRESS_PUSH0_gap : Fld := ⟨0xf006100028, 0x0, 0x0, 35, 1, 0, .wo⟩
/-- INGRESS_PUSH0 (12_host.md). -/
def INGRESS_PUSH0 : Fam := ⟨0xf006100028, 0x0, 1, 0x0, 1, false, [INGRESS_PUSH0_folio, INGRESS_PUSH0_count, INGRESS_PUSH0_invalid, INGRESS_PUSH0_reset_mark, INGRESS_PUSH0_gap]⟩
def INGRESS_PUSH1_time : Fld := ⟨0xf006100030, 0x0, 0x0, 0, 64, 0, .rw⟩
/-- INGRESS_PUSH1 (12_host.md). -/
def INGRESS_PUSH1 : Fam := ⟨0xf006100030, 0x0, 1, 0x0, 1, false, [INGRESS_PUSH1_time]⟩
def INGRESS_NOMATCH_count : Fld := ⟨0xf006100100, 0x0, 0x0, 0, 33, 0, .sat⟩
/-- INGRESS_NOMATCH (12_host.md). -/
def INGRESS_NOMATCH : Fam := ⟨0xf006100100, 0x0, 1, 0x0, 1, false, [INGRESS_NOMATCH_count]⟩
def INGRESS_CSUM_count : Fld := ⟨0xf006100108, 0x0, 0x0, 0, 33, 0, .sat⟩
/-- INGRESS_CSUM (12_host.md). -/
def INGRESS_CSUM : Fam := ⟨0xf006100108, 0x0, 1, 0x0, 1, false, [INGRESS_CSUM_count]⟩
def INGRESS_DISCARD_count : Fld := ⟨0xf006100110, 0x0, 0x0, 0, 33, 0, .sat⟩
/-- INGRESS_DISCARD (12_host.md). -/
def INGRESS_DISCARD : Fam := ⟨0xf006100110, 0x0, 1, 0x0, 1, false, [INGRESS_DISCARD_count]⟩
def INGRESS_REBASE_count : Fld := ⟨0xf006100118, 0x0, 0x0, 0, 33, 0, .sat⟩
/-- INGRESS_REBASE (12_host.md). -/
def INGRESS_REBASE : Fam := ⟨0xf006100118, 0x0, 1, 0x0, 1, false, [INGRESS_REBASE_count]⟩
def INGRESS_CLIP_count : Fld := ⟨0xf006100120, 0x0, 0x0, 0, 33, 0, .sat⟩
/-- INGRESS_CLIP (12_host.md). -/
def INGRESS_CLIP : Fam := ⟨0xf006100120, 0x0, 1, 0x0, 1, false, [INGRESS_CLIP_count]⟩
def MISC_MOD_STAT_valid : Fld := ⟨0xf008010000, 0x400, 0x0, 0, 1, 0, .ro⟩
def MISC_MOD_STAT_status : Fld := ⟨0xf008010000, 0x400, 0x0, 1, 2, 0, .ro⟩
def MISC_MOD_STAT_class : Fld := ⟨0xf008010000, 0x400, 0x0, 3, 8, 0, .ro⟩
/-- MISC_MOD_STAT (12_host.md). -/
def MISC_MOD_STAT : Fam := ⟨0xf008010000, 0x400, 16, 0x0, 1, false, [MISC_MOD_STAT_valid, MISC_MOD_STAT_status, MISC_MOD_STAT_class]⟩
def MISC_OPT_STAT_valid : Fld := ⟨0xf008014000, 0x400, 0x0, 0, 1, 0, .ro⟩
def MISC_OPT_STAT_status : Fld := ⟨0xf008014000, 0x400, 0x0, 1, 2, 0, .ro⟩
def MISC_OPT_STAT_class : Fld := ⟨0xf008014000, 0x400, 0x0, 3, 8, 0, .ro⟩
/-- MISC_OPT_STAT (12_host.md). -/
def MISC_OPT_STAT : Fam := ⟨0xf008014000, 0x400, 8, 0x0, 1, true, [MISC_OPT_STAT_valid, MISC_OPT_STAT_status, MISC_OPT_STAT_class]⟩
def MISC_MOD_REC_bytes : Fld := ⟨0xf008010008, 0x400, 0x8, 0, 64, 0, .ro⟩
/-- MISC_MOD_REC (12_host.md). -/
def MISC_MOD_REC : Fam := ⟨0xf008010008, 0x400, 16, 0x8, 64, false, [MISC_MOD_REC_bytes]⟩
def MISC_OPT_REC_bytes : Fld := ⟨0xf008014008, 0x400, 0x8, 0, 64, 0, .ro⟩
/-- MISC_OPT_REC (12_host.md). -/
def MISC_OPT_REC : Fam := ⟨0xf008014008, 0x400, 8, 0x8, 64, true, [MISC_OPT_REC_bytes]⟩
def MISC_UART_CFG_baud : Fld := ⟨0xf008000000, 0x0, 0x0, 0, 22, 115200, .rw⟩
/-- MISC_UART_CFG (12_host.md). -/
def MISC_UART_CFG : Fam := ⟨0xf008000000, 0x0, 1, 0x0, 1, true, [MISC_UART_CFG_baud]⟩
def MISC_UART_STAT_tx_busy : Fld := ⟨0xf008000008, 0x0, 0x0, 0, 1, 0, .ro⟩
def MISC_UART_STAT_rx_overrun : Fld := ⟨0xf008000008, 0x0, 0x0, 1, 1, 0, .w1c⟩
def MISC_UART_STAT_framing_err : Fld := ⟨0xf008000008, 0x0, 0x0, 2, 1, 0, .w1c⟩
/-- MISC_UART_STAT (12_host.md). -/
def MISC_UART_STAT : Fam := ⟨0xf008000008, 0x0, 1, 0x0, 1, true, [MISC_UART_STAT_tx_busy, MISC_UART_STAT_rx_overrun, MISC_UART_STAT_framing_err]⟩
def MISC_QSPI_STAT_present : Fld := ⟨0xf008000100, 0x40, 0x0, 0, 1, 0, .ro⟩
def MISC_QSPI_STAT_quad : Fld := ⟨0xf008000100, 0x40, 0x0, 1, 1, 0, .ro⟩
def MISC_QSPI_STAT_read_mhz : Fld := ⟨0xf008000100, 0x40, 0x0, 2, 7, 0, .ro⟩
def MISC_QSPI_STAT_sample : Fld := ⟨0xf008000100, 0x40, 0x0, 9, 6, 0, .ro⟩
def MISC_QSPI_STAT_size_mib : Fld := ⟨0xf008000100, 0x40, 0x0, 15, 16, 0, .ro⟩
/-- MISC_QSPI_STAT (12_host.md). -/
def MISC_QSPI_STAT : Fam := ⟨0xf008000100, 0x40, 2, 0x0, 1, true, [MISC_QSPI_STAT_present, MISC_QSPI_STAT_quad, MISC_QSPI_STAT_read_mhz, MISC_QSPI_STAT_sample, MISC_QSPI_STAT_size_mib]⟩
def MISC_I2C_CFG_speed : Fld := ⟨0xf008001000, 0x100, 0x0, 0, 2, 1, .rw⟩
def MISC_I2C_CFG_i3c : Fld := ⟨0xf008001000, 0x100, 0x0, 2, 1, 0, .rw⟩
def MISC_I2C_CFG_i3c_khz : Fld := ⟨0xf008001000, 0x100, 0x0, 3, 14, 12500, .rw⟩
def MISC_I2C_CFG_irq : Fld := ⟨0xf008001000, 0x100, 0x0, 17, 1, 0, .rw⟩
/-- MISC_I2C_CFG (12_host.md). -/
def MISC_I2C_CFG : Fam := ⟨0xf008001000, 0x100, 4, 0x0, 1, false, [MISC_I2C_CFG_speed, MISC_I2C_CFG_i3c, MISC_I2C_CFG_i3c_khz, MISC_I2C_CFG_irq]⟩
def MISC_I2C_CMD_op : Fld := ⟨0xf008001008, 0x100, 0x0, 0, 3, 0, .wo⟩
def MISC_I2C_CMD_addr : Fld := ⟨0xf008001008, 0x100, 0x0, 3, 7, 0, .wo⟩
def MISC_I2C_CMD_wlen : Fld := ⟨0xf008001008, 0x100, 0x0, 10, 6, 0, .wo⟩
def MISC_I2C_CMD_rlen : Fld := ⟨0xf008001008, 0x100, 0x0, 16, 6, 0, .wo⟩
def MISC_I2C_CMD_ccc : Fld := ⟨0xf008001008, 0x100, 0x0, 22, 8, 0, .wo⟩
/-- MISC_I2C_CMD (12_host.md). -/
def MISC_I2C_CMD : Fam := ⟨0xf008001008, 0x100, 4, 0x0, 1, false, [MISC_I2C_CMD_op, MISC_I2C_CMD_addr, MISC_I2C_CMD_wlen, MISC_I2C_CMD_rlen, MISC_I2C_CMD_ccc]⟩
def MISC_I2C_STAT_busy : Fld := ⟨0xf008001010, 0x100, 0x0, 0, 1, 0, .ro⟩
def MISC_I2C_STAT_result : Fld := ⟨0xf008001010, 0x100, 0x0, 1, 3, 0, .ro⟩
def MISC_I2C_STAT_rcount : Fld := ⟨0xf008001010, 0x100, 0x0, 4, 6, 0, .ro⟩
/-- MISC_I2C_STAT (12_host.md). -/
def MISC_I2C_STAT : Fam := ⟨0xf008001010, 0x100, 4, 0x0, 1, false, [MISC_I2C_STAT_busy, MISC_I2C_STAT_result, MISC_I2C_STAT_rcount]⟩
def MISC_I2C_DATA_bytes : Fld := ⟨0xf008001020, 0x100, 0x8, 0, 64, 0, .rw⟩
/-- MISC_I2C_DATA (12_host.md). -/
def MISC_I2C_DATA : Fam := ⟨0xf008001020, 0x100, 4, 0x8, 4, false, [MISC_I2C_DATA_bytes]⟩
def COLO_SERVICE_retire : Fld := ⟨0xf000004000, 0x0, 0x0, 0, 1, 0, .wo⟩
def COLO_SERVICE_state : Fld := ⟨0xf000004000, 0x0, 0x0, 1, 2, 0, .ro⟩
def COLO_SERVICE_fatal : Fld := ⟨0xf000004000, 0x0, 0x0, 3, 1, 0, .ro⟩
/-- COLO_SERVICE (13_reliability.md). -/
def COLO_SERVICE : Fam := ⟨0xf000004000, 0x0, 1, 0x0, 1, true, [COLO_SERVICE_retire, COLO_SERVICE_state, COLO_SERVICE_fatal]⟩
def COLO_SPINE_CFG_carry_s : Fld := ⟨0xf000004008, 0x0, 0x0, 0, 4, 10, .rw⟩
/-- COLO_SPINE_CFG (13_reliability.md). -/
def COLO_SPINE_CFG : Fam := ⟨0xf000004008, 0x0, 1, 0x0, 1, true, [COLO_SPINE_CFG_carry_s]⟩
def COLO_ERR_WR_index : Fld := ⟨0xf000004010, 0x0, 0x0, 0, 32, 0, .ro⟩
/-- COLO_ERR_WR (13_reliability.md). -/
def COLO_ERR_WR : Fam := ⟨0xf000004010, 0x0, 1, 0x0, 1, true, [COLO_ERR_WR_index]⟩
def COLO_ERR_RD_index : Fld := ⟨0xf000004018, 0x0, 0x0, 0, 32, 0, .rw⟩
/-- COLO_ERR_RD (13_reliability.md). -/
def COLO_ERR_RD : Fam := ⟨0xf000004018, 0x0, 1, 0x0, 1, true, [COLO_ERR_RD_index]⟩
def COLO_ERR_DROP_count : Fld := ⟨0xf000004020, 0x0, 0x0, 0, 33, 0, .sat⟩
/-- COLO_ERR_DROP (13_reliability.md). -/
def COLO_ERR_DROP : Fam := ⟨0xf000004020, 0x0, 1, 0x0, 1, true, [COLO_ERR_DROP_count]⟩
def COLO_ECC_CORR_count : Fld := ⟨0xf000004100, 0x10, 0x0, 0, 33, 0, .sat⟩
/-- COLO_ECC_CORR (13_reliability.md). -/
def COLO_ECC_CORR : Fam := ⟨0xf000004100, 0x10, 11, 0x0, 1, true, [COLO_ECC_CORR_count]⟩
def COLO_ECC_UNCORR_count : Fld := ⟨0xf000004108, 0x10, 0x0, 0, 33, 0, .sat⟩
/-- COLO_ECC_UNCORR (13_reliability.md). -/
def COLO_ECC_UNCORR : Fam := ⟨0xf000004108, 0x10, 11, 0x0, 1, true, [COLO_ECC_UNCORR_count]⟩
def COLO_ERR_LOG_word : Fld := ⟨0xf000005000, 0x20, 0x8, 0, 64, 0, .ro⟩
/-- COLO_ERR_LOG (13_reliability.md). -/
def COLO_ERR_LOG : Fam := ⟨0xf000005000, 0x20, 256, 0x8, 4, true, [COLO_ERR_LOG_word]⟩
def CORE_MM_SHADOW_CFG_shadow_period : Fld := ⟨0xf002001040, 0x10000, 0x0, 0, 8, 10, .rw⟩
def CORE_MM_SHADOW_CFG_alarm_thr : Fld := ⟨0xf002001040, 0x10000, 0x0, 8, 8, 4, .rw⟩
/-- CORE_MM_SHADOW_CFG (13_reliability.md). -/
def CORE_MM_SHADOW_CFG : Fam := ⟨0xf002001040, 0x10000, 128, 0x0, 1, false, [CORE_MM_SHADOW_CFG_shadow_period, CORE_MM_SHADOW_CFG_alarm_thr]⟩
def CORE_MM_SHADOW_count : Fld := ⟨0xf002001048, 0x10000, 0x0, 0, 33, 0, .sat⟩
/-- CORE_MM_SHADOW (13_reliability.md). -/
def CORE_MM_SHADOW : Fam := ⟨0xf002001048, 0x10000, 128, 0x0, 1, false, [CORE_MM_SHADOW_count]⟩
def CORE_MM_SHADOW_FAIL_count : Fld := ⟨0xf002001050, 0x10000, 0x0, 0, 33, 0, .sat⟩
/-- CORE_MM_SHADOW_FAIL (13_reliability.md). -/
def CORE_MM_SHADOW_FAIL : Fam := ⟨0xf002001050, 0x10000, 128, 0x0, 1, false, [CORE_MM_SHADOW_FAIL_count]⟩
def HOOP_MAINT_drain : Fld := ⟨0xf001000b00, 0x100000, 0x0, 0, 1, 0, .rw⟩
def HOOP_MAINT_load : Fld := ⟨0xf001000b00, 0x100000, 0x0, 1, 1, 0, .wo⟩
def HOOP_MAINT_drained : Fld := ⟨0xf001000b00, 0x100000, 0x0, 2, 1, 0, .ro⟩
def HOOP_MAINT_busy : Fld := ⟨0xf001000b00, 0x100000, 0x0, 3, 1, 0, .ro⟩
def HOOP_MAINT_result : Fld := ⟨0xf001000b00, 0x100000, 0x0, 4, 2, 0, .ro⟩
/-- HOOP_MAINT (13_reliability.md). -/
def HOOP_MAINT : Fam := ⟨0xf001000b00, 0x100000, 16, 0x0, 1, false, [HOOP_MAINT_drain, HOOP_MAINT_load, HOOP_MAINT_drained, HOOP_MAINT_busy, HOOP_MAINT_result]⟩
def HOOP_UCODE_addr : Fld := ⟨0xf001000b08, 0x100000, 0x0, 0, 52, 0, .rw⟩
/-- HOOP_UCODE (13_reliability.md). -/
def HOOP_UCODE : Fam := ⟨0xf001000b08, 0x100000, 16, 0x0, 1, false, [HOOP_UCODE_addr]⟩
def HOOP_UCODE_VER_version : Fld := ⟨0xf001000b10, 0x100000, 0x0, 0, 32, 0, .ro⟩
/-- HOOP_UCODE_VER (13_reliability.md). -/
def HOOP_UCODE_VER : Fam := ⟨0xf001000b10, 0x100000, 16, 0x0, 1, false, [HOOP_UCODE_VER_version]⟩
def COLO_ID_part : Fld := ⟨0xf000000000, 0x0, 0x0, 0, 16, 17952, .ro⟩
def COLO_ID_revision : Fld := ⟨0xf000000000, 0x0, 0x0, 16, 8, 1, .ro⟩
def COLO_ID_rom : Fld := ⟨0xf000000000, 0x0, 0x0, 24, 8, 1, .ro⟩
/-- COLO_ID (14_security.md). -/
def COLO_ID : Fam := ⟨0xf000000000, 0x0, 1, 0x0, 1, true, [COLO_ID_part, COLO_ID_revision, COLO_ID_rom]⟩
def COLO_SERIAL0_bytes : Fld := ⟨0xf000000008, 0x0, 0x0, 0, 64, 0, .ro⟩
/-- COLO_SERIAL0 (14_security.md). -/
def COLO_SERIAL0 : Fam := ⟨0xf000000008, 0x0, 1, 0x0, 1, true, [COLO_SERIAL0_bytes]⟩
def COLO_SERIAL1_bytes : Fld := ⟨0xf000000010, 0x0, 0x0, 0, 64, 0, .ro⟩
/-- COLO_SERIAL1 (14_security.md). -/
def COLO_SERIAL1 : Fam := ⟨0xf000000010, 0x0, 1, 0x0, 1, true, [COLO_SERIAL1_bytes]⟩
def COLO_BOOT_slot : Fld := ⟨0xf000000018, 0x0, 0x0, 0, 1, 0, .ro⟩
def COLO_BOOT_fallback : Fld := ⟨0xf000000018, 0x0, 0x0, 1, 1, 0, .ro⟩
def COLO_BOOT_mixed : Fld := ⟨0xf000000018, 0x0, 0x0, 2, 1, 0, .ro⟩
def COLO_BOOT_seq : Fld := ⟨0xf000000018, 0x0, 0x0, 3, 32, 0, .ro⟩
/-- COLO_BOOT (14_security.md). -/
def COLO_BOOT : Fam := ⟨0xf000000018, 0x0, 1, 0x0, 1, true, [COLO_BOOT_slot, COLO_BOOT_fallback, COLO_BOOT_mixed, COLO_BOOT_seq]⟩
def COLO_READY0_ready : Fld := ⟨0xf000000100, 0x0, 0x0, 0, 40, 0, .ro⟩
/-- COLO_READY0 (14_security.md). -/
def COLO_READY0 : Fam := ⟨0xf000000100, 0x0, 1, 0x0, 1, true, [COLO_READY0_ready]⟩
def COLO_READY1_links : Fld := ⟨0xf000000108, 0x0, 0x0, 0, 64, 0, .ro⟩
/-- COLO_READY1 (14_security.md). -/
def COLO_READY1 : Fam := ⟨0xf000000108, 0x0, 1, 0x0, 1, true, [COLO_READY1_links]⟩
def COLO_READY2_cores : Fld := ⟨0xf000000110, 0x0, 0x0, 0, 64, 0, .ro⟩
/-- COLO_READY2 (14_security.md). -/
def COLO_READY2 : Fam := ⟨0xf000000110, 0x0, 1, 0x0, 1, true, [COLO_READY2_cores]⟩
def COLO_READY3_cores : Fld := ⟨0xf000000118, 0x0, 0x0, 0, 64, 0, .ro⟩
/-- COLO_READY3 (14_security.md). -/
def COLO_READY3 : Fam := ⟨0xf000000118, 0x0, 1, 0x0, 1, true, [COLO_READY3_cores]⟩
def SEC_LIFECYCLE_state : Fld := ⟨0xf007000000, 0x0, 0x0, 0, 2, 0, .ro⟩
def SEC_LIFECYCLE_pending : Fld := ⟨0xf007000000, 0x0, 0x0, 2, 1, 0, .ro⟩
def SEC_LIFECYCLE_next : Fld := ⟨0xf007000000, 0x0, 0x0, 3, 2, 0, .ro⟩
def SEC_LIFECYCLE_owned : Fld := ⟨0xf007000000, 0x0, 0x0, 5, 1, 0, .ro⟩
/-- SEC_LIFECYCLE (14_security.md). -/
def SEC_LIFECYCLE : Fam := ⟨0xf007000000, 0x0, 1, 0x0, 1, true, [SEC_LIFECYCLE_state, SEC_LIFECYCLE_pending, SEC_LIFECYCLE_next, SEC_LIFECYCLE_owned]⟩
def SEC_DEBUG_unlocked : Fld := ⟨0xf007000008, 0x0, 0x0, 0, 1, 0, .ro⟩
def SEC_DEBUG_since_reset : Fld := ⟨0xf007000008, 0x0, 0x0, 1, 1, 0, .ro⟩
/-- SEC_DEBUG (14_security.md). -/
def SEC_DEBUG : Fam := ⟨0xf007000008, 0x0, 1, 0x0, 1, true, [SEC_DEBUG_unlocked, SEC_DEBUG_since_reset]⟩
def SEC_SVN_floor : Fld := ⟨0xf007000010, 0x0, 0x0, 0, 7, 0, .ro⟩
/-- SEC_SVN (14_security.md). -/
def SEC_SVN : Fam := ⟨0xf007000010, 0x0, 1, 0x0, 1, true, [SEC_SVN_floor]⟩
def SEC_ROOT_DIGEST_bytes : Fld := ⟨0xf007000100, 0x8, 0x0, 0, 64, 0, .ro⟩
/-- SEC_ROOT_DIGEST (14_security.md). -/
def SEC_ROOT_DIGEST : Fam := ⟨0xf007000100, 0x8, 8, 0x0, 1, true, [SEC_ROOT_DIGEST_bytes]⟩
def SEC_OWNER_DIGEST_bytes : Fld := ⟨0xf007000140, 0x8, 0x0, 0, 64, 0, .ro⟩
/-- SEC_OWNER_DIGEST (14_security.md). -/
def SEC_OWNER_DIGEST : Fam := ⟨0xf007000140, 0x8, 8, 0x0, 1, true, [SEC_OWNER_DIGEST_bytes]⟩
def SEC_ID_PUB_bytes : Fld := ⟨0xf007000180, 0x8, 0x0, 0, 64, 0, .ro⟩
/-- SEC_ID_PUB (14_security.md). -/
def SEC_ID_PUB : Fam := ⟨0xf007000180, 0x8, 8, 0x0, 1, false, [SEC_ID_PUB_bytes]⟩
def SEC_ATT_BUF_buf : Fld := ⟨0xf007000200, 0x0, 0x0, 0, 40, 0, .rw⟩
/-- SEC_ATT_BUF (14_security.md). -/
def SEC_ATT_BUF : Fam := ⟨0xf007000200, 0x0, 1, 0x0, 1, true, [SEC_ATT_BUF_buf]⟩
def SEC_ATT_CMD_op : Fld := ⟨0xf007000208, 0x0, 0x0, 0, 2, 0, .wo⟩
/-- SEC_ATT_CMD (14_security.md). -/
def SEC_ATT_CMD : Fam := ⟨0xf007000208, 0x0, 1, 0x0, 1, true, [SEC_ATT_CMD_op]⟩
def SEC_ATT_STAT_busy : Fld := ⟨0xf007000210, 0x0, 0x0, 0, 1, 0, .ro⟩
def SEC_ATT_STAT_result : Fld := ⟨0xf007000210, 0x0, 0x0, 1, 2, 0, .ro⟩
/-- SEC_ATT_STAT (14_security.md). -/
def SEC_ATT_STAT : Fam := ⟨0xf007000210, 0x0, 1, 0x0, 1, true, [SEC_ATT_STAT_busy, SEC_ATT_STAT_result]⟩
def SEC_DENIED_count : Fld := ⟨0xf007000300, 0x0, 0x0, 0, 33, 0, .sat⟩
/-- SEC_DENIED (14_security.md). -/
def SEC_DENIED : Fam := ⟨0xf007000300, 0x0, 1, 0x0, 1, false, [SEC_DENIED_count]⟩
def PWR_STAT_state : Fld := ⟨0xf000100000, 0x0, 0x0, 0, 3, 1, .ro⟩
def PWR_STAT_fault : Fld := ⟨0xf000100000, 0x0, 0x0, 3, 1, 0, .ro⟩
def PWR_STAT_fault_rail : Fld := ⟨0xf000100000, 0x0, 0x0, 4, 4, 0, .ro⟩
def PWR_STAT_alert : Fld := ⟨0xf000100000, 0x0, 0x0, 8, 1, 1, .ro⟩
def PWR_STAT_duty : Fld := ⟨0xf000100000, 0x0, 0x0, 9, 5, 16, .ro⟩
def PWR_STAT_avs_err : Fld := ⟨0xf000100000, 0x0, 0x0, 14, 1, 0, .w1c⟩
def PWR_STAT_cmd_result : Fld := ⟨0xf000100000, 0x0, 0x0, 15, 2, 0, .ro⟩
/-- PWR_STAT (15_power.md). -/
def PWR_STAT : Fam := ⟨0xf000100000, 0x0, 1, 0x0, 1, true, [PWR_STAT_state, PWR_STAT_fault, PWR_STAT_fault_rail, PWR_STAT_alert, PWR_STAT_duty, PWR_STAT_avs_err, PWR_STAT_cmd_result]⟩
def PWR_CMD_op : Fld := ⟨0xf000100008, 0x0, 0x0, 0, 2, 0, .wo⟩
/-- PWR_CMD (15_power.md). -/
def PWR_CMD : Fam := ⟨0xf000100008, 0x0, 1, 0x0, 1, true, [PWR_CMD_op]⟩
def PWR_ARITH_target : Fld := ⟨0xf000100010, 0x0, 0x0, 0, 4, 13, .rw⟩
def PWR_ARITH_present : Fld := ⟨0xf000100010, 0x0, 0x0, 4, 4, 13, .ro⟩
def PWR_ARITH_busy : Fld := ⟨0xf000100010, 0x0, 0x0, 8, 1, 0, .ro⟩
def PWR_ARITH_pll_auto : Fld := ⟨0xf000100010, 0x0, 0x0, 9, 1, 1, .rw⟩
/-- PWR_ARITH (15_power.md). -/
def PWR_ARITH : Fam := ⟨0xf000100010, 0x0, 1, 0x0, 1, true, [PWR_ARITH_target, PWR_ARITH_present, PWR_ARITH_busy, PWR_ARITH_pll_auto]⟩
def PWR_HOOP_CFG_idle_ms : Fld := ⟨0xf000100018, 0x0, 0x0, 0, 8, 1, .rw⟩
def PWR_HOOP_CFG_keep_on : Fld := ⟨0xf000100018, 0x0, 0x0, 8, 16, 0, .rw⟩
/-- PWR_HOOP_CFG (15_power.md). -/
def PWR_HOOP_CFG : Fam := ⟨0xf000100018, 0x0, 1, 0x0, 1, true, [PWR_HOOP_CFG_idle_ms, PWR_HOOP_CFG_keep_on]⟩
def PWR_HOOP_STAT_on : Fld := ⟨0xf000100020, 0x0, 0x0, 0, 16, 0, .ro⟩
def PWR_HOOP_STAT_queued : Fld := ⟨0xf000100020, 0x0, 0x0, 16, 16, 0, .ro⟩
/-- PWR_HOOP_STAT (15_power.md). -/
def PWR_HOOP_STAT : Fam := ⟨0xf000100020, 0x0, 1, 0x0, 1, true, [PWR_HOOP_STAT_on, PWR_HOOP_STAT_queued]⟩
def PWR_CAP_cap_w : Fld := ⟨0xf000100028, 0x0, 0x0, 0, 10, 760, .rw⟩
def PWR_CAP_peak_w : Fld := ⟨0xf000100028, 0x0, 0x0, 10, 10, 950, .rw⟩
def PWR_CAP_window_ms : Fld := ⟨0xf000100028, 0x0, 0x0, 20, 8, 10, .rw⟩
/-- PWR_CAP (15_power.md). -/
def PWR_CAP : Fam := ⟨0xf000100028, 0x0, 1, 0x0, 1, true, [PWR_CAP_cap_w, PWR_CAP_peak_w, PWR_CAP_window_ms]⟩
def PWR_THERM_warn : Fld := ⟨0xf000100030, 0x0, 0x0, 0, 8, 95, .rw⟩
def PWR_THERM_throttle : Fld := ⟨0xf000100030, 0x0, 0x0, 8, 8, 100, .rw⟩
def PWR_THERM_hbm_warn : Fld := ⟨0xf000100030, 0x0, 0x0, 16, 8, 85, .rw⟩
def PWR_THERM_hbm_throttle : Fld := ⟨0xf000100030, 0x0, 0x0, 24, 8, 95, .rw⟩
/-- PWR_THERM (15_power.md). -/
def PWR_THERM : Fam := ⟨0xf000100030, 0x0, 1, 0x0, 1, true, [PWR_THERM_warn, PWR_THERM_throttle, PWR_THERM_hbm_warn, PWR_THERM_hbm_throttle]⟩
def PWR_POWER_present_w : Fld := ⟨0xf000100038, 0x0, 0x0, 0, 16, 0, .ro⟩
def PWR_POWER_avg_w : Fld := ⟨0xf000100038, 0x0, 0x0, 16, 16, 0, .ro⟩
/-- PWR_POWER (15_power.md). -/
def PWR_POWER : Fam := ⟨0xf000100038, 0x0, 1, 0x0, 1, true, [PWR_POWER_present_w, PWR_POWER_avg_w]⟩
def PWR_TJ_max : Fld := ⟨0xf000100040, 0x0, 0x0, 0, 8, 0, .ro⟩
def PWR_TJ_sensor : Fld := ⟨0xf000100040, 0x0, 0x0, 8, 8, 0, .ro⟩
/-- PWR_TJ (15_power.md). -/
def PWR_TJ : Fam := ⟨0xf000100040, 0x0, 1, 0x0, 1, true, [PWR_TJ_max, PWR_TJ_sensor]⟩
def PWR_ALERT_MASK_mask : Fld := ⟨0xf000100048, 0x0, 0x0, 0, 4, 0, .rw⟩
/-- PWR_ALERT_MASK (15_power.md). -/
def PWR_ALERT_MASK : Fam := ⟨0xf000100048, 0x0, 1, 0x0, 1, true, [PWR_ALERT_MASK_mask]⟩
def PWR_RTC_ticks : Fld := ⟨0xf000100050, 0x0, 0x0, 0, 64, 0, .rw⟩
/-- PWR_RTC (15_power.md). -/
def PWR_RTC : Fam := ⟨0xf000100050, 0x0, 1, 0x0, 1, true, [PWR_RTC_ticks]⟩
def PWR_TEMP_temp : Fld := ⟨0xf000100100, 0x8, 0x0, 0, 8, 0, .ro⟩
def PWR_TEMP_valid : Fld := ⟨0xf000100100, 0x8, 0x0, 8, 1, 0, .ro⟩
/-- PWR_TEMP (15_power.md). -/
def PWR_TEMP : Fam := ⟨0xf000100100, 0x8, 49, 0x0, 1, true, [PWR_TEMP_temp, PWR_TEMP_valid]⟩
def PWR_RAIL_MAP_addr : Fld := ⟨0xf000100300, 0x10, 0x0, 0, 7, 0, .rw⟩
def PWR_RAIL_MAP_page : Fld := ⟨0xf000100300, 0x10, 0x0, 7, 8, 0, .rw⟩
def PWR_RAIL_MAP_enable : Fld := ⟨0xf000100300, 0x10, 0x0, 15, 1, 0, .rw⟩
/-- PWR_RAIL_MAP (15_power.md). -/
def PWR_RAIL_MAP : Fam := ⟨0xf000100300, 0x10, 10, 0x0, 1, true, [PWR_RAIL_MAP_addr, PWR_RAIL_MAP_page, PWR_RAIL_MAP_enable]⟩
def PWR_RAIL_TEL_mv : Fld := ⟨0xf000100308, 0x10, 0x0, 0, 16, 0, .ro⟩
def PWR_RAIL_TEL_current : Fld := ⟨0xf000100308, 0x10, 0x0, 16, 20, 0, .ro⟩
def PWR_RAIL_TEL_valid : Fld := ⟨0xf000100308, 0x10, 0x0, 36, 1, 0, .ro⟩
/-- PWR_RAIL_TEL (15_power.md). -/
def PWR_RAIL_TEL : Fam := ⟨0xf000100308, 0x10, 10, 0x0, 1, true, [PWR_RAIL_TEL_mv, PWR_RAIL_TEL_current, PWR_RAIL_TEL_valid]⟩
def PWR_HOOP_WAKES_count : Fld := ⟨0xf000100400, 0x0, 0x0, 0, 33, 0, .sat⟩
/-- PWR_HOOP_WAKES (15_power.md). -/
def PWR_HOOP_WAKES : Fam := ⟨0xf000100400, 0x0, 1, 0x0, 1, true, [PWR_HOOP_WAKES_count]⟩
def PWR_WAKE_QUEUED_count : Fld := ⟨0xf000100408, 0x0, 0x0, 0, 33, 0, .sat⟩
/-- PWR_WAKE_QUEUED (15_power.md). -/
def PWR_WAKE_QUEUED : Fam := ⟨0xf000100408, 0x0, 1, 0x0, 1, true, [PWR_WAKE_QUEUED_count]⟩
def PWR_CAP_MS_count : Fld := ⟨0xf000100410, 0x0, 0x0, 0, 33, 0, .sat⟩
/-- PWR_CAP_MS (15_power.md). -/
def PWR_CAP_MS : Fam := ⟨0xf000100410, 0x0, 1, 0x0, 1, true, [PWR_CAP_MS_count]⟩
def PWR_THROTTLE_MS_count : Fld := ⟨0xf000100418, 0x0, 0x0, 0, 33, 0, .sat⟩
/-- PWR_THROTTLE_MS (15_power.md). -/
def PWR_THROTTLE_MS : Fam := ⟨0xf000100418, 0x0, 1, 0x0, 1, true, [PWR_THROTTLE_MS_count]⟩
def PWR_DVFS_count : Fld := ⟨0xf000100420, 0x0, 0x0, 0, 33, 0, .sat⟩
/-- PWR_DVFS (15_power.md). -/
def PWR_DVFS : Fam := ⟨0xf000100420, 0x0, 1, 0x0, 1, true, [PWR_DVFS_count]⟩
/-- Registers of 02_folios.md. -/
def fams0 : List Fam := [FOL_CMD, FOL_ARG0, FOL_ARG1, FOL_ARG2, FOL_STATUS, FOL_RING_BASE, FOL_EVT_BASE, FOL_EVT_WR, FOL_EVT_RD, FOL_EVT_MASK, FOL_EVT_DROPPED, FOL_EVTCNT, FOL_EGR_BASE, FOL_EGR_WR, FOL_EGR_RD, FOL_EGR_STALL, HOOP_SCHED_STAT, HOOP_SECTIONS, HOOP_ABANDONED, HOOP_DROPPED, HOOP_LATE, HOOP_EMIT_DROP]
/-- Registers of 03_numbers.md. -/
def fams1 : List Fam := [CORE_NUM_SAT, CORE_NUM_NAN, CORE_QMON_CFG, CORE_QMON_SAT, CORE_QMON_LOW, CORE_QMON_OPS]
/-- Registers of 04_programming.md. -/
def fams2 : List Fam := [CORE_CTRL, CORE_STATUS, CORE_ENTRY, CORE_FAULT, CORE_FAULT_PC, CORE_FAULT_WORD, CORE_FAULT_INFO, CORE_FAULTS, CORE_WDOG]
/-- Registers of 05_matrix.md. -/
def fams3 : List Fam := [CORE_MM_CTRL, CORE_MM_ALLOC, CORE_MM_RESIDUE, CORE_MM_RETRY_OK, CORE_MM_LUT_FIX, CORE_MM_DEFER_PC, CORE_MM_BUSY, CORE_MM_STAGE_WAIT]
/-- Registers of 06_recurrence.md. -/
def fams4 : List Fam := [CORE_RC_CLAMP, CORE_RC_RESETS, CORE_RC_BUSY]
/-- Registers of 07_vector.md. -/
def fams5 : List Fam := [CORE_VX_BUSY, CORE_VX_RESCALE_ROWS, CORE_VX_PERM_RANGE]
/-- Registers of 08_attention.md. -/
def fams6 : List Fam := [CORE_AT_BUSY, CORE_AT_STALE, CORE_AT_EMPTY_Q, CORE_AT_RESCALE, CORE_AT_MIRROR_SKIP, HOOP_AT_FREE, HOOP_AT_FREE_STAT, HOOP_AT_FREE_WAIT]
/-- Registers of 09_memory.md. -/
def fams7 : List Fam := [HBM_CTRL, HBM_STAT, HBM_RECAL, HBM_SCRUB_POS, HBM_ECC_CORR, HBM_ECC_UNCORR, HBM_ODC, HBM_PARITY, HBM_RECAL_FAIL, HBM_LAST_ERR, HOOP_TC_STAT, HOOP_TC_INVAL, HOOP_TC_HIT, HOOP_TC_MISS, HOOP_EXP_CFG, HOOP_EXP_STALL, HOOP_EXP_INWAIT, HOOP_EXP_CORRUPT, HOOP_DT_LOAD, HOOP_DT_STAT, FOL_BND_CMD, FOL_BND_ARG0, FOL_BND_ARG1, FOL_BND_STATUS]
/-- Registers of 10_toile.md. -/
def fams8 : List Fam := [FLNK_CTRL, FLNK_STAT, FLNK_PEER_ID, FLNK_DELAY, FLNK_FEC_SYM, FLNK_FEC_UNCORR, FLNK_CRC_ERR, FLNK_REPLAY, FLNK_DOWN, TOILE_DEVNUM, TOILE_CFG, TOILE_RT_CONFIRM, TOILE_RT_PENDING, TOILE_QUORUM, TOILE_LEASE, TOILE_LEASE_EXP, TOILE_QREC_BASE, TOILE_CMD, TOILE_CMD_STATUS, TOILE_LINE_CFG, TOILE_SHADOW, TOILE_POOL, TOILE_TIME_CFG, TOILE_TIME_STAT, TOILE_XADDR]
/-- Registers of 10_toile.md. -/
def fams9 : List Fam := [TOILE_XBUF, TOILE_XCMD, TOILE_XSTAT, TOILE_REFUSED, TOILE_DUP, TOILE_GAP, TOILE_HOPDROP, TOILE_LINE_REFUSED, TOILE_LINE_RESEND, TOILE_PROMO_FAIL, TOILE_PROMO_UNSURE, TOILE_EXP_BASE, TOILE_EXP_ATTR, TOILE_RT]
/-- Registers of 11_audio.md. -/
def fams10 : List Fam := [SAP_CTRL, SAP_FMT, SAP_CLK, SAP_LEAD, SAP_STAT, SAP_SLIP, SAP_LOST, SAP_UNDERRUN, SAP_INVALID, SAP_CS_CRC, SAP_CS_STAT, SAP_CSA, SAP_CSB, SAP_TXCSA, SAP_TXCSB, SAP_TX_CFG, AUD_PLL_CFG, AUD_PLL_STAT, AUD_GRP_CFG, AUD_GRP_START, AUD_GRP_CTRL, AUD_GRP_STAT, AUD_GRP_BLK_FRAME, AUD_GRP_BLK_TIME, AUD_GRP_DROP]
/-- Registers of 11_audio.md. -/
def fams11 : List Fam := [AUD_GRP_CLIP, AUD_BIND_CMD, AUD_BIND_ARG, AUD_BIND_STATUS, AUD_DISCARD, AUD_CH_SRC, AUD_CH_GAIN, AUD_OUT_BASE, AUD_OUT_START, AUD_OUT_WR, AUD_OUT_RD, AUD_OUT_CFG, AUD_OUT_UNDERRUN]
/-- Registers of 12_host.md. -/
def fams12 : List Fam := [ETH_CTRL, ETH_MAC, ETH_STAT, ETH_PTP_LAT, ETH_PTP_STAT, ETH_RX_PKTS, ETH_RX_FCS, ETH_RX_DROP, ETH_TX_PKTS, ETH_FEC_CORR, ETH_FEC_UNCORR, ETH_TIME_ADJ, ETH_TIME_FREQ, INGRESS_FLOW_BASE, INGRESS_CMD, INGRESS_ARG0, INGRESS_ARG1, INGRESS_STATUS, INGRESS_PUSH0, INGRESS_PUSH1, INGRESS_NOMATCH, INGRESS_CSUM, INGRESS_DISCARD, INGRESS_REBASE, INGRESS_CLIP]
/-- Registers of 12_host.md. -/
def fams13 : List Fam := [MISC_MOD_STAT, MISC_OPT_STAT, MISC_MOD_REC, MISC_OPT_REC, MISC_UART_CFG, MISC_UART_STAT, MISC_QSPI_STAT, MISC_I2C_CFG, MISC_I2C_CMD, MISC_I2C_STAT, MISC_I2C_DATA]
/-- Registers of 13_reliability.md. -/
def fams14 : List Fam := [COLO_SERVICE, COLO_SPINE_CFG, COLO_ERR_WR, COLO_ERR_RD, COLO_ERR_DROP, COLO_ECC_CORR, COLO_ECC_UNCORR, COLO_ERR_LOG, CORE_MM_SHADOW_CFG, CORE_MM_SHADOW, CORE_MM_SHADOW_FAIL, HOOP_MAINT, HOOP_UCODE, HOOP_UCODE_VER]
/-- Registers of 14_security.md. -/
def fams15 : List Fam := [COLO_ID, COLO_SERIAL0, COLO_SERIAL1, COLO_BOOT, COLO_READY0, COLO_READY1, COLO_READY2, COLO_READY3, SEC_LIFECYCLE, SEC_DEBUG, SEC_SVN, SEC_ROOT_DIGEST, SEC_OWNER_DIGEST, SEC_ID_PUB, SEC_ATT_BUF, SEC_ATT_CMD, SEC_ATT_STAT, SEC_DENIED]
/-- Registers of 15_power.md. -/
def fams16 : List Fam := [PWR_STAT, PWR_CMD, PWR_ARITH, PWR_HOOP_CFG, PWR_HOOP_STAT, PWR_CAP, PWR_THERM, PWR_POWER, PWR_TJ, PWR_ALERT_MASK, PWR_RTC, PWR_TEMP, PWR_RAIL_MAP, PWR_RAIL_TEL, PWR_HOOP_WAKES, PWR_WAKE_QUEUED, PWR_CAP_MS, PWR_THROTTLE_MS, PWR_DVFS]
/-- Every register family. -/
def fams : List Fam := fams0 ++ (fams1 ++ (fams2 ++ (fams3 ++ (fams4 ++ (fams5 ++ (fams6 ++ (fams7 ++ (fams8 ++ (fams9 ++ (fams10 ++ (fams11 ++ (fams12 ++ (fams13 ++ (fams14 ++ (fams15 ++ (fams16))))))))))))))))

end R

/-- The instance (i, j) of the family that lies at the address, if one does. -/
def Fam.instAt (f : Fam) (a : Nat) : Option (Nat × Nat) :=
  if a < f.base then none
  else
    let o := a - f.base
    let i := if f.s1 = 0 then 0 else o / f.s1
    let r := if f.s1 = 0 then o else o % f.s1
    let j := if f.s2 = 0 then 0 else r / f.s2
    let q := if f.s2 = 0 then r else r % f.s2
    if i < f.n1 ∧ j < f.n2 ∧ q = 0 then some (i, j) else none

/-- The family and instance at a control-space address. -/
def famAtIn : List Fam → Nat → Option (Fam × Nat × Nat)
  | [], _ => none
  | f :: fs, a => match f.instAt a with
    | some (i, j) => some (f, i, j)
    | none => famAtIn fs a

/-- The register at a control-space address, if one is listed there (R7). -/
def famAt (a : Nat) : Option (Fam × Nat × Nat) := famAtIn R.fams a

/-- The address of an instance of a field's register. -/
def Fld.addr (f : Fld) (i j : Nat) : Nat := f.base + f.s1 * i + f.s2 * j

end Sys2Proof.Machine
end

