-- ==== Sys2Proof/Machine/SMap.lean ====
section
/-! DEFINITION. Sparse maps: lists of (key, value) pairs in one canonical form. Keys rise strictly and no listed
value equals the default, so equal maps are equal lists. Memory, the control registers, the cores, the hoops and every
other numbered collection of the state are held so. -/
namespace Sys2Proof.Machine.SMap

/-- The value at `k`; an unlisted key reads as the default `d`. -/
def get {α : Type} (d : α) : List (Nat × α) → Nat → α
  | [], _ => d
  | (k', v) :: m, k => bif Nat.beq k' k then v else get d m k

/-- Remove every entry of key `k`. -/
def del {α : Type} : List (Nat × α) → Nat → List (Nat × α)
  | [], _ => []
  | (k', v) :: m, k => if k' = k then del m k else (k', v) :: del m k

/-- Insert an entry before the first greater key. -/
def ins {α : Type} (k : Nat) (v : α) : List (Nat × α) → List (Nat × α)
  | [] => [(k, v)]
  | (k', v') :: m => if k < k' then (k, v) :: (k', v') :: m else (k', v') :: ins k v m

/-- Write `v` at `k`; writing the default removes the entry. -/
def put {α : Type} [DecidableEq α] (d : α) (m : List (Nat × α)) (k : Nat) (v : α) : List (Nat × α) :=
  if v = d then del m k else ins k v (del m k)

/-- Change the value at `k` by `f`. -/
def upd {α : Type} [DecidableEq α] (d : α) (m : List (Nat × α)) (k : Nat) (f : α → α) : List (Nat × α) :=
  put d m k (f (get d m k))

/-- The canonical form: strictly rising keys above `lo` and no default value. -/
def wfFrom {α : Type} [DecidableEq α] (d : α) : Nat → List (Nat × α) → Bool
  | _, [] => true
  | lo, (k, v) :: m => decide (lo ≤ k) && decide (v ≠ d) && wfFrom d (k + 1) m

/-- The canonical form. -/
def wf {α : Type} [DecidableEq α] (d : α) (m : List (Nat × α)) : Bool := wfFrom d 0 m

end Sys2Proof.Machine.SMap
end

