-- ==== Sys2Proof/Machine/State.lean ====
section
/-! DEFINITION. The state of the GM4620 as plain data, and its state after power-up reset. Control registers are held
in `ctl` as the difference from their reset values; every numbered collection is a sparse map (Machine/SMap.lean). -/
namespace Sys2Proof.Machine

/-- The reasons the model itself would stop with a fault. Every fault of the spec is architected (a core fault, an
error response, a result code, a retirement) and is a next state, so a step never answers `fault` with this. -/
inductive Fault where
  /-- Raised by nothing: safe. -/
  | unreachable
deriving DecidableEq, Repr

/-- The reasons a command has no meaning in the model. -/
inductive Refusal where
  /-- A command whose meaning is not written: raised by its arm of `exec`; safe. -/
  | notModelled (mnemonic : String)
deriving DecidableEq, Repr

/-! ### Time -/

/-- Device time and what disciplines it (R17, R261, R262, R309, R373, R375). -/
structure Clk where
  /-- device time, ns; it never wraps -/
  time : Nat := 0
  /-- correction still to be slewed in, ns -/
  slew : Int := 0
  /-- ns counted toward the next slewed ns (at most 200 ppm) -/
  slewAcc : Nat := 0
  /-- frequency trim collected, parts per 10^9 -/
  freqAcc : Int := 0
  /-- priority of the time root that the device follows -/
  rootPrio : Nat := 0xFF
  /-- phase of the RTC crystal, in 32768ths of a second times ns -/
  rtcAcc : Nat := 0
deriving DecidableEq, Repr

/-! ### Memory errors -/

/-- What a word or line of memory holds beside its data (R211, R216): nothing; an error that on-die ECC corrects (a line of
HBM); one that the check code corrects, with or without a correction on the die; one that cannot be corrected; poison (a
line of HBM). -/
inductive LineErr where
  | sound
  | onDie
  | corr (onDie : Bool)
  | uncorr
  | poison
deriving DecidableEq, Repr

/-- The HBM controller beside its registers (R217, R218). -/
structure HbmX where
  /-- lines that the scrub skipped in this pass -/
  skipped : List Nat := []
  /-- time and stack temperature of each pseudo-channel's last recalibration -/
  recals : List (Nat × (Nat × Nat)) := []
  /-- pseudo-channel whose automatic turn comes next -/
  turn : Nat := 0
  /-- lines whose next command meets a parity error (Table 9-2) -/
  parity : List Nat := []
  /-- pseudo-channel of a recalibration asked for before the interface is trained (R27) -/
  asked : Option Nat := none
  /-- lines that the command that runs has found uncorrectable: the folios whose state page holds one restart at its end (R397);
  the model's own, empty between commands -/
  lost : List Nat := []
deriving DecidableEq, Repr

/-! ### Folios (chapter 2) -/

/-- Folio states (Table 2-2). -/
inductive FolState where | free | opening | idle | ready | active | closing
deriving DecidableEq, Repr

/-- A folio directory entry (R29, Table 2-2). -/
structure DirEntry where
  st : FolState := .free
  binder : BitVec 12 := 0
  hoop : BitVec 4 := 0
  resident : Bool := false
  lined : Bool := false
  partner : BitVec 12 := 0
  egress : BitVec 4 := 0
  resetPending : Bool := false
  closePending : Bool := false
  restartPending : Bool := false
  retries : BitVec 2 := 0
  sourceBound : Bool := false
  extCopy : Bool := false
  statePage : BitVec 40 := 0
  storeSlot : BitVec 14 := 0
deriving DecidableEq, Repr

/-- A gathering between stage 4 and stage 11 of which the release is still to come (R14, R16, R63). -/
structure Flight where
  seq : BitVec 32
  /-- first new sample -/
  first : BitVec 32
  ready : Nat
  deadline : Nat
  /-- token records held, oldest first -/
  recs : List (BitVec 128) := []
  /-- flags common to its records (Table 2-11) -/
  flags : BitVec 22 := 0
  /-- stage 9 has ended -/
  committed : Bool := false
  /-- the partner has yet to acknowledge (R268) -/
  waitLine : Bool := false
  /-- the partner acknowledged the delta -/
  linedOk : Bool := false
  /-- the release has counted in FOL_EGRn_STALL -/
  stalled : Bool := false
  /-- what the scheduler found when it first built the member record, kept for a retry (R46, R50) -/
  resetWord : BitVec 64 := 0
  invalidAudio : Bool := false
  restart : Bool := false
  /-- abandoned once and waiting in READY to join again (R50) -/
  retry : Bool := false
deriving DecidableEq, Repr

/-- A block or packet shorter than 16 samples held to be merged (R32). -/
structure MergeBlk where
  time : Nat
  /-- interleaved sample bytes -/
  dat : List Byte
  count : Nat
  invalid : Bool
  resetMark : Bool
  slip : Bool
deriving DecidableEq, Repr

/-- What the home keeps of a lined folio's lining (R264 to R268). -/
structure HomeLine where
  /-- LINE.OPEN sent and unanswered since this time -/
  openAt : Option Nat := none
  /-- the next commit sends FULL -/
  needFull : Bool := true
  /-- the DELTA or FULL unacknowledged: its sequence, next_first and the message -/
  unacked : Option (BitVec 32 × BitVec 32 × Bool × BitVec 32 × List Byte) := none
  /-- when it was last sent -/
  sentAt : Nat := 0
  /-- REPARTNER: lined is to be set at the first acknowledgement -/
  setLined : Bool := false
deriving DecidableEq, Repr

/-- Hardware bookkeeping of one folio beside its directory entry. -/
structure FolX where
  /-- ready times of the complete gatherings from rd_index on (R42, R43) -/
  readyAt : List Nat := []
  /-- last use of the resident copy (R48) -/
  lastUsed : Nat := 0
  /-- changed since swap-in (R54) -/
  dirty : Bool := false
  /-- deferred MOVE (R41) -/
  moveTo : Option (BitVec 4) := none
  /-- the next block is marked gap and reset_mark (R33) -/
  gapNext : Bool := false
  /-- samples per channel the ring has received; the oldest of them may have been overwritten -/
  written : Nat := 0
  merge : Option MergeBlk := none
  flight : Option Flight := none
  line : HomeLine := {}
deriving DecidableEq, Repr

/-! ### Sections (chapter 2) -/

/-- A member of a section with its member record (Table 2-9). -/
structure Member where
  folio : Folio
  seq : BitVec 32
  /-- first new sample -/
  first : BitVec 32
  ready : Nat
  deadline : Nat
  /-- byte offset of the working copy in the state store -/
  work : Nat := 0
  /-- byte offset reserved for the committed copy of a member that was not resident -/
  slot : Option Nat := none
  firstRow : Nat := 0
  seed : Bool := false
  retried : Bool := false
  resetWord : BitVec 64 := 0
  pos0 : BitVec 64 := 0
  extWork : BitVec 52 := 0
  invalidAudio : Bool := false
  restart : Bool := false
  /-- the working copy is in the state store (R54) -/
  loaded : Bool := false
  /-- ST.RESET was issued for it (R60) -/
  resetReq : Bool := false
  /-- token records held, oldest first (R59) -/
  recs : List (BitVec 128) := []
  /-- tail slots pinned by the member's leaf writes and counts awaiting commit (R203): (address, bytes) -/
  commitWrites : List (Nat × List Byte) := []
deriving DecidableEq, Repr

/-- The life of a section: forming, closed with states to load, formed, run by its group, waiting to commit, in
stage 9. -/
inductive SecPhase where | forming | loading | formed | running | commitWait | committing
deriving DecidableEq, Repr

/-- A section of a hoop (R47, R58). -/
structure Section where
  serial : Nat
  binder : BitVec 12
  /-- first local core and size of the group -/
  core0 : Nat
  g : Nat
  members : List Member
  phase : SecPhase := .forming
  /-- state-store offset of the member table, once allocated -/
  table : Option Nat := none
  /-- local cores that have taken the section, issued ST.COMMIT, issued SY.BAR -/
  taken : List Nat := []
  committed : List Nat := []
  barred : List Nat := []
  /-- stall clocks of the expander during the section (R231) -/
  stall : Nat := 0
deriving DecidableEq, Repr

/-! ### Cores (chapter 4) -/

/-- What a running core waits for. -/
inductive CWait where | none | stNext | stCommit | syBar | combine
deriving DecidableEq, Repr

/-- A core fault (Table 4-12). -/
structure CFlt where
  code : Nat
  info : Nat := 0
  atIssue : Bool := true
  dim : Nat := 0
  operand : Nat := 0
  /-- further places of uncorrectable words that its instruction met, to be reported with the one in `info` (R330) -/
  words : List Nat := []
  /-- place of its instruction in program order, of a fault left deferred (R150) -/
  ord : Nat := 0
  /-- TOILE_DENIED that a peer's refusal brings back; the peer counts it (R241, R361) -/
  byPeer : Bool := false
deriving DecidableEq, Repr

/-- One position of an expanded tile: an integer weight, a tip (BF16), or a floating-point code (R76, R79). -/
inductive Cell where
  | int (w : Int)
  | tip (b : Nat)
  | flt (b : Nat)
deriving DecidableEq, Repr

/-- An expanded tile: 64 positions for each column, and the column's scale entries in K order (R219, R229). -/
structure TileDat where
  cells : List (List Cell) := []
  scales : List (List Nat) := []
deriving DecidableEq, Repr

/-- A tile of the tile cache (R212). -/
structure Tile where
  addr : Nat
  blk : Nat
  /-- expanded and valid; false while the expander holds it -/
  valid : Bool := false
  /-- the expander marked it corrupt -/
  corrupt : Bool := false
  /-- source in an immutable region: kept after its instruction -/
  keep : Bool := false
  pins : Nat := 0
  /-- to be invalidated when its pin is released -/
  inval : Bool := false
  lastUsed : Nat := 0
  binder : BitVec 12 := 0
  dat : TileDat := {}
  /-- what the expander's checks find in it (R80, R224) -/
  bad : Bool := false
  /-- decode-table slots that its coded blocks name (R227) -/
  slots : List Nat := []
  /-- the reservation of a tile whose fetch failed, or was not made after an earlier one failed (R140) -/
  gone : Bool := false
  /-- an error in the words that hold it (R211) -/
  ecc : LineErr := .sound
deriving DecidableEq, Repr

/-- The operands of an MM.GRP with init set, kept for an armed shadow check (R333): the output, the weights, the
activations, the weight scales and the row scales, as descriptor words with their bounds (none: an empty list of bounds),
and the walk. -/
structure Shad where
  td : BitVec 256 × List Nat
  tw : BitVec 256 × List Nat
  ta : BitVec 256 × List Nat
  ws : BitVec 256 × List Nat
  rs : BitVec 256 × List Nat
  walk : Nat
deriving DecidableEq, Repr

/-- An instruction dispatched to an engine and not complete (R104, R123): its address and word, the tiles it pins,
the leaves it pins, and the fault its completion leaves deferred, if any. -/
structure InFlight where
  pc : BitVec 52
  word : BitVec 64
  /-- tile keys pinned: object address and block -/
  tiles : List (Nat × Nat) := []
  leaves : List Nat := []
  fault : Option CFlt := none
  /-- the fault is one that R150 leaves deferred -/
  defer : Bool := false
  /-- an MM.GRP on the array with init set, whose completion an armed shadow check takes (R333) -/
  shad : Option Shad := none
  /-- its place in program order (R150) -/
  ord : Nat := 0
  /-- tiles whose reservation waits for space (R140) -/
  want : List Tile := []
  /-- the leaf being freed whose pin by this instruction the free waits for (R208) -/
  freeing : Option Nat := none
deriving DecidableEq, Repr

/-- One core: its architectural state (Table 4-1) and the state the chapters imply. -/
structure Core where
  s : List (Nat × BitVec 64) := []
  v : List (Nat × BitVec 2048) := []
  m : List (Nat × BitVec 256) := []
  t : List (Nat × BitVec 256) := []
  flags : BitVec 32 := 0
  pc : BitVec 52 := 0
  /-- accumulator memory, 256 KiB -/
  acc : List Host.Cell := []
  /-- serial of the section held -/
  sect : Option Nat := none
  /-- a section of another binder held for the core's first ST.NEXT (R239) -/
  nextSect : Option Nat := none
  wait : CWait := .none
  /-- operands of the waiting ST.NEXT (sd, td) or MM.COMBINE (group mask, destination) -/
  waitArg : Nat × Nat := (0, 0)
  /-- every core of the group has issued SY.BAR, and its fence is still to come (R118) -/
  barPass : Bool := false
  /-- address and word of the waiting instruction -/
  waitWord : BitVec 64 := 0
  /-- the tiles of the MM.COMBINE that the core waits in have been read; the cores of its own mask that had issued theirs
  by then, one bit each (R145) -/
  combSeen : Option Nat := none
  mm : List InFlight := []
  rc : List InFlight := []
  vx : List InFlight := []
  at' : List InFlight := []
  dm : List InFlight := []
  /-- execution fault left deferred, oldest first (R150) -/
  deferred : Option (BitVec 52 × BitVec 64 × CFlt) := none
  /-- stopped by a fault of its own or of its group, and the fault that must resume it (R124, R125) -/
  resuming : Bool := false
  /-- core whose software resume releases this stopped core -/
  stoppedBy : Option Nat := none
  /-- hand-over time and limit of the watchdog (R126) -/
  wdStart : Nat := 0
  wdLimit : Nat := 0
  /-- time the shadow check is next armed, and the block it checks (R333) -/
  shadowDue : Nat := 0
  shadowArmed : Bool := false
  shadowRun : Option (InFlight × Nat × Nat) := none
  /-- on-chip bytes that a running shadow check holds: place and length (R333) -/
  shadowHold : List (Nat × Nat) := []
  /-- times of the masked mismatches of the last second; time of the last recovery (R332) -/
  masked : List Nat := []
  lastRecovery : Option Nat := none
  recovering : Bool := false
  /-- the recovery that runs is the second within an hour (R332) -/
  recoverAgain : Bool := false
  /-- physical errors of the array in the core's next array instruction: row, column and group of a group sum, what is
  added to it by mistake, and what is added in its re-run (R148, R149) -/
  glitch : List (Nat × Nat × Nat × Int × Int) := []
  /-- words of the instruction cache with a parity error, by their addresses (R211) -/
  icBad : List (BitVec 52) := []
  /-- the fault that an uncorrectable word of a v register leaves in the instruction being dispatched (R190) -/
  eccSeen : Option CFlt := none
  /-- instructions issued so far that may leave a deferred fault: their places in program order (R150) -/
  issued : Nat := 0
  /-- a refusal, loss or error of a remote access, raised at the next instruction boundary (R120) -/
  remoteFault : Option (BitVec 52 × BitVec 64 × CFlt) := none
  selfTest : Bool := false
  /-- clocks of the array multiplying, of it waiting for staging, of the recurrence engine, of the vector engine and of the
  attention unit toward their counters' next unit of 1,024 -/
  mmClk : Nat := 0
  stageClk : Nat := 0
  rcClk : Nat := 0
  vxClk : Nat := 0
  atClk : Nat := 0
deriving DecidableEq, Repr

/-! ### Hoops (chapters 2 and 9) -/

/-- One hoop. -/
structure Hoop where
  /-- binders loaded here, oldest first (R239) -/
  loaded : List (BitVec 12) := []
  sections : List Section := []
  serial : Nat := 0
  /-- binder and first local core of the reservation (R47) -/
  reserve : Option (BitVec 12 × Nat × Nat) := none
  tiles : List Tile := []
  /-- decode-table slots: 128 bytes each, when a table is held (R226) -/
  dt : List (Nat × List Byte) := []
  /-- decode-table load waiting: address and slot (R227) -/
  dtLoad : Option (Nat × Nat) := none
  /-- tables of a binder's LOAD waiting for their slots' in-flight counts (R227, R238) -/
  dtQueue : List (Nat × List Byte) := []
  idleSince : Nat := 0
  /-- powered hoop's wake: requested at -/
  wakeReq : Option Nat := none
  /-- waking: start granted at -/
  waking : Option Nat := none
  /-- microcode load running (R344) -/
  ucode : Bool := false
  /-- part of the next arithmetic clock that has passed, in 160ths, while an engine or the expander works (R377) -/
  phase : Nat := 0
  /-- stall clocks and clocks waiting for input toward their counters' next unit of 1,024 (R230, R231) -/
  stallClk : Nat := 0
  inwaitClk : Nat := 0
  /-- physical errors of the hoop interconnect in the next MM.COMBINE: tile, value and the bits of it that turn over
  (R150) -/
  wire : List (Nat × Nat × BitVec 32) := []
  /-- what the tile cache's memory keeps of tiles that are no longer valid, the latest first: no instruction reads it (R364) -/
  left : List Tile := []
deriving DecidableEq, Repr

/-! ### Binders (chapter 9) -/

/-- The stream parameter record (Table 9-8). -/
structure Params where
  hop : Nat := 0
  frames : Nat := 0
  channels : Nat := 0
  lookback : Nat := 0
  fmt : Nat := 0
  external : Bool := false
  g : Nat := 0
  size : Nat := 0
  resSize : Nat := 0
  sites : Nat := 0
  rows : Nat := 0
  waitUs : Nat := 0
  budgetUs : Nat := 0
  costA : BitVec 32 := 0
  costB : BitVec 32 := 0
  fs : Nat := 0
  layout : Nat := 0
deriving DecidableEq, Repr

/-- A region of a binder (R236). -/
structure Region where
  base : Nat
  size : Nat
  read : Bool
  write : Bool
  immutable : Bool
deriving DecidableEq, Repr

/-- A registered binder (R238): what REGISTER read from its image. -/
structure Binder where
  image : Nat
  par : Params
  regions : List Region
  entry : BitVec 52
  /-- quantise-site records, 8 bytes each (Table 3-5) -/
  sites : List (BitVec 64)
  /-- initial state from byte 64 + 4Q on -/
  init : List Byte
  dtMask : Nat
  /-- decode tables of the image, by slot -/
  tables : List (Nat × List Byte)
  /-- base binder of a variant -/
  base : Option (BitVec 12)
  measurement : BitVec 512
  /-- hoops that hold it -/
  hoops : List Nat := []
  /-- successor while swapped out (R240) -/
  swap : Option (BitVec 12) := none
  /-- its stream parameter record (Table 9-8) -/
  record : List Byte := []
deriving DecidableEq, Repr

/-! ### Commands of the blocks that run over several steps -/

/-- The FOL command running (R37). -/
inductive FolCmd where
  | opening (n : Folio)
  | moving (n : Folio) (h : BitVec 4)
deriving DecidableEq, Repr

/-- The binder command running (R237): what was written to FOL_BND_CMD and its arguments. -/
structure BndRun where
  op : Nat
  b : BitVec 12
  image : Nat
  mask : Nat
  b2 : BitVec 12
  /-- hoops on which a LOAD or SWAP that runs places its binder -/
  added : List Nat := []
deriving DecidableEq, Repr

/-- The binder that a LOAD or SWAP loads. -/
def BndRun.into (r : BndRun) : BitVec 12 := if r.op = 5 then r.b2 else r.b

/-! ### Fabric (chapter 10) -/

/-- An optical engine (R366). -/
structure OptEngine where
  on : Bool := false
  /-- time at which the last of its links had enable cleared -/
  idleAt : Option Nat := none
deriving DecidableEq, Repr

/-- A peer device (R263, R273). -/
structure Peer where
  lastBeat : Nat := 0
  watched : Bool := false
  lost : Bool := false
  epoch : BitVec 32 := 0
  /-- when LEASE.PROMOTE was last sent for it, and the members that granted -/
  promoteAt : Option Nat := none
  promoteBy : List (BitVec 12) := []
deriving DecidableEq, Repr

/-- Who issued a transaction (R258 to R260). -/
inductive Requester where
  | core (c : CoreId) (pc : BitVec 52) (word : BitVec 64)
  | xcmd
  | note
  | binder
  | fol (n : Folio)
  | hoop (h : HoopId)
  | mirror (c : CoreId)
  | fetch (c : CoreId)
deriving DecidableEq, Repr

/-- The number under which a requester's remote lines are kept. -/
def Requester.key : Requester → Nat
  | .core c _ _ => c.val
  | .xcmd => 128
  | .binder => 129
  | .note => 130
  | .hoop h => 256 + h.val
  | .mirror c => 512 + c.val
  | .fetch c => 1024 + c.val
  | .fol n => 4096 + n.toNat

/-- What a transaction other than a memory request says (Table 10-7): completions, lining, leases, read leases and the watch
of peers. An answer returns the requester's tag. -/
inductive Note where
  | reply (tag : BitVec 16) (r : Reply)
  | beat (epoch : BitVec 32)
  | recall (addr : BitVec 52)
  | readLease (addr : BitVec 40) (take : Bool)
  | leaseAns (tag : BitVec 16) (granted : Bool)
  | lineOpen (n : Folio) (p : LineParams)
  | lineDelta (n : Folio) (seq next crc : BitVec 32) (dat : List Byte)
  | lineFull (n : Folio) (seq next crc : BitVec 32) (dat : List Byte)
  | lineAck (tag : BitVec 16) (n : Folio) (seq : BitVec 32) (r : LineResult)
  | lineRel (n : Folio) (seq : BitVec 32)
  | lineClose (n : Folio) (seq : BitVec 32)
  | lineAudio (n : Folio) (st : StampEntry) (ssrc ts : BitVec 32) (dat : List Byte)
  | leaseRenew (epoch : BitVec 32) (t : BitVec 64)
  | leasePromote (x : BitVec 12) (e : BitVec 32)
  | leaseJoin (epoch : BitVec 32)
  | leaseResign (e : BitVec 32)
  | leaseReply (tag : BitVec 16) (r : LeaseReply)
  | resignAck (tag : BitVec 16)
deriving DecidableEq, Repr

/-- An outstanding transaction at its source (R259). -/
structure Txn where
  tag : Nat
  dest : BitVec 12
  typ : Nat
  cls : Nat
  seq : BitVec 16
  off : Nat
  len : Nat
  sub : Nat
  opa : BitVec 64
  opb : BitVec 64
  dat : List Byte
  /-- what it says, where it is no memory request -/
  body : Option Note := none
  who : Requester
  sentAt : Nat
  resent : Bool := false
  /-- waits because its flow already has 256 unacknowledged (R259) -/
  held : Bool := false
  /-- its instruction has raised its fault already: a failure of this one raises none (R122) -/
  mute : Bool := false
deriving DecidableEq, Repr

/-- Why a remote line did not come: it is uncorrectable at its device, refused there, or lost. -/
inductive RxFail where | ecc | denied | unreach
deriving DecidableEq, Repr

/-- A remote 64-byte line that a READ brought for a requester: its Toile address, and its bytes or why they did not
come. -/
structure RxLine where
  who : Nat
  addr : Nat
  dat : Except RxFail (List Byte)
deriving DecidableEq, Repr

/-- What a peer's transaction asks of the device or tells it (R257). -/
inductive PeerOp where
  | read (off len : Nat)
  | write (off : Nat) (dat : List Byte)
  | atomic (sub off : Nat) (opa opb : BitVec 64)
  | note (m : Note)
deriving DecidableEq, Repr

/-- A transaction of a peer's flow that is not executed yet (R243, R259). -/
structure PeerReq where
  seq : BitVec 16
  tag : BitVec 16
  op : PeerOp
deriving DecidableEq, Repr

/-- How a peer's transaction is answered (R257, R259): by a transaction of a class, by the acknowledgement of its flow where
its type has no response, or by nothing. -/
inductive PeerAns where
  | say (cls : Nat) (m : Note)
  | ack
  | silent
deriving DecidableEq, Repr

/-- A flow of a peer (R259). -/
structure RxFlow where
  /-- next sequence to execute -/
  next : BitVec 16 := 0
  /-- results of the last 256, latest first -/
  kept : List (BitVec 16 × PeerAns) := []
  /-- transactions held for a missing sequence or for read leases -/
  held : List PeerReq := []
  /-- a later sequence has waited for a missing one since -/
  gapAt : Option Nat := none
  /-- sequences skipped, whose late copies are refused -/
  skipped : List (BitVec 16) := []
  /-- RECALLs were sent for the write that waits -/
  recalled : Bool := false
deriving DecidableEq, Repr

/-- The TOILE_XCMD transaction that runs (R260). -/
structure XRun where
  op : Nat
  addr : Nat
  len : Nat
  buf : Nat
  /-- its offset in the device's own memory while it waits for read leases there, and what it writes (R243) -/
  here : Option Nat := none
  dat : List Byte := []
  opa : BitVec 64 := 0
  opb : BitVec 64 := 0
deriving DecidableEq, Repr

/-- The status of a management response (R349, R362, Table 14-9); `args` where the spec names no status. -/
inductive MgmtStatus where | ok | stale | sig | state | slot | denied | args
deriving DecidableEq, Repr

/-- What a Spine transfer puts on a module bus (R325): the operation, its target, the bytes sent, how many are asked for, the
broadcast code, and the dynamic addresses that ENTDAA may assign. -/
structure BusSend where
  i3c : Bool
  op : Nat
  addr : BitVec 7
  dat : List Byte
  ask : Nat
  ccc : BitVec 8
  assign : List (BitVec 7)
deriving DecidableEq, Repr

/-- A message the device sends to the outside. -/
inductive Msg where
  /-- a transaction sent on a link -/
  | txn (l : Nat) (t : Txn)
  /-- the acknowledgement of a flow's transaction of a type that has no response (R259) -/
  | flowAck (l : Nat) (dest : BitVec 12) (cls : Nat) (seq : BitVec 16)
  | forward (l : Nat) (h : TxnHeader)
  /-- a control flit: the last flit accepted, and credits (R248) -/
  | ackFlit (l : LinkId) (seq : BitVec 12) (c : Credits)
  | nakFlit (l : LinkId) (seq : BitVec 12)
  | replayFlits (l : LinkId) (seqs : List (BitVec 12))
  /-- numbered flits sent on a link: sequence, content and CRC (R248) -/
  | flits (l : Nat) (fs : List (BitVec 12 × BitVec 480 × BitVec 32))
  | hello (l : LinkId) (seq : BitVec 16) (m : HelloMsg)
  | linkStart (l : LinkId)
  | time (l : LinkId) (seq : BitVec 16) (m : TimeMsg)
  /-- a frame that an audio port sends (R281, R282): FSYNC in each BCLK period, where the port drives it; the periods by which
  data follows it; whether data changes at rising edges; and the bits of each output line -/
  | audio (p : SapId) (sync : List Bool) (delay : Nat) (rising : Bool) (lines : List (Nat × List Bool))
  /-- the subframes A and B of a frame that an IEC port sends (R287) -/
  | iec (p : SapId) (a b : SubFrame)
  /-- n frames of zero audio with V = 1 that an IEC port sends, from a frame of the block of these channel statuses (R287) -/
  | iecRun (p : SapId) (n first : Nat) (csa csb : List Byte)
  /-- a frame sent on an Ethernet port, with its transmit stamp where it is a PTP event message (R309) -/
  | eth (e : Fin 2) (bytes : List Byte) (stamp : Option Nat)
  /-- a Spine transfer begins on a module bus (R325) -/
  | bus (g : Nat) (b : BusSend)
  /-- a character sent on the UART (R320) -/
  | uart (b : Byte)
  /-- a response of the management service: status, next challenge, result and the identity key's signature (R362) -/
  | mgmt (status : MgmtStatus) (chal : BitVec 128) (result : List Byte) (sig : List Byte)
  /-- the error response to an access that is refused or has no target (R8, R21, R30, R361) -/
  | busError (p : Port)
deriving DecidableEq, Repr

/-- A transaction in a link's transmit queue (R255, R258). -/
structure Wait where
  cls : Nat
  /-- the tag of its transaction, or 0x10000 for one that the device does not keep -/
  tag : Nat
  /-- its flits still to send -/
  left : Nat
  /-- when it was queued -/
  since : Nat
  started : Bool := false
  msg : Msg
deriving DecidableEq, Repr

/-- One Filet link beside its registers (R247 to R253, R258). -/
structure Link where
  /-- next flit sequence to send and to expect -/
  txSeq : BitVec 12 := 0
  rxSeq : BitVec 12 := 0
  /-- flits sent and unacknowledged: sequence and the tag of their transaction -/
  replay : List (BitVec 12 × Nat) := []
  /-- transactions not sent whole, in the order in which they were queued -/
  queue : List Wait := []
  /-- flits of each class that the peer has room for -/
  credits : List Nat := [128, 128, 128, 128]
  /-- flits of each class received whose room has not been handed back -/
  owed : List Nat := [0, 0, 0, 0]
  /-- the data flits still to come of the transaction received, and its class -/
  rxLeft : Nat := 0
  rxCls : Nat := 0
  /-- an acknowledgement and a negative one wait for a control flit; the last was sent at -/
  ackOwed : Bool := false
  nakOwed : Bool := false
  ctlAt : Option Nat := none
  /-- next number of the link's own HELLO and TIME transactions -/
  mgmtSeq : BitVec 16 := 0
  /-- time of the last progress or replay -/
  lastSend : Nat := 0
  /-- replays since the acknowledged sequence advanced -/
  replays : Nat := 0
  /-- a negative acknowledgement was sent for the present gap, at this time -/
  nakAt : Option Nat := none
  /-- uncorrectable codewords of the millisecond up to the latest of them: when, and how many -/
  uncorrs : List (Nat × Nat) := []
  /-- start of training or of the wait to retrain -/
  trainAt : Nat := 0
  locked : Bool := false
  started : Bool := false
  timed : Bool := false
  /-- a TIME exchange is due at -/
  timeAt : Nat := 0
  /-- version of the link's own firmware, loaded since the device's start (R345) -/
  fw : Option (BitVec 32) := none
  /-- what the peer advertises of its root: priority, root, hops -/
  root : Option (Nat × Nat × Nat) := none
  peerLife : Nat := 0
deriving DecidableEq, Repr

/-- A read lease served to a peer (R243): export entry, page, holder, expiry. -/
structure ReadLease where
  entry : Nat
  page : Nat
  holder : BitVec 12
  expiry : Nat
deriving DecidableEq, Repr

/-- A promotion that a member holds (R273): the lost device, its epoch there, who asks, and the tag. -/
structure HeldPromo where
  x : BitVec 12
  e : BitVec 32
  src : BitVec 12
  tag : BitVec 16
deriving DecidableEq, Repr

/-- The lease engine of the device, as requester and as quorum member (R271 to R277). -/
structure Lease where
  /-- grants by member: expiry -/
  grants : List (Nat × Nat) := []
  /-- members that answered JOIN, with which epoch and expiry -/
  joins : List (Nat × BitVec 32 × BitVec 64) := []
  /-- LEASE.JOIN was sent and no majority has answered -/
  joining : Bool := false
  /-- a majority of a valid quorum set has granted since device reset (R278) -/
  granted : Bool := false
  /-- a refusal named a higher epoch: fenced until REJOIN -/
  revoked : Bool := false
  renewAt : Nat := 0
  /-- as member: promotions held, and joins held: device and tag -/
  heldPromotes : List HeldPromo := []
  heldJoins : List (BitVec 12 × BitVec 16) := []
  /-- as member: answers no request before this time -/
  quietUntil : Nat := 0
  beatAt : Nat := 0
  autoJoin : Bool := true
deriving DecidableEq, Repr

/-- Retiring (R340, Table 13-5), beside COLO_SERVICE. -/
structure Retire where
  /-- when a planned retire began -/
  since : Nat := 0
  /-- the device has fenced itself and sent LEASE.RESIGN, at this time -/
  resignAt : Option Nat := none
  /-- members that acknowledged the RESIGN -/
  acks : List (BitVec 12) := []
  /-- HELLO.BEAT and renewals have stopped, at this time -/
  silentAt : Option Nat := none
deriving DecidableEq, Repr

/-! ### Ingress (chapter 12) and audio bindings (chapter 11) -/

/-- A packet held in a flow's jitter buffer (R311, R313). -/
structure HeldPkt where
  /-- sample index of its first sample -/
  idx : BitVec 32
  ssrc : BitVec 32
  ts : BitVec 32
  recv : Nat
  count : Nat
  /-- payload bytes -/
  dat : List Byte
  mark : Bool
deriving DecidableEq, Repr

/-- A flow entry (Table 12-2) as the classifier's lookup holds it, and what the classifier keeps beside it. -/
structure Flow where
  valid : Bool := false
  dport : BitVec 16 := 0
  ssrc : BitVec 32 := 0
  anySsrc : Bool := false
  eth : BitVec 2 := 0
  shadow : Bool := false
  payload : BitVec 3 := 0
  pt : BitVec 7 := 0
  folio : BitVec 20 := 0
  channels : BitVec 4 := 0
  jitter : BitVec 9 := 0
  gapMs : BitVec 16 := 0
  bound : Bool := false
  baseTs : BitVec 32 := 0
  curSsrc : BitVec 32 := 0
  anchorT : BitVec 64 := 0
  anchorI : BitVec 32 := 0
  prevSsrc : BitVec 32 := 0
  rx : BitVec 33 := 0
  late : BitVec 33 := 0
  lost : BitVec 33 := 0
  /-- a base has been taken since BIND (R312) -/
  started : Bool := false
  held : List HeldPkt := []
  /-- consecutive stray packets (R312) -/
  stray : Nat := 0
  /-- samples concealed since the last written packet (R313) -/
  conceal : Nat := 0
  /-- shadow: indices that base updates name (R316) -/
  marks : List (BitVec 32) := []
  /-- shadow: packets of an SSRC it has no base for (R316) -/
  waiting : List HeldPkt := []
deriving DecidableEq, Repr

/-- A capture binding of the serial audio ports (R301). -/
structure ABind where
  folio : Folio
  grp : Nat
  c0 : Nat
  count : Nat
  /-- a block boundary has passed since BIND -/
  live : Bool := false
  /-- UNBIND asked: ends at the next block boundary -/
  ending : Bool := false
deriving DecidableEq, Repr

/-- What a block holds for one binding (R301, R302). -/
structure APart where
  folio : Folio
  dat : List Byte := []
  invalid : Bool := false
  slip : Bool := false
  mark : Bool := false
deriving DecidableEq, Repr

/-- A complete block on its way to HBM (R292, R296). -/
structure ABlk where
  time : Nat
  parts : List APart
  gap : Bool
deriving DecidableEq, Repr

/-- An alignment group beside its registers (R291 to R296, R304). -/
structure AGrp where
  /-- start time T -/
  start : Nat := 0
  /-- next group frame -/
  frame : Nat := 0
  stopping : Bool := false
  /-- frames collected of the present block, and what they hold for each binding -/
  got : Nat := 0
  parts : List APart := []
  queue : List ABlk := []
  /-- blocks were dropped since the last one written -/
  dropped : Bool := false
  /-- output words of the last two group frames, oldest first: (port, line, slot) as one number, and the word -/
  pipe : List (List (Nat × BitVec 32)) := []
deriving DecidableEq, Repr

/-- A frame's samples, by line and slot, each left-justified in 32 bits and valid or not (R282, R285). -/
abbrev Samples := List (BitVec 32 × Bool)

/-- A microphone's decimator: the bits of its CIC stage and the outputs of that stage, latest first (R283). -/
structure Mic where
  bits : List Bool := []
  cic : List Int := []
deriving DecidableEq, Repr

/-- A serial audio port beside its registers. -/
structure Sap where
  /-- elastic buffer, oldest first (R290) -/
  fifo : List Samples := []
  /-- what the port delivered at the last group frame (R303) -/
  last : Samples := []
  /-- decimators of line l and slot k at 2 * l + k, and the free values they began with (R283, R284) -/
  mics : List Mic := []
  seed : Nat := 0
  /-- bits C of subframes A and B since the last block start, latest first, and those of the block before (R286) -/
  cs : Option (List (Bool × Bool)) := none
  csDone : Option (List (Bool × Bool)) := none
  /-- frames sent in the present channel-status block (R287) -/
  txN : Nat := 0
  /-- start of the lead or of the tail -/
  leadAt : Nat := 0
  /-- a stop waits for the next frame edge (R299) -/
  stopping : Bool := false
  /-- samples stay invalid until the next block boundary (R293) -/
  waitBlk : Bool := false
  /-- the first valid block carries reset_mark; RATE_STOP was left (R293, R294) -/
  markNext : Bool := false
  restarted : Bool := false
  /-- the present block is marked, and a slip occurred in it -/
  markBlk : Bool := false
  slipBlk : Bool := false
  /-- slips since the last SLIP event, the last one a drop, and the time of that event (R297) -/
  slips : Nat := 0
  slipDrop : Bool := false
  slipAt : Option Nat := none
  /-- UNDERRUN was raised and no frame delivered since (R295) -/
  under : Bool := false
  /-- was configured as master since device reset (R307) -/
  master : Bool := false
deriving DecidableEq, Repr

/-- A gain or route change of a channel entry (R303). -/
structure Chg where
  old : Nat
  new : Nat
  due : Nat
  /-- frames of the ramp done, once it runs -/
  ramp : Option Nat := none
deriving DecidableEq, Repr

/-- A channel entry beside its registers (R303). -/
structure Chan where
  gain : Option Chg := none
  route : Option Chg := none
  /-- writes made during a ramp -/
  gainNext : Option Nat := none
  routeNext : Option Nat := none
  /-- the previous sample of an output entry's stream -/
  prev : BitVec 32 := 0
deriving DecidableEq, Repr

/-- How an output stream plays (R305). -/
inductive OutMode where
  | silent
  | full
  | fadeIn (j : Nat)
  | fadeOut (j : Nat)
deriving DecidableEq, Repr

/-! ### Interrupts and other outputs -/

/-- Spine interrupts (R63, R67, R124, R254, R325 and others). -/
inductive Irq where
  | event
  | egress (n : Nat)
  | core (c : Nat)
  | route
  | i2c (g : Nat)
  | service (k : Nat)
deriving DecidableEq, Repr


/-! ### Trust (chapter 14) -/

/-- The one-time fuses (Table 14-1): digests and serial as their bytes read little-endian, lifecycle as the state number
and svn_floor as the count of blown bits, which their thermometer codes stand for. -/
structure Fuses where
  rootDigest : BitVec 512 := 0
  ownerDigest : BitVec 512 := 0
  secret : BitVec 256 := 0
  lifecycle : Nat := 0
  svnFloor : Nat := 0
  serial : BitVec 128 := 0
  /-- a fuse word's parity is wrong -/
  parityBad : Bool := false
deriving DecidableEq, Repr

/-- A boot flash (R319, R355): what a probe finds, and its bytes, 0xFF where unlisted. -/
structure Flash where
  answers : Bool := true
  quad : Bool := true
  mhz : Nat := 100
  sample : Nat := 0
  sizeMib : Nat := 256
  bytes : List (Nat × Byte) := []
  /-- uses after which it stops answering, a physical error (log entry 63) -/
  lasts : Option Nat := none
deriving DecidableEq, Repr

/-- Where the Colophon is: not started, stopped by a fuse error (R347), between slot choice and its firmware's ready, with
its firmware running, in recovery (R356). -/
inductive BootPhase where | off | stopped | starting | running | recovery
deriving DecidableEq, Repr

/-- An accepted image that runs: kind, index, svn and measurement (R352, R358). -/
structure ImgRec where
  kind : Nat
  index : Nat
  svn : Nat
  meas : List Byte
deriving DecidableEq, Repr

/-- The Colophon beside its registers (R343, R356, R357, R362). -/
structure Colo where
  phase : BootPhase := .off
  /-- the slot that starts is in state trying -/
  trying : Bool := false
  /-- COLO_READY0 to COLO_READY3 as they stood when the Colophon restarted (R365) -/
  shown : Option (List (BitVec 64)) := none
  /-- MDIO address strapped on the board, and its PHY's link (R318, R393) -/
  phyad : BitVec 5 := 0
  phyUp : Bool := false
  /-- the present challenge, and when it was drawn (R362) -/
  chal : BitVec 128 := 0
  chalAt : Nat := 0
  images : List ImgRec := []
  /-- ns since the firmware of the chosen slot was started (R343, R356) -/
  age : Nat := 0
  /-- MODULE_ATTACH of the optical engines is to be raised once the main domain runs (R323) -/
  attachOwed : Bool := false
  /-- characters received on the UART, oldest first; and characters and a setting that wait for a restart to end (R342) -/
  uartRx : List Byte := []
  rxWait : List Byte := []
  cfgWait : Option Nat := none
  /-- a framing error and an overrun of the UART wait for a restart to end (R342) -/
  framingWait : Bool := false
  overrunWait : Bool := false
  /-- characters to be sent on the UART, and the ns that the first of them still takes (R320) -/
  uartTx : List Byte := []
  txLeft : Nat := 0
deriving DecidableEq, Repr

/-- The Spine: not started, started after a boot, stopped by a mismatch, restarting, running Spine OS (R335, R336, R357). -/
inductive SpinePhase where | off | starting | stopped | restarting | running
deriving DecidableEq, Repr

/-- A frame handed to Spine OS: port, bytes, PTP receive stamp, flow (R309, R311). -/
structure SpineFrame where
  port : Fin 2
  bytes : List Byte
  stamp : Option Nat
  flow : Option Nat
deriving DecidableEq, Repr

/-- The Spine as the device sees it. -/
structure Spine where
  phase : SpinePhase := .off
  /-- start of the restart -/
  since : Nat := 0
  frames : List SpineFrame := []
  /-- local memory that Spine OS has mapped for user processes: base and bytes (R360) -/
  userMap : List (Nat × Nat) := []
deriving DecidableEq, Repr

/-- The test port (R363). -/
structure Jtag where
  /-- device time at which an unlock expires -/
  expiry : Option Nat := none
  bypass : Bool := false
  /-- boundary register loaded by PRELOAD, and whether EXTEST drives it -/
  preload : List Bool := []
  drive : Bool := false
  /-- what the last access shifted out, first bit first -/
  out : List Bool := []
deriving DecidableEq, Repr

/-- The SEC_ATT_CMD request that runs: buffer, and the bytes to write or the result code (R359). -/
structure AttRun where
  buf : Nat
  dat : List Byte
  result : Nat
deriving DecidableEq, Repr

/-- An Ethernet port beside its registers (R308, R366): codewords of the frame that it receives next which its FEC corrected,
and those it could not; and when its domain was switched on. -/
structure EthX where
  corr : Nat := 0
  uncorr : Nat := 0
  onAt : Nat := 0
deriving DecidableEq, Repr

/-- A module bus (R321, R325): the Spine transfer that runs, one that waits, ports whose identity is to be read. -/
structure I2cX where
  run : Option (BitVec 64) := none
  wait : Option (BitVec 64) := none
  ident : List Nat := []
deriving DecidableEq, Repr

/-! ### Power (chapter 15) -/

/-- Power and reset state beside the PWR registers. -/
structure Pwr where
  /-- the main domain runs: its rails are on and it is out of reset (R370, R371) -/
  mainOn : Bool := false
  /-- levels of AON_POR_N and RST_N -/
  aon : Bool := false
  rstHigh : Bool := true
  /-- enable lands driven high, bit r for rail r, and the rail whose power-good a power-up awaits (R371) -/
  enables : BitVec 8 := 0
  awaits : Option Nat := none
  /-- a rail fault's power-down is due at (R367) -/
  downAt : Option Nat := none
  /-- AVSBus target in mV, and the one before it until the regulator reports it reached (R368) -/
  avsMv : Nat := 0
  avsPrev : Option Nat := none
  /-- VDD_CORE current, mA -/
  coreMa : Nat := 0
  /-- the arithmetic PLL runs; the last hoop powered off at (R375) -/
  arithPll : Bool := false
  arithIdle : Option Nat := none
  /-- times of hoop starts granted within the last 20 µs (R379) -/
  grants : List Nat := []
  /-- the power-cap duty, and the duty up to which the slow loop lets the fast one raise it; the thermal duty; and the times
  of the loops' last moves (R380, R381) -/
  capDuty : Nat := 16
  slowTop : Nat := 16
  thermDuty : Nat := 16
  fastMoved : Nat := 0
  slowMoved : Nat := 0
  thermMoved : Nat := 0
  /-- readings of P within the slow loop's window: time and µW -/
  samples : List (Nat × Nat) := []
  /-- episodes of the fast and of the slow loop: begun at, last event at -/
  fastEp : Option (Nat × Nat) := none
  slowEp : Option (Nat × Nat) := none
  /-- levels at or above which each sensor reads (bit 0 warning, 1 throttle, 2 trip), and the last event of each sensor
  and level, by 4 * sensor + level -/
  thermLvl : List (Nat × Nat) := []
  thermEv : List (Nat × Nat) := []
  /-- the RTC crystal gives edges, by which the always-on oscillator is trimmed (R375, R392) -/
  edges : Bool := true
  /-- ns that the always-on domain has run (R371, R372) -/
  up : Nat := 0
  /-- a power-down runs, and the last enable fell at (R372) -/
  fellAt : Option Nat := none
deriving DecidableEq, Repr

/-! ### The state -/

/-- The machine. -/
structure State where
  /-- commands waiting, first in first out -/
  pending : List Instr := []
  clk : Clk := {}
  /-- local memory: HBM, state stores and operand buffers by 40-bit address (R20) -/
  mem : List Host.Cell := []
  /-- HBM lines by line number, and words of the on-chip memories by their place (Sram.lean), that are not sound -/
  hbmErr : List (Nat × LineErr) := []
  sramErr : List (Nat × LineErr) := []
  hbm : HbmX := {}
  /-- control registers: difference from the reset value, by address -/
  ctl : List (Nat × BitVec 64) := []
  dir : List (Nat × DirEntry) := []
  fx : List (Nat × FolX) := []
  /-- folios whose gatherings are eligible for release, in order (R63) -/
  releases : List Folio := []
  cores : List (Nat × Core) := []
  hoops : List (Nat × Hoop) := []
  binders : List (Nat × Binder) := []
  folCmd : Option FolCmd := none
  bnd : Option BndRun := none
  fuses : Fuses := {}
  /-- version of the link firmware (Table 10-6) -/
  linkFw : BitVec 32 := 0
  links : List (Nat × Link) := []
  engines : List (Nat × OptEngine) := []
  peers : List (Nat × Peer) := []
  rxFlows : List (Nat × RxFlow) := []
  txFlows : List (Nat × BitVec 16) := []
  txns : List Txn := []
  nextTag : Nat := 0
  /-- remote lines delivered and not yet consumed -/
  rxbuf : List RxLine := []
  leases : List ReadLease := []
  /-- pages under read leases that the device has written since, as peers still read them (R243) -/
  images : List (Nat × List Byte) := []
  myLeases : List (Nat × Nat) := []
  xrun : Option XRun := none
  /-- folio of the REPARTNER that runs (R268) -/
  repart : Option Folio := none
  /-- source base of each shadow, by its reserved folio number, and the indices that base updates named while no flow was bound
  to it (R266, R316) -/
  shBase : List (Nat × SrcBase × List (BitVec 32)) := []
  lease : Lease := {}
  retire : Retire := {}
  /-- outputs, oldest first -/
  sent : List Msg := []
  irqs : List Irq := []
  /-- ECC_CORR sources: time of the last event and corrections since (R330), by 256 * class + instance -/
  eccSrc : List (Nat × Option Nat × Nat) := []
  flows : List (Nat × Flow) := []
  abinds : List ABind := []
  agrps : List (Nat × AGrp) := []
  saps : List (Nat × Sap) := []
  chans : List (Nat × Chan) := []
  outs : List (Nat × OutMode) := []
  pwr : Pwr := {}
  colo : Colo := {}
  flashA : Flash := {}
  flashB : Flash := {}
  /-- the identity records in the optical engines, by engine (R323) -/
  optRecs : List (Nat × List Byte) := []
  spine : Spine := {}
  jtag : Jtag := {}
  att : Option AttRun := none
  /-- nonces of ATTEST requests that wait for it, oldest first -/
  attWait : List (List Byte) := []
  i2cs : List (Nat × I2cX) := []
  /-- ports whose attached module raised MODULE_ATTACH (R322) -/
  attached : List Nat := []
  /-- the Ethernet ports beside their registers (R308, R366) -/
  eths : List (Nat × EthX) := []
  /-- the model's own: selects the next free value -/
  free : Nat := 0
deriving DecidableEq, Repr

/-- The machine after power-up reset: every register at its reset value, nothing listed in memory. -/
def State.reset : State := {}

end Sys2Proof.Machine
end

