-- ==== Sys2Proof/Machine/Ops.lean ====
section
/-! DEFINITION. The named operations every meaning is built from: register fields and counters, local memory with its
check codes, events and the error log, folios, hoops and cores. -/
namespace Sys2Proof.Machine

/-- What a command answers. -/
abbrev Out := Host.Outcome State Fault Refusal

/-! ### Control registers -/

/-- The present value of a register field. -/
def State.fld (s : State) (f : Fld) (i : Nat := 0) (j : Nat := 0) : Nat :=
  (((SMap.get 0 s.ctl (f.addr i j)).toNat >>> f.lo) % 2 ^ f.width) ^^^ f.rst

/-- A word with bits [lo + width - 1 : lo] replaced. -/
def putBits (w : W64) (lo width v : Nat) : W64 :=
  (w &&& ~~~ (BitVec.ofNat 64 (2 ^ width - 1) <<< lo)) ||| (BitVec.ofNat 64 (v % 2 ^ width) <<< lo)

/-- The state with a register field set. -/
def State.put (s : State) (f : Fld) (v : Nat) (i : Nat := 0) (j : Nat := 0) : State :=
  { s with ctl := SMap.upd 0 s.ctl (f.addr i j) (fun w => putBits w f.lo f.width ((v % 2 ^ f.width) ^^^ f.rst)) }

/-- A one-bit field as a Boolean. -/
def State.bit (s : State) (f : Fld) (i : Nat := 0) (j : Nat := 0) : Bool := s.fld f i j == 1

/-- A counter value after n increments (R68): 32 bits that stop at the top, and the sticky overflow bit above. -/
def satAdd (v n : Nat) : Nat :=
  if v % 2 ^ 32 + n < 2 ^ 32 then v + n else 2 ^ 33 - 1

/-- Count n events in a statistics counter (R68). -/
def State.count (s : State) (f : Fld) (n : Nat := 1) (i : Nat := 0) (j : Nat := 0) : State :=
  if n = 0 then s else s.put f (satAdd (s.fld f i j) n) i j

/-- Bit k of a field set or cleared. -/
def State.setBit (s : State) (f : Fld) (k : Nat) (b : Bool) (i : Nat := 0) : State :=
  let v := s.fld f i
  s.put f (if b then v ||| 2 ^ k else v &&& ((2 ^ f.width - 1) ^^^ 2 ^ k)) i

/-- A core's readiness bit (R147, R365). -/
def State.coreReady (s : State) (c : Nat) (b : Bool) : State :=
  if c < 64 then s.setBit R.COLO_READY2_cores c b else s.setBit R.COLO_READY3_cores (c - 64) b

/-- The reset value of a register of a family. -/
def Fam.rst (f : Fam) : W64 := f.flds.foldl (fun w x => putBits w x.lo x.width x.rst) 0

/-- The present word of a register. -/
def State.word (s : State) (f : Fam) (i j : Nat) : W64 :=
  SMap.get 0 s.ctl (f.base + f.s1 * i + f.s2 * j) ^^^ f.rst

/-- What a read of one field returns: a wo field reads as zero (R5). -/
def Fld.readMask (f : Fld) : W64 :=
  if f.kind = .wo then 0 else BitVec.ofNat 64 (2 ^ f.width - 1) <<< f.lo

/-- COLO_READY0 to COLO_READY3 hold their values while the Colophon restarts (R365). -/
def State.shownWord (s : State) (a : Nat) (w : W64) : W64 :=
  match s.colo.shown with
  | some l => if 0xF000000100 ≤ a ∧ a < 0xF000000120 then l.getD ((a - 0xF000000100) / 8) 0 else w
  | none => w

/-- The value an aligned read of a control-space address returns; unlisted registers and reserved fields read as zero
(R5, R7). -/
def State.regRead (s : State) (a : Nat) : W64 :=
  match famAt a with
  | some (f, i, j) => s.shownWord a (s.word f i j) &&& f.flds.foldl (fun m x => m ||| x.readMask) 0
  | none => 0

/-- What a write does to one field by its type (R5, Table 0-4): rw sets it, w1c clears the bits written 1, sat clears
on zero, ro and wo hold nothing. -/
def Fld.written (f : Fld) (old new : Nat) : Nat :=
  match f.kind with
  | .rw => new
  | .ro => old
  | .wo => old
  | .w1c => old &&& (new ^^^ (2 ^ f.width - 1))
  | .sat => if new = 0 then 0 else old

/-- Write one field of a register. -/
def State.writeFld (s : State) (f : Fld) (v : W64) (i j : Nat) : State :=
  s.put f (f.written (s.fld f i j) (v.toNat >>> f.lo % 2 ^ f.width)) i j

/-- An aligned write of a register whose fields have no behaviour of their own (R5, R7). -/
def State.regStore (s : State) (a : Nat) (v : W64) : State :=
  match famAt a with
  | some (f, i, j) => f.flds.foldl (fun s x => s.writeFld x v i j) s
  | none => s

/-! ### Time, outputs, free values -/

/-- Device time. -/
def State.now (s : State) : Nat := s.clk.time

/-- Raise a Spine interrupt. -/
def State.irq (s : State) (q : Irq) : State := { s with irqs := s.irqs ++ [q] }

/-- Send a message. -/
def State.send (s : State) (m : Msg) : State := { s with sent := s.sent ++ [m] }

/-- A value the spec leaves open, and the state that has used it. -/
def State.freeVal (s : State) : W64 × State := (Config.freeValue s.free, { s with free := s.free + 1 })

/-- The device's main domain runs (R370). -/
def State.mainOn (s : State) : Bool := s.pwr.mainOn

/-! ### Bytes -/

/-- A number from little-endian bytes (R4). -/
def leNat : List Byte → Nat
  | [] => 0
  | b :: bs => b.toNat + 256 * leNat bs

/-- The n little-endian bytes of a number (R4). -/
def toLE : Nat → Nat → List Byte
  | 0, _ => []
  | n + 1, v => BitVec.ofNat 8 (v % 256) :: toLE n (v / 256)

/-- Bits [lo + w - 1 : lo] of a number. -/
def bits (v lo w : Nat) : Nat := v / 2 ^ lo % 2 ^ w

/-- A list cut or filled with zeros to n bytes. -/
def padTo (n : Nat) (l : List Byte) : List Byte := l.take n ++ List.replicate (n - l.length) 0

/-! ### Local memory -/

/-- Size of local HBM (R20). -/
def hbmSize : Nat := 0x0C00000000

/-- The device number meaning "this device". -/
def ownDev : Nat := 0xFFF

/-- The Toile address of a local address. -/
def localAddr (a : Nat) : Nat := ownDev * 2 ^ 40 + a % 2 ^ 40

/-- The parts of the local address space (Table 1-7). -/
inductive Area where | hbm | dir | store (h : Nat) | opbuf (c : Nat) | ctl | hole
deriving DecidableEq, Repr

/-- The part of the local address space that holds an address (R20). -/
def areaOf (a : Nat) : Area :=
  if a < hbmSize then .hbm
  else if 0xE000000000 ≤ a ∧ a < 0xE001000000 then .dir
  else if 0xE100000000 ≤ a ∧ a < 0xE104000000 then .store ((a - 0xE100000000) / 0x400000)
  else if 0xE200000000 ≤ a ∧ a < 0xE208000000 then .opbuf ((a - 0xE200000000) / 0x100000)
  else if 0xF000000000 ≤ a ∧ a < 0xF100000000 then .ctl
  else .hole

/-- Two parts of the local address space that one access may span: the same, or two neighbours of one window (R20, R22). -/
def Area.joins : Area → Area → Bool
  | .store _, .store _ => true
  | .opbuf _, .opbuf _ => true
  | x, y => x == y

/-- All n bytes from a lie in one part or window of the local address space. -/
def oneArea (a n : Nat) : Bool := (areaOf a).joins (areaOf (a + (n - 1)))

/-- The address of a byte of a hoop's state store. -/
def storeAddr (h o : Nat) : Nat := 0xE100000000 + h * 0x400000 + o

/-- The address of a byte of a core's operand buffer. -/
def opbufAddr (c o : Nat) : Nat := 0xE200000000 + c * 0x100000 + o

/-- n bytes of local memory; a byte nothing has written reads as zero (log entry 1). -/
def State.peek (s : State) (a n : Nat) : List Byte := (List.range n).map (fun k => SMap.get 0 s.mem (a + k))

/-- Put bytes into local memory. -/
def pokeBytes : List Host.Cell → Nat → List Byte → List Host.Cell
  | m, _, [] => m
  | m, a, b :: bs => pokeBytes (SMap.put 0 m a b) (a + 1) bs

/-- The state with bytes put into local memory, without a check code's effect. -/
def State.poke (s : State) (a : Nat) (bs : List Byte) : State := { s with mem := pokeBytes s.mem a bs }

/-- An n-byte little-endian number of local memory. -/
def State.peekN (s : State) (a n : Nat) : Nat := leNat (s.peek a n)

/-- The 64-byte lines that n bytes from a touch (R215). -/
def linesOf (a n : Nat) : List Nat :=
  if n = 0 then [] else (List.range ((a + n - 1) / 64 - a / 64 + 1)).map (· + a / 64)

/-- The pseudo-channel of a line (R215). -/
def pchanOf (line : Nat) : Nat := bits (line * 64) 8 5 ^^^ bits (line * 64) 13 5

/-! ### Events and the error log -/

/-- A ring described by base, log2 and enable is usable (R63, R67). -/
def ringUsable (base log2 lo hi : Nat) (en : Bool) : Bool :=
  en && decide (lo ≤ log2 ∧ log2 ≤ hi) && decide (base % 4096 = 0) && decide (base + 16 * 2 ^ log2 ≤ hbmSize)

/-- An event: code, class, instance, folio and detail (Tables 2-12, 2-13). -/
structure Ev where
  code : Nat
  cls : Nat
  inst : Nat
  folio : Nat := 0xFFFFF
  detail : Nat := 0
deriving DecidableEq, Repr

/-- The first 64 bits of an event's record (Table 2-13). -/
def Ev.word (e : Ev) : Nat :=
  e.code + e.cls % 16 * 2 ^ 8 + e.inst % 256 * 2 ^ 12 + e.folio % 2 ^ 20 * 2 ^ 20 + e.detail % 2 ^ 24 * 2 ^ 40

/-- An event counts, and unless it is masked its record goes to the event ring or is dropped (R67). Answers the HBM line
that the record was merged into. -/
def State.eventPut (s : State) (e : Ev) : State × Option Nat :=
  let s := s.count R.FOL_EVTCNT_count 1 (e.code - 1)
  if (s.fld R.FOL_EVT_MASK_mask).testBit (e.code - 1) then (s, none)
  else
    let wr := s.fld R.FOL_EVT_WR_index
    let occ := (wr + 2 ^ 32 - s.fld R.FOL_EVT_RD_index) % 2 ^ 32
    let log2 := s.fld R.FOL_EVT_BASE_log2
    if ringUsable (s.fld R.FOL_EVT_BASE_base) log2 8 20 (s.bit R.FOL_EVT_BASE_enable) ∧ occ < 2 ^ log2 then
      let a := s.fld R.FOL_EVT_BASE_base + 16 * (wr % 2 ^ log2)
      let s := s.poke a (toLE 8 e.word ++ toLE 8 s.now)
      let s := s.put R.FOL_EVT_WR_index (wr + 1)
      (if occ = 0 ∧ s.bit R.FOL_EVT_BASE_irq then s.irq .event else s, some (a / 64))
    else (s.count R.FOL_EVT_DROPPED_count, none)

/-- A record of the error log (R338, Table 13-4). -/
structure ErrRec where
  cls : Nat
  inst : Nat
  level : Nat
  kind : Nat
  mem : Nat := 0xF
  addr : Nat := 0
  detail : Nat := 0
  folio : Nat := 0xFFFFF
deriving DecidableEq, Repr

/-- The record as one number. -/
def ErrRec.bits (e : ErrRec) (time : Nat) : Nat :=
  time % 2 ^ 64 + e.cls % 16 * 2 ^ 64 + e.inst % 256 * 2 ^ 68 + e.level % 16 * 2 ^ 76 + e.kind % 256 * 2 ^ 80
    + e.mem % 16 * 2 ^ 88 + e.addr % 2 ^ 52 * 2 ^ 92 + e.detail % 2 ^ 32 * 2 ^ 144 + e.folio % 2 ^ 20 * 2 ^ 176

/-- The Colophon writes an error record, or counts a drop when the log is full (R338). -/
def State.errLog (s : State) (e : ErrRec) : State :=
  let wr := s.fld R.COLO_ERR_WR_index
  if (wr + 2 ^ 32 - s.fld R.COLO_ERR_RD_index) % 2 ^ 32 < 256 then
    let v := e.bits s.now
    let s := (List.range 4).foldl (fun s w => s.put R.COLO_ERR_LOG_word (Machine.bits v (64 * w) 64) (wr % 256) w) s
    s.put R.COLO_ERR_WR_index (wr + 1)
  else s.count R.COLO_ERR_DROP_count

/-- What is kept of a source of ECC_CORR events. -/
def State.setEccSrc (s : State) (key : Nat) (v : Option Nat × Nat) : State :=
  { s with eccSrc := SMap.put (none, 0) s.eccSrc key v }

/-- A second has passed since the last ECC_CORR event of a source, or there was none. -/
def eccDue (last : Option Nat) (now : Nat) : Bool :=
  match last with
  | none => true
  | some t => decide (t + 1000000000 ≤ now)

/-- A corrected error of memory code k at a source is counted; it raises an ECC_CORR event with the corrections since the
last one at most once a second (R330). -/
def State.corrNote (s : State) (k cls inst : Nat) (folio : Nat := 0xFFFFF) : State × Option Ev :=
  let s := s.count R.COLO_ECC_CORR_count 1 k
  let p := SMap.get (none, 0) s.eccSrc (256 * cls + inst)
  if eccDue p.1 s.now then
    (s.setEccSrc (256 * cls + inst) (some s.now, 0),
      some { code := 0x12, cls := cls, inst := inst, folio := folio, detail := k + min (p.2 + 1) 0xFFFFF * 16 })
  else (s.setEccSrc (256 * cls + inst) (p.1, p.2 + 1), none)

/-- The escalation level of an uncorrectable word by its memory code (Table 13-3). -/
def uncorrLevel (k : Nat) : Nat := if k = 7 then 4 else if k = 8 then 1 else 2

/-- An uncorrectable word of memory code k is counted and logged, and raises ECC_UNCORR (R330, R338). -/
def State.uncorrNote (s : State) (k cls inst addr : Nat) (folio : Nat := 0xFFFFF) (level : Nat := uncorrLevel k) : State × Ev :=
  let s := s.count R.COLO_ECC_UNCORR_count 1 k
  (s.errLog { cls := cls, inst := inst, level := level, kind := 0x13, mem := k, addr := addr, detail := k + 16,
              folio := folio },
    { code := 0x13, cls := cls, inst := inst, folio := folio, detail := k + 16 })

/-! ### Reading HBM -/

/-- A line reads as valid data. -/
def LineErr.valid : LineErr → Bool
  | .sound => true
  | .onDie => true
  | .corr _ => true
  | .uncorr => false
  | .poison => false

/-- Every line touched by n bytes from a reads as valid data. -/
def State.linesOk (s : State) (a n : Nat) : Bool :=
  (linesOf a n).all (fun l => (SMap.get .sound s.hbmErr l).valid)

/-- A number that the device's own hardware reads from n bytes of HBM: a free value where a line of them holds no valid data, since
the spec states no result (R216, log entry 90). -/
def State.hwN (s : State) (a n : Nat) : Nat := if s.linesOk a n then s.peekN a n else Config.badRead a n

/-! ### Ring-table entries (R31), and the folio that a line holds -/

/-- Bytes of one sample in a ring of a format (Table 2-3). -/
def fmtBytes (f : Nat) : Nat := if f = 0 then 2 else 4

/-- A ring-table entry (Table 2-3). -/
structure RingE where
  base : Nat
  log2 : Nat
  ch : Nat
  fmt : Nat
  wr : Nat
  rd : Nat
  nextSeq : Nat
  stampWr : Nat
  stampRd : Nat
deriving DecidableEq, Repr

/-- Address of a folio's ring-table entry. -/
def State.ringAddr (s : State) (n : Folio) : Nat := s.fld R.FOL_RING_BASE_base + 32 * n.toNat

/-- A folio's ring-table entry. -/
def State.ring (s : State) (n : Folio) : RingE :=
  let v := s.hwN (s.ringAddr n) 32
  { base := bits v 0 40, log2 := bits v 40 5, ch := bits v 45 4 + 1, fmt := bits v 49 2, wr := bits v 64 32,
    rd := bits v 96 32, nextSeq := bits v 128 32, stampWr := bits v 160 32, stampRd := bits v 192 32 }

/-- A folio's ring-table entry holds valid data. -/
def State.ringOk (s : State) (n : Folio) : Bool := s.linesOk (s.ringAddr n) 32

/-- Bytes of the sample ring. -/
def RingE.bytes (e : RingE) : Nat := 2 ^ e.log2 * e.ch * fmtBytes e.fmt

/-- The stamp ring follows the sample ring at the next 4 KiB boundary. -/
def RingE.stampBase (e : RingE) : Nat := e.base + (e.bytes + 4095) / 4096 * 4096

/-- Bytes of the stamp ring: 2^(ring_log2 - 4) entries of 16 bytes. -/
def RingE.stampBytes (e : RingE) : Nat := 2 ^ e.log2

/-- The directory entry's folio keeps a byte of HBM in its state page, or in the sample or stamp ring of a
ring-table entry that can be read (R31, R54, R55). -/
def State.keepsByte (s : State) (a : Nat) (p : Nat × DirEntry) : Bool :=
  let page := p.2.statePage.toNat * 4096
  let par := ((s.binders.find? (fun q => q.1 == p.2.binder.toNat)).map (·.2.par)).getD {}
  let e := s.ring (BitVec.ofNat 20 p.1)
  p.2.st != .free &&
    (((page / 2 ^ 40 == 0xFFF || page / 2 ^ 40 == s.fld R.TOILE_DEVNUM_devnum) && decide (page % 2 ^ 40 ≤ a) &&
        decide (a < page % 2 ^ 40 + (if par.external then 2 * par.size else par.size)))
      || (s.ringOk (BitVec.ofNat 20 p.1) &&
        ((decide (e.base ≤ a) && decide (a < e.base + e.bytes))
          || (decide (e.stampBase ≤ a) && decide (a < e.stampBase + e.stampBytes)))))

/-- The folio whose state or ring holds a byte of HBM, or 0xFFFFF (R330). -/
def State.hbmFolio (s : State) (a : Nat) : Nat := ((s.dir.find? (s.keepsByte a)).map (·.1)).getD 0xFFFFF

/-! ### HBM lines (R215, R216) -/

/-- The check code of a line, set. -/
def State.setLine (s : State) (line : Nat) (e : LineErr) : State := { s with hbmErr := SMap.put .sound s.hbmErr line e }

/-- A line has been found uncorrectable, for the end of the command to see to (R397). -/
def State.lose (s : State) (line : Nat) : State := { s with hbm := { s.hbm with lost := s.hbm.lost ++ [line] } }

/-- An access to a line whose command met a parity error on its way repeats it and counts (R214, Table 9-2). -/
def State.parityRetry (s : State) (line : Nat) : State :=
  if s.hbm.parity.contains line then
    ({ s with hbm := { s.hbm with parity := s.hbm.parity.erase line } } : State).count R.HBM_PARITY_count
  else s

/-- What the check of a line at a read does, and the event it raises (R216): the severity report counts what on-die ECC
corrected; what the check code corrects is written back; an uncorrectable line is poisoned and reported once. `scrub`:
found by the patrol scrub. -/
def State.lineCheck (s : State) (line : Nat) (scrub : Bool := false) : State × Option Ev :=
  let s := s.parityRetry line
  match SMap.get .sound s.hbmErr line with
  | .sound => (s, none)
  | .poison => (s, none)
  | .onDie => (s.count R.HBM_ODC_count, none)
  | .corr onDie =>
    let s := (s.setLine line .sound).count R.HBM_ECC_CORR_count
    (s.count R.HBM_ODC_count onDie.toNat).corrNote 10 3 (pchanOf line) (s.hbmFolio (line * 64))
  | .uncorr =>
    let s := ((s.setLine line .poison).lose line).count R.HBM_ECC_UNCORR_count
    let s := (s.put R.HBM_LAST_ERR_line line).put R.HBM_LAST_ERR_scrub scrub.toNat
    let (s, e) := s.uncorrNote 10 3 (pchanOf line) (localAddr (line * 64)) (s.hbmFolio (line * 64))
    (s, some e)

/-- Raise events in order; the merge of a record into the event ring reads its line, and what that check finds is raised
after them (R67, R215). `fuel` bounds them. -/
def State.raiseAll (s : State) : Nat → List Ev → State
  | 0, _ => s
  | _, [] => s
  | fuel + 1, e :: es =>
    match s.eventPut e with
    | (s, none) => s.raiseAll fuel es
    | (s, some line) =>
      let (s, x) := s.lineCheck line
      s.raiseAll fuel (es ++ x.toList)

/-- Raise an event (R66, R67). Each further one comes from a line that the one before made sound or poisoned. -/
def State.signal (s : State) (e : Ev) : State := s.raiseAll (s.hbmErr.length + 2) [e]

/-- Raise an event by its fields. -/
def State.event (s : State) (code cls inst : Nat) (folio : Nat := 0xFFFFF) (detail : Nat := 0) : State :=
  s.signal { code := code, cls := cls, inst := inst, folio := folio, detail := detail }

/-- Raise an event where there is one. -/
def State.signalled (x : State × Option Ev) : State := match x.2 with | some e => x.1.signal e | none => x.1

/-- A corrected error of memory code k at a source (R330). -/
def State.eccCorr (s : State) (k cls inst : Nat) (folio : Nat := 0xFFFFF) : State := State.signalled (s.corrNote k cls inst folio)

/-- An uncorrectable word of memory code k (R330, R338). -/
def State.eccUncorr (s : State) (k cls inst addr : Nat) (folio : Nat := 0xFFFFF) (level : Nat := uncorrLevel k) : State :=
  let (s, e) := s.uncorrNote k cls inst addr folio level
  s.signal e

/-- The check of a line at a read (R216). -/
def State.checkLine (s : State) (line : Nat) (scrub : Bool := false) : State := State.signalled (s.lineCheck line scrub)

/-- The checks that a read of n bytes of HBM from a makes. -/
def State.checkLines (s : State) (a n : Nat) : State := (linesOf a n).foldl (fun s l => s.checkLine l) s

/-- A line written back whole holds what it should. -/
def State.writtenBack (s : State) (line : Nat) : State :=
  if SMap.get .sound s.hbmErr line = .onDie then s.setLine line .sound else s

/-- A write's effect on one line's check code: a whole line is sound again, a part of one is merged after a read
(R215, R216). -/
def State.mergeLine (s : State) (a n line : Nat) : State :=
  if a ≤ line * 64 ∧ line * 64 + 64 ≤ a + n then (s.parityRetry line).setLine line .sound
  else (s.checkLine line).writtenBack line

/-- Write bytes to HBM (R215, R216). -/
def State.hbmWrite (s : State) (a : Nat) (bs : List Byte) : State :=
  ((linesOf a bs.length).foldl (fun s l => s.mergeLine a bs.length l) s).poke a bs

/-- Read bytes of HBM: the state after the checks, and the bytes where every line was valid. -/
def State.hbmRead (s : State) (a n : Nat) : State × Option (List Byte) :=
  (s.checkLines a n, if s.linesOk a n then some (s.peek a n) else none)

/-! ### Numbered parts of the state -/

/-- A core. -/
def State.core (s : State) (c : Nat) : Core := SMap.get {} s.cores c

/-- The state with a core changed. -/
def State.updCore (s : State) (c : Nat) (f : Core → Core) : State := { s with cores := SMap.upd {} s.cores c f }

/-- A hoop. -/
def State.hoop (s : State) (h : Nat) : Hoop := SMap.get {} s.hoops h

/-- The state with a hoop changed. -/
def State.updHoop (s : State) (h : Nat) (f : Hoop → Hoop) : State := { s with hoops := SMap.upd {} s.hoops h f }

/-- Tiles that the cache holds at 9 KiB each (R212). -/
def cacheTiles : Nat := 910

/-- The tile cache holds other tiles: what leaves it stays in its memory until it is overwritten, the longest there first
(R364; DESIGN CHOICE, log entry 95). -/
def Hoop.setTiles (k : Hoop) (l : List Tile) : Hoop :=
  let out := k.tiles.filter (fun t => !l.any (fun x => x.addr == t.addr && x.blk == t.blk))
  { k with tiles := l, left := (out ++ k.left).take (cacheTiles - l.length) }

/-- A folio's directory entry. -/
def State.ent (s : State) (n : Folio) : DirEntry := SMap.get {} s.dir n.toNat

/-- The state with a directory entry changed. -/
def State.updEnt (s : State) (n : Folio) (f : DirEntry → DirEntry) : State :=
  { s with dir := SMap.upd {} s.dir n.toNat f }

/-- A folio's bookkeeping. -/
def State.fol (s : State) (n : Folio) : FolX := SMap.get {} s.fx n.toNat

/-- The state with a folio's bookkeeping changed. -/
def State.updFol (s : State) (n : Folio) (f : FolX → FolX) : State := { s with fx := SMap.upd {} s.fx n.toNat f }

/-- The number of a folio state (Table 2-2). -/
def FolState.code : FolState → Nat
  | .free => 0 | .opening => 1 | .idle => 2 | .ready => 3 | .active => 4 | .closing => 5

/-- A directory entry as its 128 bits (Table 2-2). -/
def DirEntry.bits (e : DirEntry) : Nat :=
  e.st.code + e.binder.toNat * 2 ^ 3 + e.hoop.toNat * 2 ^ 15 + e.resident.toNat * 2 ^ 19 + e.lined.toNat * 2 ^ 20
    + e.partner.toNat * 2 ^ 21 + e.egress.toNat * 2 ^ 33 + e.resetPending.toNat * 2 ^ 37
    + e.closePending.toNat * 2 ^ 38 + e.restartPending.toNat * 2 ^ 39 + e.retries.toNat * 2 ^ 40
    + e.sourceBound.toNat * 2 ^ 42 + e.extCopy.toNat * 2 ^ 43 + e.statePage.toNat * 2 ^ 64
    + e.storeSlot.toNat * 2 ^ 104

/-- Bytes of the folio directory window (R29). -/
def State.dirBytes (s : State) (a n : Nat) : List Byte :=
  (List.range n).map (fun k =>
    let o := a + k - 0xE000000000
    BitVec.ofNat 8 (bits (SMap.get {} s.dir (o / 16)).bits (8 * (o % 16)) 8))

/-- A registered binder. -/
def State.binder (s : State) (b : BitVec 12) : Option Binder :=
  (s.binders.find? (fun p => p.1 == b.toNat)).map (·.2)

/-- The state with a registered binder changed. -/
def State.updBinder (s : State) (b : BitVec 12) (f : Binder → Binder) : State :=
  { s with binders := s.binders.map (fun p => if p.1 = b.toNat then (p.1, f p.2) else p) }

/-- The hoop of a core (R9). -/
def hoopOf (c : CoreId) : HoopId := ⟨c.val / 8, by omega⟩

/-- A hoop's domain is powered. -/
def State.hoopOn (s : State) (h : Nat) : Bool := (s.fld R.PWR_HOOP_STAT_on).testBit h

/-- The device is fenced (R272, R278, R340). -/
def State.fenced (s : State) : Bool := s.bit R.TOILE_LEASE_fenced

/-! ### Toile addresses (R24, R110) -/

/-- A Toile address with the device's own number replaced by 0xFFF (R110, R121). -/
def State.norm (s : State) (a : Nat) : Nat :=
  if bits a 40 12 = s.fld R.TOILE_DEVNUM_devnum then ownDev * 2 ^ 40 + a % 2 ^ 40 else a % 2 ^ 52

/-- Where a Toile address leads (R24). -/
inductive Loc where
  | here (off : Nat)
  | there (dev off : Nat)
deriving DecidableEq, Repr

/-- Resolve a Toile address. -/
def State.locate (s : State) (a : Nat) : Loc :=
  let b := s.norm a
  if bits b 40 12 = ownDev then .here (b % 2 ^ 40) else .there (bits b 40 12) (b % 2 ^ 40)

/-- Field k of a route entry. -/
def rtCand (k : Nat) : Fld :=
  match k with
  | 0 => R.TOILE_RT_cand0
  | 1 => R.TOILE_RT_cand1
  | 2 => R.TOILE_RT_cand2
  | _ => R.TOILE_RT_cand3

/-- The links of a route entry's usable candidates, by candidate index: on, and UP (R255). -/
def State.candidates (s : State) (dev : Nat) : List Nat :=
  (List.range 4).filterMap (fun k =>
    let v := s.fld (rtCand k) dev
    if v.testBit 6 ∧ s.fld R.FLNK_STAT_state (v % 64) = 3 then some (v % 64) else none)

/-- A device can be reached by transactions of a class; a pending entry carries management class only (R254, R255). -/
def State.routed (s : State) (dev : Nat) (cls : Nat := 0) : Bool :=
  !(s.candidates dev).isEmpty && (cls == 3 || !s.bit R.TOILE_RT_pending dev)

end Sys2Proof.Machine
end

