-- ==== Sys2Proof/Machine/Sram.lean ====
section
/-! DEFINITION. The on-chip memories under their SEC-DED codes: where their words lie, what a read of them corrects and
reports, and what a write makes sound (R210, R211, R330, R331). -/
namespace Sys2Proof.Machine

/-- State-store units of n bytes (R213). -/
def units (n : Nat) : Nat := (n + 255) / 256

/-- Bytes of one copy in the state store (R48): S, or S_r in external mode. -/
def Params.copy (p : Params) : Nat := if p.external then p.resSize else p.size

/-- Parameters of a binder number. -/
def State.bpar (s : State) (b : BitVec 12) : Params := ((s.binder b).map (·.par)).getD {}

/-- The folio whose copy in a hoop's state store holds a byte at a local address, or 0xFFFFF: a member's working copy, or a
resident folio's committed copy (R48, R330). -/
def State.storeFolio (s : State) (h a : Nat) : Nat :=
  let o := a % 2 ^ 40 - storeAddr h 0
  let work := ((s.hoop h).sections.flatMap (fun k => (k.members.filter (·.loaded)).map (fun m => (m.folio.toNat, m.work, (s.bpar k.binder).copy)))).find?
    (fun x => decide (x.2.1 ≤ o) && decide (o < x.2.1 + x.2.2))
  match work with
  | some x => x.1
  | none => ((s.dir.find? (fun p => p.2.resident && p.2.hoop.toNat == h && decide (p.2.storeSlot.toNat * 256 ≤ o) &&
      decide (o < p.2.storeSlot.toNat * 256 + (s.bpar p.2.binder).copy))).map (·.1)).getD 0xFFFFF

/-! ### Places of words

A word of an on-chip memory is named by the address of its first byte: in the windows of Table 1-7 for operand buffers,
state stores and the folio directory, and above all local addresses for the memories without a window. -/

/-- A byte of a core's accumulator memory. -/
def accAddr (c a : Nat) : Nat := 2 ^ 53 + c * 2 ^ 18 + a
/-- A byte of a vector register of a core. -/
def vrfAddr (c r o : Nat) : Nat := 2 ^ 54 + c * 2 ^ 13 + r * 256 + o
/-- A byte of a decode-table slot of a hoop. -/
def dtAddr (h k o : Nat) : Nat := 2 ^ 55 + h * 512 + k * 128 + o
/-- A byte of the buffers of a link: the 96 KiB replay buffer, and the receive buffers above it (R246, R248). -/
def fabAddr (l o : Nat) : Nat := 2 ^ 56 + l * 2 ^ 17 + o
/-- A byte of the Spine's SRAM, and of the Colophon's. -/
def spineAddr (o : Nat) : Nat := 2 ^ 57 + o
def coloAddr (o : Nat) : Nat := 2 ^ 58 + o

/-- Memory code, class, instance and folio of the word at a place (R330, Table 13-3). -/
def State.sramSrc (s : State) (a : Nat) : Nat × Nat × Nat × Nat :=
  if 2 ^ 57 ≤ a then (9, 8, 0, 0xFFFFF)
  else if 2 ^ 56 ≤ a then (8, 8, 0, 0xFFFFF)
  else if 2 ^ 55 ≤ a then (6, 1, (a - 2 ^ 55) / 512, 0xFFFFF)
  else if 2 ^ 54 ≤ a then (2, 2, (a - 2 ^ 54) / 2 ^ 13, 0xFFFFF)
  else if 2 ^ 53 ≤ a then (1, 2, (a - 2 ^ 53) / 2 ^ 18, 0xFFFFF)
  else match areaOf a with
    | .opbuf c => (0, 2, c, 0xFFFFF)
    | .store h => (5, 1, h, s.storeFolio h a)
    | _ => (7, 8, 0, 0xFFFFF)

/-- The level of an uncorrectable word at a place (Table 13-3). -/
def sramLevel (k a : Nat) : Nat := if 2 ^ 58 ≤ a then 4 else if 2 ^ 57 ≤ a then 3 else uncorrLevel k

/-! ### Reads and writes -/

/-- Words that n bytes from a touch and that are not sound. -/
def State.sramWords (s : State) (a n : Nat) : List Nat :=
  (s.sramErr.filter (fun p => decide (a / 8 * 8 ≤ p.1) && decide (p.1 < a + n))).map (·.1)

/-- Uncorrectable words among n bytes from a. -/
def State.sramBad (s : State) (a n : Nat) : List Nat :=
  (s.sramWords a n).filter (fun k => SMap.get .sound s.sramErr k == .uncorr)

/-- The state with what a word of SRAM holds beside its data set. -/
def State.setSram (s : State) (a : Nat) (e : LineErr) : State := { s with sramErr := SMap.put .sound s.sramErr a e }

/-- A word read: a single-bit error is corrected and written back, a double-bit error is reported (R211, R330). -/
def State.sramNote (s : State) (a : Nat) : State :=
  let (k, cls, inst, folio) := s.sramSrc a
  match SMap.get .sound s.sramErr a with
  | .corr _ => (s.setSram a .sound).eccCorr k cls inst folio
  | .uncorr => s.eccUncorr k cls inst (if a < 2 ^ 40 then localAddr a else a) folio (sramLevel k a)
  | _ => s

/-- The checks that a read of n bytes of SRAM from a makes. -/
def State.sramCheck (s : State) (a n : Nat) : State := (s.sramWords a n).foldl (fun s k => s.sramNote k) s

/-- The words that n bytes written from a cover whole are sound; one written in part stays as it is (DESIGN CHOICE, log entry
86). -/
def State.sramClear (s : State) (a n : Nat) : State :=
  { s with sramErr := s.sramErr.filter (fun p => !(decide (a ≤ p.1) && decide (p.1 + 8 ≤ a + n))) }

/-- The words of a range of places, all sound. -/
def State.sramDrop (s : State) (a n : Nat) : State :=
  { s with sramErr := s.sramErr.filter (fun p => decide (p.1 < a) || decide (a + n ≤ p.1)) }

/-! ### Local memory as one -/

/-- The address of a part of the local address space that SRAM words stand in. -/
def Area.sram : Area → Bool
  | .dir => true
  | .store _ => true
  | .opbuf _ => true
  | _ => false

/-- Uncorrectable lines and words among n bytes of local memory from a. -/
def State.badWords (s : State) (a n : Nat) : List Nat :=
  match areaOf a with
  | .hbm => ((linesOf a n).filter (fun l => !(SMap.get .sound s.hbmErr l).valid)).map (· * 64)
  | x => if x.sram then s.sramBad a n else []

/-- The checks that a read of n bytes of local memory from a makes. -/
def State.checkLocal (s : State) (a n : Nat) : State :=
  match areaOf a with
  | .hbm => s.checkLines a n
  | x => if x.sram then s.sramCheck a n else s

end Sys2Proof.Machine
end

