-- ==== Sys2Proof/Machine/Txn.lean ====
section
/-! DEFINITION. Sending on the fabric (R248, R255, R257 to R259), and reading and writing Toile memory. -/
namespace Sys2Proof.Machine

/-- The flits of a transaction with n bytes of data (R248). -/
def flitsFor (n : Nat) : Nat := 1 + (n - 28 + 59) / 60

/-- Data bytes of a transaction from the type, length and sub of its header (Tables 10-5, 10-7, 10-8): a WRITE, a completion
with read data, which sub 1 marks (DESIGN CHOICE, log entry 78), and the LINE subtypes DELTA, FULL and AUDIO. -/
def headerData (typ len sub : Nat) : Nat :=
  if typ = 2 ∨ (typ = 4 ∧ sub = 1) ∨ (typ = 5 ∧ (sub = 2 ∨ sub = 3 ∨ sub = 7)) then 64 * (len + 1) else 0

/-- A link. -/
def State.link (s : State) (l : Nat) : Link := SMap.get {} s.links l

/-- The state with a link changed. -/
def State.updLink (s : State) (l : Nat) (f : Link → Link) : State := { s with links := SMap.upd {} s.links l f }

/-- A millisecond and a microsecond of device time. -/
def ms : Nat := 1000000
def us : Nat := 1000

/-- The device's number. -/
def State.devnum (s : State) : Nat := s.fld R.TOILE_DEVNUM_devnum

/-- Data bytes of an answer. -/
def replySize : Reply → Nat
  | .done dat _ => dat.length
  | _ => 0

/-- Data bytes that a transaction carries beside its header. -/
def Note.size : Note → Nat
  | .reply _ r => replySize r
  | .lineDelta _ _ _ _ dat => dat.length
  | .lineFull _ _ _ _ dat => dat.length
  | .lineAudio _ _ _ _ dat => dat.length
  | _ => 0

/-- The type of a transaction that is no memory request (Table 10-7). -/
def Note.typ : Note → Nat
  | .reply _ _ => 4
  | .beat _ => 7
  | .recall _ => 6
  | .readLease _ _ => 6
  | .leaseAns _ _ => 6
  | .lineOpen _ _ => 5
  | .lineDelta _ _ _ _ _ => 5
  | .lineFull _ _ _ _ _ => 5
  | .lineAck _ _ _ _ => 5
  | .lineRel _ _ => 5
  | .lineClose _ _ => 5
  | .lineAudio _ _ _ _ _ => 5
  | .leaseRenew _ _ => 6
  | .leasePromote _ _ => 6
  | .leaseJoin _ => 6
  | .leaseResign _ => 6
  | .leaseReply _ _ => 6
  | .resignAck _ => 6

/-- The subtype of a LINE transaction (Table 10-8), and 1 for a completion with read data (log entry 78); zero for the others,
whose subtypes have no number in the spec. -/
def Note.sub : Note → Nat
  | .reply _ r => if replySize r = 0 then 0 else 1
  | .lineOpen _ _ => 1
  | .lineDelta _ _ _ _ _ => 2
  | .lineFull _ _ _ _ _ => 3
  | .lineAck _ _ _ _ => 4
  | .lineRel _ _ => 5
  | .lineClose _ _ => 6
  | .lineAudio _ _ _ _ _ => 7
  | _ => 0

/-- The flits of a transaction (R248). -/
def Txn.flits (t : Txn) : Nat := flitsFor (match t.body with | some m => m.size | none => t.dat.length)

/-! ### Flits (R248, Table 10-5) -/

/-- The bytes of a flit's content. -/
def flitBytes (content : BitVec 480) : List Byte := toLE 60 content.toNat

/-- The CRC-32C of a flit: over its content and its sequence number, which the receiver supplies (R248); the number is taken
as two little-endian bytes (DESIGN CHOICE, log entry 77). -/
def flitCrc (content : BitVec 480) (seq : BitVec 12) : BitVec 32 := crc32c (flitBytes content ++ toLE 2 seq.toNat)

/-- Bits [255:0] of a header flit (Table 10-5). -/
def headerNum (h : TxnHeader) : Nat :=
  1 + h.typ.toNat * 2 ^ 4 + h.cls.toNat * 2 ^ 8 + h.dest.toNat * 2 ^ 10 + h.src.toNat * 2 ^ 22 + h.seq.toNat * 2 ^ 34
    + h.hops.toNat * 2 ^ 50 + h.len.toNat * 2 ^ 53 + h.offset.toNat * 2 ^ 64 + h.sub.toNat * 2 ^ 104 + h.tag.toNat * 2 ^ 112
    + h.opa.toNat * 2 ^ 128 + h.opb.toNat * 2 ^ 192

/-- Flit q of a transaction: the header with the first 28 bytes of its data, then 60 bytes each (R248). -/
def dataFlit (h : TxnHeader) (q : Nat) : BitVec 480 :=
  if q = 0 then BitVec.ofNat 480 (headerNum h + leNat (h.dat.take 28) * 2 ^ 256)
  else BitVec.ofNat 480 (leNat ((h.dat.drop (28 + 60 * (q - 1))).take 60))

/-- The data that a transaction carries in its data flits. -/
def Txn.carried (t : Txn) : List Byte :=
  match t.body with
  | some (.reply _ (.done dat _)) => dat
  | some _ => []
  | none => t.dat

/-- A transaction of device src as its header says it. -/
def Txn.header (t : Txn) (src : Nat) : TxnHeader :=
  { typ := BitVec.ofNat 4 t.typ, cls := BitVec.ofNat 2 t.cls, dest := t.dest, src := BitVec.ofNat 12 src, seq := t.seq, hops := 0,
    len := BitVec.ofNat 6 ((max t.len 1 + 63) / 64 - 1), offset := BitVec.ofNat 40 t.off, sub := BitVec.ofNat 8 t.sub,
    tag := BitVec.ofNat 16 t.tag, opa := t.opa, opb := t.opb, dat := t.carried }

/-- Flit q of a message that device src sends since a time. The fields that LINE, LEASE, HELLO and TIME messages, refusals and
flow acknowledgements carry have no layout in the spec: their bits are free (log entry 78). -/
def Msg.flit (m : Msg) (src since q : Nat) : BitVec 480 :=
  match m with
  | .txn _ t => match t.body with
    | none => dataFlit (t.header src) q
    | some (.reply _ (.done _ _)) => dataFlit (t.header src) q
    | some _ =>
      let free := Config.flitBits t.tag since q
      if q = 0 then BitVec.ofNat 480 (headerNum (t.header src) + free.toNat / 2 ^ 256 * 2 ^ 256) else free
  | .forward _ h => dataFlit h q
  | _ => Config.flitBits 0x10000 since q

/-! ### The transmit queues of a link (R246, R248, R255, R258) -/

/-- Flits of a class that wait on a link. -/
def Link.waiting (k : Link) (cls : Nat) : Nat := ((k.queue.filter (fun w => w.cls == cls)).map (fun w => w.left)).sum

/-- The candidate whose queue for a class holds the fewest flits, the lowest candidate index on a tie (R255). -/
def State.pickLink (s : State) (dev cls : Nat) : Option Nat :=
  (s.candidates dev).foldl (fun best l => match best with
    | none => some l
    | some b => if (s.link l).waiting cls < (s.link b).waiting cls then some l else some b) none

/-- The first waiting transaction of each class that its credits let start, management first (R258). The receive buffering
of 32 KiB (R246) is taken as 128 flits for each class, and a transaction starts with credit for all its flits or for 128
(DESIGN CHOICE, log entry 78). -/
def Link.heads (k : Link) : List Wait :=
  ([3, 2, 1, 0].filterMap (fun c => k.queue.find? (fun w => w.cls == c))).filter
    (fun w => decide (min w.left 128 ≤ k.credits.getD w.cls 0))

/-- The transaction that a link sends flits of next: the one whose flits it has begun to send, then a class that has waited
4 µs, then the first in priority (R248, R258). -/
def Link.next (k : Link) (now : Nat) : Option Wait :=
  match k.queue.find? (fun w => w.started) with
  | some w => some w
  | none => match k.queue.find? (fun w => k.heads.contains w && decide (w.since + 4 * us ≤ now)) with
    | some w => some w
    | none => k.heads.head?

/-- Flits of a transaction that a link can send now: the replay buffer holds 1,536, and its class needs credit (R246,
R258). -/
def Link.room (k : Link) (w : Wait) : Nat := min w.left (min (1536 - k.replay.length) (k.credits.getD w.cls 0))

/-- The flits of a message. -/
def Msg.flitCount (m : Msg) : Nat :=
  match m with
  | .txn _ t => t.flits
  | .forward _ h => flitsFor (headerData h.typ.toNat h.len.toNat h.sub.toNat)
  | _ => 1

/-- The next n flits of a transaction as a link sends them: sequence, content and CRC (R248). -/
def Link.flitsOf (k : Link) (src n : Nat) (w : Wait) : List (BitVec 12 × BitVec 480 × BitVec 32) :=
  (List.range n).map (fun q =>
    let seq := k.txSeq + BitVec.ofNat 12 q
    let c := w.msg.flit src w.since (w.msg.flitCount - w.left + q)
    (seq, c, flitCrc c seq))

/-- n flits of a transaction go out, numbered and kept for replay (R248, R249). -/
def Link.emit (k : Link) (now n : Nat) (w : Wait) : Link :=
  { k with
    replay := k.replay ++ (List.range n).map (fun q => (k.txSeq + BitVec.ofNat 12 q, w.tag)),
    txSeq := k.txSeq + BitVec.ofNat 12 n,
    lastSend := if k.replay.isEmpty then now else k.lastSend,
    credits := k.credits.set w.cls (k.credits.getD w.cls 0 - n),
    queue := if n = w.left then k.queue.erase w else { w with left := w.left - n, started := true } :: k.queue.erase w }

/-- A link sends what it can; `fuel` bounds the transactions. -/
def State.drain (s : State) (l : Nat) : Nat → State
  | 0 => s
  | fuel + 1 => match (s.link l).next s.now with
    | none => s
    | some w =>
      let n := (s.link l).room w
      if n = 0 then s
      else
        let t := (s.updLink l (fun k => k.emit s.now n w)).send (.flits l ((s.link l).flitsOf s.devnum n w))
        if n = w.left then (t.send w.msg).drain l fuel else t

/-- A link sends what it can. -/
def State.drainLink (s : State) (l : Nat) : State := s.drain l ((s.link l).queue.length + 1)

/-- A transaction of n flits enters a link's transmit queue. -/
def State.enqueue (s : State) (l cls tag n : Nat) (m : Msg) : State :=
  (s.updLink l (fun k => { k with
    queue := k.queue ++ [{ cls := cls, tag := tag, left := n, since := s.now, msg := m }] })).drainLink l

/-- The tag of a transaction that the device does not keep: it is sent once, and its source or the next one recovers. -/
def noTag : Nat := 0x10000

/-! ### Transactions (R257 to R259) -/

/-- Transactions of a flow that are sent and unanswered. -/
def State.unacked (s : State) (dev cls : Nat) : Nat :=
  (s.txns.filter (fun t => t.dest.toNat = dev ∧ t.cls = cls ∧ !t.held)).length

/-- Put a transaction's flits on a link; one without a usable candidate for its class, which a pending entry has for management
alone, waits for its resend or its timeout (R254, R255, R259). -/
def State.emitTxn (s : State) (t : Txn) : State :=
  if !s.routed t.dest.toNat t.cls then s
  else match s.pickLink t.dest.toNat t.cls with
    | some l => s.enqueue l t.cls t.tag t.flits (.txn l t)
    | none => s

/-- Start a transaction (R257 to R259): it takes the next sequence of its flow and a tag, and is sent unless the flow
already has 256 unacknowledged. -/
def State.startTxn (s : State) (who : Requester) (dev typ cls off len : Nat) (sub : Nat := 0) (opa opb : W64 := 0)
    (dat : List Byte := []) (body : Option Note := none) : State :=
  let key := dev * 4 + cls
  let seq := SMap.get 0 s.txFlows key
  let t : Txn := { tag := s.nextTag, dest := BitVec.ofNat 12 dev, typ := typ, cls := cls, seq := seq, off := off,
                   len := len, sub := sub, opa := opa, opb := opb, dat := dat, body := body, who := who, sentAt := s.now,
                   held := decide (256 ≤ s.unacked dev cls) }
  let s := { s with txFlows := SMap.put 0 s.txFlows key (seq + 1), nextTag := (s.nextTag + 1) % 2 ^ 16,
                    txns := s.txns ++ [t] }
  if t.held then s else s.emitTxn t

/-- Send a transaction that is no memory request to a device; without a usable candidate nothing is sent (R255). -/
def State.post (s : State) (dev cls : Nat) (m : Note) : State :=
  if s.routed dev cls then s.startTxn .note dev m.typ cls 0 m.size (sub := m.sub) (body := some m) else s

/-- Acknowledge a transaction of a flow whose type has no response (R259): one management flit, itself in no flow (DESIGN
CHOICE, log entry 77). -/
def State.flowAck (s : State) (dev cls : Nat) (seq : BitVec 16) : State :=
  if s.routed dev 3 then
    match s.pickLink dev 3 with
    | some l => s.enqueue l 3 noTag 1 (.flowAck l (BitVec.ofNat 12 dev) cls seq)
    | none => s
  else s

/-! ### Read leases that peers hold (R243) -/

/-- Read leases that hold back a write to n bytes at an offset. -/
def State.leasesOn (s : State) (off n : Nat) : List ReadLease :=
  s.leases.filter (fun l => decide (s.now < l.expiry) && decide (l.page * 4096 < off + n) && decide (off < l.page * 4096 + 4096))

/-- RECALL to each holder of a lease. -/
def State.recallAll (s : State) (ls : List ReadLease) : State :=
  ls.foldl (fun (s : State) l => s.post l.holder.toNat 3 (.recall (BitVec.ofNat 52 (s.devnum * 2 ^ 40 + l.page * 4096)))) s

/-- The pages under read leases that a write of the device meets are kept as they stand, and their holders recalled: peers
go on reading them so until the leases end (DESIGN CHOICE, log entry 79). -/
def State.keepImages (s : State) (off n : Nat) : State :=
  let ls := (s.leasesOn off n).filter (fun l => !s.images.any (fun p => p.1 == l.page))
  let ps := (ls.map (fun l => l.page)).eraseDups
  ({ s with images := s.images ++ ps.map (fun p => (p, s.peek (p * 4096) 4096)) } : State).recallAll ls

/-- A write of the device's own hardware to HBM (R215, R243). -/
def State.hwWrite (s : State) (a : Nat) (bs : List Byte) : State := (s.keepImages a bs.length).hbmWrite a bs

/-- What a peer reads of n bytes at an offset of HBM that hold l: an image where the page has one (R243). -/
def State.peerView (s : State) (off : Nat) (l : List Byte) : List Byte :=
  match s.images.find? (fun p => p.1 == off / 4096 && !(s.leasesOn off l.length).isEmpty) with
  | some p => (p.2.drop (off % 4096)).take l.length
  | none => l

/-- A READ of a 64-byte line for a requester, unless one of the same line is already outstanding for it. -/
def State.askLine (s : State) (who : Requester) (a : Nat) : State :=
  let dev := bits a 40 12
  let off := a % 2 ^ 40
  if s.txns.any (fun t => t.who = who ∧ t.typ = 1 ∧ t.dest.toNat = dev ∧ t.off = off) then s
  else s.startTxn who dev 1 0 off 64

/-- What reading Toile memory gives: the bytes, no route, refused, uncorrectable, or lines still to come from a
peer. -/
inductive RdRes where
  | bytes (l : List Byte)
  | unreach
  | denied
  | ecc
  | need (lines : List Nat)
deriving DecidableEq, Repr

/-- Read bytes of local memory as a requester of the device reads it: HBM and SRAM under their codes, and the folio directory
window. A hole, control space, an operand buffer of a hoop without power, and a range that no one window holds give an error
response (R8, R21, R22; log entry 9). -/
def State.readLocal (s : State) (a n : Nat) : RdRes :=
  if !oneArea a n then .denied
  else match areaOf a with
  | .hbm => if s.linesOk a n then .bytes (s.peek a n) else .ecc
  | .dir => if s.sramBad a n = [] then .bytes (s.dirBytes a n) else .ecc
  | .store _ => if s.sramBad a n = [] then .bytes (s.peek a n) else .ecc
  | .opbuf c => if !s.hoopOn (c / 8) || !s.hoopOn ((a + (n - 1) - opbufAddr 0 0) / 0x800000) then .denied else if s.sramBad a n = [] then .bytes (s.peek a n) else .ecc
  | _ => .denied

/-- The line at an address that a requester holds. -/
def State.rxLine (s : State) (who a : Nat) : Option RxLine := s.rxbuf.find? (fun p => p.who == who && p.addr == a)

/-- What reading a failed line gives. -/
def RxFail.res : RxFail → RdRes
  | .ecc => .ecc
  | .denied => .denied
  | .unreach => .unreach

/-- Byte a of a delivered line; none where the line failed. -/
def RxLine.byte (l : RxLine) (a : Nat) : Option Byte := match l.dat with | .ok d => some (d.getD (a % 64) 0) | .error _ => none

/-- Byte a of the remote lines that a requester holds; none where its line is absent or failed. -/
def State.rxByte (s : State) (who a : Nat) : Option Byte := (s.rxLine who (a / 64 * 64)).bind (·.byte a)

/-- Why a line that a requester holds failed. -/
def State.rxFail (s : State) (who line : Nat) : Option RxFail :=
  match s.rxLine who line with
  | some l => match l.dat with | .error e => some e | .ok _ => none
  | none => none

/-- Bytes delivered by completions to a requester for n bytes from a remote Toile address. -/
def State.readRemote (s : State) (who a n : Nat) : RdRes :=
  if !s.routed (bits a 40 12) then .unreach
  else
    let missing := (linesOf a n).filter (fun l => (s.rxLine who (l * 64)).isNone)
    if !missing.isEmpty then .need (missing.map (· * 64))
    else
      match (linesOf a n).findSome? (fun l => s.rxFail who (l * 64)) with
      | some e => e.res
      | none => .bytes ((List.range n).map (fun k => (s.rxByte who (a + k)).getD 0))

/-- Read Toile memory for a requester (R24). -/
def State.readToile (s : State) (who a n : Nat) : RdRes :=
  match s.locate a with
  | .here o => s.readLocal o n
  | .there d o => s.readRemote who (d * 2 ^ 40 + o) n

/-- The state after a read's checks: lines and words corrected, reported or poisoned; delivered remote bytes stay until
dropped. -/
def State.touched (s : State) (a n : Nat) : State :=
  match s.locate a with
  | .here o => s.checkLocal o n
  | .there _ _ => s

/-- Send the READs for missing lines. -/
def State.askLines (s : State) (who : Requester) (ls : List Nat) : State := ls.foldl (fun s a => s.askLine who a) s

/-- Drop a requester's remote lines for n bytes from a. -/
def State.dropRemote (s : State) (who a n : Nat) : State :=
  { s with rxbuf := s.rxbuf.filter (fun p =>
      !(p.who == who && decide (s.norm a / 64 * 64 ≤ p.addr) && decide (p.addr < s.norm a + n))) }

/-- Drop every remote line of a requester. -/
def State.dropRx (s : State) (who : Nat) : State := { s with rxbuf := s.rxbuf.filter (fun p => p.who ≠ who) }

/-- Write bytes to local memory: HBM under its code, SRAM as it lies. The folio directory and holes change nothing
(R21, R30); a write of a page that a peer leases is seen by peers when the leases end (R243). -/
def State.writeLocal (s : State) (a : Nat) (bs : List Byte) : State :=
  match areaOf a with
  | .hbm => s.hwWrite a bs
  | .store _ => (s.poke a bs).sramClear a bs.length
  | .opbuf _ => (s.poke a bs).sramClear a bs.length
  | _ => s

/-- WRITE transactions for bytes at a remote address that is 64-byte aligned, at most 4 KiB each and none across a
4 KiB boundary (R258); `fuel` bounds their number. -/
def State.writeRemote (s : State) (who : Requester) (dev off : Nat) (bs : List Byte) : Nat → State
  | 0 => s
  | fuel + 1 =>
    if bs.isEmpty then s
    else
      let n := min bs.length (4096 - off % 4096)
      let s := s.startTxn who dev 2 0 off n (dat := bs.take n)
      s.writeRemote who dev (off + n) (bs.drop n) fuel

/-- The remote lines that a requester holds, with bytes that it writes at a Toile address put into them. -/
def State.patchRx (s : State) (who a : Nat) (bs : List Byte) : State :=
  { s with rxbuf := s.rxbuf.map (fun p =>
      if p.who == who && decide (a / 64 * 64 ≤ p.addr) && decide (p.addr < a + bs.length) then
        { p with dat := p.dat.map (fun d => (List.range 64).map (fun k =>
            if a ≤ p.addr + k ∧ p.addr + k < a + bs.length then bs.getD (p.addr + k - a) 0 else d.getD k 0)) }
      else p) }

/-- Write Toile memory. A remote write covers whole 64-byte lines. -/
def State.writeToile (s : State) (who : Requester) (a : Nat) (bs : List Byte) : State :=
  match s.locate a with
  | .here o => s.writeLocal o bs
  | .there d o => s.writeRemote who d o bs (bs.length / 64 + 2)

/-- An access of a core's own program: its requester is the core, not the fetch or the mirror of its leaves. -/
def Requester.ofCore (c : Nat) : Requester → Bool
  | .core d _ _ => d.val == c
  | _ => false

/-- Every write that a core's instructions have sent to another device is acknowledged: none can still raise a fault
(R106, R107, R123). -/
def State.settled (s : State) (c : Nat) : Bool := !s.txns.any (fun t => t.typ == 2 && t.who.ofCore c)

end Sys2Proof.Machine
end

