-- ==== Sys2Proof/Machine/Rings.lean ====
section
/-! DEFINITION. Binder parameters of a folio, writes of ring-table entries, and stamp entries (R31, R42). -/
namespace Sys2Proof.Machine

/-- The stream parameters that govern a folio. -/
def State.par (s : State) (n : Folio) : Params := ((s.binder (s.ent n).binder).map (·.par)).getD {}

/-- The 256 bits of a ring-table entry. -/
def RingE.num (e : RingE) : Nat :=
  e.base % 2 ^ 40 + e.log2 % 32 * 2 ^ 40 + (e.ch - 1) % 16 * 2 ^ 45 + e.fmt % 4 * 2 ^ 49 + e.wr % 2 ^ 32 * 2 ^ 64
    + e.rd % 2 ^ 32 * 2 ^ 96 + e.nextSeq % 2 ^ 32 * 2 ^ 128 + e.stampWr % 2 ^ 32 * 2 ^ 160
    + e.stampRd % 2 ^ 32 * 2 ^ 192

/-- Write a folio's ring-table entry. -/
def State.setRing (s : State) (n : Folio) (e : RingE) : State := s.hwWrite (s.ringAddr n) (toLE 32 e.num)

/-- A stamp entry as its 128 bits (Table 2-4). -/
def stampNum (t : StampEntry) : Nat :=
  t.time.toNat + t.first.toNat * 2 ^ 64 + t.count.toNat * 2 ^ 96 + t.invalid.toNat * 2 ^ 112
    + t.resetMark.toNat * 2 ^ 113 + t.slip.toNat * 2 ^ 114 + t.gap.toNat * 2 ^ 115

/-- Address of stamp entry i of a ring. -/
def RingE.stampAt (e : RingE) (i : Nat) : Nat := e.stampBase + 16 * (i % 2 ^ (e.log2 - 4))

/-- Stamp entry i of a ring. -/
def State.stamp (s : State) (e : RingE) (i : Nat) : StampEntry :=
  let v := s.hwN (e.stampAt i) 16
  { time := BitVec.ofNat 64 v, first := BitVec.ofNat 32 (bits v 64 32), count := BitVec.ofNat 16 (bits v 96 16),
    invalid := v.testBit 112, resetMark := v.testBit 113, slip := v.testBit 114, gap := v.testBit 115 }

/-- The checks that the device's read of a folio's ring-table entry makes (R216). -/
def State.ringRead (s : State) (n : Folio) : State := s.checkLines (s.ringAddr n) 32

/-- The checks that the device's read of k stamp entries from i makes (R216). -/
def State.stampRead (s : State) (e : RingE) (i k : Nat) : State :=
  ((List.range k).flatMap (fun j => linesOf (e.stampAt (i + j)) 16)).eraseDups.foldl (fun s l => s.checkLine l) s

/-- Distance from index b to index a, modulo 2^32. -/
def since (a b : Nat) : Nat := (a + 2 ^ 32 - b % 2 ^ 32) % 2 ^ 32

/-- New samples of one gathering. -/
def Params.gh (p : Params) : Nat := p.frames * p.hop

/-- The gathering at rd_index is complete (R42). -/
def RingE.complete (e : RingE) (p : Params) : Bool := decide (0 < p.gh) && decide (p.gh ≤ since e.wr e.rd)

/-- Write frames at a sample index: sample i of channel c lies at slot (i mod 2^log2) * C + c (R31). -/
def State.putFrames (s : State) (e : RingE) (idx : Nat) (dat : List Byte) : State :=
  let fb := e.ch * fmtBytes e.fmt
  let o := idx % 2 ^ e.log2 * fb
  let room := 2 ^ e.log2 * fb - o
  let s := s.hwWrite (e.base + o) (dat.take room)
  if dat.length ≤ room then s else s.hwWrite e.base (dat.drop room)

end Sys2Proof.Machine
end

