-- ==== Sys2Proof/Machine/Store.lean ====
section
/-! DEFINITION. Placement of state: the state store's allocation, swap-out, the state header and restarted copies (R48,
R54 to R56, R213, R397). -/
namespace Sys2Proof.Machine

/-- Runs of a section: working copies, reserved committed copies and the member table, as (first unit, units). -/
def State.sectionRuns (s : State) (k : Section) : List (Nat × Nat) :=
  let u := units (s.bpar k.binder).copy
  k.members.map (fun m => (m.work / 256, u)) ++ k.members.filterMap (fun m => m.slot.map (fun o => (o / 256, u)))
    ++ (match k.table with | some t => [(t / 256, units (64 * k.members.length))] | none => [])

/-- Every run in use in a hoop's state store. -/
def State.usedRuns (s : State) (h : Nat) : List (Nat × Nat) :=
  (s.dir.filterMap (fun p => if p.2.resident ∧ p.2.hoop.toNat = h then
      some (p.2.storeSlot.toNat, units (s.bpar p.2.binder).copy) else none))
    ++ ((s.hoop h).sections.flatMap s.sectionRuns)

/-- First fit from the lowest unit (R213): the lowest start of a free run. -/
def firstFit (used : List (Nat × Nat)) (u : Nat) : Option Nat :=
  let cands := 0 :: used.map (fun r => r.1 + r.2)
  (cands.filter (fun c => decide (c + u ≤ 16384) && used.all (fun r => decide (c + u ≤ r.1) || decide (r.1 + r.2 ≤ c)))).foldl
    (fun best c => match best with | none => some c | some b => some (min b c)) none

/-- Runs for several needs together, first fit each in turn. -/
def fitAll (used : List (Nat × Nat)) : List Nat → Option (List Nat)
  | [] => some []
  | u :: us => match firstFit used u with
    | none => none
    | some c => (fitAll ((c, u) :: used) us).map (c :: ·)

/-- A state header (Table 2-7). -/
def headerBytes (lastSeq frames nextPos resetPos : Nat) : List Byte :=
  toLE 4 lastSeq ++ toLE 4 frames ++ toLE 8 nextPos ++ toLE 8 resetPos ++ List.replicate 40 0

/-- A state made of a header, scale entries not valid and the binder's initial state vector (R38, R397). -/
def Binder.initState (b : Binder) (lastSeq nextPos : Nat) : List Byte :=
  padTo b.par.size (headerBytes lastSeq 0 nextPos 0 ++ List.replicate (4 * b.par.sites) 0 ++ b.init)

/-- The restarted copy of a folio (R397): last_seq and next_pos where the old header can be read, else those that precede
gathering seq. -/
def restartCopy (b : Binder) (old : Option (List Byte)) (seq : Nat) : List Byte :=
  match old with
  | some hd => b.initState (leNat (hd.take 4)) (leNat ((hd.drop 8).take 8))
  | none => b.initState ((seq + 2 ^ 32 - 1) % 2 ^ 32) (b.par.frames * seq)

/-- The Toile address of a folio's committed state: in external mode the copy that ext_copy names (R55). -/
def State.pageAddr (s : State) (n : Folio) : Nat :=
  (s.ent n).statePage.toNat * 4096 + (if (s.par n).external ∧ (s.ent n).extCopy then (s.par n).size else 0)

/-- Sequence of the gathering that the folio next brings to a section. -/
def State.nextSeqOf (s : State) (n : Folio) : Nat :=
  match (s.fol n).flight with
  | some f => if f.retry then f.seq.toNat else (s.ring n).nextSeq
  | none => (s.ring n).nextSeq

/-- A folio whose committed copy was lost outside a section: the next gathering to join one restarts, and the next commit
sends FULL (R397). -/
def State.restartNext (s : State) (n : Folio) : State :=
  (s.updEnt n (fun e => { e with resetPending := true, restartPending := true })).updFol n
    (fun f => { f with line := { f.line with needFull := true } })

/-- A committed copy in a state page of local HBM that holds a line. -/
def State.pageHolds (s : State) (n : Folio) (line : Nat) : Bool :=
  let e := s.ent n
  match s.locate (s.pageAddr n) with
  | .here o => e.st != .free && !e.resident && decide (o ≤ line * 64 + 63) && decide (line * 64 < o + (s.par n).size)
  | .there _ _ => false

/-- A folio whose committed copy has become uncorrectable outside a section: the copy is replaced by the initial state,
and the next gathering restarts (R397). -/
def State.restartPage (s : State) (n : Folio) : State :=
  let page := s.pageAddr n
  let hd := match s.readToile 4096 page 64 with | .bytes d => some d | _ => none
  let s := match s.binder (s.ent n).binder with
    | some b => s.writeToile (.fol n) page (restartCopy b hd (s.nextSeqOf n))
    | none => s
  s.restartNext n

/-- Swap a folio's committed copy out: write it to the state page if it changed and free its space (R54, R397). -/
def State.swapOut (s : State) (n : Folio) : State :=
  let e := s.ent n
  if !e.resident then s
  else
    let o := storeAddr e.hoop.toNat (e.storeSlot.toNat * 256)
    let page := s.pageAddr n
    let s := match s.readLocal o (s.par n).copy with
      | .bytes d =>
        let s := s.sramCheck o d.length
        if (s.fol n).dirty then s.writeToile (.fol n) page d else s
      | _ =>
        let s := s.sramCheck o (s.par n).copy
        let hd := match s.readLocal o 64 with | .bytes d => some d | _ => none
        let s := match s.binder e.binder with
          | some b => s.writeToile (.fol n) page (restartCopy b hd (s.nextSeqOf n))
          | none => s
        s.restartNext n
    (s.updEnt n (fun e => { e with resident := false })).updFol n (fun f => { f with dirty := false })

/-- The IDLE resident folio of a hoop least recently used, the lower folio on a tie (R48). -/
def State.lruFolio (s : State) (h : Nat) : Option Folio :=
  (s.dir.filter (fun p => p.2.st = .idle ∧ p.2.resident ∧ p.2.hoop.toNat = h)).foldl
    (fun (best : Option Folio) p =>
      let n : Folio := BitVec.ofNat 20 p.1
      match best with
      | none => some n
      | some b => if (s.fol n).lastUsed < (s.fol b).lastUsed then some n else some b) none

/-- Find room in a hoop's state store, evicting IDLE resident folios while it is short (R48); `fuel` bounds the
evictions. Answers the first units of the runs. -/
def State.allotRoom (s : State) (h : Nat) (needs : List Nat) : Nat → State × Option (List Nat)
  | 0 => (s, none)
  | fuel + 1 =>
    match fitAll (s.usedRuns h) needs with
    | some l => (s, some l)
    | none =>
      match s.lruFolio h with
      | none => (s, none)
      | some n => (s.swapOut n).allotRoom h needs fuel

/-- Open folios of a binder on a hoop. -/
def State.openFolios (s : State) (b : BitVec 12) (h : Nat) : Nat :=
  (s.dir.filter (fun p => p.2.st ≠ .free ∧ p.2.binder = b ∧ p.2.hoop.toNat = h)).length

/-- The hoop among those given with the fewest open folios of a binder, the lowest on a tie (R38). -/
def State.fewest (s : State) (b : BitVec 12) (hs : List Nat) : Option Nat :=
  hs.foldl (fun best h => match best with
    | none => some h
    | some k => if s.openFolios b h < s.openFolios b k then some h else some k) none

/-- Hoops that hold a binder and are not draining, in ascending order (R38, R344). -/
def State.hoopsFor (s : State) (b : BitVec 12) : List Nat :=
  (List.range 16).filter (fun h => (((s.binder b).map (·.hoops)).getD []).contains h && !s.bit R.HOOP_MAINT_drain h)

end Sys2Proof.Machine
end

