-- ==== Sys2Proof/Machine/Access.lean ====
section
/-! DEFINITION. Which port may write which control register, and the common frame of a register command (R8, R12, R26,
R360, R361). -/
namespace Sys2Proof.Machine

/-- The control-space blocks (Table 1-8). -/
inductive Block where
  | colo | pwr | fol | hoop | core | hbm | flnk | toile | sap | aud | eth | ingress | sec | misc | none
deriving DecidableEq, Repr

/-- The block that holds an address (R26, Table 1-8). -/
def blockOf (a : Nat) : Block :=
  let o := a - 0xF000000000
  if a < 0xF000000000 then .none
  else if o < 0x100000 then .colo
  else if o < 0x200000 then .pwr
  else if o < 0x300000 then .fol
  else if 0x1000000 ≤ o ∧ o < 0x2000000 then .hoop
  else if 0x2000000 ≤ o ∧ o < 0x2800000 then .core
  else if 0x3000000 ≤ o ∧ o < 0x3100000 then .hbm
  else if 0x4000000 ≤ o ∧ o < 0x4040000 then .flnk
  else if 0x4100000 ≤ o ∧ o < 0x4200000 then .toile
  else if 0x5000000 ≤ o ∧ o < 0x5010000 then .sap
  else if 0x5010000 ≤ o ∧ o < 0x5020000 then .aud
  else if 0x6000000 ≤ o ∧ o < 0x6020000 then .eth
  else if 0x6100000 ≤ o ∧ o < 0x6200000 then .ingress
  else if 0x7000000 ≤ o ∧ o < 0x7100000 then .sec
  else if 0x8000000 ≤ o ∧ o < 0x8100000 then .misc
  else .none

/-- The UART and QSPI registers of MISC, which belong to the always-on domain (Table 1-6). -/
def miscAlwaysOn (a : Nat) : Bool := decide (a - 0xF008000000 < 0x200)

/-- An address whose register belongs to the always-on domain (Table 1-6). -/
def alwaysOn (a : Nat) : Bool :=
  match blockOf a with
  | .colo => true
  | .pwr => true
  | .sec => true
  | .misc => miscAlwaysOn a
  | _ => false

/-- Addresses outside the P2 blocks that P2 may write (Table 14-10, chapter 15). -/
def p2Open : List Nat :=
  [0xF000004000, 0xF000004008, 0xF000004018, 0xF007000200, 0xF007000208, 0xF000100010, 0xF000100018]

/-- A write that the level of its port permits (R360, Table 14-10): at P1 and P6, every register but those of the UART and of
the flashes, of which MISC_UART_CFG alone is writable; at P3, none. Table 14-10 bars no address without a register (R7). -/
def State.mayWrite (s : State) (p : Port) (a : Nat) : Bool :=
  let asP1 := blockOf a != .misc || !miscAlwaysOn a || a == 0xF008000000 || (famAt a).isNone
  match p with
  | .p0 => true
  | .p1 => asP1
  | .p3 => false
  | .p6 => s.bit R.SEC_DEBUG_unlocked && asP1
  | .p2 => match blockOf a with
    | .colo => p2Open.contains a
    | .pwr => p2Open.contains a
    | .sec => p2Open.contains a
    | .misc => decide (0xF008001000 ≤ a ∧ a < 0xF008001400)
    | _ => true

/-- A read that the level of its port permits (R360, Table 14-10): at P2, of MISC only the registers of the module buses. The
table has rows that read at P1 and at P6 alone. -/
def State.mayRead (s : State) (p : Port) (a : Nat) : Bool :=
  match p with
  | .p0 => true
  | .p1 => true
  | .p2 => blockOf a != .misc || decide (0xF008001000 ≤ a ∧ a < 0xF008001400)
  | .p3 => false
  | .p6 => s.bit R.SEC_DEBUG_unlocked

/-- A refused access is counted in SEC_DENIED, answered with an error response, and changes nothing else (R361). -/
def State.denied (s : State) (p : Port) : State := (s.count R.SEC_DENIED_count).send (.busError p)

/-- The Spine's SRAM holds an uncorrectable word, which causes a restart (R331, R336). -/
def State.spineBad (s : State) : Bool := s.spine.phase != .off && !(s.sramBad (spineAddr 0) (2 ^ 57)).isEmpty

/-- The Spine issues nothing while it is stopped or restarts, and from an uncorrectable word of its SRAM on (R335, R336). -/
def State.spineDown (s : State) : Bool := s.spine.phase == .stopped || s.spine.phase == .restarting || s.spineBad

/-- The registers of the FOL, binder, INGRESS, AUD, TOILE and time blocks that give commands (R336; which they are is DEDUCED,
log entry 80). -/
def commandFams : List Fam :=
  [R.FOL_CMD, R.FOL_BND_CMD, R.INGRESS_CMD, R.INGRESS_PUSH0, R.AUD_BIND_CMD, R.AUD_GRP_START, R.AUD_GRP_CTRL, R.TOILE_CMD,
    R.TOILE_XCMD, R.ETH_TIME_ADJ, R.ETH_TIME_FREQ]

/-- A register whose commands wait for no one and are lost while the Spine is down (R336). -/
def pausedReg (a : Nat) : Bool := match famAt a with | some (f, _, _) => commandFams.contains f | none => false

/-- No command comes from a port: the device is held in reset, or it is the Spine's own and the Spine is down (R2, R336,
R387). -/
def State.portQuiet (s : State) (p : Port) : Bool := !s.pwr.aon || ((p == .p2 || p == .p3) && s.spineDown)

/-- Lines of HBM that an effect has found uncorrectable (R216). -/
def State.lostLines (s t : State) : List Nat := t.hbm.lost.drop s.hbm.lost.length

/-- The folios whose committed copy in a state page holds a line that an effect found uncorrectable restart, whoever read it
(R331, R397). -/
def State.lostPages (s t : State) : State :=
  (s.lostLines t).foldl (fun (t : State) l =>
    (t.dir.filter (fun p => t.pageHolds (BitVec.ofNat 20 p.1) l)).foldl (fun t p => t.restartPage (BitVec.ofNat 20 p.1)) t) t

/-- Memory after an effect, in its canonical form. -/
def keepForm (m m' : List Host.Cell) : List Host.Cell :=
  bif SMap.wf 0 m' then m' else bif decide (m' = m) then m else m'.foldr (fun p l => SMap.put 0 l p.1 p.2) []

/-- The state after an effect, with the queue and the fuse array as they were and memory in its canonical form. -/
def State.closed (s t : State) : State :=
  { t with mem := keepForm s.mem t.mem, hbm := { t.hbm with lost := s.hbm.lost }, pending := s.pending, fuses := s.fuses }

/-- What an effect leaves: folios whose state page lost a line restart; the queue belongs to the senders, and the fuse array is
written by the SEC commands alone (R347, R397, Table 14-9, log entry 65). -/
def State.within (s t : State) : State := s.closed (s.lostPages t)

/-- What an effect leaves that may blow fuses. -/
def State.fused (s t : State) : State := { s.within t with fuses := t.fuses }

/-- The frame of a register command: not issued, refused for privilege, lost during a Spine restart or with the main domain
off, or taking effect. -/
def State.regCmd (s : State) (p : Port) (a : Nat) (eff : State → State) : State :=
  if s.portQuiet p then s
  else if !s.mayWrite p a then s.denied p
  else if (s.spineDown && pausedReg a) || (!alwaysOn a && !s.mainOn) then s
  else s.within (eff s)

/-- The frame of an event of the main domain: nothing happens while the domain is off (R12, R370). -/
def State.mainEv (s : State) (eff : State → State) : State := if s.mainOn then s.within (eff s) else s

/-- The frame of an event of the always-on domain: nothing happens while AON_POR_N is low (R2, R387). -/
def State.aonEv (s : State) (eff : State → State) : State := if s.pwr.aon then s.within (eff s) else s

/-- The frame of an edge of AON_POR_N or RST_N. -/
def State.pinEv (s : State) (eff : State → State) : State := s.within (eff s)

/-- The frame of a command of the SEC block, or of the Colophon, that may blow fuses. -/
def State.secEv (s : State) (eff : State → State) : State := if s.pwr.aon then s.fused (eff s) else s

end Sys2Proof.Machine
end

