-- ==== Sys2Proof/Machine/Quorum.lean ====
section
/-! DEFINITION. The quorum set, the records of its members, the device's lease and its fence (R270 to R272, R277, R278,
R339). -/
namespace Sys2Proof.Machine

/-- HELLO.BEAT and renewals have stopped (Table 13-5, step 4). -/
def Retire.silent (r : Retire) : Bool := r.silentAt.isSome

/-! ### The quorum set -/

/-- The device runs in standalone mode (R278). -/
def State.standalone (s : State) : Bool := s.bit R.TOILE_QUORUM_standalone

/-- The members of the quorum set; none when the set is not valid (R270, R278). -/
def State.quorum (s : State) : List Nat :=
  let n := s.fld R.TOILE_QUORUM_count
  if s.standalone || (n != 3 && n != 5) then []
  else (List.range n).map (fun k => bits (s.fld R.TOILE_QUORUM_members) (12 * k) 12)

/-- Grants that make a majority (R271). -/
def State.majority (s : State) : Nat := s.fld R.TOILE_QUORUM_count / 2 + 1

/-- The device is a member of its quorum set. -/
def State.isMember (s : State) : Bool := s.quorum.contains s.devnum

/-- A member's record of a device (R270, R277). -/
structure QRec where
  epoch : Nat
  revoked : Bool
  valid : Bool
  expiry : Nat
deriving DecidableEq, Repr

/-- Address of a device's record. -/
def State.qrecAt (s : State) (d : Nat) : Nat := s.fld R.TOILE_QREC_BASE_base + 16 * d

/-- The record of a device (R277). -/
def State.qrec (s : State) (d : Nat) : QRec :=
  let v := s.hwN (s.qrecAt d) 16
  { epoch := bits v 0 32, revoked := v.testBit 32, valid := v.testBit 33, expiry := bits v 64 64 }

/-- The checks that the member's read of a record makes (R216). -/
def State.readQrec (s : State) (d : Nat) : State := s.checkLines (s.qrecAt d) 16

/-- Write the record of a device. -/
def State.setQrec (s : State) (d : Nat) (r : QRec) : State :=
  s.writeLocal (s.qrecAt d) (toLE 16 (r.epoch % 2 ^ 32 + r.revoked.toNat * 2 ^ 32 + r.valid.toNat * 2 ^ 33 + r.expiry % 2 ^ 64 * 2 ^ 64))

/-- A member's answer to a renewal (R271): the record takes the first epoch it hears (R277). -/
def State.memberRenew (s : State) (d e t : Nat) : State × LeaseReply :=
  let s := s.readQrec d
  let r := s.qrec d
  let r : QRec := if r.valid then r else { epoch := e, revoked := false, valid := true, expiry := 0 }
  if r.epoch = e ∧ !r.revoked then
    let x := max r.expiry (t + 50 * ms)
    (s.setQrec d { r with expiry := x }, .renewed (BitVec.ofNat 64 x))
  else (s.setQrec d r, .renewRefused (BitVec.ofNat 32 r.epoch))

/-- Revoke a device's epoch and raise the record's (R273, R339). -/
def State.revoke (s : State) (d : Nat) : State :=
  let r := s.qrec d
  s.setQrec d { r with revoked := true, epoch := r.epoch + 1 }

/-- A member's record at RESIGN, and whether it acknowledges: revoked at once when the epoch is the record's (R339). -/
def State.memberResign (s : State) (d e : Nat) : State × Bool :=
  let s := s.readQrec d
  let r := s.qrec d
  if r.valid ∧ r.epoch = e then (s.revoke d, true) else (s, false)

/-- A member's answer to a JOIN that names an epoch: one above the record's, or above that epoch where the member has no
record (R277), not revoked (R276). The answer grants 50 ms from now, so that the device is leased at once (DEDUCED, log entry
22). -/
def State.memberJoin (s : State) (d e : Nat) : State × LeaseReply :=
  let r := s.qrec d
  let e := ((if r.valid then r.epoch else e) + 1) % 2 ^ 32
  let x := max r.expiry (s.now + 50 * ms)
  (s.setQrec d { epoch := e, revoked := false, valid := true, expiry := x }, .joined (BitVec.ofNat 32 e) (BitVec.ofNat 64 x))

/-! ### The device's own lease -/

/-- Set or lift the fence (R272), also in every HOOPh_SCHED_STAT. -/
def State.setFenced (s : State) (b : Bool) : State :=
  (List.range 16).foldl (fun (s : State) h => s.put R.HOOP_SCHED_STAT_fenced b.toNat h) (s.put R.TOILE_LEASE_fenced b.toNat)

/-- Grants of members of the present quorum set that have not expired (R270). -/
def State.liveGrants (s : State) : List Nat :=
  ((s.lease.grants.filter (fun g => s.quorum.contains g.1)).map (·.2)).filter (fun x => decide (s.now < x))

/-- The device enters the fenced state and raises FENCED (R272, Table 10-10). -/
def State.fence (s : State) : State :=
  if s.fenced then s
  else (s.setFenced true).event 0x0D 4 0xFF 0xFFFFF (s.liveGrants.length % 8)

/-- Put a number into a list that falls. -/
def insertDown (x : Nat) : List Nat → List Nat
  | [] => [x]
  | y :: ys => if y ≤ x then x :: y :: ys else y :: insertDown x ys

/-- The m-th latest unexpired grant of the present quorum set (R271). -/
def State.mthGrant (s : State) : Option Nat := (s.liveGrants.foldr insertDown [])[s.majority - 1]?

/-- The lease after a change of grants (R271, R272): its expiry is the m-th latest unexpired grant. The fence lifts when
a majority grants again, unless the epoch is revoked or the device retires (R340). -/
def State.leaseUpdate (s : State) : State :=
  match s.mthGrant with
  | none => s
  | some x =>
    let s := (s.put R.TOILE_LEASE_EXP_expiry x).put R.TOILE_LEASE_leased 1
    let s : State := { s with lease := { s.lease with granted := true } }
    if s.fenced ∧ !s.lease.revoked ∧ !s.lease.joining ∧ s.retire.resignAt.isNone then s.setFenced false else s

/-- A leased device whose quorum set changes: its lease expires with the m-th latest grant of the new set (R271); without a
majority of that set it is leased no more, and fenced (R270). -/
def State.leaseCheck (s : State) : State :=
  if s.standalone ∨ !s.bit R.TOILE_LEASE_leased then s
  else match s.mthGrant with
    | some x => s.put R.TOILE_LEASE_EXP_expiry x
    | none => (s.put R.TOILE_LEASE_leased 0).fence

/-- The device has an epoch it may renew, and does not wait to join; one that a member holds revoked goes on (R271,
R272). -/
def State.renews (s : State) : Bool := !s.quorum.isEmpty && !s.lease.joining && !s.retire.silent

end Sys2Proof.Machine
end

