-- ==== Sys2Proof/Machine/Unload.lean ====
section
/-! DEFINITION. Starting and stopping the cores of a hoop, and removing a binder from it (R96, R239, R240). -/
namespace Sys2Proof.Machine

/-- The state a core starts a binder in: s, v, m, t, flags zero and pc at the entry; buffers keep what they hold (R96,
R239). -/
def Core.start (k : Core) (entry : BitVec 52) : Core :=
  { k with s := [], v := [], m := [], t := [], flags := 0, pc := entry, sect := none, wait := .none, waitArg := (0, 0),
           deferred := none, resuming := false, stoppedBy := none, barPass := false, remoteFault := none }

/-- A core starts or restarts at a binder's entry; every accumulator tile is free (R96, R135, R239). -/
def State.startCore (s : State) (c : Nat) (b : BitVec 12) (entry : BitVec 52) : State :=
  let s := s.updCore c (fun k => k.start entry)
  let s := s.put R.CORE_ENTRY_entry entry.toNat c
  let s := s.put R.CORE_STATUS_binder b.toNat c
  let s := s.put R.CORE_STATUS_run_state 2 c
  let s := s.put R.CORE_STATUS_clock_gated 0 c
  s.put R.CORE_MM_ALLOC_map 0 c

/-- A core of a hoop that holds no binder (R239). -/
def State.stopCore (s : State) (c : Nat) : State :=
  let s := s.updCore c (fun k => { k with wait := .none, sect := none, nextSect := none, resuming := false })
  let s := s.put R.CORE_STATUS_run_state 0 c
  let s := s.put R.CORE_STATUS_clock_gated 1 c
  s.put R.CORE_STATUS_binder 0 c

/-- Tiles of a hoop whose source lies in immutable regions of an unloaded binder alone (R239). -/
def State.unloadTiles (s : State) (h : Nat) (b : BitVec 12) : State :=
  let regs (x : BitVec 12) : List Region := ((s.binder x).map (·.regions)).getD []
  let inside (rs : List Region) (a : Nat) : Bool := rs.any (fun r => decide (s.norm r.base ≤ s.norm a) && decide (s.norm a < s.norm r.base + r.size))
  let gone (t : Tile) : Bool := inside ((regs b).filter (·.immutable)) t.addr
    && !((s.hoop h).loaded.filter (· ≠ b)).any (fun x => inside (regs x) t.addr)
  s.updHoop h (fun k => k.setTiles ((k.tiles.filter (fun t => !(gone t) || decide (0 < t.pins))).map (fun t =>
    if gone t then { t with inval := true } else t)))

/-- Keep HOOPh_TC_STAT in step with the tile cache. -/
def State.tcStat (s : State) (h : Nat) : State :=
  let ts := (s.hoop h).tiles
  (s.put R.HOOP_TC_STAT_valid (ts.filter (·.valid)).length h).put R.HOOP_TC_STAT_pinned
    (ts.filter (fun t => decide (0 < t.pins))).length h

/-- Remove a binder from a hoop (R239): its tiles, its cores, its place. -/
def State.unloadFrom (s : State) (b : BitVec 12) (h : Nat) : State :=
  let s := s.unloadTiles h b
  let s := s.updHoop h (fun k => { k with loaded := k.loaded.filter (· ≠ b) })
  let s := s.updBinder b (fun x => { x with hoops := x.hoops.filter (· ≠ h) })
  let s := match (s.hoop h).loaded with
    | x :: _ => (List.range 8).foldl (fun (s : State) j =>
        let c := 8 * h + j
        if s.fld R.CORE_STATUS_binder c = b.toNat then
          s.startCore c x (((s.binder x).map Binder.entry).getD 0)
        else s) s
    | [] => (List.range 8).foldl (fun (s : State) j => s.stopCore (8 * h + j)) s
  s.tcStat h

/-- A swapped-out binder unloads from each hoop where no folio of it is open, and is an ordinary binder again once it is
loaded nowhere (R240). -/
def State.swapUnload (s : State) (b : BitVec 12) : State :=
  match s.binder b with
  | none => s
  | some x =>
    if x.swap.isNone then s
    else
      let busy (h : Nat) : Bool := s.openFolios b h != 0 || (s.hoop h).sections.any (fun k => k.binder == b)
      let s := (x.hoops.filter (fun h => !busy h)).foldl (fun s h => s.unloadFrom b h) s
      s.updBinder b (fun x => if x.hoops = [] then { x with swap := none } else x)

end Sys2Proof.Machine
end

