-- ==== Sys2Proof/Machine/Ready.lean ====
section
/-! DEFINITION. Joining a section, readiness and the writing of ingress blocks (R32, R33, R42, R43, R46 to R48, R53). -/
namespace Sys2Proof.Machine

/-! ### Sections of a hoop -/

/-- A section of a hoop by its serial. -/
def State.sect (s : State) (h ser : Nat) : Option Section := (s.hoop h).sections.find? (fun k => k.serial == ser)

/-- The state with a section changed. -/
def State.updSect (s : State) (h ser : Nat) (f : Section → Section) : State :=
  s.updHoop h (fun k => { k with sections := k.sections.map (fun x => if x.serial = ser then f x else x) })

/-- The binder whose sections a folio of a binder joins: the successor while it is swapped out (R240). -/
def State.target (s : State) (b : BitVec 12) : BitVec 12 := (((s.binder b).bind (·.swap))).getD b

/-- The schedulers form sections: not while fenced or retiring (R51, R340). -/
def State.forming (s : State) : Bool := !s.fenced && s.fld R.COLO_SERVICE_state == 0

/-- Stamp entries from stamp_rd to stamp_wr. -/
def State.stamps (s : State) (e : RingE) : List StampEntry :=
  (List.range (since e.stampWr e.stampRd)).map (fun k => s.stamp e (e.stampRd + k))

/-- The reset word of a gathering that starts at i0: bit f for each mark in frame f, bit 0 when reset_pending (R46). -/
def resetWordOf (marks : List StampEntry) (i0 : Nat) (p : Params) (pending : Bool) : W64 :=
  marks.foldl (fun w t =>
    let d := since t.first.toNat i0
    if (t.resetMark ∨ t.gap) ∧ d < p.gh then w ||| (1#64 <<< (d / p.hop)) else w) (if pending then 1 else 0)

/-- A stamp entry covers at least one of a gathering's new samples and is invalid (Table 2-11, invalid_audio). -/
def invalidIn (t : StampEntry) (i0 gh : Nat) : Bool :=
  t.invalid && (decide (since i0 t.first.toNat < t.count.toNat) || decide (since t.first.toNat i0 < gh))

/-- The deadline of a gathering (R42). -/
def deadlineOf (p : Params) (ready : Nat) : Nat := ready + p.budgetUs * 1000


/-- Ready time and deadline of the gathering that a READY folio would take into a section. -/
def State.nextTimes (s : State) (n : Folio) : Nat × Nat :=
  match (s.fol n).flight with
  | some f => if f.retry then (f.ready, f.deadline)
    else let r := (s.fol n).readyAt.headD s.now; (r, deadlineOf (s.par n) r)
  | none => let r := (s.fol n).readyAt.headD s.now; (r, deadlineOf (s.par n) r)

/-- A gathering tried again: what the scheduler found first, with what has become pending since (R41, R46, R50). -/
def Flight.again (f : Flight) (e : DirEntry) : Flight :=
  { f with retry := false, resetWord := f.resetWord ||| (if e.resetPending then 1 else 0),
           restart := f.restart || e.restartPending }

/-- The gathering a READY folio brings to a section: its own from the ring, or the one it retries. -/
def State.gathering (s : State) (n : Folio) : Flight :=
  let e := s.ring n
  let p := s.par n
  let (r, d) := s.nextTimes n
  let fresh : Flight :=
    { seq := BitVec.ofNat 32 e.nextSeq, first := BitVec.ofNat 32 e.rd, ready := r, deadline := d,
      resetWord := resetWordOf (s.stamps e) e.rd p (s.ent n).resetPending,
      invalidAudio := (s.stamps e).any (fun t => invalidIn t e.rd p.gh),
      restart := (s.ent n).restartPending }
  match (s.fol n).flight with
  | some f => if f.retry then f.again (s.ent n) else fresh
  | none => fresh

/-- The flight is one that waits to be retried. -/
def State.retries (s : State) (n : Folio) : Bool := match (s.fol n).flight with | some f => f.retry | none => false

/-- A stamp entry ends at or before a sample index, in the 32-bit order of sample indices (R32, R68). -/
def endsBy (t : StampEntry) (i : Nat) : Bool := decide (since i (t.first.toNat + t.count.toNat) < 2 ^ 31)

/-- Take the gathering at rd_index out of the ring: rd_index, next_seq and stamp_rd move on (R33, R42). -/
def State.advanceRd (s : State) (n : Folio) : State :=
  let e := s.ring n
  let p := s.par n
  let rd := (e.rd + p.gh) % 2 ^ 32
  let passed := ((List.range (since e.stampWr e.stampRd)).takeWhile (fun k => endsBy (s.stamp e (e.stampRd + k)) rd)).length
  (s.setRing n { e with rd := rd, nextSeq := (e.nextSeq + 1) % 2 ^ 32, stampRd := (e.stampRd + passed) % 2 ^ 32 }).updFol n
    (fun f => { f with readyAt := f.readyAt.tail })

/-- Insert a member in deadline order, ties to the lower folio (R47). -/
def insertMember (m : Member) : List Member → List Member
  | [] => [m]
  | x :: xs => if m.deadline < x.deadline ∨ (m.deadline = x.deadline ∧ m.folio < x.folio) then m :: x :: xs
               else x :: insertMember m xs

/-- First rows of members in order: G rows each (R47). -/
def numberRows (G : Nat) : Nat → List Member → List Member
  | _, [] => []
  | r, m :: ms => { m with firstRow := r } :: numberRows G (r + G) ms

/-- Close a section: its rows are numbered; the states are loaded next (R47). -/
def State.closeSection (s : State) (h ser : Nat) : State :=
  s.updSect h ser (fun k => { k with
    phase := .loading, members := numberRows (s.bpar k.binder).frames 0 k.members })

/-- Conditions 1 and 2 of R47: the most members or rows, or r_B rows. -/
def sectionFull (p : Params) (n : Nat) : Bool :=
  decide (1024 / max p.frames 1 ≤ n) || decide (512 ≤ n) || decide (p.rows ≤ n * p.frames)

/-- The earliest member's ready time and deadline of a section. -/
def Section.earliest (k : Section) : Nat × Nat := match k.members with | m :: _ => (m.ready, m.deadline) | [] => (0, 0)

/-- The folios of a section's members. -/
def Section.folios (k : Section) : List Folio := k.members.map (·.folio)

/-- Condition 3 of R47: w_B has passed since the ready time of the earliest member. -/
def State.fillOver (s : State) (k : Section) : Bool := decide (k.earliest.1 + (s.bpar k.binder).waitUs * 1000 ≤ s.now)

/-- A non-negative finite FP32 number in units of 2^-149. -/
def fp32Units (b : BitVec 32) : Nat :=
  let ex := bits b.toNat 23 8
  if ex = 0 then bits b.toNat 0 23 else (2 ^ 23 + bits b.toNat 0 23) * 2 ^ (ex - 1)

/-- The section time for r rows, in ns times 2^149 times the present clock in 100 MHz: a_B + b_B * r scaled by
1.3 GHz over the present clock (R47, Table 2-1). -/
def sectionCost (p : Params) (r : Nat) : Nat := (fp32Units p.costA + fp32Units p.costB * r) * 1000 * 13

/-- Condition 4 of R47: the earliest deadline, less the section time at the present clock, is no later than now. -/
def State.deadlineNear (s : State) (k : Section) : Bool :=
  let p := s.bpar k.binder
  decide ((k.earliest.2 - s.now) * 2 ^ 149 * s.fld R.PWR_ARITH_present ≤ sectionCost p (k.members.length * p.frames))

/-- A section with its members so far meets one of the conditions that close it (R47). -/
def State.closesNow (s : State) (k : Section) : Bool :=
  sectionFull (s.bpar k.binder) k.members.length || s.fillOver k || s.deadlineNear k

/-- Evictions that suffice to empty a state store, whose 16,384 units hold at most as many copies (R213). -/
def storeCopies : Nat := 16384

/-- Room in the state store for one more member of a section: its working copy, its committed copy if it is not
resident, and the section's member table with the member, in place of the table held so far (R48). -/
def State.memberRoom (s : State) (h ser : Nat) (k : Section) (res : Bool) : State × Option (List Nat) :=
  let u := units (s.bpar k.binder).copy
  let needs := units (64 * (k.members.length + 1)) :: (if res then [u] else [u, u])
  match (s.updSect h ser (fun x => { x with table := none })).allotRoom h needs (storeCopies + 1) with
  | (s, none) => (s.updSect h ser (fun x => { x with table := k.table }), none)
  | (s, some l) => (s.updSect h ser (fun x => { x with table := some (l.headD 0 * 256) }), some l.tail)

/-- A READY folio joins a forming section (R42, R46, R48). Answers whether it was admitted. -/
def State.join (s : State) (h ser : Nat) (n : Folio) : State × Bool :=
  match s.sect h ser with
  | none => (s, false)
  | some k =>
    let res := (s.ent n).resident
    let s0 := s
    let s := if s.retries n then s else s.stampRead (s.ring n) (s.ring n).stampRd (since (s.ring n).stampWr (s.ring n).stampRd)
    match s.memberRoom h ser k res with
    | (s, none) => (s, false)
    | (s, some l) =>
      let g := s.gathering n
      let retried := decide ((s.ent n).retries = 1)
      let fresh := !s.retries n
      let m : Member := { folio := n, seq := g.seq, first := g.first, ready := g.ready, deadline := g.deadline,
                          work := l.headD 0 * 256, slot := (if res then none else some (l.getD 1 0 * 256)),
                          seed := g.resetWord.getLsbD 0, retried := retried, resetWord := g.resetWord,
                          invalidAudio := g.invalidAudio, restart := g.restart }
      let s := if fresh then s.advanceRd n else s
      let s := s.updEnt n (fun e => { e with st := .active, binder := k.binder, resetPending := false, restartPending := false })
      let s := s.updFol n (fun f => { f with flight := some g, lastUsed := s.now })
      let old := (s0.ent n).binder
      let s := s.updSect h ser (fun k => { k with members := insertMember m k.members })
      (if old = k.binder then s else s.swapUnload old, true)

/-- A folio joins a forming section, which closes when it admits no more, or at the first of R47's conditions: those on times
close it whether or not READY folios of the binder remain (R47, R48; DEDUCED, log entry 91). -/
def State.joinOrClose (s : State) (h ser : Nat) (n : Folio) : State :=
  match s.join h ser n with
  | (s, false) => s.closeSection h ser
  | (s, true) =>
    match s.sect h ser with
    | some k => if s.closesNow k then s.closeSection h ser else s
    | none => s

/-! ### Readiness -/

/-- A hoop that is powered off is asked to wake (R53, R379). -/
def State.wakeHoop (s : State) (h : Nat) : State :=
  if s.hoopOn h ∨ (s.hoop h).wakeReq.isSome ∨ (s.hoop h).waking.isSome then s
  else s.updHoop h (fun k => { k with wakeReq := some s.now })

/-- Folios in a state on a hoop. -/
def State.readyCount (s : State) (h : Nat) : Nat :=
  (s.dir.filter (fun p => p.2.st = .ready ∧ p.2.hoop.toNat = h)).length

/-- Keep HOOPh_SCHED_STAT.ready in step (chapter 2). -/
def State.schedStat (s : State) (h : Nat) : State :=
  (s.put R.HOOP_SCHED_STAT_ready (min (s.readyCount h) 2047) h).put R.HOOP_SCHED_STAT_busy_slots
    (min ((s.hoop h).sections.filter (fun k => k.phase = .running ∨ k.phase = .commitWait ∨ k.phase = .committing)).length 15) h

/-- A section can take the folio: the ring-table entry that its next gathering comes from can be read (DESIGN CHOICE, log entry
90). -/
def State.takable (s : State) (n : Folio) : Bool := s.retries n || s.ringOk n

/-- The folio is READY on its hoop, which wakes (R35, R42, R53); a section of its binder that is forming there takes it
(R47). -/
def State.readyHere (s : State) (n : Folio) : State :=
  let h := (s.ent n).hoop.toNat
  let s := (s.updEnt n (fun e => { e with st := .ready })).wakeHoop h
  let b := s.target (s.ent n).binder
  let s := match (s.hoop h).sections.find? (fun k => k.phase == .forming && k.binder == b) with
    | some k => if s.forming && s.takable n then s.joinOrClose h k.serial n else s
    | none => s
  s.schedStat h

/-! ### Changing the hoop (R41, R240, R344) -/

/-- Swap out if resident, then change the hoop (R41); a swapped-out binder may lose its last open folio there (R240). -/
def State.moveNow (s : State) (n : Folio) (h : BitVec 4) : State :=
  (((s.swapOut n).updEnt n (fun e => { e with hoop := h })).updFol n (fun f => { f with moveTo := none })).swapUnload
    (s.ent n).binder

/-- drained sets when no directory entry names the hoop and no section is in flight (R344). -/
def State.drainStat (s : State) (h : Nat) : State :=
  if s.bit R.HOOP_MAINT_drain h then
    s.put R.HOOP_MAINT_drained
      (decide (s.dir.all (fun p => p.2.st = .free ∨ p.2.hoop.toNat ≠ h) ∧ (s.hoop h).sections = [])).toNat h
  else s.put R.HOOP_MAINT_drained 0 h

/-- An IDLE or READY folio is served by another hoop from now on; a READY one is READY there (R41, R53). -/
def State.rehome (s : State) (n : Folio) (h : BitVec 4) : State :=
  let old := (s.ent n).hoop.toNat
  let s := s.moveNow n h
  let s := if (s.ent n).st = .ready then s.readyHere n else s
  ((s.schedStat old).schedStat h.toNat).drainStat old

/-- A draining hoop's folio is moved to the hoop that holds its binder and has the fewest open folios of it; one whose
binder is loaded nowhere else stays (R344). -/
def State.drainFolio (s : State) (n : Folio) : State :=
  let e := s.ent n
  if s.bit R.HOOP_MAINT_drain e.hoop.toNat ∧ (e.st = .idle ∨ e.st = .ready) then
    match s.fewest e.binder ((s.hoopsFor e.binder).filter (fun h => h ≠ e.hoop.toNat)) with
    | some h => s.rehome n (BitVec.ofNat 4 h)
    | none => s.drainStat e.hoop.toNat
  else s

/-- The folio enters READY (R35, R42, R53); on a draining hoop it is moved (R344). -/
def State.enterReady (s : State) (n : Folio) : State := (s.readyHere n).drainFolio n

/-- The folio enters IDLE (R35); on a draining hoop it is moved (R344). -/
def State.enterIdle (s : State) (n : Folio) : State := (s.updEnt n (fun e => { e with st := .idle })).drainFolio n

/-- An IDLE folio whose ring holds the next gathering becomes READY (R35, R42); not while its ring-table entry cannot be read
(DESIGN CHOICE, log entry 90). -/
def State.checkReady (s : State) (n : Folio) : State :=
  if (s.ent n).st = .idle ∧ s.ringOk n ∧ (s.ring n).complete (s.par n) then s.enterReady n else s

/-- Ready times of the gatherings that an advance of wr_index completes now (R42). -/
def State.noteComplete (s : State) (n : Folio) : State :=
  let e := s.ring n
  let p := s.par n
  let k := if p.gh = 0 then 0 else since e.wr e.rd / p.gh
  s.updFol n (fun f => { f with readyAt := f.readyAt ++ List.replicate (k - f.readyAt.length) s.now })

/-! ### Writing blocks (R32, R33) -/

/-- An ingress block as its source hands it over: interleaved samples in the ring's format. -/
structure Blk where
  time : Nat
  dat : List Byte
  count : Nat
  invalid : Bool := false
  resetMark : Bool := false
  slip : Bool := false
  gap : Bool := false
deriving DecidableEq, Repr

/-- What writing a block of `count` samples finds in the ring (R33): it fits; the oldest gathering is dropped first; or
the block is discarded. -/
inductive Room where | fits | drop | discard
deriving DecidableEq, Repr

/-- R33's keep point and whether the block would overwrite a sample at or after it. -/
def State.roomFor (s : State) (n : Folio) (count : Nat) : Room :=
  let e := s.ring n
  let p := s.par n
  let w : Int := (s.fol n).written
  let size : Int := 2 ^ e.log2
  let ovr : Int := w + count - size
  let rdKeep : Int := w - since e.wr e.rd - p.lookback
  let secKeep : Option Int := (s.fol n).flight.map (fun f => w - since e.wr f.first.toNat - p.lookback)
  let hits (k : Int) : Bool := decide (0 < ovr) && decide (k < ovr)
  let inSection := match secKeep with | some k => hits k | none => false
  if !hits rdKeep && !inSection then .fits
  else if inSection || !e.complete p then .discard
  else .drop

/-- Drop gatherings until the block fits or must be discarded; `fuel` bounds the drops. A READY folio whose complete
gatherings are all dropped stays READY, since Table 2-5 gives no other transition (DESIGN CHOICE, log entry 69). R33 gives an
OVERRUN event its detail alone; its class and instance are 0 (DESIGN CHOICE, log entry 99). -/
def State.makeRoom (s : State) (n : Folio) (count : Nat) : Nat → State × Bool
  | 0 => (s, false)
  | fuel + 1 =>
    match s.roomFor n count with
    | .fits => (s, true)
    | .discard =>
      ((s.event 0x09 0 0 n.toNat 0xFFFFFF).updFol n (fun f => { f with gapNext := true }), false)
    | .drop =>
      let seq := (s.ring n).nextSeq
      let h := (s.ent n).hoop.toNat
      let s := (s.advanceRd n).updEnt n (fun e => { e with resetPending := true })
      let s := (s.event 0x09 0 0 n.toNat (seq % 2 ^ 24)).count R.HOOP_DROPPED_count 1 h
      s.makeRoom n count fuel

/-- Write a block's samples and stamp at wr_index, then advance both indices in one update (R32). -/
def State.commitBlock (s : State) (n : Folio) (b : Blk) : State :=
  let e := s.ring n
  let gap := b.gap || (s.fol n).gapNext
  let t : StampEntry := { time := BitVec.ofNat 64 b.time, first := BitVec.ofNat 32 e.wr, count := BitVec.ofNat 16 b.count,
                          invalid := b.invalid, resetMark := b.resetMark || (s.fol n).gapNext, slip := b.slip, gap := gap }
  let s := s.putFrames e e.wr b.dat
  let s := s.hwWrite (e.stampAt e.stampWr) (toLE 16 (stampNum t))
  let s := s.setRing n { e with wr := (e.wr + b.count) % 2 ^ 32, stampWr := (e.stampWr + 1) % 2 ^ 32 }
  let s := s.updFol n (fun f => { f with gapNext := false, written := f.written + b.count })
  (s.noteComplete n).checkReady n

/-- Write one block under R33. With a ring-table entry that cannot be read the block is lost, and the next one has a gap mark
(DESIGN CHOICE, log entry 90). -/
def State.writeBlock (s : State) (n : Folio) (b : Blk) : State :=
  let s := s.ringRead n
  if !s.ringOk n then s.updFol n (fun f => { f with gapNext := true }) else
  let (s, ok) := s.makeRoom n b.count (2 ^ (s.ring n).log2 + 1)
  if ok then s.commitBlock n b else s

/-- A block of a source: one shorter than 16 samples is held and merged with the next (R32). Answers the block to
write, under the stamp of the first with the marks of all of them (DESIGN CHOICE, log entry 69). -/
def State.mergeNext (s : State) (n : Folio) (b : Blk) : State × Option Blk :=
  let b' : Blk := match (s.fol n).merge with
    | some m => { time := m.time, dat := m.dat ++ b.dat, count := m.count + b.count, invalid := m.invalid || b.invalid,
                  resetMark := m.resetMark || b.resetMark, slip := m.slip || b.slip, gap := b.gap }
    | none => b
  if b'.count < 16 then
    (s.updFol n (fun f => { f with merge := some { time := b'.time, dat := b'.dat, count := b'.count, invalid := b'.invalid,
                                                   resetMark := b'.resetMark, slip := b'.slip } }), none)
  else (s.updFol n (fun f => { f with merge := none }), some b')

/-- A block of a source enters the folio's ring (R32, R33). -/
def State.ingestBlock (s : State) (n : Folio) (b : Blk) : State :=
  match s.mergeNext n b with
  | (s, some b) => s.writeBlock n b
  | (s, none) => s

/-- Samples that a ring's wr_index lies beyond its rd_index; negative where the partner lost packets that the home had (R267). -/
def RingE.lead (e : RingE) : Int := (BitVec.ofNat 32 (since e.wr e.rd)).toInt

/-- A shadow ring takes every block; one that overwrites a kept sample, or is lost with a ring-table entry that cannot be read
(DESIGN CHOICE, log entry 90), marks the shadow stale (R267). Answers whether it did. -/
def State.shadowBlock (s : State) (n : Folio) (look : Nat) (b : Blk) (t : StampEntry) : State × Bool :=
  let s := s.ringRead n
  if !s.ringOk n then (s, true) else
  let e := s.ring n
  let w : Int := (s.fol n).written
  let ovr : Int := w + b.count - 2 ^ e.log2
  let stale := decide (0 < ovr) && decide (w - e.lead - look < ovr)
  let s := s.putFrames e t.first.toNat b.dat
  let s := s.hwWrite (e.stampAt e.stampWr) (toLE 16 (stampNum t))
  let s := s.setRing n { e with wr := (t.first.toNat + b.count) % 2 ^ 32, stampWr := (e.stampWr + 1) % 2 ^ 32 }
  (s.updFol n (fun f => { f with written := f.written + b.count }), stale)

end Sys2Proof.Machine
end

