-- ==== Sys2Proof/Machine/Sources.lean ====
section
/-! DEFINITION. Sources bound to folios: flow entries and capture bindings, and their removal at CLOSING (R40, R301,
R310, R315). -/
namespace Sys2Proof.Machine

/-- A flow of the classifier's lookup. -/
def State.flow (s : State) (f : Nat) : Flow := SMap.get {} s.flows f

/-- A flow entry as its 64 bytes (Table 12-2). -/
def Flow.bytes (f : Flow) : List Byte :=
  toLE 64 (f.dport.toNat + f.ssrc.toNat * 2 ^ 16 + f.anySsrc.toNat * 2 ^ 48 + f.eth.toNat * 2 ^ 49
    + f.valid.toNat * 2 ^ 51 + f.shadow.toNat * 2 ^ 52 + f.payload.toNat * 2 ^ 53 + f.pt.toNat * 2 ^ 56
    + f.folio.toNat * 2 ^ 64 + f.channels.toNat * 2 ^ 84 + f.jitter.toNat * 2 ^ 88 + f.gapMs.toNat * 2 ^ 97
    + f.bound.toNat * 2 ^ 113 + f.baseTs.toNat * 2 ^ 128 + f.curSsrc.toNat * 2 ^ 160 + f.anchorT.toNat * 2 ^ 192
    + f.anchorI.toNat * 2 ^ 256 + f.prevSsrc.toNat * 2 ^ 288 + f.rx.toNat * 2 ^ 320 + f.late.toNat * 2 ^ 384
    + f.lost.toNat * 2 ^ 448)

/-- The state with a flow changed, in the lookup and in the flow table (R310). -/
def State.updFlow (s : State) (k : Nat) (f : Flow → Flow) : State :=
  let s := { s with flows := SMap.upd {} s.flows k f }
  let a := s.fld R.INGRESS_FLOW_BASE_base + 64 * k
  if a + 64 ≤ hbmSize then s.hwWrite a (s.flow k).bytes else s

/-- Clear the bound bit of capture entries. -/
def State.unboundEntries (s : State) (c0 n : Nat) : State :=
  (List.range n).foldl (fun s k => s.put R.AUD_CH_SRC_bound 0 (c0 + k)) s

/-- Unbind whatever source feeds a folio (R40). -/
def State.unbindSource (s : State) (n : Folio) : State :=
  let s := (s.flows.filter (fun p => p.2.bound ∧ p.2.folio = n)).foldl
    (fun s p => s.updFlow p.1 (fun f => { f with bound := false, held := [], waiting := [], started := false })) s
  let s := (s.abinds.filter (fun b => b.folio = n)).foldl (fun s b => s.unboundEntries b.c0 b.count) s
  let s := { s with abinds := s.abinds.filter (fun b => b.folio ≠ n) }
  s.updEnt n (fun e => { e with sourceBound := false })

/-- The complete gatherings in a folio's ring are discarded: each takes its sequence number (R40, R44, R396). One that
cannot be read stays as it is (DESIGN CHOICE, log entry 90). -/
def State.discardRing (s : State) (n : Folio) : State :=
  let s := s.ringRead n
  if !s.ringOk n then s else
  let e := s.ring n
  let gh := (s.par n).gh
  let k := if gh = 0 then 0 else since e.wr e.rd / gh
  if k = 0 then s else s.setRing n { e with rd := (e.rd + k * gh) % 2 ^ 32, nextSeq := (e.nextSeq + k) % 2 ^ 32 }

/-- The folio reaches CLOSING: its source is unbound and what its ring holds is discarded (R36, R40). -/
def State.enterClosing (s : State) (n : Folio) : State :=
  (((s.unbindSource n).discardRing n).updEnt n (fun e => { e with st := .closing, closePending := false })).updFol n
    (fun f => { f with flight := none, readyAt := [], merge := none, moveTo := none })

/-- The end of a release, or of a dropped gathering: CLOSING, a deferred MOVE, then IDLE or READY (R35, R36, R41). -/
def State.boundary (s : State) (n : Folio) : State :=
  let h := (s.ent n).hoop.toNat
  if (s.ent n).closePending then s.enterClosing n
  else
    let s := match (s.fol n).moveTo with | some h => s.moveNow n h | none => s
    (((s.enterIdle n).checkReady n).schedStat h).drainStat h

end Sys2Proof.Machine
end

