-- ==== Sys2Proof/Machine/Sections.lean ====
section
/-! DEFINITION. Shared operations on sections and cores: abandonment, taking a core fault, resume, hand-over, and the
expander's stall event (R50, R51, R58, R96, R123 to R127, R231, R239). -/
namespace Sys2Proof.Machine

/-- Core fault codes (Table 4-12). -/
def fIllegal : Nat := 0x01
def fBound : Nat := 0x02
def fAcc : Nat := 0x03
def fBuf : Nat := 0x04
def fDesc : Nat := 0x05
def fAlign : Nat := 0x06
def fUnreach : Nat := 0x07
def fDenied : Nat := 0x08
def fEcc : Nat := 0x09
def fResidue : Nat := 0x0A
def fState : Nat := 0x0B
def fTable : Nat := 0x0C
def fQuire : Nat := 0x0D
def fWatchdog : Nat := 0x0E
def fPriv : Nat := 0x0F

/-- Cores of a section's group. -/
def Section.cores (h : Nat) (k : Section) : List Nat := (List.range k.g).map (fun j => 8 * h + k.core0 + j)

/-- A section ends with at least stall_thr units of stall clocks: EXPANDER_STALL once (R231). -/
def State.stallEvent (s : State) (h : Nat) (k : Section) : State :=
  let thr := s.fld R.HOOP_EXP_CFG_stall_thr h
  if thr ≠ 0 ∧ thr * 1024 ≤ k.stall then
    s.event 0x04 1 h ((k.members.map (fun m => m.folio.toNat)).headD 0xFFFFF) (min (k.stall / 1024) 0xFFFFFF)
  else s

/-- One member of an abandoned section: back to READY with its gathering, or the gathering is dropped (R50, R51). -/
def State.abandonMember (s : State) (h : Nat) (counted : Bool) (m : Member) : State :=
  let n := m.folio
  if (s.ent n).st ≠ .active then s
  else if counted ∧ 1 ≤ (s.ent n).retries.toNat then
    let s := s.updEnt n (fun e => { e with retries := 0, resetPending := true, restartPending := true })
    let s := s.updFol n (fun f => { f with flight := none })
    (s.count R.HOOP_DROPPED_count 1 h).boundary n
  else
    let s := s.updEnt n (fun e => { e with retries := e.retries + (if counted then 1 else 0) })
    let s := s.updFol n (fun f => { f with flight := f.flight.map (fun g => { g with retry := true }) })
    s.enterReady n

/-- A core of a group leaves its section. -/
def State.leaveSection (s : State) (c : Nat) : State :=
  (s.updCore c (fun k => { k with sect := none, nextSect := none })).put R.CORE_STATUS_section 0 c

/-- Remove a section and return its members (R50, R51). The cores are dealt with by the caller. -/
def State.dissolve (s : State) (h : Nat) (k : Section) (counted : Bool) : State :=
  let s := (s.stallEvent h k).updHoop h (fun x => { x with sections := x.sections.filter (fun y => y.serial ≠ k.serial), idleSince := s.now })
  let s := s.count R.HOOP_ABANDONED_count 1 h
  let s := k.members.foldl (fun s m => s.abandonMember h counted m) s
  (s.schedStat h).drainStat h

/-- The hoop scheduler abandons the section a core holds, or that is held for it until it takes it up at the entry (R239, DEDUCED,
log entry 92), because the core raised a fault: the other cores of the group stop without a fault and resume with it (R50, R124). A deferred or remote fault that waits in a core so stopped stays and
is raised after it resumes (DESIGN CHOICE, log entry 70). -/
def State.abandonFor (s : State) (c : Nat) : State :=
  match (s.core c).sect.or (s.core c).nextSect with
  | none => s
  | some ser =>
    match s.sect (c / 8) ser with
    | none => s.leaveSection c
    | some k =>
      if k.phase = .committing then s
      else
        let s := (k.cores (c / 8)).foldl (fun s d =>
          let s := s.leaveSection d
          if d = c then s
          else s.updCore d (fun x => { x with wait := .none, barPass := false, resuming := true, stoppedBy := some c })) s
        s.dissolve (c / 8) k true

/-- The section is abandoned on a fenced device: each core's ST.COMMIT sets commit_refused and retires (R51, R61, R127). -/
def State.abandonFenced (s : State) (h : Nat) (k : Section) : State :=
  let s := (k.cores h).foldl (fun s d =>
    let s := s.leaveSection d
    let s := if (s.core d).wait = .stCommit then s.put R.CORE_FAULT_streak 0 d else s
    s.updCore d (fun x => if x.wait = .stCommit then { x with wait := .none, flags := x.flags ||| 8, pc := x.pc + 8 }
                          else x)) s
  s.dissolve h k false

/-- The fault refuses an access that the core's privilege does not permit (R121, R361): PRIV, or TOILE_DENIED, at issue or in
execution. One that a peer's refusal brings back is counted by that peer (R241). -/
def deniedHere (f : CFlt) : Bool := f.code == fPriv || (f.code == fDenied && !f.byPeer)

/-- A core takes a fault (R124): it records it, counts it, interrupts the Spine and has its section abandoned; it
resumes at once, or holds when hold_on_fault is set or the streak reaches 8 (R125, R127). After a software resume with no
ST.COMMIT since, the streak stands and a further fault holds again (DESIGN CHOICE, log entry 70). -/
def State.takeFault (s : State) (c : Nat) (pc : BitVec 52) (word : W64) (f : CFlt) : State :=
  let insect := (s.core c).sect.isSome
  let streak := min (s.fld R.CORE_FAULT_streak c + 1) 15
  let s := s.put R.CORE_FAULT_code f.code c
  let s := s.put R.CORE_FAULT_in_section insect.toNat c
  let s := s.put R.CORE_FAULT_at_issue f.atIssue.toNat c
  let s := s.put R.CORE_FAULT_dim f.dim c
  let s := s.put R.CORE_FAULT_operand f.operand c
  let s := s.put R.CORE_FAULT_streak streak c
  let s := s.put R.CORE_FAULT_PC_pc pc.toNat c
  let s := s.put R.CORE_FAULT_WORD_word word.toNat c
  let s := s.put R.CORE_FAULT_INFO_info f.info c
  let s := s.count R.CORE_FAULTS_count 1 c
  let s := if deniedHere f then s.count R.SEC_DENIED_count else s
  let s := if s.bit R.CORE_CTRL_fault_irq c then s.irq (.core c) else s
  let s := s.updCore c (fun k => { k with wait := .none, barPass := false, deferred := none, remoteFault := none })
  let s := s.abandonFor c
  let hold := s.bit R.CORE_CTRL_hold_on_fault c || decide (8 ≤ streak)
  let s := s.updCore c (fun k => { k with resuming := !hold })
  s.put R.CORE_STATUS_run_state (if hold then 3 else 2) c

/-- Write an s register; writes to s0 are discarded (Table 4-1). -/
def Core.setS (k : Core) (r : Nat) (v : W64) : Core := if r = 0 then k else { k with s := SMap.put 0 k.s r v }

/-- Read an s register; s0 reads as zero. -/
def Core.getS (k : Core) (r : Nat) : W64 := if r = 0 then 0 else SMap.get 0 k.s r

/-- The section word of ST.NEXT (R58). -/
def Section.word (k : Section) (G : Nat) : W64 :=
  BitVec.ofNat 64 (k.members.length * G % 2048 + k.members.length % 1024 * 2 ^ 11 + k.binder.toNat * 2 ^ 21
    + G % 128 * 2 ^ 33 + k.serial % 2 ^ 24 * 2 ^ 40)

/-- The descriptor of the member table: kind 0, INT8, 64 bytes per member (R58, Table 4-5). -/
def memberDesc (addr folios : Nat) : BitVec 256 :=
  BitVec.ofNat 256 (addr + 3 * 2 ^ 55 + 63 * 2 ^ 84 + (folios - 1) * 2 ^ 105 + 4 * 2 ^ 119)

/-- The running-maximum area of a state: its offset and bytes (R85). -/
def maxArea (p : Params) : Nat × Nat := (64 + 4 * p.sites, (2 * p.sites + 63) / 64 * 64)

/-- The running-maximum area of every working copy is zero at the section's first ST.NEXT (R85). -/
def State.zeroMaxima (s : State) (h : Nat) (k : Section) : State :=
  let (o, n) := maxArea (s.bpar k.binder)
  k.members.foldl (fun s m => s.writeLocal (storeAddr h (m.work + o)) (List.replicate n 0)) s

/-- A core's ST.NEXT receives a section: section word and member table, flags cleared, watchdog started, accumulator
tiles free (R58, R95, R126, R135). -/
def State.giveSection (s : State) (c ser : Nat) : State :=
  match s.sect (c / 8) ser with
  | none => s
  | some k =>
    let s := if k.taken = [] then s.zeroMaxima (c / 8) k else s
    let (sd, td) := (s.core c).waitArg
    let desc := memberDesc (storeAddr (c / 8) (k.table.getD 0)) k.members.length
    let w := k.word (s.bpar k.binder).frames
    let s := s.updCore c (fun x =>
      { (x.setS sd w) with
        t := SMap.put 0 x.t td desc, flags := 0, pc := x.pc + 8, wait := .none, sect := some ser, nextSect := none,
        wdStart := s.now, wdLimit := s.fld R.CORE_WDOG_limit_us c })
    let s := s.updSect (c / 8) ser (fun k => { k with taken := c % 8 :: k.taken })
    let s := s.put R.CORE_STATUS_section 1 c
    let s := s.put R.CORE_STATUS_run_state 2 c
    let s := s.put R.CORE_STATUS_clock_gated 0 c
    s.put R.CORE_MM_ALLOC_map 0 c

end Sys2Proof.Machine
end

