-- ==== Sys2Proof/Machine/Retire.lean ====
section
/-! DEFINITION. Retiring a device, as a command and as the fatal level of escalation (R329, R340, Table 13-5). -/
namespace Sys2Proof.Machine

/-- A cause of ALERT_N that PWR_ALERT_MASK leaves unmasked is active (R374). -/
def State.alertCause (s : State) : Bool :=
  let m := s.fld R.PWR_ALERT_MASK_mask
  (!m.testBit 0 && s.pwr.thermLvl.any (fun p => decide (0 < p.2)))
    || (!m.testBit 1 && (match s.pwr.slowEp with | some (t, _) => decide (t + 1000 * ms < s.now) | none => false))
    || (!m.testBit 2 && s.bit R.PWR_STAT_fault)
    || (!m.testBit 3 && s.fld R.COLO_SERVICE_state != 0)

/-- ALERT_N is high only in RUN with no such cause; it holds its level while the Colophon restarts (R343, R374). -/
def State.alertStat (s : State) : State :=
  if s.colo.shown.isSome then s
  else s.put R.PWR_STAT_alert (if s.fld R.PWR_STAT_state = 3 ∧ !s.alertCause then 0 else 1)

/-- A fatal retire abandons a section, one in stage 9 too: its cores leave it and resume, without a count of retries. -/
def State.abandonFatal (s : State) (h : Nat) (k : Section) : State :=
  let s := (k.cores h).foldl (fun (s : State) d =>
    if (s.core d).sect = some k.serial then
      (s.leaveSection d).updCore d (fun x => { x with wait := .none, barPass := false, resuming := true })
    else s) s
  s.dissolve h k false

/-- Every section of the device is abandoned (Table 13-5, step 1). -/
def State.abandonAll (s : State) : State :=
  (List.range 16).foldl (fun (s : State) h => (s.hoop h).sections.foldl (fun s k => s.abandonFatal h k) s) s

/-- LEASE.RESIGN to every member (Table 13-5, step 3); the device answers its own at once. -/
def State.sendResign (s : State) : State :=
  let e := s.fld R.TOILE_LEASE_epoch
  s.quorum.foldl (fun (s : State) m =>
    if m = s.devnum then
      let (s, ok) := s.memberResign m e
      if ok then { s with retire := { s.retire with acks := BitVec.ofNat 12 m :: s.retire.acks } } else s
    else s.post m 3 (.leaseResign (BitVec.ofNat 32 e))) s

/-- Steps 2 and 3 of Table 13-5: the device fences itself and resigns; in standalone mode the retire ends there (R278). -/
def State.retireFence (s : State) : State :=
  if s.retire.resignAt.isSome then s
  else
    let s := s.fence
    let s : State := { s with retire := { s.retire with resignAt := some s.now } }
    if s.standalone then (s.put R.COLO_SERVICE_state 2).alertStat else s.sendResign

/-- Step 4 of Table 13-5: beats and renewals stop. -/
def State.retireSilent (s : State) : State := { s with retire := { s.retire with silentAt := some s.now } }

/-- Steps 5 and 6 of Table 13-5: 2 ms after step 4 the partners have raised PEER_LOST, and the state is retired (log entry
19). -/
def State.retireRun (s : State) : State :=
  match s.retire.silentAt with
  | some t => if s.fld R.COLO_SERVICE_state = 1 ∧ t + 2 * ms ≤ s.now then (s.put R.COLO_SERVICE_state 2).alertStat else s
  | none => s

/-- A retire is logged (R338). -/
def State.retireLog (s : State) (fatal : Bool) : State := s.errLog { cls := 8, inst := 0, level := if fatal then 4 else 0, kind := 0x83 }

/-- A retire begins (Table 13-5, step 1). -/
def State.retireBegin (s : State) (fatal : Bool) : State :=
  let s := ((s.put R.COLO_SERVICE_state 1).put R.COLO_SERVICE_fatal fatal.toNat).retireLog fatal
  ({ s with retire := { since := s.now } } : State).alertStat

/-- A planned retire turns fatal. -/
def State.retireTurns (s : State) : State :=
  if s.bit R.COLO_SERVICE_fatal then s else (s.put R.COLO_SERVICE_fatal 1).retireLog true

/-- The device retires (R340): a planned retire lets sections in flight finish, a fatal one abandons them and fences at
once. It is logged (R338). -/
def State.retireNow (s : State) (fatal : Bool) : State :=
  let st := s.fld R.COLO_SERVICE_state
  if st = 2 ∨ (st = 1 ∧ !fatal) then s
  else
    let s := if st = 0 then s.retireBegin fatal else s.retireTurns
    if fatal then s.abandonAll.retireFence else s

/-! ### The Colophon's SRAM (R331) -/

/-- The Colophon reads its SRAM as it works: corrected and reported, an uncorrectable word retires the device (Table 13-3,
code 9). -/
def State.coloCheck (s : State) : State :=
  let bad := !(s.sramBad (coloAddr 0) (2 ^ 58)).isEmpty
  let s := s.sramCheck (coloAddr 0) (2 ^ 58)
  if bad then (s.sramDrop (coloAddr 0) (2 ^ 58)).retireNow true else s

/-! ### Uncorrectable words of the folio directory (R329, R331) -/

/-- n bytes of local memory from a hold an uncorrectable word of the folio directory. -/
def State.dirBad (s : State) (a n : Nat) : Bool := areaOf a == .dir && !(s.sramBad a n).isEmpty

/-- Address of a folio's entry in the directory (R30). -/
def dirAddr (n : Folio) : Nat := 0xE000000000 + 16 * n.toNat

/-- The device reads the directory entries of folios for an operation: errors are corrected and reported, and an uncorrectable
word retires the device, with no other effect (R211, R331, Table 13-3, code 7). What it does to a folio that it does not so name
follows from its own records of the section (DEDUCED, log entry 90). -/
def State.reading (s : State) (ns : List Folio) (eff : State → State) : State :=
  let t := ns.foldl (fun s n => s.checkLocal (dirAddr n) 16) s
  if ns.any (fun n => s.dirBad (dirAddr n) 16) then t.retireNow true else eff t

/-- The checks that a read of n bytes of Toile memory makes; an uncorrectable word of the folio directory retires the
device (Table 13-3, code 7). -/
def State.checked (s : State) (a n : Nat) : State :=
  match s.locate a with
  | .here o => let t := s.checkLocal o n; if s.dirBad o n then t.retireNow true else t
  | .there _ _ => s

end Sys2Proof.Machine
end

