-- ==== Sys2Proof/Machine/Pipe.lean ====
section
/-! DEFINITION. The core's instruction pipeline: the instruction word, the checks at issue, the reach of a binder program,
memory accesses of a core and the dispatch to engines (R97 to R99, R104, R107, R108, R110, R120 to R124). -/
namespace Sys2Proof.Machine

/-- Why an instruction does not complete now: a fault, remote lines still to come, or a wait. -/
inductive Stop where
  | flt (f : CFlt)
  | need (lines : List Nat)
  /-- a write waits for read leases on n bytes at an offset (R243) -/
  | lease (off n : Nat)
  | hold
deriving DecidableEq, Repr

/-- The work of one instruction. -/
abbrev M := StateT State (Except Stop)

/-- Raise a fault. -/
def flt {α : Type} (code : Nat) (info : Nat := 0) (atIssue : Bool := true) (dim operand : Nat := 0) : M α :=
  fun _ => .error (.flt { code := code, info := info, atIssue := atIssue, dim := dim, operand := operand })

/-- Raise ECC_UNCORR in execution for the uncorrectable words of an access: `info` is the place that FAULT_INFO takes. -/
def fltEcc {α : Type} (info : Nat) (words : List Nat) : M α :=
  fun _ => .error (.flt { code := fEcc, info := info, atIssue := false, words := words })

/-- Raise TOILE_DENIED in execution for a peer's refusal of an access at an address (R120, R241). -/
def fltPeer {α : Type} (info : Nat) : M α :=
  fun _ => .error (.flt { code := fDenied, info := info, atIssue := false, byPeer := true })

/-- Wait: the instruction is issued again later. -/
def hold {α : Type} : M α := fun _ => .error .hold

/-- Raise a fault when a condition holds. -/
def fltIf (b : Bool) (code : Nat) (info : Nat := 0) (atIssue : Bool := true) (dim operand : Nat := 0) : M Unit :=
  if b then flt code info atIssue dim operand else pure ()

/-- Run a counting computation and add its counts to the core's counters (R74, R160). -/
def nm {α : Type} (c : Nat) (x : NM α) : M α := do
  let (a, k) := x.run {}
  modify (fun s => ((s.count R.CORE_NUM_SAT_count k.sat c).count R.CORE_NUM_NAN_count k.nan c).count R.CORE_RC_CLAMP_count k.clamp c)
  pure a

/-! ### The instruction word (R97, R98) -/

/-- The word of an instruction from its class, operation and operand bits. -/
def word (cls op : Nat) (ops : BitVec 52) : W64 := BitVec.ofNat 64 (cls * 2 ^ 60 + op * 2 ^ 52 + ops.toNat)

/-- Operand fields (Table 4-4). -/
def fldA (o : BitVec 52) : Nat := bits o.toNat 47 5
def fldB (o : BitVec 52) : Nat := bits o.toNat 42 5
def fldC (o : BitVec 52) : Nat := bits o.toNat 37 5
def fldD (o : BitVec 52) : Nat := bits o.toNat 29 8
def fldImm (o : BitVec 52) : BitVec 32 := o.setWidth 32
/-- The t register a field names (R98). -/
def tOf (f : Nat) : Nat := f / 2
/-- The m register a field names (R98). -/
def mOf (f : Nat) : Nat := f / 4

/-- Bits hi to lo of an operand word that an encoding marks zero. -/
def zbits (hi lo : Nat) : Nat := (2 ^ (hi - lo + 1) - 1) * 2 ^ lo

/-! ### Reach of a binder program (R121, Table 4-13) -/

/-- The binder loaded on a core. -/
def State.coreBinder (s : State) (c : Nat) : Option Binder :=
  s.binder (BitVec.ofNat 12 (s.fld R.CORE_STATUS_binder c))

/-- Pages of 4 KiB that n bytes from a touch, as their first addresses in the range. -/
def pagesOf (a n : Nat) : List Nat :=
  if n = 0 then [a] else (List.range ((a + n - 1) / 4096 - a / 4096 + 1)).map (fun k => max a ((a / 4096 + k) * 4096))

/-- A normalised address lies in a region that permits the access. -/
def State.inRegion (s : State) (b : Binder) (a : Nat) (ok : Region → Bool) : Bool :=
  b.regions.any (fun r => decide (s.norm r.base ≤ a) && decide (a < s.norm r.base + r.size) && ok r)

/-- n bytes from a normalised Toile address lie in the binder's regions with the permission asked (R121, R236). -/
def State.regionsOk (s : State) (c : Nat) (a n : Nat) (wr : Bool) : Bool :=
  match s.coreBinder c with
  | none => false
  | some b => (pagesOf a n).all (fun p => s.inRegion b p (fun r => if wr then r.write && !r.immutable else r.read))

/-- What a core's access of n bytes to a Toile address meets first in the order of R122, of PRIV, DESC_BAD,
TOILE_UNREACH and TOILE_DENIED (R21, R24, R30, R121). -/
def State.reach (s : State) (c : Nat) (a n : Nat) (wr : Bool) : Option Nat :=
  match s.locate a with
  | .here o =>
    match areaOf o, areaOf (o + n - 1) with
    | .ctl, _ => some fPriv
    | .hole, _ => some fDesc
    | .dir, .dir => if wr then some fDesc else none
    | .store h, .store h' => if h = c / 8 ∧ h' = c / 8 then none else some fPriv
    | .opbuf d, .opbuf d' => if d = c ∧ d' = c then none else some fPriv
    | .hbm, .hbm => if s.regionsOk c (s.norm a) n wr then none else some fDenied
    | _, _ => some fDesc
  | .there d _ =>
    if !s.routed d then some fUnreach
    else if s.regionsOk c (s.norm a) n wr then none else some fDenied

/-- The uncorrectable words among n bytes from a Toile address, as Toile addresses; none for a peer's, which it reports
itself. -/
def State.badAt (s : State) (a n : Nat) : List Nat :=
  match s.locate a with
  | .here o => (s.badWords o n).map localAddr
  | .there _ _ => []

/-- Reading n bytes from a Toile address that the core may read. Remote lines stay until the instruction ends. -/
def rdToile (c : Nat) (a n : Nat) : M (List Byte) := do
  let s ← get
  match s.readToile c a n with
  | .bytes l => modify (fun s => s.checked a n); pure l
  | .unreach => flt fUnreach a false
  | .denied => fltPeer a
  | .ecc => fltEcc a (s.badAt a n)
  | .need ls => fun _ => .error (.need ls)

/-- An access waits until the core's earlier writes to other devices are complete: accesses of one engine complete in
program order (R106). -/
def inOrder (c : CoreId) : M Unit := do
  let s ← get
  if s.settled c then pure () else hold

/-- Run a computation; a fault is answered and leaves the state as it was. -/
def caught {α : Type} (m : M α) : M (Except CFlt α) := fun s =>
  match m s with
  | .ok (a, t) => .ok (.ok a, t)
  | .error (.flt f) => .ok (.error f, s)
  | .error e => .error e

/-- A running shadow check of the core holds a byte of n from a place of its on-chip memories, in units of 256 bytes (R105,
R333). -/
def State.shadowHolds (s : State) (c a n : Nat) : Bool :=
  (s.core c).shadowHold.any (fun r => decide (r.1 / 256 * 256 < a + n) && decide (a / 256 * 256 < r.1 + r.2))

/-- A write of on-chip memory waits for a shadow check that holds it (R333). -/
def notShadowed (c : CoreId) (a n : Nat) : M Unit := do
  let s ← get
  if s.shadowHolds c a n then hold else pure ()

/-- The requester that an instruction at a core's pc is. -/
def State.asker (s : State) (c : CoreId) (w : W64) : Requester := .core c (s.core c).pc w

/-- Writing bytes to a Toile address. A remote write covers whole lines: the lines it covers in part are read and merged
first, and the instruction's later reads of them see what it wrote (R258; log entry 10). -/
def wrToile (c : CoreId) (w : W64) (a : Nat) (bs : List Byte) : M Unit := do
  let s ← get
  match s.locate a with
  | .here o =>
    notShadowed c o bs.length
    if (s.leasesOn o bs.length).isEmpty then set (s.writeLocal o bs) else fun _ => .error (.lease o bs.length)
  | .there d o =>
    let a0 := o / 64 * 64
    let n := (o + bs.length + 63) / 64 * 64 - a0
    let base := d * 2 ^ 40 + a0
    if o % 64 = 0 ∧ bs.length % 64 = 0 then set ((s.writeToile (s.asker c w) a bs).patchRx c.val (s.norm a) bs)
    else
      let old ← rdToile c base n
      modify (fun s => (s.writeToile (s.asker c w) base (splice' old (o - a0) bs)).patchRx c.val (s.norm a) bs)
where
  splice' (l : List Byte) (o : Nat) (b : List Byte) : List Byte := l.take o ++ b ++ l.drop (o + b.length)

/-! ### Issue (R99, R104, R107, R108, R122 to R124) -/

/-- A core executes: it runs, waits for nothing, and its hoop is powered. -/
def State.executing (s : State) (c : Nat) : Bool :=
  s.mainOn && s.hoopOn (c / 8) && s.fld R.CORE_STATUS_run_state c == 2 && (s.core c).wait == .none && !(s.core c).resuming

/-- What the fetch at the pc meets: the instruction; a fault; or a line of another device still to come. -/
inductive Fetch where
  | ok
  | flt (code : Nat) (byPeer : Bool)
  | need (line : Nat)
deriving DecidableEq, Repr

/-- The number under which the remote lines of a core's program are kept. -/
def fetchKey (c : Nat) : Nat := 1024 + c

/-- The pc lies in a region of the binder that is readable and immutable (R108). -/
def State.fetchable (s : State) (c : Nat) : Bool :=
  match s.coreBinder c with
  | none => false
  | some b => s.inRegion b (s.norm (s.core c).pc.toNat) (fun r => r.read && r.immutable)

/-- What fetching at the pc meets, its faults in the order of R122: no route, no region, an uncorrectable word (R108). -/
def State.fetchAt (s : State) (c : Nat) : Fetch :=
  match s.locate (s.core c).pc.toNat with
  | .here o => if !s.fetchable c then .flt fDenied false else if s.linesOk o 8 then .ok else .flt fEcc false
  | .there d o =>
    if !s.routed d then .flt fUnreach false
    else if !s.fetchable c then .flt fDenied false
    else match s.rxLine (fetchKey c) ((d * 2 ^ 40 + o) / 64 * 64) with
      | none => .need ((d * 2 ^ 40 + o) / 64 * 64)
      | some l => match l.dat with
        | .ok _ => .ok
        | .error .ecc => .flt fEcc false
        | .error .denied => .flt fDenied true
        | .error .unreach => .flt fUnreach false

/-- A program line of another device is asked for; the one fetched before it goes. -/
def State.fetchAsk (s : State) (c : CoreId) (line : Nat) : State := (s.dropRx (fetchKey c)).askLine (.fetch c) line

/-- A parity error in the word at the pc is corrected by fetching its line again (R211, R330). -/
def State.fetched (s : State) (c : Nat) : State :=
  let pc := (s.core c).pc
  if (s.core c).icBad.contains pc then
    (s.updCore c (fun k => { k with icBad := k.icBad.filter (· != pc) })).eccCorr 3 2 c
  else s

/-- The reports that an uncorrectable word makes when a core reads it: a word of an on-chip memory by its place, any other
by its Toile address (R211, R216, R330, R331). -/
def State.eccAt (s : State) (a : Nat) : State := if 2 ^ 53 ≤ a then s.sramCheck a 1 else s.checked a 1

/-- The reports of every uncorrectable word that a fault names (R330). -/
def State.eccReport (s : State) (f : CFlt) : State :=
  if f.code = fEcc then (f.info :: f.words.filter (· != f.info)).foldl (fun s a => s.eccAt a) s else s

/-- Raise a fault at the instruction at a core's pc. -/
def State.raise (s : State) (c : Nat) (w : W64) (f : CFlt) : State :=
  (s.eccReport f).takeFault c (s.core c).pc w f

/-- A deferred fault is raised at the instruction at the pc, which changes nothing; COREc_MM_DEFER_PC names the
instruction that left it (R150). -/
def State.raiseDeferred (s : State) (c : Nat) (w : W64) (left : BitVec 52) (f : CFlt) : State :=
  (s.put R.CORE_MM_DEFER_PC_pc left.toNat c).takeFault c (s.core c).pc w { f with atIssue := false }

/-- The work of an instruction, done: what it leaves, with its next pc; or the fault, the reads or the recalls it needs. -/
def State.settle (s : State) (c : CoreId) (w : W64) (body : M (BitVec 52)) : State :=
  match body s with
  | .ok (pc, t) => (t.dropRx c.val).updCore c (fun k => { k with pc := pc })
  | .error (.flt f) => (s.dropRx c.val).raise c w f
  | .error (.need ls) => s.askLines (s.asker c w) ls
  | .error (.lease o n) => s.recallAll (s.leasesOn o n)
  | .error .hold => s

/-- The zero bits of an instruction that was fetched, then its work. -/
def State.perform (s : State) (c : CoreId) (w : W64) (zeros : Nat) (body : M (BitVec 52)) : State :=
  if w.toNat &&& zeros ≠ 0 then s.raise c w { code := fIllegal } else s.settle c w body

/-- An instruction in flight will fault in execution; what it would have written is not there, so that later instructions
wait for it (R105, R123). -/
def Core.faulting (k : Core) : Bool :=
  (k.mm ++ k.rc ++ k.vx ++ k.at' ++ k.dm).any (fun q => q.fault.isSome && !q.defer)

/-- One instruction of a core that executes: the pending remote fault, the deferred fault, the fetch, then its work. -/
def State.issueNow (s : State) (c : CoreId) (w : W64) (zeros : Nat) (body : M (BitVec 52)) : State :=
  match (s.core c).remoteFault with
  | some (pc, fw, f) => s.takeFault c pc fw f
  | none => match (s.core c).deferred with
    | some (pc, _, f) => s.raiseDeferred c w pc f
    | none =>
      if (s.core c).faulting then s
      else match s.fetchAt c with
        | .flt code peer => (s.dropRx (fetchKey c)).raise c 0 { code := code, info := (s.core c).pc.toNat, byPeer := peer }
        | .need line => s.fetchAsk c line
        | .ok => (s.fetched c).perform c w zeros body

/-- The command of a core instruction: nothing unless the core executes. -/
def State.issue (s : State) (c : CoreId) (w : W64) (zeros : Nat) (body : M (BitVec 52)) : State :=
  if !s.executing c then s else s.within (s.issueNow c w zeros body)

/-- The work of an instruction that goes on to the next word. -/
def thenNext (c : CoreId) (m : M Unit) : M (BitVec 52) := do
  m
  let s ← get
  pure ((s.core c).pc + 8)

/-- A core's engine queues are empty. -/
def Core.quiet (k : Core) : Bool := k.mm.isEmpty && k.rc.isEmpty && k.vx.isEmpty && k.at'.isEmpty && k.dm.isEmpty

/-- An instruction of R107's list waits until every earlier one has passed the last point at which it can fault: those that
can leave a deferred fault are complete, and the writes to other devices are acknowledged. A deferred fault they leave is
raised when it is issued again (R107, R150). -/
def beforeWrite (c : CoreId) : M Unit := do
  let s ← get
  let k := s.core c
  if k.mm.isEmpty && k.rc.isEmpty && k.vx.isEmpty && k.at'.isEmpty && s.settled c then pure () else hold

/-! ### Registers -/

def getS (c : CoreId) (r : Nat) : M W64 := do let s ← get; pure ((s.core c).getS r)
def setS (c : CoreId) (r : Nat) (v : W64) : M Unit := modify (fun s => s.updCore c (fun k => k.setS r v))
def getT (c : CoreId) (r : Nat) : M (BitVec 256) := do let s ← get; pure (SMap.get 0 (s.core c).t r)
def setT (c : CoreId) (r : Nat) (v : BitVec 256) : M Unit :=
  modify (fun s => s.updCore c (fun k => { k with t := SMap.put 0 k.t r v }))
/-- A v register read by an engine: an uncorrectable word of it is reported, and left for the instruction's completion
(R190, R211). -/
def getV (c : CoreId) (r : Nat) : M (BitVec 2048) := do
  let s ← get
  match s.sramBad (vrfAddr c r 0) 256 with
  | [] => set (s.sramCheck (vrfAddr c r 0) 256)
  | a :: _ =>
    set ((s.sramCheck (vrfAddr c r 0) 256).updCore c (fun k =>
      { k with eccSeen := some (k.eccSeen.getD { code := fEcc, info := a, atIssue := false }) }))
  pure (SMap.get 0 (s.core c).v r)
/-- A v register as stored, where an instruction writes all of it or reads it only to keep lanes. -/
def peekV (c : CoreId) (r : Nat) : M (BitVec 2048) := do let s ← get; pure (SMap.get 0 (s.core c).v r)
/-- A v register read by a data movement: an uncorrectable word of it faults (R211). -/
def getVNow (c : CoreId) (r : Nat) : M (BitVec 2048) := do
  let s ← get
  match s.sramBad (vrfAddr c r 0) 256 with
  | [] => set (s.sramCheck (vrfAddr c r 0) 256)
  | a :: l => fltEcc a l
  pure (SMap.get 0 (s.core c).v r)
def setV (c : CoreId) (r : Nat) (v : BitVec 2048) : M Unit :=
  modify (fun s => (s.updCore c (fun k => { k with v := SMap.put 0 k.v r v })).sramClear (vrfAddr c r 0) 256)
def getM (c : CoreId) (r : Nat) : M (BitVec 256) := do let s ← get; pure (SMap.get 0 (s.core c).m r)
def setM (c : CoreId) (r : Nat) (v : BitVec 256) : M Unit :=
  modify (fun s => s.updCore c (fun k => { k with m := SMap.put 0 k.m r v }))
/-- Set flag bits (R95). -/
def setFlag (c : CoreId) (bit : Nat) : M Unit := modify (fun s => s.updCore c (fun k => { k with flags := k.flags ||| (1#32 <<< bit) }))

/-- A 32-bit immediate as a 64-bit two's complement value. -/
def sx (i : BitVec 32) : W64 := i.signExtend 64

end Sys2Proof.Machine
end

