-- ==== Sys2Proof/Machine/St.lean ====
section
/-! DEFINITION. The ST instructions, illegal instructions, resume after a fault and the watchdog (R57 to R61, R99, R124
to R127). -/
namespace Sys2Proof.Machine

/-- Class of the ST instructions (Table 4-3). -/
def clsST : Nat := 6

/-- The section a core holds. -/
def State.held (s : State) (c : CoreId) : Option Section := (s.core c).sect.bind (fun ser => s.sect (c.val / 8) ser)

/-- The section a core holds, or ILLEGAL_OP (R99). -/
def needSection (c : CoreId) : M Section := do
  let s ← get
  match s.held c with
  | some k => pure k
  | none => flt fIllegal

/-- Change the section a core holds. -/
def updHeld (c : CoreId) (f : Section → Section) : M Unit :=
  modify (fun s => match (s.core c).sect with
    | some ser => s.updSect (c.val / 8) ser f
    | none => s)

/-- The work of ST.NEXT at issue, and the next pc. -/
def goStNext (c : CoreId) (ops : BitVec 52) : M (BitVec 52) := do
    let s ← get
    let k := s.core c
    if k.sect.isSome then flt fIllegal
    else
      modify (fun s => s.updCore c (fun x => { x with
        waitArg := (fldA ops, tOf (fldB ops)), waitWord := word clsST 1 ops, wait := .stNext }))
      modify (fun s => (s.put R.CORE_STATUS_run_state 1 c).put R.CORE_STATUS_clock_gated 1 c)
      match k.nextSect with
      | some ser => modify (fun s => s.giveSection c ser)
      | none => pure ()
      let s ← get
      pure (s.core c).pc

/-- ST.NEXT: the core waits, clock-gated, until its group is given a section; a section held for it is taken at once
(R58, R239). -/
def execStNext (c : CoreId) (ops : BitVec 52) (s : State) : Out :=
  .next (s.issue c (word clsST 1 ops) (zbits 42 42 ||| zbits 41 0) (goStNext c ops))

/-- A token record without the flags common to its gathering (Table 2-10). -/
def tokenRecord (folio binder seq f tok score bflags : Nat) : BitVec 128 :=
  BitVec.ofNat 128 (folio % 2 ^ 20 + binder % 2 ^ 12 * 2 ^ 20 + seq % 2 ^ 32 * 2 ^ 32 + f % 64 * 2 ^ 64
    + tok % 2 ^ 20 * 2 ^ 70 + score % 2 ^ 16 * 2 ^ 90 + bflags % 256 * 2 ^ 120)

/-- Change member m of a section. -/
def Section.updMember (k : Section) (m : Nat) (f : Member → Member) : Section :=
  { k with members := k.members.mapIdx (fun i x => if i = m then f x else x) }

/-- Set bits of the flags of the last of a list of records. -/
def flagLast (l : List (BitVec 128)) (f : BitVec 22) : List (BitVec 128) :=
  l.mapIdx (fun i r => if i + 1 = l.length then r ||| (f.setWidth 128 <<< 106) else r)

/-- The work of ST.EMIT at issue. -/
def workStEmit (c : CoreId) (ops : BitVec 52) : M Unit := do
    let k ← needSection c
    let m ← getS c (fldA ops)
    let f ← getS c (fldB ops)
    let v ← getS c (fldC ops)
    let s ← get
    let G := (s.bpar k.binder).frames
    fltIf (decide (k.members.length ≤ m.toNat)) fBound m.toNat
    fltIf (decide (G ≤ f.toNat)) fBound f.toNat (operand := 1)
    fltIf (v.toNat % 2 ^ 20 == 0xFFFFF) fBound v.toNat (operand := 2)
    match k.members[m.toNat]? with
    | none => pure ()
    | some x =>
      if x.recs.length = 64 then
        setFlag c 2
        updHeld c (fun k => k.updMember m.toNat (fun x => { x with recs := flagLast x.recs 0x10 }))
        modify (fun s => s.count R.HOOP_EMIT_DROP_count 1 (c.val / 8))
      else
        let r := tokenRecord x.folio.toNat k.binder.toNat x.seq.toNat f.toNat v.toNat (bits v.toNat 32 16) (fldD ops)
        updHeld c (fun k => k.updMember m.toNat (fun x => { x with recs := x.recs ++ [r] }))

/-- ST.EMIT holds one token record of a member, or marks the last truncated when 64 are held (R59). -/
def execStEmit (c : CoreId) (ops : BitVec 52) (s : State) : Out :=
  .next (s.issue c (word clsST 2 ops) (zbits 28 0) (thenNext c (workStEmit c ops)))

/-- The work of ST.RESET at issue. -/
def workStReset (c : CoreId) (ops : BitVec 52) : M Unit := do
    let k ← needSection c
    let m ← getS c (fldB ops)
    fltIf (decide (k.members.length ≤ m.toNat)) fBound m.toNat (operand := 1)
    updHeld c (fun k => k.updMember m.toNat (fun x => { x with resetReq := true }))

/-- ST.RESET asks for a member's reset when the section commits (R60). -/
def execStReset (c : CoreId) (ops : BitVec 52) (s : State) : Out :=
  .next (s.issue c (word clsST 3 ops) (zbits 51 47 ||| zbits 41 0) (thenNext c (workStReset c ops)))

/-- The core's ST.COMMIT is counted; the last of the group makes the section wait for stage 9, or abandons it on a fenced
device (R51, R61). With several cores in a group the fenced abandonment comes at the last one's ST.COMMIT (DESIGN CHOICE,
log entry 69). -/
def State.noteCommit (s : State) (c : CoreId) (k : Section) : State :=
  let h := c.val / 8
  let s := s.updSect h k.serial (fun k => { k with committed := (c.val % 8) :: k.committed })
  match s.sect h k.serial with
  | none => s
  | some k =>
    if k.committed.length < k.g then s
    else if s.fenced then s.abandonFenced h k
    else s.updSect h k.serial (fun k => { k with phase := .commitWait })

/-- The work of ST.COMMIT at issue, and the next pc. -/
def goStCommit (c : CoreId) (ops : BitVec 52) : M (BitVec 52) := do
    let k ← needSection c
    modify (fun s => s.updCore c (fun x => { x with wait := .stCommit, waitWord := word clsST 4 ops }))
    modify (fun s => s.noteCommit c k)
    let s ← get
    pure (s.core c).pc

/-- ST.COMMIT: the core waits for stage 9 to end; on a fenced device the section is abandoned, commit_refused is set and
the instruction retires (R51, R61). -/
def execStCommit (c : CoreId) (ops : BitVec 52) (s : State) : Out :=
  .next (s.issue c (word clsST 4 ops) (zbits 51 0) (goStCommit c ops))

/-- The operations listed for each class (Tables 2-8, 4-8 to 4-10, 5-2, 6-1, 7-1, 8-1). -/
def listedOps (cls : Nat) : List Nat :=
  match cls with
  | 0 => (List.range 0x16).map (· + 1) ++ [0x18, 0x19, 0x20, 0x21, 0x22, 0x23]
          ++ (List.range 10).map (· + 0x28) ++ [0x38, 0x39, 0x3A, 0x3B, 0x3C, 0x3D, 0x7F]
  | 1 => (List.range 11).map (· + 1)
  | 2 => (List.range 5).map (· + 1)
  | 3 => vxOps
  | 4 => (List.range 4).map (· + 1)
  | 5 => [1, 2]
  | 6 => [1, 2, 3, 4]
  | 7 => [1, 2]
  | _ => []
where
  vxOps : List Nat := (List.range 14).map (· + 1) ++ (List.range 5).map (· + 0x10) ++ (List.range 5).map (· + 0x20)

/-- ILLEGAL_INSTRUCTION: a word of a reserved class or an unlisted operation raises ILLEGAL_OP at issue (R99). -/
def execIllegalInstruction (c : CoreId) (w : BitVec 64) (s : State) : Out :=
  .next (if (listedOps (bits w.toNat 60 4)).contains (bits w.toNat 52 8) then s
    else s.issue c w 0 (flt fIllegal))

/-- Address of a core's COREc_CTRL. -/
def coreCtrlAddr (c : CoreId) : Nat := 0xF002000000 + c.val * 0x10000

/-- RESUME: a write of COREc_CTRL.resume releases a held core (R125). -/
def execCoreResumeWrite (p : Port) (c : CoreId) (s : State) : Out :=
  .next (s.regCmd p (coreCtrlAddr c) (fun s =>
    if s.fld R.CORE_STATUS_run_state c = 3 then
      (s.updCore c (fun k => { k with resuming := true })).put R.CORE_STATUS_run_state 2 c
    else s))

/-- A core may resume: every instruction dispatched before has completed, and a core stopped with another waits for that
one's resume (R124, R125). -/
def State.mayResume (s : State) (c : CoreId) : Bool :=
  let k := s.core c
  k.resuming && k.quiet && s.settled c && k.stoppedBy.isNone && s.hoopOn (c.val / 8) && s.fld R.CORE_STATUS_run_state c == 2

/-- One core resumes at COREc_ENTRY with flags cleared, holding no section and no accumulator tile (R95, R125, R135). -/
def State.resumeAt (s : State) (c : Nat) : State :=
  (s.updCore c (fun k => { k with
    pc := BitVec.ofNat 52 (s.fld R.CORE_ENTRY_entry c), flags := 0, wait := .none, resuming := false,
    stoppedBy := none, sect := none, nextSect := none })).put R.CORE_MM_ALLOC_map 0 c

/-- CORE_RESUME: the core resumes; the cores of its group that were stopped with it are free to resume too (R125). -/
def execCoreResume (c : CoreId) (s : State) : Out :=
  .next (s.mainEv (fun s =>
    if !s.mayResume c then s
    else
      let s := s.resumeAt c
      (List.range 8).foldl (fun (s : State) j =>
        let d := c.val / 8 * 8 + j
        if (s.core d).stoppedBy = some c.val then s.updCore d (fun k => { k with stoppedBy := none }) else s) s))

/-- Microseconds a core has held its section. -/
def State.heldUs (s : State) (c : CoreId) : Nat := (s.now - (s.core c).wdStart) / 1000

/-- WATCHDOG: limit_us has passed since the hand-over and stage 9 has not started. It names the instruction in which the core
waits; at a boundary it has no word (R126). -/
def execWatchdog (c : CoreId) (s : State) : Out :=
  .next (s.mainEv (fun s =>
    let k := s.core c
    match s.held c with
    | none => s
    | some x =>
      if x.phase = .committing ∨ k.wdLimit = 0 ∨ s.now < k.wdStart + k.wdLimit * 1000 ∨ k.resuming then s
      else s.takeFault c k.pc (if k.wait = .none ∧ !k.barPass then 0 else k.waitWord) { code := fWatchdog, info := s.heldUs c, atIssue := false }))

end Sys2Proof.Machine
end

