-- ==== Sys2Proof/Machine/Operands.lean ====
section
/-! DEFINITION. Tensor descriptors as operands: layout, evaluation at issue, extents, and reading and writing elements in
each memory kind (R100 to R103, R107, R135, R211). -/
namespace Sys2Proof.Machine

/-! ### The descriptor (R100, Table 4-5) -/

/-- A tensor descriptor by its fields. The lists hold dimensions 0 to 3; strides are in bytes. -/
structure Desc where
  base : Nat
  kind : Nat
  fmt : Nat
  group : Nat
  comp : Nat
  scaleOn : Bool
  scaleDesc : Nat
  pad : Nat
  cap : List Nat
  stride : List Nat
  mode : List Nat
  src : List Nat
  rsv : Nat
deriving DecidableEq, Repr

/-- The fields of a descriptor word. -/
def descOf (w : BitVec 256) : Desc :=
  let v := w.toNat
  { base := bits v 0 52, kind := bits v 52 3, fmt := bits v 55 4, group := bits v 59 2, comp := bits v 61 2,
    scaleOn := v.testBit 63, scaleDesc := bits v 64 4, pad := bits v 68 16,
    cap := [bits v 84 14 + 1, bits v 105 14 + 1, bits v 154 14 + 1, bits v 203 14 + 1],
    stride := [0, bits v 119 28 * 16, bits v 168 28 * 16, bits v 217 28 * 16],
    mode := [bits v 98 2, bits v 147 2, bits v 196 2, bits v 245 2],
    src := [bits v 100 5, bits v 149 5, bits v 198 5, bits v 247 5], rsv := bits v 252 4 }

/-- Capacity of dimension d. -/
def Desc.capAt (t : Desc) (d : Nat) : Nat := t.cap.getD d 1
/-- Stride of dimension d in bytes. -/
def Desc.strideAt (t : Desc) (d : Nat) : Nat := t.stride.getD d 0
/-- Bits of an element. -/
def Desc.ebits (t : Desc) : Nat := elemBits t.fmt

/-- span(d) of R103: bytes that dimensions 0 to d cover. -/
def Desc.span (t : Desc) : Nat → Nat
  | 0 => (t.capAt 0 * t.ebits + 7) / 8
  | d + 1 => (t.capAt (d + 1) - 1) * t.strideAt (d + 1) + t.span d

/-- The extent E of R101. -/
def Desc.extent (t : Desc) : Nat := t.span 3

/-- Group size of the group field: 0 when none. -/
def Desc.groupSize (t : Desc) : Nat := match t.group with | 1 => 32 | 2 => 64 | 3 => 128 | _ => 0

/-- An evaluated operand: the descriptor and its bounds; with `known` false a bound could not be read, and the capacities stand
there. -/
structure Tens where
  d : Desc
  b : List Nat
  known : Bool := true
deriving DecidableEq, Repr

/-- Bound of dimension d. -/
def Tens.n (t : Tens) (d : Nat) : Nat := t.b.getD d 1
/-- Some bound is 0. -/
def Tens.empty (t : Tens) : Bool := t.b.any (· == 0)

/-- The lowest bit of mode d in the descriptor. -/
def modeBit (d : Nat) : Nat := [98, 147, 196, 245].getD d 0
/-- The lowest bit of stride d in the descriptor. -/
def strideBit (d : Nat) : Nat := [0, 119, 168, 217].getD d 0

/-- The operand number of a late-bound word in COREc_FAULT. -/
def lateOp : Nat := 3

/-- One bound (R103): the capacity, a scalar register, or a 32-bit word of local memory read now. -/
def bound (c : CoreId) (t : Desc) (opnd d : Nat) : M Nat := do
  match t.mode.getD d 0 with
  | 0 => pure (t.capAt d)
  | 1 => let v ← getS c (t.src.getD d 0); pure v.toNat
  | 2 =>
    let v ← getS c (t.src.getD d 0)
    let a := v.toNat
    fltIf (decide (2 ^ 40 ≤ a)) fDesc a (operand := lateOp)
    fltIf (a % 4 ≠ 0) fAlign a (operand := lateOp)
    let s ← get
    match s.reach c (localAddr a) 4 false with
    | some code => flt code (localAddr a) (operand := lateOp)
    | none =>
      match s.readLocal a 4 with
      | .bytes l => modify (fun s => s.checked (localAddr a) 4); pure (leNat l)
      | _ => flt fEcc (localAddr a) true 0 lateOp
  | _ => flt fDesc (modeBit d) (operand := opnd)

/-- The four bounds in order. -/
def boundsOf (c : CoreId) (t : Desc) (opnd : Nat) : M (List Nat) := (List.range 4).mapM (bound c t opnd)

/-- The first field of a descriptor that breaks R101 or R102, by its lowest bit. -/
def Desc.badField (t : Desc) (scale : Desc) (wr : Bool) : Option Nat :=
  if 5 ≤ t.kind then some 52
  else if t.kind = 0 ∧ 2 ^ 40 ≤ t.base then some 40
  else if 0xB ≤ t.fmt ∨ (t.kind = 3 ∧ t.fmt ≠ 8) then some 55
  else if t.group ≠ 0 ∧ 4 ≤ t.fmt then some 59
  else if t.comp = 3 ∨ (t.comp ≠ 0 ∧ (wr ∨ 2 ≤ t.kind)) then some 61
  else if t.comp ≠ 0 ∧ t.base % 4096 ≠ 0 then some 0
  else if t.scaleOn ∧ (scale.fmt ≠ 0xA ∨ scale.scaleOn ∨ scale.comp ≠ 0) then some 64
  else if t.rsv ≠ 0 then some 252
  else none

/-- Where a kind's memory lies, as one number line: Toile addresses, with the core's buffers and its hoop's state store at
their windows, and the accumulator memory above. -/
def physAddr (s : State) (c : CoreId) (t : Desc) : Nat :=
  match t.kind with
  | 0 => localAddr t.base
  | 1 => s.norm t.base
  | 2 => localAddr (opbufAddr c t.base)
  | 3 => accAddr c t.base
  | _ => localAddr (storeAddr (c.val / 8) t.base)

/-- The Toile address of a tensor of kind 0 or 1. -/
def Desc.toile (t : Desc) : Nat := if t.kind = 0 then localAddr t.base else t.base

/-- The extent lies within one working copy of the section held (Table 4-6). -/
def State.inWorkingCopy (s : State) (c : CoreId) (base n : Nat) : Bool :=
  match s.held c with
  | none => false
  | some k => k.members.any (fun m => decide (m.work ≤ base) && decide (base + n ≤ m.work + (s.bpar k.binder).copy))

/-- The limit of the kind (Table 4-6). -/
def checkLimit (c : CoreId) (t : Desc) (opnd : Nat) (wr : Bool) : M Unit := do
  let s ← get
  let E := t.extent
  let e := t.base + E
  match t.kind with
  | 2 => fltIf (decide (0x100000 < e)) fBuf e (operand := opnd)
  | 3 => fltIf (decide (0x40000 < e)) fAcc e (operand := opnd)
  | 4 => fltIf (!s.inWorkingCopy c t.base E) fState e (operand := opnd)
  | _ =>
    match s.reach c t.toile E wr with
    | some code => flt code t.toile (operand := opnd)
    | none => pure ()

/-- Written elements must not overlap (R103). -/
def checkSpans (t : Desc) (opnd : Nat) : M Unit :=
  match [1, 2, 3].find? (fun d => decide (1 < t.capAt d) && decide (t.strideAt d < t.span (d - 1))) with
  | some d => flt fDesc (strideBit d) (operand := opnd)
  | none => pure ()

/-- The checks of R103 on a descriptor, without the zero-bound step. -/
def evalDesc (c : CoreId) (t : Desc) (opnd : Nat) (wr : Bool) : M Tens := do
  let b ← boundsOf c t opnd
  let sc ← getT c t.scaleDesc
  match t.badField (descOf sc) wr with
  | some bit => flt fDesc bit (operand := opnd)
  | none => pure ()
  fltIf (t.kind ≠ 3 ∧ t.comp = 0 ∧ t.base % 16 ≠ 0) fAlign t.base (operand := opnd)
  match [0, 1, 2, 3].find? (fun d => decide (t.capAt d < b.getD d 1)) with
  | some d => flt fBound (b.getD d 1) true d opnd
  | none => pure ()
  checkLimit c t opnd wr
  if wr then checkSpans t opnd
  pure { d := t, b := b }

/-- Evaluate the descriptor of a t register (R103). -/
def evalT (c : CoreId) (r opnd : Nat) (wr : Bool) : M Tens := do
  let w ← getT c r
  evalDesc c (descOf w) opnd wr

/-- Accumulator tiles that bytes [base, base + n) touch. -/
def tilesTouched (base n : Nat) : List Nat :=
  if n = 0 then [] else (List.range ((base + n - 1) / 16384 - base / 16384 + 1)).map (· + base / 16384)

/-- A write through kind 3 needs its tiles allocated (R135). -/
def checkAlloc (c : CoreId) (t : Tens) (opnd : Nat) : M Unit := do
  let s ← get
  let l := tilesTouched t.d.base t.d.extent
  fltIf (t.d.kind = 3 ∧ !l.all (fun k => (s.fld R.CORE_MM_ALLOC_map c).testBit k)) fAcc l.length (operand := opnd)

/-! ### Several fault conditions of one instruction (R122) -/

/-- Checks that gather their faults, each with the place of its operand in the order A, B, C. -/
abbrev K := StateT (List (Nat × CFlt)) M

/-- Run a check of the operand at place o: its fault is gathered, and d answers in its stead on the state as it was. -/
def gather {α : Type} (o : Nat) (m : M α) (d : State → α) : K α := fun l s =>
  match m s with
  | .ok (a, t) => .ok ((a, l), t)
  | .error (.flt f) => .ok ((d s, l ++ [(o, f)]), s)
  | .error e => .error e

/-- A check of the operand at place o. -/
def chk (o : Nat) (m : M Unit) : K Unit := gather o m (fun _ => ())

/-- Gather a fault of an operand when a condition holds. -/
def chkIf (b : Bool) (code : Nat) (info : Nat := 0) (atIssue : Bool := true) (dim operand : Nat := 0) : K Unit :=
  chk operand (fltIf b code info atIssue dim operand)

/-- A check of the operand at place o that rests on the bounds of the operands given, made where they are known (R122). -/
def chkB (ts : List Tens) (o : Nat) (m : M Unit) : K Unit := if ts.all (·.known) then chk o m else pure ()

/-- Gather a fault of the bounds of the operands given. -/
def chkBIf (ts : List Tens) (b : Bool) (info : Nat) (dim operand : Nat) : K Unit :=
  chkB ts operand (fltIf b fBound info true dim operand)

/-- An instruction's own checks of its bounds, which an operand with a zero bound makes void: that operand's evaluation has
retired the instruction as a no-op (R103; DEDUCED, log entry 74). -/
def unlessNoop (ts : List Tens) (k : K Unit) : K Unit := if ts.any (·.empty) then pure () else k

/-- No fault gathered so far is of the operand at place o. -/
def soundAt (o : Nat) : K Bool := do
  let l ← get
  pure (l.all (fun p => p.1 ≠ o))

/-- No fault has been gathered so far. -/
def soundAll : K Bool := do
  let l ← get
  pure l.isEmpty

/-- The tiles of a written operand are allocated (R135); where the operand has a fault already, that one comes first. -/
def allocK (c : CoreId) (t : Tens) (opnd : Nat) : K Unit := do
  if ← soundAt opnd then chk opnd (checkAlloc c t opnd)

/-- The descriptor of a t register with its bounds where they can be read, and its capacities where they cannot. -/
def looseT (c : CoreId) (r : Nat) (s : State) : Tens :=
  let t := descOf (SMap.get 0 (s.core c).t r)
  match boundsOf c t 0 s with
  | .ok (b, _) => { d := t, b := b }
  | .error _ => { d := t, b := t.cap, known := false }

/-- Evaluate the descriptor of a t register, gathering its fault (R103, R122). -/
def evalK (c : CoreId) (r opnd : Nat) (wr : Bool) : K Tens := gather opnd (evalT c r opnd wr) (looseT c r)

/-- The scale descriptor of an operand, evaluated (R138). -/
def evalScale (c : CoreId) (t : Tens) (opnd : Nat) : M (Option Tens) :=
  if t.d.scaleOn then do let x ← evalT c t.d.scaleDesc opnd false; pure (some x) else pure none

/-- The scale descriptor of an operand, evaluated with its fault gathered (R122, R138). -/
def scaleK (c : CoreId) (t : Tens) (opnd : Nat) : K (Option Tens) :=
  if t.d.scaleOn then do let x ← evalK c t.d.scaleDesc opnd false; pure (some x) else pure none

/-- The order of R122; QUIRE_BAD comes after all (R201). -/
def faultOrder : List Nat :=
  [fIllegal, fPriv, fDesc, fAlign, fBound, fState, fBuf, fAcc, fUnreach, fDenied, fEcc]

/-- Place of a gathered fault: by R122, then by operand. -/
def faultPlace (p : Nat × CFlt) : Nat := 4 * faultOrder.idxOf p.2.code + p.1

/-- The first of two gathered faults; the earlier one gathered where they tie. -/
def firstFault (p q : Nat × CFlt) : Nat × CFlt := if faultPlace q < faultPlace p then q else p

/-- Answer what gathering checks answer, or raise the first of their faults in the order of R122. -/
def ranked {α : Type} (k : K α) : M α := fun s =>
  match k [] s with
  | .ok ((a, []), t) => .ok (a, t)
  | .ok ((_, p :: l), _) => .error (.flt (l.foldl firstFault p).2)
  | .error e => .error e

/-- Retire as a no-op with flags.empty when some operand has a zero bound, else go on (R103). -/
def unlessEmpty (c : CoreId) (ts : List Tens) (m : M Unit) : M Unit :=
  if ts.any (·.empty) then setFlag c 0 else m

/-! ### Element memory -/

/-- The place of a byte of an on-chip memory that a kind names. -/
def placeOf (c : CoreId) (kind a : Nat) : Nat :=
  match kind with
  | 2 => opbufAddr c a
  | 3 => accAddr c a
  | _ => storeAddr (c.val / 8) a

/-- The location of an uncorrectable word that FAULT_INFO names: its place, as a Toile address where it has one (log entry
14). -/
def faultLoc (a : Nat) : Nat := if 2 ^ 53 ≤ a then a else localAddr a

/-- Bytes of an on-chip memory that a kind names, as stored. -/
def State.sramRead (s : State) (c : CoreId) (kind a n : Nat) : List Byte :=
  if kind = 3 then (List.range n).map (fun k => SMap.get 0 (s.core c).acc (a + k)) else s.peek (placeOf c kind a) n

/-- The fault that uncorrectable words leave: the first is named, every one is to be reported (R211, R330). -/
def badFault : List Nat → Option CFlt
  | [] => none
  | a :: l => some { code := fEcc, info := faultLoc a, atIssue := false, words := l.map faultLoc }

/-- Put bytes into accumulator memory. -/
def accPoke (m : List Host.Cell) (a : Nat) (bs : List Byte) : List Host.Cell := pokeBytes m a bs

/-- Read byte ranges of a tensor's memory: the bytes, and the fault that uncorrectable on-chip words among them, reported,
leave. HBM and Toile errors are raised in execution. -/
def readRanges (c : CoreId) (t : Desc) (rs : List (Nat × Nat)) : M (List (List Byte) × Option CFlt) := do
  let s ← get
  if 2 ≤ t.kind then
    set (rs.foldl (fun (s : State) r => s.sramCheck (placeOf c t.kind r.1) r.2) s)
    pure (rs.map (fun r => s.sramRead c t.kind r.1 r.2), badFault (rs.flatMap (fun r => s.sramBad (placeOf c t.kind r.1) r.2)))
  else
    let ad (o : Nat) : Nat := if t.kind = 0 then localAddr o else o
    let need := rs.flatMap (fun r => match s.readToile c (ad r.1) r.2 with | .need ls => ls | _ => [])
    if need ≠ [] then fun _ => .error (.need need)
    else
      let l ← rs.mapM (fun r => rdToile c (ad r.1) r.2)
      pure (l, none)

/-- Write bytes at an offset of a tensor's memory. -/
def writeAt (c : CoreId) (w : W64) (t : Desc) (o : Nat) (bs : List Byte) : M Unit :=
  match t.kind with
  | 0 => wrToile c w (localAddr o) bs
  | 1 => wrToile c w o bs
  | 2 => do
    notShadowed c (opbufAddr c o) bs.length
    modify (fun s => s.writeLocal (opbufAddr c o) bs)
  | 3 => do
    notShadowed c (accAddr c o) bs.length
    modify (fun s => (s.updCore c (fun k => { k with acc := accPoke k.acc o bs })).sramClear (accAddr c o) bs.length)
  | _ => modify (fun s => s.writeLocal (storeAddr (c.val / 8) o) bs)

/-- Codes of n elements of `e` bits from bytes; two 4-bit codes share a byte, the lower index low (R69). -/
def unpack (e : Nat) (l : List Byte) (n : Nat) : List Nat :=
  let v := l.toArray
  (List.range n).map (fun i =>
    if e = 4 then bits (v.getD (i / 2) 0).toNat (4 * (i % 2)) 4
    else leNat ((List.range (e / 8)).map (fun k => v.getD (i * (e / 8) + k) 0)))

/-- Bytes of element codes; with an odd number of 4-bit codes the last high nibble keeps `keep`. -/
def pack (e : Nat) (keep : Byte) : List Nat → List Byte
  | [] => []
  | x :: xs =>
    if e = 4 then
      match xs with
      | [] => [BitVec.ofNat 8 (x % 16 + keep.toNat / 16 * 16)]
      | y :: ys => BitVec.ofNat 8 (x % 16 + y % 16 * 16) :: pack e keep ys
    else toLE (e / 8) x ++ pack e keep xs

/-- Byte offset in its memory of the row at indices i1, i2, i3. -/
def Desc.rowAt (t : Desc) (i1 i2 i3 : Nat) : Nat :=
  t.base + i1 * t.strideAt 1 + i2 * t.strideAt 2 + i3 * t.strideAt 3

/-- Bytes of n elements of a row. -/
def Desc.rowBytes (t : Desc) (n : Nat) : Nat := (n * t.ebits + 7) / 8

/-- The values of a block of elements, dimension 0 innermost. -/
structure TVal where
  n0 : Nat
  n1 : Nat
  n2 : Nat
  n3 : Nat
  dat : Array Nat
deriving DecidableEq, Repr

/-- The code at an index. -/
def TVal.at (v : TVal) (i0 i1 i2 i3 : Nat) : Nat := v.dat.getD (i0 + v.n0 * (i1 + v.n1 * (i2 + v.n2 * i3))) 0

/-- Row indices of n1 by n2 by n3 rows, dimension 3 outermost. -/
def rowIdx (n1 n2 n3 : Nat) : List (Nat × Nat × Nat) :=
  (List.range n3).flatMap (fun i3 => (List.range n2).flatMap (fun i2 => (List.range n1).map (fun i1 => (i1, i2, i3))))

/-- Read the elements below given bounds. -/
def readSub (c : CoreId) (t : Desc) (n0 n1 n2 n3 : Nat) : M (TVal × Option CFlt) := do
  let rows := rowIdx n1 n2 n3
  let (l, bad) ← readRanges c t (rows.map (fun r => (t.rowAt r.1 r.2.1 r.2.2, t.rowBytes n0)))
  pure ({ n0 := n0, n1 := n1, n2 := n2, n3 := n3, dat := (l.flatMap (fun x => unpack t.ebits x n0)).toArray }, bad)

/-- Read the elements within the bounds. -/
def readT (c : CoreId) (t : Tens) : M (TVal × Option CFlt) := readSub c t.d (t.n 0) (t.n 1) (t.n 2) (t.n 3)

/-- Raise ECC_UNCORR in execution for uncorrectable on-chip words (R211). -/
def eccNow (bad : Option CFlt) : M Unit :=
  match bad with
  | some f => fun _ => .error (.flt f)
  | none => pure ()

/-- Write the first elements of one row. -/
def writeRow (c : CoreId) (w : W64) (t : Desc) (i1 i2 i3 : Nat) (l : List Nat) : M Unit := do
  let o := t.rowAt i1 i2 i3
  let keep ← if t.ebits = 4 ∧ l.length % 2 = 1 then do
      let (r, _) ← readRanges c t [(o + l.length / 2, 1)]
      pure ((r.headD []).headD 0)
    else pure 0
  writeAt c w t o (pack t.ebits keep l)

/-- Write the elements within the bounds, from their values. -/
def writeT (c : CoreId) (w : W64) (t : Tens) (f : Nat → Nat → Nat → Nat → Nat) : M Unit :=
  (rowIdx (t.n 1) (t.n 2) (t.n 3)).forM (fun r =>
    writeRow c w t.d r.1 r.2.1 r.2.2 ((List.range (t.n 0)).map (fun i0 => f i0 r.1 r.2.1 r.2.2)))

/-- The extents of two descriptors overlap. -/
def overlaps (s : State) (c : CoreId) (x y : Desc) : Bool :=
  let a := physAddr s c x
  let b := physAddr s c y
  decide (a < b + y.extent) && decide (b < a + x.extent)

/-- Two descriptors of one placement: kind, base, format, capacities and strides (R157). -/
def coincide (x y : Desc) : Bool :=
  x.kind == y.kind && x.base == y.base && x.fmt == y.fmt && x.cap == y.cap && x.stride == y.stride

/-! ### Engine queues (R104) -/

/-- The queue of an engine. -/
def Core.queue (k : Core) : Engine → List InFlight
  | .mm => k.mm | .rc => k.rc | .vx => k.vx | .at => k.at' | .dm => k.dm

/-- The core with an engine's queue replaced. -/
def Core.setQueue (k : Core) (e : Engine) (l : List InFlight) : Core :=
  match e with
  | .mm => { k with mm := l } | .rc => { k with rc := l } | .vx => { k with vx := l }
  | .at => { k with at' := l } | .dm => { k with dm := l }

/-- Issue waits while the engine's queue holds 16 instructions (R104). -/
def queueRoom (c : CoreId) (e : Engine) : M Unit := do
  let s ← get
  if 16 ≤ ((s.core c).queue e).length then hold else pure ()

/-- What an engine's work leaves beside its effect: the tiles it pins, the fault its completion raises, and whether that
fault is one R150 defers. -/
structure Work where
  tiles : List Tile := []
  fault : Option CFlt := none
  defer : Bool := false
deriving DecidableEq, Repr

/-- The engine's work with an execution fault turned into the fault that its completion raises; the state it would have
changed is kept as it was (R123). A wait or a missing line still waits. -/
def execPart (m : M Work) : M Work := fun s =>
  match m s with
  | .ok r => .ok r
  | .error (.flt f) => .ok ({ fault := some { f with atIssue := false } }, s)
  | .error e => .error e

end Sys2Proof.Machine
end

