-- ==== Sys2Proof/Machine/Expander.lean ====
section
/-! DEFINITION. Weight tiles as they are stored: block layout, tensor objects, decode tables, and the expander's work on
one tile (R75, R79 to R81, R219 to R229). -/
namespace Sys2Proof.Machine

/-! ### Decode tables (R226) -/

/-- The code length of a byte symbol. -/
def symLen (t : List Byte) (s : Nat) : Nat := bits (t.getD (s / 2) 0).toNat (4 * (s % 2)) 4

/-- The lengths satisfy the sum over symbols present of 2^-len at most 1. -/
def tableOk (t : List Byte) : Bool :=
  decide (((List.range 256).map (fun s => if symLen t s = 0 then 0 else 2 ^ (15 - symLen t s))).sum ≤ 2 ^ 15)

/-- The canonical code: (symbol, length, code), in ascending order of length, then of symbol. -/
def canon (t : List Byte) : List (Nat × Nat × Nat) :=
  ((List.range 16).foldl (fun (acc : List (Nat × Nat × Nat) × Nat) len =>
    if len = 0 then acc
    else
      let syms := (List.range 256).filter (fun s => symLen t s = len)
      (acc.1 ++ syms.mapIdx (fun i s => (s, len, 2 * acc.2 + i)), 2 * acc.2 + syms.length)) ([], 0)).1

/-- Decode bits to bytes: a code's most significant bit comes first (log entry 30). `none` when the bits are no codes. -/
def decodeBits (codes : List (Nat × Nat × Nat)) : List Bool → Nat → Nat → List Byte → Option (List Byte)
  | [], len, _, acc => if len = 0 then some acc.reverse else none
  | b :: bs, len, code, acc =>
    let len := len + 1
    let code := 2 * code + b.toNat
    match codes.find? (fun c => c.2.1 == len && c.2.2 == code) with
    | some c => decodeBits codes bs 0 0 (BitVec.ofNat 8 c.1 :: acc)
    | none => if 15 ≤ len then none else decodeBits codes bs len code acc

/-- The bits of n as a code of `len` bits, most significant first. -/
def codeBits (len code : Nat) : List Bool := (List.range len).map (fun i => code.testBit (len - 1 - i))

/-- Encode bytes; `none` when a symbol has no code. -/
def encodeBits (codes : List (Nat × Nat × Nat)) (l : List Byte) : Option (List Bool) :=
  (l.mapM (fun b => (codes.find? (fun c => c.1 == b.toNat)).map (fun c => codeBits c.2.1 c.2.2))).map List.flatten

/-- The decode table a slot of a hoop holds. -/
def State.dtSlot (s : State) (h k : Nat) : Option (List Byte) := ((s.hoop h).dt.find? (fun p => p.1 == k)).map (·.2)

/-- A load of the slot waits or runs, so that blocks naming it wait (R227). -/
def State.slotHeld (s : State) (h k : Nat) : Bool :=
  ((s.hoop h).dtLoad.map (·.2)) == some k || (s.hoop h).dtQueue.any (fun p => p.1 == k)

/-! ### Tensor objects (R221, R222) -/

/-- A tensor object header (Table 9-5). -/
structure ObjHdr where
  nb : Nat
  fmt : Nat
  group : Nat
  comp : Nat
  gk : Nat
  gn : Nat
  baseObj : Nat
  size : Nat
deriving DecidableEq, Repr

/-- A header from its 64 bytes. -/
def objHdr (l : List Byte) : ObjHdr :=
  let v := leNat l
  { nb := bits v 0 32, fmt := bits v 32 8, group := bits v 40 8, comp := bits v 48 8, gk := bits v 64 32,
    gn := bits v 96 32, baseObj := bits v 128 64, size := bits v 192 64 }

/-- The header's 64 bytes. -/
def ObjHdr.bytes (h : ObjHdr) : List Byte :=
  toLE 64 (h.nb + h.fmt * 2 ^ 32 + h.group * 2 ^ 40 + h.comp * 2 ^ 48 + h.gk * 2 ^ 64 + h.gn * 2 ^ 96
    + h.baseObj * 2 ^ 128 + h.size * 2 ^ 192)

/-- An index entry (Table 9-6). -/
structure IdxEnt where
  data : Nat
  len : Nat
  raw : Bool
  same : Bool
  side : Nat
  ntips : Nat
  nwide : Nat
deriving DecidableEq, Repr

/-- An index entry from its 16 bytes. -/
def idxEnt (l : List Byte) : IdxEnt :=
  let v := leNat l
  { data := bits v 0 36, len := bits v 36 9, raw := v.testBit 45, same := v.testBit 46, side := bits v 64 36,
    ntips := bits v 100 12, nwide := bits v 112 9 }

/-- The entry's 16 bytes. -/
def IdxEnt.bytes (e : IdxEnt) : List Byte :=
  toLE 16 (e.data + e.len * 2 ^ 36 + e.raw.toNat * 2 ^ 45 + e.same.toNat * 2 ^ 46 + e.side * 2 ^ 64 + e.ntips * 2 ^ 100
    + e.nwide * 2 ^ 112)

/-- Bits of a byte list, least significant first. -/
def bitsOf (l : List Byte) : List Bool := l.flatMap (fun b => (List.range 8).map (fun k => b.getLsbD k))

/-- Read n bytes from a Toile address as staging does: reach, then the read, every fault in execution (R140). -/
def stageRead (c : CoreId) (a n : Nat) : M (List Byte) := do
  if n = 0 then pure []
  else
    let s ← get
    match s.reach c a n false with
    | some code => flt code a false
    | none => rdToile c a n

/-- A stored block as it is read: its 4,096 bytes, whether it passes its checks, and the slot it names when coded. -/
structure Stored where
  bytes : List Byte
  ok : Bool
  slot : List Nat
  /-- the CRC that its reconstructed bytes must have -/
  crc : Option Nat := none
  /-- the fault of a block that names a slot holding no table (R228) -/
  flt : Option CFlt := none
deriving DecidableEq, Repr

/-- The reconstructed bytes have the CRC of the block's header (R222). -/
def Stored.crcOk (p : Stored) : Bool := match p.crc with | some v => (crc32 p.bytes).toNat == v | none => true

/-- HOOPh_DT_STAT.loaded in step with the slots. -/
def State.dtLoaded (s : State) (h : Nat) : State :=
  s.put R.HOOP_DT_STAT_loaded ((List.range 4).foldl (fun v k => v + (s.dtSlot h k).isSome.toNat * 2 ^ k) 0) h

/-- A decode-table slot is read: an uncorrectable word of it is reported and empties the slot (R330, R331). -/
def State.slotRead (s : State) (h k : Nat) : State :=
  let t := s.sramCheck (dtAddr h k 0) 128
  if s.sramBad (dtAddr h k 0) 128 = [] then t
  else ((t.sramDrop (dtAddr h k 0) 128).updHoop h (fun x => { x with dt := x.dt.filter (fun p => p.1 ≠ k) })).dtLoaded h

/-- Read a stored block (R222, R224, R228). A block that names a slot under load waits (R227). -/
def readBlock (c : CoreId) (base : Nat) (h : ObjHdr) (e : IdxEnt) : M Stored := do
  let zeros : List Byte := List.replicate 4096 0
  if e.same then pure { bytes := zeros, ok := true, slot := [] }
  else if (e.raw && e.len != 256) || (!e.raw && (e.len == 0 || decide (240 < e.len)))
      || decide (h.size < 16 * (e.data + e.len)) then pure { bytes := zeros, ok := false, slot := [] }
  else
    let l ← stageRead c (base + 16 * e.data) (16 * e.len)
    if e.raw then pure { bytes := l, ok := true, slot := [] }
    else
      let v := leNat (l.take 16)
      let slot := bits v 0 2
      let s ← get
      if s.slotHeld (c.val / 8) slot then hold
      else
       set (s.slotRead (c.val / 8) slot)
       match (s.slotRead (c.val / 8) slot).dtSlot (c.val / 8) slot with
       | none => pure ⟨zeros, false, [slot], none, some { code := fTable, info := slot + c.val / 8 * 16, atIssue := false }⟩
       | some t =>
        match decodeBits (canon t) ((bitsOf (l.drop 16)).take (bits v 64 32)) 0 0 [] with
        | none => pure { bytes := zeros, ok := false, slot := [slot] }
        | some d => pure { bytes := d, ok := decide (d.length = 4096) && decide (bits v 64 32 ≤ 8 * (16 * e.len - 16)),
                           slot := [slot], crc := some (bits v 32 32) }

/-! ### Tiles (R219, R220, R229) -/

/-- Columns of a tile: Nslab (Table 5-1). -/
def nslab (fmt : Nat) : Nat := if fmt ≤ 2 then 128 else 64
/-- Blocks of a tile: 2 for BF16. -/
def tileBlocks (fmt : Nat) : Nat := if fmt = 7 then 2 else 1
/-- Positions of a group that lie in one tile. -/
def groupIn (gs : Nat) : Nat := if gs = 0 then 32 else min gs 64

/-- Codes of a tile in block layout, as 64 codes for each column. -/
def columnsOf (fmt : Nat) (l : List Byte) : List (List Nat) :=
  let cb := 8 * elemBits fmt
  (List.range (nslab fmt)).map (fun j => unpack (elemBits fmt) ((l.drop (j * cb)).take cb) 64)

/-- The codes of tile (x, y) of a raw tensor: its columns at stride1; positions beyond K and columns beyond N hold 0. -/
def rawColumns (c : CoreId) (t : Desc) (x y : Nat) : M (List (List Nat)) := do
  let n := min 64 (t.capAt 0 - 64 * x)
  let cols := (List.range (nslab t.fmt)).filter (fun j => decide (y * nslab t.fmt + j < t.capAt 1))
  let ad (o : Nat) : Nat := if t.kind = 0 then localAddr o else o
  let l ← cols.mapM (fun j =>
    stageRead c (ad (t.rowAt (y * nslab t.fmt + j) 0 0) + 8 * x * t.ebits) (t.rowBytes n))
  pure ((l.map (fun b => unpack t.ebits b n ++ List.replicate (64 - n) 0))
    ++ List.replicate (nslab t.fmt - cols.length) (List.replicate 64 0))

/-- Where a tile's tips and wide nibbles lie and how many of each: address of the tips, of the wide list, and the
entry's counts. -/
structure SideList where
  tips : Nat
  wide : Nat
  ntips : Nat
  nwide : Nat
  ok : Bool
deriving DecidableEq, Repr

/-- The codes of a tile by columns, its side lists, whether its stored blocks pass, the decode-table slots they name, and the
fault of one that names an empty slot. -/
structure TileSrc where
  cols : List (List Nat)
  side : Option SideList
  ok : Bool
  slots : List Nat
  flt : Option CFlt := none
deriving DecidableEq, Repr

/-- Read the source of tile (x, y) (R219 to R224). The side area of a raw 4-bit tensor lies where R220 puts it. -/
def tileCodes (c : CoreId) (t : Desc) (x y : Nat) : M TileSrc := do
  let ad (o : Nat) : Nat := if t.kind = 0 then localAddr o else o
  let base := ad t.base
  let bt := tileBlocks t.fmt
  if t.comp = 0 then
    let cols ← rawColumns c t x y
    let gk := (t.capAt 0 + 63) / 64
    let rec' := base + (t.extent + 4095) / 4096 * 4096 + 8192 * (y * gk + x)
    pure { cols := cols, side := if t.fmt ≤ 2 then some ⟨rec', rec' + 4096, 2048, 256, true⟩ else none, ok := true, slots := [] }
  else
    let h ← (do let l ← stageRead c base 64; pure (objHdr l))
    let b0 := bt * (y * h.gk + x)
    let ents ← (List.range bt).mapM (fun i => do
      let l ← stageRead c (base + 64 + 16 * (b0 + i)) 16
      pure (idxEnt l))
    let known := h.comp == t.comp && decide (b0 + bt ≤ h.nb)
    let parts ← ents.mapM (readBlock c base h)
    let (parts, agree) ← if t.comp = 2 ∧ parts.all (·.flt.isNone) then do
        let l ← stageRead c h.baseObj 64
        let hb := objHdr l
        let bents ← (List.range bt).mapM (fun i => do
          let l ← stageRead c (h.baseObj + 64 + 16 * (b0 + i)) 16
          pure (idxEnt l))
        let bparts ← bents.mapM (readBlock c h.baseObj hb)
        let agree := hb.comp == 1 && hb.nb == h.nb && hb.fmt == h.fmt && hb.group == h.group && hb.gk == h.gk
          && hb.gn == h.gn
        pure (List.zipWith (fun (p q : Stored) =>
          ({ bytes := List.zipWith (· ^^^ ·) p.bytes q.bytes, ok := p.ok && q.ok && q.crcOk, slot := p.slot ++ q.slot, crc := p.crc,
             flt := q.flt } : Stored)) parts bparts, agree)
      else pure (parts, true)
    let e := ents.headD ⟨0, 0, false, true, 0, 0, 0⟩
    let gp := groupIn t.groupSize
    let tipB := (2 * e.ntips + 15) / 16 * 16
    let inside := (e.ntips == 0 && e.nwide == 0) || decide (16 * e.side + tipB + e.nwide * (gp / 2) ≤ h.size)
    let side : SideList := ⟨base + 16 * e.side, base + 16 * e.side + tipB, e.ntips, e.nwide, inside⟩
    pure { cols := columnsOf t.fmt (parts.flatMap (·.bytes)), side := some side,
           ok := known && agree && parts.all (fun p => p.ok && p.crcOk), slots := parts.flatMap (·.slot),
           flt := parts.findSome? (·.flt) }

/-- A scale entry for a tensor without a scale tensor: scale 1.0. -/
def unitScale : Nat := 0x3C00
/-- The wide bit of a scale entry of a 4-bit format (Table 3-2). -/
def wideEntry (fmt e : Nat) : Bool := decide (fmt ≤ 2) && e.testBit 20

/-- The scale entries of a column in a tile, one for each group or part of a group (R133, R138). -/
def tileScales (c : CoreId) (t : Desc) (ws : Option Desc) (x y : Nat) : M (List (List Nat)) := do
  let gp := groupIn t.groupSize
  let parts := 64 / gp
  match ws with
  | none => pure (List.replicate (nslab t.fmt) (List.replicate parts unitScale))
  | some w =>
    (List.range (nslab t.fmt)).mapM (fun j => do
      let n := y * nslab t.fmt + j
      (List.range parts).mapM (fun p => do
        let g := if t.groupSize = 0 then 0 else (64 * x + p * gp) / t.groupSize
        if decide (n < t.capAt 1) && decide (n < w.capAt 1) && decide (g < w.capAt 0)
            && decide (64 * x + p * gp < t.capAt 0) then do
          let ad (o : Nat) : Nat := if w.kind = 0 then localAddr o else o
          let l ← stageRead c (ad (w.rowAt n 0 0) + 4 * g) 4
          pure (leNat l)
        else pure unitScale))

/-- A tip read under R73 and written back as BF16. -/
def cleanTip (b : Nat) : NM Nat := do
  if bf16.isInf b then satTick; pure (bf16.maxBits + (if bf16.sign b then 0x8000 else 0))
  else if bf16.isNan b then nanTick; pure 0
  else pure b

/-- What the cells of a tile still take from its lists: tips, and wide nibbles. -/
structure ListPos where
  tips : List Nat
  wide : List Nat
deriving DecidableEq, Repr

/-- The cells of one group of a column from its codes and entry, and the lists that remain (R75, R77, R79, R81). -/
def groupCells (fmt e : Nat) (codes : List Nat) (p : ListPos) : List Cell × ListPos :=
  if 5 ≤ fmt then (codes.map Cell.flt, p)
  else if wideEntry fmt e then
    (List.zipWith (fun lo hi => Cell.int (16 * sext 4 hi + lo)) codes (p.wide ++ List.replicate codes.length 0),
      { p with wide := p.wide.drop codes.length })
  else
    let z : Int := if fmt = 2 then (bits e 16 4 : Nat) else 0
    codes.foldl (fun (acc : List Cell × ListPos) q =>
      if fmt = 1 ∧ q = 8 then (acc.1 ++ [Cell.tip (acc.2.tips.headD 0)], { acc.2 with tips := acc.2.tips.tail })
      else (acc.1 ++ [Cell.int (elemInt fmt q - z)], acc.2)) ([], p)

/-- Escapes among the codes of a group. -/
def escapes (fmt e : Nat) (codes : List Nat) : Nat :=
  if fmt = 1 ∧ !wideEntry fmt e then (codes.filter (· == 8)).length else 0

/-- A list cut into runs of n. -/
def chunks (n : Nat) (l : List α) : List (List α) :=
  (List.range ((l.length + n - 1) / n)).map (fun i => (l.drop (n * i)).take n)

/-- The codes of the slab that shares groups of 128 with slab x of an INT4E tensor, where there is one and it can be read:
a group's checks run over both of its slabs (R80, R131). -/
def pairCols (c : CoreId) (t : Desc) (gk x y : Nat) : M (Option (List (List Nat))) := do
  let x' := if x % 2 = 0 then x + 1 else x - 1
  if t.groupSize ≠ 128 ∨ t.fmt ≠ 1 ∨ gk ≤ x' then pure none
  else match ← caught (tileCodes c t x' y) with
    | .ok p => pure (if p.ok then some p.cols else none)
    | .error _ => pure none

/-- A group breaks R80 on its escapes: more than 8, or fewer than its entry's tips field states. -/
def escapesBad (fmt e n : Nat) : Bool := fmt == 1 && !wideEntry fmt e && (decide (8 < n) || decide (n < bits e 21 3))

/-- A raw tile needs lists that its core may not read, and its tensor has no side area: it is corrupt, where one with a side area
is refused (R220). Which of the two it is, no field says (DESIGN CHOICE, log entry 72). -/
def State.noSide (s : State) (c : CoreId) (t : Desc) (l : SideList) (tips wide : Nat) : Bool :=
  let shut (a n : Nat) : Bool := decide (0 < n) && (s.reach c a n false).isSome
  t.comp == 0 && (shut l.tips tips || shut l.wide wide) && !Config.sideArea t.toile

/-- Expand tile (x, y) of a weight tensor of gk slabs (R229): its contents, whether a check marks it corrupt (R80, R224),
the decode-table slots it used, and the fault that stops it. A group of 128 is checked over both slabs; where the other
one cannot be read, over this one for more than 8 escapes alone (DESIGN CHOICE, log entry 72). -/
def expandTile (c : CoreId) (t : Desc) (ws : Option Desc) (gk x y : Nat) : M (TileDat × Bool × List Nat × Option CFlt) := do
  let src ← tileCodes c t x y
  if src.flt.isSome then return ({}, false, src.slots, src.flt)
  let (cols, side, ok, slots) := (src.cols, src.side, src.ok, src.slots)
  let scales ← tileScales c t ws x y
  let other ← pairCols c t gk x y
  let lone := t.groupSize == 128 && other.isNone && decide ((if x % 2 = 0 then x + 1 else x - 1) < gk)
  let gp := groupIn t.groupSize
  let groups := List.zipWith (fun col es => List.zip es (chunks gp col)) cols scales
  let flat := groups.flatten
  let esc := (flat.map (fun g => escapes t.fmt g.1 g.2)).sum
  let nw := (flat.filter (fun g => wideEntry t.fmt g.1)).length
  let short := (groups.zipIdx).any (fun p => p.1.any (fun g =>
    let n := escapes t.fmt g.1 g.2 + match other with | some o => escapes t.fmt g.1 (o.getD p.2 []) | none => 0
    if lone then decide (8 < n) else escapesBad t.fmt g.1 n))
  let s ← get
  let listBad := match side with
    | none => false
    | some l => !l.ok || s.noSide c t l (2 * esc) (nw * (gp / 2)) || decide (l.ntips < esc) || (t.comp != 0 && l.nwide != nw)
  if !ok || short || listBad then pure ({}, true, slots, none)
  else
    let pos ← match side with
      | none => pure ({ tips := [], wide := [] } : ListPos)
      | some l => do
        let tl ← stageRead c l.tips (2 * esc)
        let wl ← stageRead c l.wide (nw * (gp / 2))
        let tips ← nm (c.val / 8 * 8 + ((← get).held c).elim (c.val % 8) (·.core0)) ((unpack 16 tl esc).mapM cleanTip)
        pure { tips := tips, wide := unpack 4 wl (nw * gp) }
    let (cells, _) := groups.foldl (fun (acc : List (List Cell) × ListPos) col =>
      let (r, p) := col.foldl (fun (a : List Cell × ListPos) g =>
        let (x, p) := groupCells t.fmt g.1 g.2 a.2
        (a.1 ++ x, p)) ([], acc.2)
      (acc.1 ++ [r], p)) ([], pos)
    pure ({ cells := cells, scales := scales }, false, slots, none)

end Sys2Proof.Machine
end

