-- ==== Sys2Proof/Machine/Cache.lean ====
section
/-! DEFINITION. The tile cache of a hoop: reservation, eviction, pins and invalidation (R140, R212, R229, R239). -/
namespace Sys2Proof.Machine

/-- The expander holds the tile: it is requested, and neither valid nor given up (R229). -/
def Tile.expanding (t : Tile) : Bool := !t.valid && !t.corrupt && !t.gone

/-- The tile of a key in a list. -/
def findTile (l : List Tile) (k : Nat × Nat) : Option Tile := l.find? (fun t => t.addr == k.1 && t.blk == k.2)

/-- Keep HOOPh_TC_STAT in step. -/
def State.tcRefresh (s : State) (h : Nat) : State :=
  let l := (s.hoop h).tiles
  (s.put R.HOOP_TC_STAT_valid (l.filter (·.valid)).length h).put R.HOOP_TC_STAT_pinned (l.filter (fun t => decide (0 < t.pins))).length h

/-- Blocks in flight in the expander that name a decode-table slot (R227). -/
def State.dtInflight (s : State) (h k : Nat) : Nat :=
  (((s.hoop h).tiles.filter Tile.expanding).flatMap (·.slots)).count k

/-- Keep HOOPh_DT_STAT.inflight in step. -/
def State.dtRefresh (s : State) (h : Nat) : State :=
  s.put R.HOOP_DT_STAT_inflight ((List.range 4).foldl (fun v k => v + min (s.dtInflight h k) 4095 * 2 ^ (12 * k)) 0) h

/-- The state with the tile list of a hoop changed. -/
def State.updTiles (s : State) (h : Nat) (f : List Tile → List Tile) : State :=
  ((s.updHoop h (fun k => k.setTiles (f k.tiles))).tcRefresh h).dtRefresh h

/-- The first tile of a list that a test finds, changed, or taken out; the others keep their places. -/
def editTile (p : Tile → Bool) (f : Tile → Option Tile) : List Tile → List Tile
  | [] => []
  | t :: l => if p t then (f t).toList ++ l else t :: editTile p f l

/-- Evict the unpinned tile least recently used; none when every tile is pinned or still in the expander. -/
def evictOne (l : List Tile) : Option (List Tile) :=
  let free := l.filter (fun t => t.pins == 0 && !t.expanding)
  match free.foldl (fun (b : Option Tile) t => match b with
      | none => some t
      | some x => if t.lastUsed < x.lastUsed then some t else some x) none with
  | none => none
  | some v => some (l.erase v)

/-- Make room for n more tiles; `fuel` bounds the evictions. -/
def makeTiles (l : List Tile) (n : Nat) : Nat → Option (List Tile)
  | 0 => none
  | fuel + 1 =>
    if l.length + n ≤ cacheTiles then some l
    else match evictOne l with
      | none => none
      | some l => makeTiles l n fuel

/-- A cached tile serves a request: its source is immutable and it awaits no invalidation (R212). -/
def Tile.shared (t : Tile) : Bool := t.keep && !t.inval && !t.corrupt && !t.gone

/-- Pin the wanted tiles in the cache, all at once: those present and shared are joined, the others reserved. None when
there is no space (R140). -/
def reserve (l : List Tile) (want : List Tile) (now : Nat) : Option (List Tile) :=
  let here (t : Tile) : Bool := l.any (fun x => x.addr == t.addr && x.blk == t.blk && x.shared) && t.keep
  let joined := want.filter here
  let fresh := want.filter (fun t => !here t)
  let l := l.map (fun x =>
    if x.shared && joined.any (fun t => t.addr == x.addr && t.blk == x.blk) then { x with pins := x.pins + 1, lastUsed := now }
    else x)
  (makeTiles l fresh.length 1000).map (fun l => l ++ fresh.map (fun t => { t with pins := 1, lastUsed := now }))

/-- Release one pin of a tile: a tile of a mutable source, or one to be invalidated, goes with its last pin. -/
def unpin (l : List Tile) (k : Nat × Nat) : List Tile :=
  editTile (fun t => t.addr == k.1 && t.blk == k.2 && (decide (0 < t.pins) || t.inval))
    (fun t =>
      if 1 < t.pins then some { t with pins := t.pins - 1 }
      else if t.inval || !t.keep || t.corrupt || t.gone then none
      else some { t with pins := 0 }) l

/-- The key address of a weight tensor: its Toile address. -/
def keyAddr (s : State) (t : Desc) : Nat := s.norm t.toile

/-- The source of a tensor lies in an immutable region of the core's binder (R212). -/
def keepSource (s : State) (c : CoreId) (t : Desc) : Bool :=
  match s.coreBinder c with
  | some b => s.inRegion b (keyAddr s t) (fun r => r.immutable)
  | none => false

/-- K slabs of the stored grid: the object's for a compressed tensor, those of the capacities for a raw one. -/
def storedGk (c : CoreId) (t : Desc) : M Nat :=
  if t.comp = 0 then pure ((t.capAt 0 + 63) / 64)
  else do let l ← stageRead c t.toile 64; pure (objHdr l).gk

/-- A tile as its staging leaves it, with the fault that stops the staging and the one that an uncorrectable word of the tile
cache leaves deferred (R140, R211). -/
structure Staged where
  tile : Tile
  stop : Option CFlt := none
  late : Option CFlt := none
deriving DecidableEq, Repr

/-- A cached tile is joined: a single-bit error in it is corrected; an uncorrectable word is reported and invalidates the
tile, and the instruction uses the word as stored (R211, R330, R331). Its place is given as the tile's address (DESIGN CHOICE,
log entry 86). -/
def State.joinTile (s : State) (h : Nat) (v : Tile) : State × Staged :=
  let s := s.count R.HOOP_TC_HIT_count 1 h
  match v.ecc with
  | .corr _ => ((s.updTiles h (fun l => l.map (fun x => if x = v then { x with ecc := .sound } else x))).eccCorr 4 1 h,
      { tile := { v with ecc := .sound } })
  | .uncorr =>
    ((s.updTiles h (fun l => if v.pins = 0 then l.erase v else l.map (fun x => if x = v then { x with inval := true } else x))).eccUncorr
        4 1 h v.addr,
      { tile := { v with keep := false, ecc := .sound, pins := 0 },
        late := some { code := fEcc, info := v.addr, atIssue := false } })
  | _ => (s, { tile := v })

/-- One tile of a tensor as the staging instruction needs it: joined from the cache or, while the expander holds it, from there,
or expanded from its source, with the fault that its source or its corruption raises (R80, R140, R229). Counts HOOPh_TC_HIT and HOOPh_TC_MISS. -/
def stageTile (c : CoreId) (t : Desc) (ws : Option Desc) (gk x y : Nat) : M Staged := do
  let s ← get
  let h := c.val / 8
  let key := (keyAddr s t, tileBlocks t.fmt * (y * gk + x))
  let keep := keepSource s c t
  match (s.hoop h).tiles.find? (fun v => v.addr == key.1 && v.blk == key.2 && v.shared && keep) with
  | some v =>
    set (s.joinTile h v).1
    pure { (s.joinTile h v).2 with
      stop := if v.bad then some { code := fDesc, info := t.toile, atIssue := false, operand := 1 } else none }
  | none =>
    let v : Tile := { addr := key.1, blk := key.2, keep := keep, binder := BitVec.ofNat 12 (s.fld R.CORE_STATUS_binder c) }
    let r ← caught (expandTile c t ws gk x y)
    modify (fun s => s.count R.HOOP_TC_MISS_count 1 h)
    match r with
    | .ok (d, bad, slots, none) =>
      pure { tile := { v with dat := d, bad := bad, slots := slots },
             stop := if bad then some { code := fDesc, info := t.toile, atIssue := false, operand := 1 } else none }
    | .ok (_, _, slots, some f) => pure { tile := { v with gone := true, slots := slots }, stop := some f }
    | .error f => pure { tile := { v with gone := true }, stop := some { f with atIssue := false } }

/-- Stage tiles in order up to the first that faults; the reservations of those after it stay without a fetch (R140). -/
def stageOn (c : CoreId) (t : Desc) (ws : Option Desc) (gk : Nat) : Option CFlt → List (Nat × Nat) → M (List ((Nat × Nat) × Staged))
  | _, [] => pure []
  | none, p :: ps => do
    let v ← stageTile c t ws gk p.1 p.2
    let l ← stageOn c t ws gk v.stop ps
    pure ((p, v) :: l)
  | some f, p :: ps => do
    let s ← get
    let l ← stageOn c t ws gk (some f) ps
    pure ((p, { tile := { addr := keyAddr s t, blk := tileBlocks t.fmt * (p.2 * gk + p.1), gone := true } }) :: l)

/-- Stage the tiles of grid cells (x, y), each once, in order. -/
def stageTiles (c : CoreId) (t : Desc) (ws : Option Desc) (cells : List (Nat × Nat)) : M (List ((Nat × Nat) × Staged)) := do
  let gk ← storedGk c t
  stageOn c t ws gk none cells.eraseDups

/-- The fault that stops a staging: the first in its order. -/
def stagingStop (l : List ((Nat × Nat) × Staged)) : Option CFlt := l.findSome? (·.2.stop)
/-- The first fault that the words of joined tiles leave deferred. -/
def stagingLate (l : List ((Nat × Nat) × Staged)) : Option CFlt := l.findSome? (·.2.late)
/-- The contents of the tile of a cell. -/
def stagedDat (l : List ((Nat × Nat) × Staged)) (p : Nat × Nat) : TileDat :=
  ((l.find? (fun q => q.1 == p)).map (fun q => q.2.tile.dat)).getD {}

/-- Reserve the tiles of an instruction when the engine stages it: it is the head of its queue or the one behind it, and
there is space. What is left waiting is answered (R140). -/
def State.tryReserve (s : State) (h : Nat) (ahead : Nat) (want : List Tile) : State × List Tile :=
  if want = [] then (s, [])
  else if 2 ≤ ahead then (s, want)
  else match reserve (s.hoop h).tiles want s.now with
    | some l => (s.updTiles h (fun _ => l), [])
    | none => (s, want)

/-- A coded block is decoded with the table that its slot holds when the expander takes it: an instruction with coded tiles
that finds no space for them waits at issue, and its staging reads the slots then (R140, R227; DESIGN CHOICE, log entry 96). -/
def codedRoom (c : CoreId) (e : Engine) (l : List Tile) : M Unit := do
  let s ← get
  if (s.tryReserve (c.val / 8) ((s.core c).queue e).length l).2.any (fun t => !t.slots.isEmpty) then hold else pure ()

/-- The fault that waits for an instruction's completion: that of its work, or the one that a v register it read left. -/
def Core.left (k : Core) (r : Work) : Option CFlt := (r.fault <|> k.eccSeen).map (fun f => { f with ord := k.issued })

/-- What the dispatch of an instruction with its work done leaves: its tiles reserved where that can be, and its entry in
its engine's queue with the fault that waits for its completion. -/
def State.dispatched (s : State) (c : CoreId) (e : Engine) (w : W64) (r : Work) (shad : Option Shad := none)
    (leaves : List Nat := []) : State :=
  let (s, rest) := s.tryReserve (c.val / 8) ((s.core c).queue e).length r.tiles
  s.updCore c (fun k => { k.setQueue e (k.queue e ++
    [{ pc := k.pc, word := w, tiles := r.tiles.map (fun t => (t.addr, t.blk)), leaves := leaves, fault := k.left r,
       defer := r.defer || r.fault.isNone, shad := shad, ord := k.issued, want := rest }]) with
    eccSeen := none, issued := k.issued + 1 })

/-- Dispatch an instruction with its work done: its tiles are reserved, its fault waits for its completion. -/
def dispatchWork (c : CoreId) (e : Engine) (w : W64) (r : Work) (shad : Option Shad := none) (leaves : List Nat := []) : M Unit :=
  modify (fun s => s.dispatched c e w r shad leaves)

/-- Stage a queue's instructions that wait for space, in order, the head and the one behind it. -/
def State.stageQueue (s : State) (h : Nat) : List InFlight → Nat → State × List InFlight
  | [], _ => (s, [])
  | q :: qs, ahead =>
    let (s, rest) := s.tryReserve h ahead q.want
    let (s, qs) := s.stageQueue h qs (ahead + 1)
    (s, { q with want := rest } :: qs)

/-- TILE_STAGING: tile-cache space for a waiting instruction becomes available and the reservation is made (R140). -/
def State.restage (s : State) (c : CoreId) : State :=
  let (s, mm) := s.stageQueue (c.val / 8) (s.core c).mm 0
  let (s, vx) := s.stageQueue (c.val / 8) (s.core c).vx 0
  s.updCore c (fun k => { k with mm := mm, vx := vx })

end Sys2Proof.Machine
end

