-- ==== Sys2Proof/Machine/MatMul.lean ====
section
/-! DEFINITION. Group arithmetic of the array and of the LUT path, and the walk order (R76 to R78, R131 to R134, R139,
R142, R148, R149). -/
namespace Sys2Proof.Machine

/-! ### Walk order (R142) -/

/-- d2xy of R142: the cell at distance d on the curve over a square of side 2^lg; s runs over the powers of two. -/
def d2xy (lg d : Nat) : Nat × Nat :=
  let (x, y, _) := (List.range lg).foldl (fun (p : Nat × Nat × Nat) i =>
    let (x, y, t) := p
    let s := 2 ^ i
    let rx := t / 2 % 2
    let ry := (t + rx) % 2
    let (x, y) := if ry = 0 then
        let (x, y) := if rx = 1 then (s - 1 - x, s - 1 - y) else (x, y)
        (y, x)
      else (x, y)
    (x + s * rx, y + s * ry, t / 4)) (0, 0, d)
  (x, y)

/-- The least lg with a <= 2^lg. -/
def clog2 (a : Nat) : Nat := if a ≤ 1 then 0 else (a - 1).log2 + 1

/-- The steps (x, y) of a walk over gk by gn cells (R142). -/
def walkSteps (walk gk gn : Nat) : List (Nat × Nat) :=
  if walk = 0 then (List.range gn).flatMap (fun y => (List.range gk).map (fun x => (x, y)))
  else
    let lg := clog2 (max gk gn)
    let l := ((List.range (4 ^ lg)).map (d2xy lg)).filter (fun p => decide (p.1 < gk) && decide (p.2 < gn))
    if walk = 1 then l else l.reverse

/-! ### Groups (R77) -/

/-- A weight position as a number. -/
inductive WVal where
  | int (w : Int)
  | tip (t : Dy)
  | flt (f : Dy)
deriving DecidableEq, Repr

/-- A rounding group of one column, ready to multiply: its first K position, its index along K, its values and its
scale. -/
structure Grp where
  k0 : Nat
  g : Nat
  vals : List WVal
  scale : Dy
deriving DecidableEq, Repr

/-- A cell as a number, read under R73. -/
def cellVal (fmt : Nat) (x : Cell) : NM WVal :=
  match x with
  | .int w => pure (.int w)
  | .tip b => do let d ← bf16.read b; pure (.tip d)
  | .flt b => do let d ← readElem fmt b; pure (.flt d)

/-- The rounding groups of column j of a walk step, in ascending K, cut at the K bound; a group wholly beyond it is none
(R131, R133). Its scale and its tips are read under R73 once for the instruction (DESIGN CHOICE, log entry 75). `tiles` are the
step's tiles, one or, for groups of 128, two. -/
def stepGroups (t : Desc) (K xs : Nat) (tiles : List TileDat) (j : Nat) : NM (List Grp) := do
  let gp := groupIn t.groupSize
  let cells := tiles.flatMap (fun d => d.cells.getD j [])
  let scales := tiles.flatMap (fun d => d.scales.getD j [])
  let size := if t.groupSize = 128 then 128 else gp
  let ents := if t.groupSize = 128 then scales.take 1 else scales
  ((List.zip (List.range ents.length) (List.zip ents (chunks size cells))).filter (fun p => decide (xs + p.1 * size < K))).mapM (fun p => do
    let (i, e, cs) := p
    let k0 := xs + i * size
    let vs ← (cs.take (K - k0)).mapM (cellVal t.fmt)
    let sc ← fp16.read (e % 2 ^ 16)
    pure { k0 := k0, g := if t.groupSize = 0 then k0 / 32 else k0 / t.groupSize, vals := vs, scale := sc })

/-- An activation row: integer values with the zero point taken off, or floating-point values, and its scale. -/
structure ActRow where
  ints : Array Int
  flts : Array Dy
  scale : Dy
deriving DecidableEq, Repr

/-- The exact integer sum S, the tip sum T and whether the group holds tips (R77). -/
def intSums (a : ActRow) : Nat → List WVal → Int → Dy → Bool → NM (Int × Dy × Bool)
  | _, [], S, T, tip => pure (S, T, tip)
  | k, v :: vs, S, T, tip =>
    let x := a.ints.getD k 0
    match v with
    | .int w => intSums a (k + 1) vs (S + w * x) T tip
    | .tip t => do let T ← fl32 (T.add (← mulNM t (Dy.ofInt x))); intSums a (k + 1) vs S T true
    | .flt _ => intSums a (k + 1) vs S T tip

/-- The exact sum of floating-point products (R77). -/
def fltSum (a : ActRow) : Nat → List WVal → Dy → NM Dy
  | _, [], P => pure P
  | k, v :: vs, P =>
    match v with
    | .flt w => do fltSum a (k + 1) vs (P.add (← mulNM w (a.flts.getD k Dy.zero)))
    | _ => fltSum a (k + 1) vs P

/-- ρ of R148: the sum over the integer positions of a group of the products of their residues, mod 15. -/
def groupRho (a : ActRow) : Nat → List WVal → Int
  | _, [] => 0
  | k, v :: vs => match v with
    | .int w => (w.emod 15 * (a.ints.getD k 0).emod 15 + groupRho a (k + 1) vs).emod 15
    | _ => groupRho a (k + 1) vs

/-- The array's errors in one row and column: what is added by mistake to the sum of a group, and what in its re-run. -/
abbrev Errs := List (Nat × Int × Int)

/-- The errors of an instruction's group sums that lie in one row and column. -/
def errsAt (l : List (Nat × Nat × Nat × Int × Int)) (m n : Nat) : Errs := (l.filter (fun x => x.1 == m && x.2.1 == n)).map (fun x => x.2.2)

/-- The integer group sum that the rescale unit uses: the array's where it agrees with ρ, whether right or wrong; else that
of the re-run where it agrees; else that of the LUT path, which is exact (R148, R149). -/
def checkedSum (m n g : Nat) (rho S : Int) (err : Option (Int × Int)) : NM Int :=
  match err with
  | none => pure S
  | some (e1, e2) =>
    if (S + e1).emod 15 = rho then pure (S + e1)
    else if (S + e2).emod 15 = rho then do slipTick ⟨m, n, g, false⟩; pure (S + e2)
    else do slipTick ⟨m, n, g, true⟩; pure S

/-- Add the contribution of one group, at row m and column n, to an accumulator (R77). FP8 and BF16 sums and tip sums are not
checked (R148). -/
def addGroup (isFlt : Bool) (a : ActRow) (errs : Errs) (m n : Nat) (g : Grp) (acc : Dy) : NM Dy := do
  let err := (errs.find? (fun x => x.1 == g.g)).map (·.2)
  if isFlt then
    let e : Int := match err with | some x => x.1 | none => 0
    let P ← fl32 (← fltSum a g.k0 g.vals (Dy.ofInt e))
    let x ← fl32 (← mulNM g.scale P)
    fl32 (acc.add x)
  else
    let (S, T, tip) ← intSums a g.k0 g.vals 0 Dy.zero false
    let S ← checkedSum m n g.g (groupRho a g.k0 g.vals) S err
    let x ← fl32 (← mulNM (← mulNM g.scale a.scale) (Dy.ofInt S))
    let acc ← fl32 (acc.add x)
    if tip then
      let y ← fl32 (← mulNM a.scale T)
      fl32 (acc.add y)
    else pure acc

/-- Add groups in order. -/
def addGroups (isFlt : Bool) (a : ActRow) (errs : Errs) (m n : Nat) (gs : List Grp) (acc : Dy) : NM Dy :=
  gs.foldlM (fun x g => addGroup isFlt a errs m n g x) acc

/-- FP8 and BF16 weights multiply as floating-point numbers (R76). -/
def fltWeights (fmt : Nat) : Bool := decide (5 ≤ fmt)

/-- An activation row of K codes with its row scale entry, if any (R77, R82, R133). -/
def actRow (afmt : Nat) (codes : List Nat) (entry : Option Nat) : NM ActRow := do
  if afmt = 5 ∨ afmt = 7 then
    let v ← codes.mapM (readElem afmt)
    pure { ints := #[], flts := v.toArray, scale := Dy.ofInt 1 }
  else
    let z : Int := match entry with | some e => if afmt = 4 then (bits e 16 8 : Nat) else 0 | none => 0
    let sc ← match entry with | some e => fp16.read (e % 2 ^ 16) | none => pure (Dy.ofInt 1)
    pure { ints := (codes.map (fun q => elemInt afmt q - z)).toArray, flts := #[], scale := sc }

/-! ### Residue (R148 to R150, R332) -/

/-- A core raises RESIDUE_ALARM and the hoop starts the recovery: no further section, lut_mode, the readiness bit cleared
(R332, R338). -/
def State.residueAlarm (s : State) (c : Nat) (cause : Nat) : State :=
  let hour := 3600000000000
  let again := match (s.core c).lastRecovery with | some t => decide (s.now < t + hour) | none => false
  let detail := cause + 4 * again.toNat
  let s := s.event 0x11 2 c 0xFFFFF detail
  let s := s.errLog { cls := 2, inst := c, level := 2, kind := 0x11, detail := detail }
  let s := s.put R.CORE_MM_CTRL_lut_mode 1 c
  let s := s.coreReady c false
  s.updCore c (fun k => { k with recovering := true, recoverAgain := again })

/-- A masked mismatch: alarm_thr of them within one second raise the alarm; 0 raises none (R149, R332). -/
def State.maskedMismatch (s : State) (c : Nat) : State :=
  let l := s.now :: (s.core c).masked.filter (fun t => decide (s.now < t + 1000000000))
  let s := s.updCore c (fun k => { k with masked := l })
  let s := (s.count R.CORE_MM_RESIDUE_count 1 c).count R.CORE_MM_RETRY_OK_count 1 c
  if l.length = s.fld R.CORE_MM_SHADOW_CFG_alarm_thr c then s.residueAlarm c 1 else s

/-- A mismatch that the re-run did not mask: RESIDUE becomes pending (R149, R332). -/
def State.lutFix (s : State) (c : Nat) : State :=
  let s := (s.count R.CORE_MM_RESIDUE_count 1 c).count R.CORE_MM_LUT_FIX_count 1 c
  (s.put R.CORE_MM_DEFER_PC_pc (s.core c).pc.toNat c).residueAlarm c 0

/-- The fault that a mismatch leaves deferred: FAULT_INFO names column, group and row (R150). -/
def Slip.fault (x : Slip) : CFlt :=
  { code := fResidue, info := x.n % 2 ^ 16 + x.g % 2 ^ 16 * 2 ^ 16 + x.m % 2 ^ 16 * 2 ^ 32, atIssue := false }

/-- The state after mismatches, in order. -/
def State.slipped (s : State) (c : Nat) (l : List Slip) : State :=
  l.foldl (fun (s : State) x => if x.again then s.lutFix c else s.maskedMismatch c) s

/-- The array's work of an instruction: its errors fall on it, its mismatches are counted and reported, and the first of
them that LUT mode fixed is left deferred (R149, R150, R332). -/
def onArray {α : Type} (c : CoreId) (array : Bool) (x : List (Nat × Nat × Nat × Int × Int) → NM α) : M (α × Option CFlt) := do
  let s ← get
  let l := if array then (s.core c).glitch else []
  let (a, k) := (x l).run {}
  nm c (set { k with slips := [] })
  if array then
    modify (fun s => (s.updCore c (fun k => { k with glitch := [] })).slipped c k.slips)
  pure (a, (k.slips.find? (·.again)).map Slip.fault)

end Sys2Proof.Machine
end

