-- ==== Sys2Proof/Machine/Matrix.lean ====
section
/-! DEFINITION. The MM instructions and the steps of the matrix engine and tile cache (R128 to R150, R212, R229, R239,
R332 to R334). -/
namespace Sys2Proof.Machine

/-- Class of the MM instructions (Table 4-3). -/
def clsMM : Nat := 2

/-- Bits that a t-register field in A, B and C marks zero (R98). -/
def zT : Nat := zbits 47 47
def zTB : Nat := zbits 42 42
def zTC : Nat := zbits 37 37

/-- The evaluated operands of MM.GRP and MM.LUT. -/
structure MmOps where
  td : Tens
  tw : Tens
  ta : Tens
  ws : Option Tens
  rs : Option Tens
deriving DecidableEq, Repr

def MmOps.K (o : MmOps) : Nat := o.tw.n 0
def MmOps.N (o : MmOps) : Nat := o.tw.n 1
def MmOps.M (o : MmOps) : Nat := o.td.n 1
def MmOps.empty (o : MmOps) : Bool := ([o.td, o.tw, o.ta] ++ o.ws.toList ++ o.rs.toList).any (·.empty)

/-- The pairs of Table 5-1. -/
def weightOk (fmt : Nat) : Bool := decide (fmt ≤ 3) || fmt == 5 || fmt == 7
def pairOk (wfmt afmt : Nat) : Bool :=
  if wfmt ≤ 3 then afmt == 3 || afmt == 4 else wfmt == afmt && weightOk wfmt

/-- ceil. -/
def cdiv (a b : Nat) : Nat := (a + b - 1) / b

/-- The issue checks of MM.GRP, and of MM.LUT with `lut` (R129, R138, R146). -/
def mmCheck (c : CoreId) (ops : BitVec 52) (lut : Bool) : M MmOps := ranked do
  let td ← evalK c (tOf (fldA ops)) 0 true
  let tw ← evalK c (tOf (fldB ops)) 1 false
  let ta ← evalK c (tOf (fldC ops)) 2 false
  let ws ← scaleK c tw 1
  let rs ← scaleK c ta 2
  chkIf (td.d.kind ≠ 3) fDesc 52 (operand := 0)
  chkIf (decide (64 < td.d.capAt 0)) fDesc 84 (operand := 0)
  chkIf (td.d.strideAt 1 ≠ 256) fDesc 119 (operand := 0)
  chkIf (td.d.capAt 3 ≠ 1) fDesc 203 (operand := 0)
  chkIf (decide (1 < tw.d.kind)) fDesc 52 (operand := 1)
  chkIf (tw.d.capAt 2 ≠ 1) fDesc 154 (operand := 1)
  chkIf (tw.d.capAt 3 ≠ 1) fDesc 203 (operand := 1)
  chkIf (ta.d.kind ≠ 2) fDesc 52 (operand := 2)
  chkIf (ta.d.capAt 2 ≠ 1) fDesc 154 (operand := 2)
  chkIf (ta.d.capAt 3 ≠ 1) fDesc 203 (operand := 2)
  chkIf (!weightOk tw.d.fmt || (lut && decide (3 < tw.d.fmt))) fDesc 55 (operand := 1)
  chkIf (!pairOk tw.d.fmt ta.d.fmt) fDesc 55 (operand := 2)
  match ws with
  | some x => chkIf (decide (1 < x.d.kind)) fDesc 52 (operand := 1)
  | none => pure ()
  match rs with
  | some x => chkIf (x.d.kind ≠ 2) fDesc 52 (operand := 2)
  | none => pure ()
  chkIf (td.d.base % 256 ≠ 0) fAlign td.d.base (operand := 0)
  let o : MmOps := { td := td, tw := tw, ta := ta, ws := ws, rs := rs }
  let gs := if tw.d.groupSize = 0 then max o.K 1 else tw.d.groupSize
  let nt := cdiv o.K 64 * cdiv o.N (nslab tw.d.fmt)
  unlessNoop ([td, tw, ta] ++ ws.toList ++ rs.toList) do
    chkBIf [ta, tw] (decide (ta.n 0 < o.K)) (ta.n 0) 0 2
    chkBIf [ta, td] (decide (ta.n 1 < o.M)) (ta.n 1) 1 2
    chkBIf [td, tw] (decide (td.n 0 * td.n 2 < o.N)) o.N 1 1
    match ws with
    | some x =>
      chkBIf [x, tw] (decide (x.n 0 < cdiv o.K gs)) (x.n 0) 0 1
      chkBIf [x, tw] (decide (x.n 1 < o.N)) (x.n 1) 1 1
    | none => pure ()
    match rs with
    | some x => chkBIf [x, td] (decide (x.n 0 < o.M)) (x.n 0) 0 2
    | none => pure ()
    chkBIf [tw] (decide (96 < nt)) nt 0 1
  allocK c td 0
  pure o

/-- The K step of a weight tensor in slabs: two for groups of 128 (R139). -/
def stepSlabs (t : Desc) : Nat := if t.groupSize = 128 then 2 else 1

/-- The slabs of walk step x below gk. -/
def slabsOf (t : Desc) (gk x : Nat) : List Nat :=
  ((List.range (stepSlabs t)).map (fun i => stepSlabs t * x + i)).filter (· < gk)

/-- The columns of out: for each column n the rounding groups in walk order. -/
def columnGroups (t : Desc) (K N : Nat) (steps : List (Nat × Nat)) (tile : Nat × Nat → TileDat) : NM (List (List Grp)) :=
  let gk := cdiv K 64
  (List.range N).mapM (fun n => do
    let y := n / nslab t.fmt
    let l ← (steps.filter (fun p => p.2 = y)).mapM (fun p =>
      stepGroups t K (64 * stepSlabs t * p.1) ((slabsOf t gk p.1).map (fun x => tile (x, y))) (n % nslab t.fmt))
    pure l.flatten)

/-- Activation rows from codes and row scale entries. -/
def rowsOf (fmt K M' : Nat) (v : TVal) (e : Option TVal) : NM (List ActRow) :=
  (List.range M').mapM (fun m =>
    actRow fmt ((List.range K).map (fun k => v.at k m 0 0)) (e.map (fun x => x.at m 0 0 0)))

/-- The codes and row scale entries of the activations, and what uncorrectable words among them leave. The array ignores the
row scales of floating-point activations, and reads none (R133, R139, R150). -/
def actCodes (c : CoreId) (ta : Tens) (rs : Option Tens) (K M' : Nat) : M (TVal × Option TVal × Option CFlt) := do
  let (v, bad) ← readSub c ta.d K M' 1 1
  match (if fltWeights ta.d.fmt then none else rs) with
  | some r => do let (x, b) ← readSub c r.d M' 1 1 1; pure (v, some x, bad <|> b)
  | none => pure (v, none, bad)

/-- The activation rows of MM.GRP (R139). -/
def actRows (c : CoreId) (ta : Tens) (rs : Option Tens) (K M' : Nat) : M (List ActRow × Option CFlt) := do
  let (v, e, bad) ← actCodes c ta rs K M'
  let rows ← nm c (rowsOf ta.d.fmt K M' v e)
  pure (rows, bad)

/-- Offsets of the row pieces of an output of N columns: (block, row, columns), for M rows. -/
def outPieces (N M' : Nat) : List (Nat × Nat × Nat) :=
  (List.range (cdiv N 64)).flatMap (fun b => (List.range M').map (fun m => (b, m, min 64 (N - 64 * b))))

/-- The walk steps of an instruction (R142). -/
def MmOps.steps (o : MmOps) (walk : Nat) : List (Nat × Nat) :=
  walkSteps walk (cdiv (cdiv o.K 64) (stepSlabs o.tw.d)) (cdiv o.N (nslab o.tw.d.fmt))

/-- The tiles that walk steps read, in order. -/
def MmOps.cells (o : MmOps) (steps : List (Nat × Nat)) : List (Nat × Nat) :=
  steps.flatMap (fun p => (slabsOf o.tw.d (cdiv o.K 64) p.1).map (fun x => (x, p.2)))

/-- The values of the row pieces of an output: the groups of each column, added to what was there (R77, R139). `old` holds
the FP32 codes of each piece, none where init is set. -/
def outValues (isFlt : Bool) (rows : List ActRow) (cols : List (List Grp)) (pieces : List (Nat × Nat × Nat))
    (old : Option (List (List Nat))) (errs : List (Nat × Nat × Nat × Int × Int)) : NM (List (List Nat)) :=
  let colArr := cols.toArray
  let rowArr := rows.toArray
  (pieces.mapIdx (fun i p => (i, p))).mapM (fun ip => do
    let (i, b, m, n) := ip
    let prev := old.map (fun l => (l.getD i []).toArray)
    (List.range n).mapM (fun j => do
      let a ← match prev with | none => pure Dy.zero | some l => fp32.read (l.getD j 0)
      let r ← addGroups isFlt (rowArr.getD m { ints := #[], flts := #[], scale := Dy.zero }) (errsAt errs m (64 * b + j)) m (64 * b + j)
        (colArr.getD (64 * b + j) []) a
      pure (bits32 r)))

/-- out := (init ? 0 : out) + activations * weights^T (R139), with its staging (R140). The Work it leaves: of several errors
that R150 leaves deferred, the one met first in the order tile cache, activations, accumulators, array (DESIGN CHOICE, log
entry 98). -/
def mmWork (c : CoreId) (w : W64) (o : MmOps) (walk : Nat) (init array : Bool) : M Work := do
  let t := o.tw.d
  let steps := o.steps walk
  let tiles ← stageTiles c t (o.ws.map (·.d)) (o.cells steps)
  codedRoom c (if array then .mm else .vx) (tiles.map (·.2.tile))
  if (stagingStop tiles).isSome then pure { tiles := tiles.map (·.2.tile), fault := stagingStop tiles }
  else
    let (rows, bad) ← actRows c o.ta o.rs o.K o.M
    let cols ← nm c (columnGroups t o.K o.N steps (stagedDat tiles))
    let pieces := outPieces o.N o.M
    let (old, bad') ← if init then pure (none, none)
      else do
        let (l, b) ← readRanges c o.td.d (pieces.map (fun p => (o.td.d.rowAt p.2.1 p.1 0, 4 * p.2.2)))
        pure (some (List.zipWith (fun x p => unpack 32 x p.2.2) l pieces), b)
    let (vals, res) ← onArray c array (outValues (fltWeights t.fmt) rows cols pieces old)
    (List.zip pieces vals).forM (fun x => writeRow c w o.td.d x.1.2.1 x.1.1 0 x.2)
    pure { tiles := tiles.map (·.2.tile), fault := stagingLate tiles <|> bad <|> bad' <|> res, defer := true }

/-- The operands that an armed shadow check would take (R333). -/
def shadOf (c : CoreId) (s : State) (ops : BitVec 52) (o : MmOps) (walk : Nat) : Shad :=
  let k := s.core c
  let t (r : Nat) : BitVec 256 := SMap.get 0 k.t r
  { td := (t (tOf (fldA ops)), o.td.b), tw := (t (tOf (fldB ops)), o.tw.b), ta := (t (tOf (fldC ops)), o.ta.b),
    ws := match o.ws with | some x => (t o.tw.d.scaleDesc, x.b) | none => (0, []),
    rs := match o.rs with | some x => (t o.ta.d.scaleDesc, x.b) | none => (0, []), walk := walk }

/-- The operands of a kept instruction. -/
def Shad.ops (h : Shad) : MmOps :=
  let f (p : BitVec 256 × List Nat) : Tens := { d := descOf p.1, b := p.2 }
  { td := f h.td, tw := f h.tw, ta := f h.ta, ws := if h.ws.2.isEmpty then none else some (f h.ws),
    rs := if h.rs.2.isEmpty then none else some (f h.rs) }

/-- MM.GRP and MM.LUT: the control field, the checks, the work and the dispatch. -/
def mmIssue (c : CoreId) (w : W64) (ops : BitVec 52) (lut : Bool) : M Unit := do
  let ctl := fldD ops
  fltIf (bits ctl 1 2 = 3) fIllegal
  let o ← mmCheck c ops lut
  let s ← get
  let onLut := lut || (s.bit R.CORE_MM_CTRL_lut_mode c && !fltWeights o.tw.d.fmt)
  let e : Engine := if onLut then .vx else .mm
  queueRoom c e
  if o.empty then setFlag c 0
  else
    let r ← execPart (mmWork c w o (bits ctl 1 2) (ctl.testBit 0) (!onLut))
    dispatchWork c e w r (if ctl.testBit 0 && !onLut then some (shadOf c s ops o (bits ctl 1 2)) else none)

/-- Bits that MM.GRP and MM.LUT mark zero (Table 5-2). -/
def zMM : Nat := zT ||| zTB ||| zTC ||| zbits 36 32 ||| zbits 28 0

/-- The work of MM.GRP at issue. -/
def workMmGrp (c : CoreId) (ops : BitVec 52) : M Unit := mmIssue c (word clsMM 1 ops) ops false

/-- MM.GRP (R137 to R142, R147). -/
def execMmGrp (c : CoreId) (ops : BitVec 52) (s : State) : Out :=
  .next (s.issue c (word clsMM 1 ops) zMM (thenNext c (workMmGrp c ops)))

/-- The work of MM.LUT at issue. -/
def workMmLut (c : CoreId) (ops : BitVec 52) : M Unit := mmIssue c (word clsMM 2 ops) ops true

/-- MM.LUT (R146). -/
def execMmLut (c : CoreId) (ops : BitVec 52) (s : State) : Out :=
  .next (s.issue c (word clsMM 2 ops) zMM (thenNext c (workMmLut c ops)))

/-! ### MM.COMBINE (R143 to R145) -/

/-- The cores of the issuing core's group: those of its section, or itself alone (R143). -/
def State.groupOf (s : State) (c : CoreId) : List Nat :=
  match s.held c with
  | some k => k.cores (c.val / 8)
  | none => [c.val]

/-- What a waiting MM.COMBINE names: tile mask, rows, participant mask, root and the all bit. -/
structure Comb where
  tiles : Nat
  rows : Nat
  parts : Nat
  root : Nat
  all : Bool
deriving DecidableEq, Repr

/-- The combine of register values and the control field. -/
def combOf (a b d : Nat) : Comb :=
  { tiles := bits a 0 16, rows := bits a 16 6 + 1, parts := bits b 0 8, root := d % 8, all := d.testBit 3 }

/-- The work of MM.COMBINE at issue, and the next pc. -/
def goMmCombine (c : CoreId) (ops : BitVec 52) : M (BitVec 52) := do
    let a ← getS c (fldA ops)
    let b ← getS c (fldB ops)
    fltIf (decide (2 ^ 22 ≤ a.toNat)) fBound a.toNat (operand := 0)
    fltIf (decide (2 ^ 8 ≤ b.toNat)) fBound b.toNat (operand := 1)
    let k := combOf a.toNat b.toNat (fldD ops)
    let s ← get
    let g := (s.groupOf c).map (· % 8)
    fltIf (!k.parts.testBit (c.val % 8) || (List.range 8).any (fun j => k.parts.testBit j && !g.contains j)) fBound k.parts
      (operand := 1)
    fltIf (!k.parts.testBit k.root) fBound k.root
    let ts := (List.range 16).filter (fun t => k.tiles.testBit t)
    fltIf (!ts.all (fun t => (s.fld R.CORE_MM_ALLOC_map c).testBit t)) fAcc ts.length (operand := 0)
    let pc := (s.core c).pc
    if k.tiles = 0 then do setFlag c 0; pure (pc + 8)
    else if k.parts = 2 ^ (c.val % 8) then pure (pc + 8)
    else do
      modify (fun s => s.updCore c (fun x => { x with
        wait := .combine, waitArg := (a.toNat, b.toNat + fldD ops * 2 ^ 8), waitWord := word clsMM 3 ops, combSeen := none,
        issued := x.issued + 1 }))
      pure pc

/-- MM.COMBINE: checked at issue, then the core waits for every core its mask names (R143 to R145). -/
def execMmCombine (c : CoreId) (ops : BitVec 52) (s : State) : Out :=
  .next (s.issue c (word clsMM 3 ops) (zbits 41 37 ||| zbits 36 33 ||| zbits 28 0) (goMmCombine c ops))

/-- The combine a core waits in. -/
def Core.comb (k : Core) : Comb := combOf k.waitArg.1 (k.waitArg.2 % 2 ^ 8) (k.waitArg.2 / 2 ^ 8)

/-- One value of an accumulator memory. -/
def accWord (m : List Host.Cell) (a : Nat) : Nat := leNat ((List.range 4).map (fun k => SMap.get 0 m (a + k)))

/-- The sums of a combine at one tile: 64 values for each row (R143). -/
def combineTile (accs : List (List Host.Cell)) (rows t : Nat) : NM (List Byte) := do
  let l ← (List.range (64 * rows)).mapM (fun i => do
    let at' (m : List Host.Cell) : Nat := accWord m (16384 * t + 4 * i)
    let x0 ← fp32.read (at' (accs.headD []))
    let x ← accs.tail.foldlM (fun x m => do let y ← fp32.read (at' m); fl32 (x.add y)) x0
    pure (toLE 4 (bits32 x)))
  pure l.flatten

/-- The accumulator words that a combine reads at a core: place and length of the rows of each tile. -/
def Comb.reads (k : Comb) (d : Nat) : List (Nat × Nat) :=
  ((List.range 16).filter (fun t => k.tiles.testBit t)).map (fun t => (accAddr d (16384 * t), 256 * k.rows))

/-- The checks of the accumulator words that a combine reads (R211, R330). -/
def State.combineCheck (s : State) (cs : List Nat) (k : Comb) : State :=
  (cs.flatMap k.reads).foldl (fun (s : State) r => s.sramCheck r.1 r.2) s

/-- The bytes of a tile with the bits turned over that the hoop interconnect's errors turn over (R150). -/
def spoil (wire : List (Nat × Nat × BitVec 32)) (t : Nat) (bs : List Byte) : List Byte :=
  wire.foldl (fun bs x =>
    if x.1 = t ∧ 4 * x.2.1 + 4 ≤ bs.length then
      bs.take (4 * x.2.1) ++ List.zipWith (· ^^^ ·) ((bs.drop (4 * x.2.1)).take 4) (toLE 4 x.2.2.toNat) ++ bs.drop (4 * x.2.1 + 4)
    else bs) bs

/-- One tile of a combine: the sums of the participants, the root's first, written at the cores that take them. -/
def State.combineAt (s : State) (c : Nat) (others dest : List Nat) (rows t : Nat) : State :=
  let r := (combineTile ((s.core c).acc :: others.map (fun d => (s.core d).acc)) rows t).run {}
  let s := (s.count R.CORE_NUM_SAT_count r.2.sat c).count R.CORE_NUM_NAN_count r.2.nan c
  let bs := spoil (s.hoop (c / 8)).wire t r.1
  dest.foldl (fun (s : State) d =>
    (s.updCore d (fun x => { x with acc := accPoke x.acc (16384 * t) bs })).sramClear (accAddr d (16384 * t)) bs.length) s

/-- The participants of a combine that a core is the root of (R143). -/
def State.combineCores (s : State) (c : CoreId) : List Nat :=
  ((List.range 8).filter (fun j => (s.core c).comb.parts.testBit j)).map (fun j => 8 * (c.val / 8) + j)

/-- A core waits in an MM.COMBINE whose tiles are still to be read. -/
def State.combReady (s : State) (d : Nat) : Bool := (s.core d).wait == .combine && (s.core d).combSeen.isNone

/-- The tiles of a combine are summed at the root, and at every participant when all is set (R143). Where participants give
different masks or all bits, the root's decide (R145 says it of tile mask and rows; the rest DESIGN CHOICE, log entry 98). -/
def State.combineSum (s : State) (c : CoreId) (k : Comb) (cs : List Nat) : State :=
  let s := (List.range 16).foldl (fun (s : State) t =>
    if !k.tiles.testBit t then s
    else s.combineAt c (cs.filter (· ≠ c.val)) (if k.all then cs else [c.val]) k.rows t) s
  s.updHoop (c.val / 8) (fun x => { x with wire := [] })

/-- A core leaves its MM.COMBINE for the next word. -/
def State.combineOut (s : State) (d : Nat) : State :=
  s.updCore d (fun x => { x with wait := .none, combSeen := none, pc := x.pc + 8 })

/-- The cores of the hoop that a core's own mask names and that have issued their MM.COMBINE by the state u, one bit each. -/
def State.combineMet (u : State) (d : Nat) : Nat :=
  ((List.range 8).filter (fun j => (u.core d).comb.parts.testBit j && u.combReady (8 * (d / 8) + j))).foldl (fun v j => v ||| 2 ^ j) 0

/-- A participant whose tiles have been read: it goes on once every core of its own mask has issued (R145). -/
def State.combineLeave (s u : State) (d : Nat) : State :=
  if u.combineMet d = (u.core d).comb.parts then s.combineOut d
  else s.updCore d (fun x => { x with combSeen := some (u.combineMet d) })

/-- A fault is left deferred: of several, the one of the instruction earliest in program order (R150). -/
def Core.deferFault (k : Core) (pc : BitVec 52) (w : W64) (f : CFlt) : Core :=
  match k.deferred with
  | some d => if d.2.2.ord ≤ f.ord then k else { k with deferred := some (pc, w, f) }
  | none => { k with deferred := some (pc, w, f) }

/-- What the reads of a combine leave deferred at its root: the first uncorrectable word, or an error of the hoop
interconnect, for which the spec states no location (log entry 73). -/
def State.combineFault (s : State) (c : CoreId) (k : Comb) (cs : List Nat) : State × Option CFlt :=
  match (cs.flatMap k.reads).flatMap (fun r => s.sramBad r.1 r.2) with
  | a :: _ => (s, some { code := fEcc, info := a, atIssue := false })
  | [] =>
    if (s.hoop (c.val / 8)).wire.isEmpty then (s, none)
    else
      let (v, s) := s.freeVal
      (s, some { code := fEcc, info := v.toNat, atIssue := false })

/-- A combine at its root: the words are checked, the tiles summed, the participants go on, and an error is left deferred. -/
def State.combine (s : State) (c : CoreId) (k : Comb) (cs : List Nat) : State :=
  let (s, f) := s.combineFault c k cs
  let t := cs.foldl (fun (t : State) d => t.combineLeave s d) ((s.combineCheck cs k).combineSum c k cs)
  match f with
  | none => t
  | some f => t.updCore c (fun x => x.deferFault (s.core c).pc (s.core c).waitWord { f with ord := (s.core c).issued - 1 })

/-- COMBINE_RENDEZVOUS at core c. At the root: every core its mask names has issued MM.COMBINE, and the tiles are summed. At a
participant whose tiles have been read: the rest of its own mask has issued (R143, R145, R150). -/
def execCombineRendezvous (c : CoreId) (s : State) : Out :=
  .next (s.mainEv (fun s =>
    let k := (s.core c).comb
    let cs := s.combineCores c
    if (s.core c).wait ≠ .combine then s
    else match (s.core c).combSeen with
      | some seen =>
        if (List.range 8).all (fun j => !k.parts.testBit j || seen.testBit j || s.combReady (8 * (c.val / 8) + j)) then s.combineOut c else s
      | none =>
        if k.root ≠ c.val % 8 ∨ !cs.all s.combReady
            ∨ (if k.all then cs else [c.val]).any (fun d => (k.reads d).any (fun r => s.shadowHolds d r.1 r.2)) then s
        else s.combine c k cs))

/-! ### Accumulator tiles (R135, R136) -/

/-- The descriptor that MM.TALLOC writes. -/
def tallocDesc (t0 n : Nat) : BitVec 256 :=
  BitVec.ofNat 256 (16384 * t0 + 3 * 2 ^ 52 + 8 * 2 ^ 55 + 63 * 2 ^ 84 + (64 * n - 1) * 2 ^ 105 + 16 * 2 ^ 119)

/-- The lowest tile that starts a run of n free tiles. -/
def freeRun (map n : Nat) : Option Nat :=
  (List.range 16).find? (fun t0 => decide (t0 + n ≤ 16) && (List.range n).all (fun i => !map.testBit (t0 + i)))

/-- The work of MM.TALLOC at issue. -/
def workMmTalloc (c : CoreId) (ops : BitVec 52) : M Unit := do
    let n := fldD ops
    fltIf (decide (n = 0 ∨ 16 < n)) fBound n
    let s ← get
    let map := s.fld R.CORE_MM_ALLOC_map c
    match freeRun map n with
    | none => flt fAcc n
    | some t0 =>
      modify (fun s => s.put R.CORE_MM_ALLOC_map (map ||| ((2 ^ n - 1) * 2 ^ t0)) c)
      setT c (tOf (fldA ops)) (tallocDesc t0 n)

/-- MM.TALLOC (R136). -/
def execMmTalloc (c : CoreId) (ops : BitVec 52) (s : State) : Out :=
  .next (s.issue c (word clsMM 4 ops) (zT ||| zbits 46 37 ||| zbits 36 34 ||| zbits 28 0) (thenNext c (workMmTalloc c ops)))

/-- The issue checks of MM.TFREE (R136). -/
def tfreeCheck (c : CoreId) (ops : BitVec 52) : M Tens := ranked do
  let t ← evalK c (tOf (fldB ops)) 1 false
  chkIf (t.d.kind ≠ 3) fDesc 52 (operand := 1)
  pure t

/-- The work of MM.TFREE at issue. -/
def workMmTfree (c : CoreId) (ops : BitVec 52) : M Unit := do
    let t ← tfreeCheck c ops
    modify (fun s => (tilesTouched t.d.base t.d.extent).foldl (fun (s : State) k =>
      s.setBit R.CORE_MM_ALLOC_map k false c) s)

/-- MM.TFREE (R136). -/
def execMmTfree (c : CoreId) (ops : BitVec 52) (s : State) : Out :=
  .next (s.issue c (word clsMM 5 ops) (zbits 51 47 ||| zTB ||| zbits 41 0) (thenNext c (workMmTfree c ops)))

/-! ### Steps of the engines and of the tile cache -/

/-- TILE_STAGING (R140, R212). -/
def execTileStaging (c : CoreId) (s : State) : Out := .next (s.mainEv (fun s => s.restage c))

/-- A tile as the expander leaves it: valid, or corrupt while an instruction holds it; one that nothing holds and that is
corrupt, or of a mutable source, is dropped (R212, R224, R229). -/
def Tile.expanded (t : Tile) : Option Tile :=
  if t.bad then (if t.pins = 0 then none else some { t with corrupt := true })
  else if t.pins = 0 && !t.keep then none
  else some { t with valid := true }

/-- The expander of a hoop finishes a tile: each corrupt one counts (R224). -/
def State.expandEnd (s : State) (h : Nat) (t : Tile) : State :=
  let s := s.updTiles h (editTile Tile.expanding Tile.expanded)
  if t.bad then s.count R.HOOP_EXP_CORRUPT_count 1 h else s

/-- TILE_EXPANDED: the expander has written the tile and marks it valid, or corrupt when a check failed. It serves the
requests of its hoop in arrival order: the tile is the one longest requested (R80, R224, R229). -/
def execTileExpanded (h : HoopId) (k : TileKey) (s : State) : Out :=
  .next (s.mainEv (fun s =>
    match (s.hoop h).tiles.find? Tile.expanding with
    | none => s
    | some t => if t.addr = k.addr.toNat ∧ t.blk = k.blk then s.expandEnd h t else s))

/-- Instructions in flight on a hoop that hold a tile. -/
def State.tileHolders (s : State) (h : Nat) (k : Nat × Nat) : Nat :=
  ((List.range 8).map (fun j =>
    let x := s.core (8 * h + j)
    ((x.mm ++ x.vx ++ (x.shadowRun.map (·.1)).toList).filter (fun q => q.want.isEmpty && q.tiles.contains k)).length)).sum

/-- TILE_UNPIN: a pin that no instruction in flight holds is released, and a pending invalidation takes effect (R212,
R239). -/
def execTileUnpin (h : HoopId) (k : TileKey) (s : State) : Out :=
  .next (s.mainEv (fun s =>
    let key := (k.addr.toNat, k.blk)
    match (s.hoop h).tiles.find? (fun t => t.addr == key.1 && t.blk == key.2 && (decide (0 < t.pins) || t.inval)) with
    | none => s
    | some t => if s.tileHolders h key < t.pins ∨ t.pins = 0 then s.updTiles h (fun l => unpin l key) else s))

/-- The tiles of an instruction in flight are in the cache, expanded. -/
def State.staged (s : State) (h : Nat) (q : InFlight) : Bool :=
  q.want.isEmpty && q.tiles.all (fun k => (s.hoop h).tiles.any (fun t => t.addr == k.1 && t.blk == k.2 && (t.valid || t.corrupt || t.gone)))

/-- The end of an instruction in its engine with a fault: an execution fault is raised; one of R150 is left deferred, or
raised in the ST.NEXT, ST.COMMIT or SY.BAR in which the core waits (R123, R150). A core that is stopped already raises
nothing more. -/
def State.endFault (s : State) (c : CoreId) (q : InFlight) : State :=
  match q.fault with
  | none => s
  | some f =>
    let k := s.core c
    if k.resuming ∨ s.fld R.CORE_STATUS_run_state c = 3 ∨ s.fld R.CORE_STATUS_run_state c = 0 then s
    else if !q.defer then (s.eccReport f).takeFault c q.pc q.word f
    else if k.wait = .stNext ∨ k.wait = .stCommit ∨ k.wait = .syBar then s.raiseDeferred c k.waitWord q.pc f
    else s.updCore c (fun x => x.deferFault q.pc q.word f)

/-- The on-chip bytes that a shadow check of a block holds: the activations, their row scales, and the rows of the block
(R333). -/
def Shad.holds (h : Shad) (c : CoreId) (b r : Nat) : List (Nat × Nat) :=
  let o := h.ops
  [(opbufAddr c o.ta.d.base, o.ta.d.extent), (accAddr c (o.td.d.rowAt (64 * r) b 0), 256 * min 64 (o.M - 64 * r))]
    ++ (o.rs.map (fun x => (opbufAddr c x.d.base, x.d.extent))).toList

/-- An armed shadow check takes a completing MM.GRP: its kept operands. -/
def State.shadowFor (s : State) (c : CoreId) (q : InFlight) : Option Shad :=
  if (s.core c).shadowArmed && (s.core c).shadowRun.isNone && (q.fault.isNone || q.defer) then q.shad else none

/-- The pins of an instruction's tiles are released (R140). -/
def State.unpinAll (s : State) (h : Nat) (q : InFlight) : State :=
  q.tiles.foldl (fun (s : State) k => s.updTiles h (fun l => unpin l k)) s

/-- An MM.GRP with init set that completes is taken by an armed shadow check, which chooses a block of what it wrote at
random and keeps its tiles and operands; the tiles of any other are released (R333). -/
def State.shadowTake (s : State) (c : CoreId) (q : InFlight) : State :=
  match s.shadowFor c q with
  | none => s.unpinAll (c.val / 8) q
  | some h =>
    let (v, s) := s.freeVal
    let nb := cdiv h.ops.N 64
    let x := v.toNat % (nb * cdiv h.ops.M 64)
    s.updCore c (fun k => { k with shadowArmed := false, shadowRun := some (q, x % nb, x / nb),
                                   shadowHold := h.holds c (x % nb) (x / nb) })

/-- The instruction at the head of an engine's queue ends: its entry leaves, its pins are released, an armed shadow check
takes it, and the fault it left is raised or deferred (R104, R123, R150, R333). -/
def State.engineDone (s : State) (c : CoreId) (e : Engine) (q : InFlight) (qs : List InFlight) : State :=
  ((s.updCore c (fun k => k.setQueue e qs)).shadowTake c q).endFault c q

/-- RC.GATE and RC.LCONV use the recurrence engine from the matrix engine's queue (R153). -/
def usesRc (w : W64) : Bool := w.toNat / 2 ^ 60 == 4 && (w.toNat / 2 ^ 52 % 256 == 1 || w.toNat / 2 ^ 52 % 256 == 3)

/-- RC instructions use the recurrence engine in program order, from whichever of the two queues (R153). -/
def Core.rcTurn (k : Core) (e : Engine) (q : InFlight) : Bool :=
  match e with
  | .mm => !usesRc q.word || k.rc.all (fun x => decide (q.ord < x.ord))
  | .rc => k.mm.all (fun x => !usesRc x.word || decide (q.ord < x.ord))
  | _ => true

/-- ENGINE_INSTRUCTION_COMPLETE: the instruction at the head of an engine's queue finishes; its pins and interlocks are
released and its fault takes effect (R104, R105, R107, R123, R140, R150). The vector engine's queue waits for a shadow
check (R333); an AT.APPEND is complete when its leaf writes are (R203, R207). -/
def execEngineInstructionComplete (c : CoreId) (e : Engine) (s : State) : Out :=
  .next (s.mainEv (fun s =>
    match (s.core c).queue e with
    | [] => s
    | q :: qs =>
      let h := c.val / 8
      if !s.staged h q ∨ !(s.core c).rcTurn e q ∨ (e = .vx ∧ (s.core c).shadowRun.isSome) ∨
          (e = .at ∧ s.txns.any (fun t => t.typ == 2 && t.who == .core c q.pc q.word)) then s
      else s.engineDone c e q qs))

/-- CORE_SELF_TEST: the array's self-test against the LUT path completes; a pass clears lut_mode and sets the readiness
bit (R147). -/
def execCoreSelfTest (c : CoreId) (pass : Bool) (s : State) : Out :=
  .next (s.mainEv (fun s =>
    let ready := if c.val < 64 then (s.fld R.COLO_READY2_cores).testBit c else (s.fld R.COLO_READY3_cores).testBit (c.val - 64)
    if !s.hoopOn (c.val / 8) ∨ ready ∨ (s.core c).recovering ∨ !pass then s
    else (s.put R.CORE_MM_CTRL_lut_mode 0 c).coreReady c true))

/-- SHADOW_ARM: shadow_period has passed since the last arming (R333). -/
def execShadowArm (c : CoreId) (s : State) : Out :=
  .next (s.mainEv (fun s =>
    let period := s.fld R.CORE_MM_SHADOW_CFG_shadow_period c
    if s.bit R.CORE_MM_CTRL_lut_mode c ∨ period = 0 ∨ s.now < (s.core c).shadowDue then s
    else s.updCore c (fun k => { k with shadowArmed := true, shadowDue := s.now + period * 1000000 })))

/-- The pieces of a block of an output: rows of 64 columns or fewer. -/
def blockPieces (N M' b r : Nat) : List (Nat × Nat × Nat) :=
  (List.range (min 64 (M' - 64 * r))).map (fun m => (b, 64 * r + m, min 64 (N - 64 * b)))

/-- The FP32 codes of the pieces of a kept instruction's output, computed again from its operands: by MM.LUT, or by exact
group sums (R333). The recomputation counts no saturation and no NaN (DESIGN CHOICE, log entry 98). -/
def State.shadowValues (s : State) (c : CoreId) (q : InFlight) (h : Shad) (pieces : List (Nat × Nat × Nat)) : List (List Nat) :=
  let o := h.ops
  let steps := o.steps h.walk
  let tiles := List.zip (o.cells steps).eraseDups q.tiles
  let dat (p : Nat × Nat) : TileDat :=
    (((tiles.find? (fun x => x.1 == p)).bind (fun x => findTile (s.hoop (c.val / 8)).tiles x.2)).map (·.dat)).getD {}
  match actCodes c o.ta o.rs o.K o.M s with
  | .ok ((v, e, _), _) =>
    (((do
      let rows ← rowsOf o.ta.d.fmt o.K o.M v e
      let cols ← columnGroups o.tw.d o.K o.N steps dat
      outValues (fltWeights o.tw.d.fmt) rows cols pieces none []) : NM (List (List Nat))).run {}).1
  | .error _ => []

/-- The first value of a block that differs from the accumulator's: its row and column (R333). -/
def State.shadowDiffers (s : State) (c : CoreId) (td : Desc) (pieces : List (Nat × Nat × Nat)) (vals : List (List Nat)) :
    Option (Nat × Nat) :=
  (List.zip pieces vals).findSome? (fun x => x.2.zipIdx.findSome? (fun y =>
    if accWord (s.core c).acc (td.rowAt x.1.2.1 x.1.1 0 + 4 * y.2) = y.1 then none else some (x.1.2.1, 64 * x.1.1 + y.2)))

/-- A shadow mismatch at row m and column n: RESIDUE is left deferred, or raised where the core waits (R150, R334). The
comparison names no group; what FAULT_INFO holds in its place is open (log entry 73). -/
def State.shadowFail (s : State) (c : CoreId) (q : InFlight) (m n : Nat) : State :=
  let s := (s.count R.CORE_MM_SHADOW_FAIL_count 1 c).put R.CORE_MM_DEFER_PC_pc q.pc.toNat c
  let s := s.residueAlarm c 2
  let (v, s) := s.freeVal
  s.endFault c { q with defer := true, fault := some {
    code := fResidue, info := n % 2 ^ 16 + v.toNat % 2 ^ 16 * 2 ^ 16 + m % 2 ^ 16 * 2 ^ 32, atIssue := false, ord := q.ord } }

/-- The shadow check of a core ends: what it held is released (R333). -/
def State.shadowEnd (s : State) (c : CoreId) (q : InFlight) : State :=
  ((s.updCore c (fun k => { k with shadowRun := none, shadowHold := [] })).unpinAll (c.val / 8) q).count R.CORE_MM_SHADOW_count 1 c

/-- SHADOW_CHECK: the recomputation of an output block ends and is compared bit for bit (R333, R334). -/
def execShadowCheck (c : CoreId) (s : State) : Out :=
  .next (s.mainEv (fun s =>
    match (s.core c).shadowRun with
    | none => s
    | some (q, b, r) =>
      match q.shad with
      | none => s.shadowEnd c q
      | some h =>
        let pieces := blockPieces h.ops.N h.ops.M b r
        match s.shadowDiffers c h.ops.td.d pieces (s.shadowValues c q h pieces) with
        | none => s.shadowEnd c q
        | some (m, n) => (s.shadowEnd c q).shadowFail c q m n))

/-- RESIDUE_RECOVERY: the rerun self-test ends; lut_mode is cleared when it passed and no recovery ran in the last hour,
and the readiness bit is set again either way (R332). -/
def execResidueRecovery (c : CoreId) (pass : Bool) (s : State) : Out :=
  .next (s.mainEv (fun s =>
    let k := s.core c
    if !k.recovering then s
    else
      let s := if pass && !k.recoverAgain then s.put R.CORE_MM_CTRL_lut_mode 0 c else s
      (s.coreReady c true).updCore c (fun k => { k with recovering := false, recoverAgain := false, lastRecovery := some s.now })))

end Sys2Proof.Machine
end

