-- ==== Sys2Proof/Machine/Scalar.lean ====
section
/-! DEFINITION. The scalar instructions (R109 to R111, Table 4-8): one meaning for each, over the shapes of their formats:
R3, RI, I and BR. -/
namespace Sys2Proof.Machine

/-- Class of the SC instructions (Table 4-3). -/
def clsSC : Nat := 0
/-- Bits that format R3 marks zero. -/
def zR3 : Nat := zbits 36 0
/-- Bits that formats RI and BR mark zero. -/
def zRI : Nat := zbits 41 32
/-- Bits that format I marks zero. -/
def zI : Nat := zbits 46 32
/-- Field A marked zero. -/
def zA : Nat := zbits 51 47
/-- imm marked zero. -/
def zImm : Nat := zbits 31 0

/-- s[A] := f (s[B]) (s[C]). -/
def r3 (c : CoreId) (op : Nat) (ops : BitVec 52) (f : W64 → W64 → W64) (s : State) : Out :=
  .next (s.issue c (word clsSC op ops) zR3 (thenNext c (do
    let a ← getS c (fldB ops)
    let b ← getS c (fldC ops)
    setS c (fldA ops) (f a b))))

/-- s[A] := f (s[B]) imm. -/
def ri (c : CoreId) (op : Nat) (ops : BitVec 52) (f : W64 → BitVec 32 → W64) (s : State) : Out :=
  .next (s.issue c (word clsSC op ops) zRI (thenNext c (do
    let a ← getS c (fldB ops)
    setS c (fldA ops) (f a (fldImm ops)))))

/-- s[A] := f (s[B]) (imm[5:0]); imm[31:6] zero. -/
def riShift (c : CoreId) (op : Nat) (ops : BitVec 52) (f : W64 → Nat → W64) (s : State) : Out :=
  .next (s.issue c (word clsSC op ops) (zRI ||| zbits 31 6) (thenNext c (do
    let a ← getS c (fldB ops)
    setS c (fldA ops) (f a (bits ops.toNat 0 6)))))

/-- The target of a branch: pc + 8 * sext(imm). -/
def target' (pc : BitVec 52) (imm : BitVec 32) : BitVec 52 := pc + 8 * imm.signExtend 52

/-- Branch when a condition on s[A] and s[B] holds. -/
def br (c : CoreId) (op : Nat) (ops : BitVec 52) (p : W64 → W64 → Bool) (s : State) : Out :=
  .next (s.issue c (word clsSC op ops) zRI (do
    let a ← getS c (fldA ops)
    let b ← getS c (fldB ops)
    let s ← get
    let pc := (s.core c).pc
    pure (if p a b then target' pc (fldImm ops) else pc + 8)))

/-- s[A] := v, from the state at issue; `z` marks further zero bits beside [46:32]. -/
def iSet (c : CoreId) (op : Nat) (ops : BitVec 52) (z : Nat) (v : State → W64) (s : State) : Out :=
  .next (s.issue c (word clsSC op ops) (zI ||| z) (thenNext c (do
    let s ← get
    setS c (fldA ops) (v s))))

/-- 1 when a condition holds, else 0. -/
def flag01 (b : Bool) : W64 := if b then 1 else 0

/-! ### Loads and stores (R110) -/

/-- The checked Toile address of a scalar access of n bytes at s[B] + sext(imm) (R110, R121, R122). -/
def scalarAddr (c : CoreId) (ops : BitVec 52) (n : Nat) (wr : Bool) : M Nat := do
  let b ← getS c (fldB ops)
  let a := (b + sx (fldImm ops)).toNat
  let s ← get
  let r := s.reach c a n wr
  fltIf (decide (a < 2 ^ 52) && r == some fPriv) fPriv a (operand := 1)
  fltIf (decide (2 ^ 52 ≤ a) || r == some fDesc) fDesc a (operand := 1)
  fltIf (a % n ≠ 0) fAlign a (operand := 1)
  match r with
  | some code => flt code a (operand := 1)
  | none => pure a

/-- A scalar load of n bytes, zero-extended. -/
def load (c : CoreId) (op : Nat) (ops : BitVec 52) (n : Nat) (s : State) : Out :=
  .next (s.issue c (word clsSC op ops) zRI (thenNext c (do
    let a ← scalarAddr c ops n false
    inOrder c
    let l ← rdToile c a n
    setS c (fldA ops) (BitVec.ofNat 64 (leNat l)))))

/-- A scalar store of n bytes. -/
def store (c : CoreId) (op : Nat) (ops : BitVec 52) (n : Nat) (s : State) : Out :=
  .next (s.issue c (word clsSC op ops) zRI (thenNext c (do
    let a ← scalarAddr c ops n true
    beforeWrite c
    let v ← getS c (fldA ops)
    wrToile c (word clsSC op ops) a (toLE n v.toNat))))

/-- Offsets of the own CORE block that SC.CRR may read (Table 4-13). -/
def crrAllowed (o : Nat) : Bool :=
  o == 0x0008 || o == 0x3000 || o == 0x3008 || (decide (0x3100 ≤ o ∧ o ≤ 0x32F8))

/-- Offsets of the own CORE block that SC.CRW may write (Table 4-13). -/
def crwAllowed (o : Nat) : Bool := decide (0x3100 ≤ o ∧ o < 0x3300 ∧ o % 0x20 = 0)

/-- The address of a register of the own CORE block by its offset (R111). -/
def coreReg (c : CoreId) (o : Nat) : Nat := 0xF002000000 + c.val * 0x10000 + o

/-- The checked control offset of SC.CRR or SC.CRW (R111): a refusal names the offset, a misaligned register its address
(Table 4-12). -/
def ctlOffset (c : CoreId) (ops : BitVec 52) (ok : Nat → Bool) : M Nat := do
  let o := bits ops.toNat 0 16
  fltIf (!ok (o / 8 * 8)) fPriv o
  fltIf (o % 8 ≠ 0) fAlign (coreReg c o)
  pure o

/-- The identity word (R111). -/
def State.identity (s : State) (c : CoreId) : W64 :=
  BitVec.ofNat 64 (c.val + c.val / 8 * 2 ^ 7 + c.val % 8 * 2 ^ 11 + s.fld R.TOILE_DEVNUM_devnum * 2 ^ 14)

/-! ### The instructions of Table 4-8 -/

/-- SC.ADD (R109). -/
def execScAdd (c : CoreId) (ops : BitVec 52) (s : State) : Out := r3 c 1 ops (fun a b => a + b) s
/-- SC.SUB (R109). -/
def execScSub (c : CoreId) (ops : BitVec 52) (s : State) : Out := r3 c 2 ops (fun a b => a - b) s
/-- SC.MUL: the low 64 bits (R109). -/
def execScMul (c : CoreId) (ops : BitVec 52) (s : State) : Out := r3 c 3 ops (fun a b => a * b) s
/-- SC.AND (R109). -/
def execScAnd (c : CoreId) (ops : BitVec 52) (s : State) : Out := r3 c 4 ops (fun a b => a &&& b) s
/-- SC.OR (R109). -/
def execScOr (c : CoreId) (ops : BitVec 52) (s : State) : Out := r3 c 5 ops (fun a b => a ||| b) s
/-- SC.XOR (R109). -/
def execScXor (c : CoreId) (ops : BitVec 52) (s : State) : Out := r3 c 6 ops (fun a b => a ^^^ b) s
/-- SC.SHL by s[C][5:0] (R109). -/
def execScShl (c : CoreId) (ops : BitVec 52) (s : State) : Out := r3 c 7 ops (fun a b => a <<< (b.toNat % 64)) s
/-- SC.SHR by s[C][5:0] (R109). -/
def execScShr (c : CoreId) (ops : BitVec 52) (s : State) : Out := r3 c 8 ops (fun a b => a >>> (b.toNat % 64)) s
/-- SC.SRA by s[C][5:0] (R109). -/
def execScSra (c : CoreId) (ops : BitVec 52) (s : State) : Out := r3 c 9 ops (fun a b => a.sshiftRight (b.toNat % 64)) s
/-- SC.MIN, signed (R109). -/
def execScMin (c : CoreId) (ops : BitVec 52) (s : State) : Out := r3 c 10 ops (fun a b => if a.slt b then a else b) s
/-- SC.MAX, signed (R109). -/
def execScMax (c : CoreId) (ops : BitVec 52) (s : State) : Out := r3 c 11 ops (fun a b => if a.slt b then b else a) s
/-- SC.MINU (R109). -/
def execScMinu (c : CoreId) (ops : BitVec 52) (s : State) : Out := r3 c 12 ops (fun a b => if a.ult b then a else b) s
/-- SC.MAXU (R109). -/
def execScMaxu (c : CoreId) (ops : BitVec 52) (s : State) : Out := r3 c 13 ops (fun a b => if a.ult b then b else a) s
/-- SC.SLT (R109). -/
def execScSlt (c : CoreId) (ops : BitVec 52) (s : State) : Out := r3 c 14 ops (fun a b => flag01 (a.slt b)) s
/-- SC.SLTU (R109). -/
def execScSltu (c : CoreId) (ops : BitVec 52) (s : State) : Out := r3 c 15 ops (fun a b => flag01 (a.ult b)) s
/-- SC.ADDI (R109). -/
def execScAddi (c : CoreId) (ops : BitVec 52) (s : State) : Out := ri c 0x10 ops (fun a i => a + sx i) s
/-- SC.ANDI (R109). -/
def execScAndi (c : CoreId) (ops : BitVec 52) (s : State) : Out := ri c 0x11 ops (fun a i => a &&& i.setWidth 64) s
/-- SC.ORI (R109). -/
def execScOri (c : CoreId) (ops : BitVec 52) (s : State) : Out := ri c 0x12 ops (fun a i => a ||| i.setWidth 64) s
/-- SC.SLTI (R109). -/
def execScSlti (c : CoreId) (ops : BitVec 52) (s : State) : Out := ri c 0x16 ops (fun a i => flag01 (a.slt (sx i))) s
/-- SC.SHLI (R109). -/
def execScShli (c : CoreId) (ops : BitVec 52) (s : State) : Out := riShift c 0x13 ops (fun a n => a <<< n) s
/-- SC.SHRI (R109). -/
def execScShri (c : CoreId) (ops : BitVec 52) (s : State) : Out := riShift c 0x14 ops (fun a n => a >>> n) s
/-- SC.SRAI (R109). -/
def execScSrai (c : CoreId) (ops : BitVec 52) (s : State) : Out := riShift c 0x15 ops (fun a n => a.sshiftRight n) s
/-- SC.LI: s[A] := sext(imm) (R109). -/
def execScLi (c : CoreId) (ops : BitVec 52) (s : State) : Out := iSet c 0x18 ops 0 (fun _ => sx (fldImm ops)) s
/-- SC.LIH: s[A][63:32] := imm; s[A][31:0] unchanged (R109). -/
def execScLih (c : CoreId) (ops : BitVec 52) (s : State) : Out := 
  iSet c 0x19 ops 0 (fun s => (fldImm ops) ++ ((s.core c).getS (fldA ops)).setWidth 32) s
/-- SC.BEQ (R109). -/
def execScBeq (c : CoreId) (ops : BitVec 52) (s : State) : Out := br c 0x29 ops (fun a b => a == b) s
/-- SC.BNE (R109). -/
def execScBne (c : CoreId) (ops : BitVec 52) (s : State) : Out := br c 0x2A ops (fun a b => a != b) s
/-- SC.BLT, signed (R109). -/
def execScBlt (c : CoreId) (ops : BitVec 52) (s : State) : Out := br c 0x2B ops (fun a b => a.slt b) s
/-- SC.BGE, signed (R109). -/
def execScBge (c : CoreId) (ops : BitVec 52) (s : State) : Out := br c 0x2C ops (fun a b => !a.slt b) s
/-- SC.BLTU (R109). -/
def execScBltu (c : CoreId) (ops : BitVec 52) (s : State) : Out := br c 0x2D ops (fun a b => a.ult b) s
/-- SC.BGEU (R109). -/
def execScBgeu (c : CoreId) (ops : BitVec 52) (s : State) : Out := br c 0x2E ops (fun a b => !a.ult b) s
/-- SC.LD (R110). -/
def execScLd (c : CoreId) (ops : BitVec 52) (s : State) : Out := load c 0x20 ops 8 s
/-- SC.LDW (R110). -/
def execScLdw (c : CoreId) (ops : BitVec 52) (s : State) : Out := load c 0x21 ops 4 s
/-- SC.ST (R107, R110). -/
def execScSt (c : CoreId) (ops : BitVec 52) (s : State) : Out := store c 0x22 ops 8 s
/-- SC.STW (R107, R110). -/
def execScStw (c : CoreId) (ops : BitVec 52) (s : State) : Out := store c 0x23 ops 4 s
/-- SC.B (R109). -/
def execScB (c : CoreId) (ops : BitVec 52) (s : State) : Out :=
  .next (s.issue c (word clsSC 0x28 ops) (zI ||| zA) (do
    let s ← get
    pure (target' (s.core c).pc (fldImm ops))))
/-- SC.BF: branch when flag A is 1 (R109). -/
def execScBf (c : CoreId) (ops : BitVec 52) (s : State) : Out :=
  .next (s.issue c (word clsSC 0x2F ops) zI (do
    let s ← get
    let k := s.core c
    pure (if k.flags.getLsbD (fldA ops) then target' k.pc (fldImm ops) else k.pc + 8)))
/-- SC.CALL: s[A] := pc + 8, then branch (R109). -/
def execScCall (c : CoreId) (ops : BitVec 52) (s : State) : Out :=
  .next (s.issue c (word clsSC 0x30 ops) zI (do
    let s ← get
    let pc := (s.core c).pc
    setS c (fldA ops) ((pc + 8).setWidth 64)
    pure (target' pc (fldImm ops))))
/-- SC.JR: DESC_BAD for a target with [63:52] non-zero, ALIGN with [2:0] non-zero (R110, R122). -/
def execScJr (c : CoreId) (ops : BitVec 52) (s : State) : Out :=
  .next (s.issue c (word clsSC 0x31 ops) (zI ||| zImm) (do
    let a ← getS c (fldA ops)
    fltIf (decide (2 ^ 52 ≤ a.toNat)) fDesc a.toNat
    fltIf (a.toNat % 8 ≠ 0) fAlign a.toNat
    pure (a.setWidth 52)))
/-- SC.RDF (R109). -/
def execScRdf (c : CoreId) (ops : BitVec 52) (s : State) : Out :=
  iSet c 0x38 ops zImm (fun s => (s.core c).flags.setWidth 64) s
/-- SC.CLF: flags := flags and not imm (R95, R109). -/
def execScClf (c : CoreId) (ops : BitVec 52) (s : State) : Out :=
  .next (s.issue c (word clsSC 0x39 ops) (zI ||| zA) (thenNext c
    (modify (fun s => s.updCore c (fun k => { k with flags := k.flags &&& ~~~ fldImm ops })))))
/-- SC.CRR reads a permitted register of the own CORE block (R111, R121). -/
def execScCrr (c : CoreId) (ops : BitVec 52) (s : State) : Out :=
  .next (s.issue c (word clsSC 0x3A ops) (zI ||| zbits 31 16) (thenNext c (do
    let o ← ctlOffset c ops crrAllowed
    let s ← get
    setS c (fldA ops) (s.regRead (coreReg c o)))))
/-- SC.CRW writes COREc_QMON_CFGk (R107, R111, R121). -/
def execScCrw (c : CoreId) (ops : BitVec 52) (s : State) : Out :=
  .next (s.issue c (word clsSC 0x3B ops) (zI ||| zbits 31 16) (thenNext c (do
    let o ← ctlOffset c ops crwAllowed
    beforeWrite c
    let v ← getS c (fldA ops)
    modify (fun s => s.regStore (coreReg c o) v))))
/-- SC.TIME: device time at issue (R109). -/
def execScTime (c : CoreId) (ops : BitVec 52) (s : State) : Out :=
  iSet c 0x3C ops zImm (fun s => BitVec.ofNat 64 s.now) s
/-- SC.ID (R111). -/
def execScId (c : CoreId) (ops : BitVec 52) (s : State) : Out := iSet c 0x3D ops zImm (fun s => s.identity c) s
/-- SC.NOP (R109). -/
def execScNop (c : CoreId) (ops : BitVec 52) (s : State) : Out :=
  .next (s.issue c (word clsSC 0x7F ops) (zbits 51 0) (thenNext c (pure ())))

end Sys2Proof.Machine
end

