-- ==== Sys2Proof/Machine/DataMove.lean ====
section
/-! DEFINITION. The data-movement and synchronisation instructions (R112 to R118, R225, R232, R233). -/
namespace Sys2Proof.Machine

/-- Classes of the DM and SY instructions (Table 4-3). -/
def clsDM : Nat := 1
def clsSY : Nat := 7

/-- The instruction writes HBM or Toile memory when its tensor is of kind 0 or 1 (R107). -/
def beforeKind (c : CoreId) (t : Desc) : M Unit := if t.kind ≤ 1 then beforeWrite c else pure ()

/-- An access to HBM, Toile memory or the state store comes after the core's earlier ones (R106). -/
def inOrderKind (c : CoreId) (t : Desc) : M Unit := if t.kind = 2 ∨ t.kind = 3 then pure () else inOrder c

/-! ### DM.COPY (R113) -/

/-- Element of ta at an index, or its padding outside the bounds. -/
def copyElem (c : CoreId) (ta : Tens) (v : TVal) (i0 i1 i2 i3 : Nat) : M Nat :=
  if i0 < ta.n 0 ∧ i1 < ta.n 1 ∧ i2 < ta.n 2 ∧ i3 < ta.n 3 then pure (v.at i0 i1 i2 i3)
  else nm c (padElem ta.d.fmt ta.d.pad)

/-- The source bounds that lie within the destination bounds. -/
def Tens.within (ta td : Tens) (d : Nat) : Nat := min (ta.n d) (td.n d)

/-- Copy row by row where source and destination do not overlap. -/
def copyRows (c : CoreId) (w : W64) (td ta : Tens) : M Unit := do
  let (v, bad) ← readSub c ta.d (ta.within td 0) (ta.within td 1) (ta.within td 2) (ta.within td 3)
  eccNow bad
  (rowIdx (td.n 1) (td.n 2) (td.n 3)).forM (fun r => do
    let l ← (List.range (td.n 0)).mapM (fun i0 => copyElem c ta v i0 r.1 r.2.1 r.2.2)
    writeRow c w td.d r.1 r.2.1 r.2.2 l)

/-- Write one element. -/
def writeElem (c : CoreId) (w : W64) (t : Desc) (i0 i1 i2 i3 x : Nat) : M Unit := do
  let o := t.rowAt i1 i2 i3 + i0 * t.ebits / 8
  if t.ebits = 4 then
    let (r, _) ← readRanges c t [(o, 1)]
    let b := ((r.headD []).headD 0).toNat
    let sh := 4 * (i0 % 2)
    writeAt c w t o [BitVec.ofNat 8 (b - bits b sh 4 * 2 ^ sh + x % 16 * 2 ^ sh)]
  else writeAt c w t o (toLE (t.ebits / 8) x)

/-- Copy element by element, each read seeing the writes before it, where source and destination overlap. -/
def copyElems (c : CoreId) (w : W64) (td ta : Tens) : M Unit :=
  (rowIdx (td.n 1) (td.n 2) (td.n 3)).forM (fun r => (List.range (td.n 0)).forM (fun i0 => do
    let x ← if i0 < ta.n 0 ∧ r.1 < ta.n 1 ∧ r.2.1 < ta.n 2 ∧ r.2.2 < ta.n 3 then do
        let o := ta.d.rowAt r.1 r.2.1 r.2.2 + i0 * ta.d.ebits / 8
        let (l, bad) ← readRanges c ta.d [(o, (ta.d.ebits + 7) / 8)]
        eccNow bad
        let v := leNat (l.headD [])
        pure (if ta.d.ebits = 4 then bits v (4 * (i0 % 2)) 4 else v)
      else nm c (padElem ta.d.fmt ta.d.pad)
    writeElem c w td.d i0 r.1 r.2.1 r.2.2 x))

/-- The issue checks of DM.COPY: destination and source (R113). -/
def copyCheck (c : CoreId) (ops : BitVec 52) : M (Tens × Tens) := ranked do
  let td ← evalK c (tOf (fldA ops)) 0 true
  let ta ← evalK c (tOf (fldB ops)) 1 false
  chkIf (ta.d.fmt ≠ td.d.fmt) fDesc 55 (operand := 1)
  chkIf (ta.d.comp ≠ 0) fDesc 61 (operand := 1)
  allocK c td 0
  pure (td, ta)

/-- Copy a source to a destination. -/
def copyBody (c : CoreId) (w : W64) (td ta : Tens) : M Unit := do
  let s ← get
  if overlaps s c td.d ta.d then copyElems c w td ta else copyRows c w td ta

/-- The work of DM.COPY at issue. -/
def workDmCopy (c : CoreId) (ops : BitVec 52) : M Unit :=
  let w := word clsDM 1 ops
  do
    let (td, ta) ← copyCheck c ops
    beforeKind c td.d
    inOrderKind c td.d
    inOrderKind c ta.d
    queueRoom c .dm
    if td.empty then setFlag c 0
    else
      copyBody c w td ta
      dispatchWork c .dm w {}

/-- DM.COPY (R113). -/
def execDmCopy (c : CoreId) (ops : BitVec 52) (s : State) : Out :=
  let w := word clsDM 1 ops
  .next (s.issue c w (zT ||| zbits 42 0) (thenNext c (workDmCopy c ops)))

/-! ### DM.PREF (R114) -/

/-- A prefetched tile takes a place in the cache, unpinned, in the expander's order. -/
def State.prefetched (s : State) (h : Nat) (t : Tile) : State :=
  match makeTiles (s.hoop h).tiles 1 1000 with
  | some old => s.updTiles h (fun _ => old ++ [{ t with lastUsed := s.now }])
  | none => s

/-- Bring tiles in, in order. One that is there already is left; one for which there is no space is not requested (DESIGN
CHOICE, log entry 95); one whose source faults, or that is corrupt, ends the prefetch (R114, R229; log entry 95). -/
def prefetchOn (c : CoreId) (t : Desc) (ws : Option Desc) (gk : Nat) : List (Nat × Nat) → M Unit
  | [] => pure ()
  | p :: ps => do
    let s ← get
    let ts := (s.hoop (c.val / 8)).tiles
    let there := ts.any (fun v => v.addr == keyAddr s t && v.blk == tileBlocks t.fmt * (p.2 * gk + p.1) && v.shared)
    if there || (makeTiles ts 1 1000).isNone then prefetchOn c t ws gk ps
    else
      let v ← stageTile c t ws gk p.1 p.2
      if v.tile.gone then pure ()
      else
        modify (fun s => s.prefetched (c.val / 8) v.tile)
        if v.stop.isSome then pure () else prefetchOn c t ws gk ps

/-- Bring a tensor's tiles in. A fault of its staging drops it there. -/
def prefetch (c : CoreId) (t : Tens) (ws : Option Tens) : M Unit := do
  let gk ← storedGk c t.d
  prefetchOn c t.d (ws.map (·.d)) gk
    ((List.range (cdiv (t.n 1) (nslab t.d.fmt))).flatMap (fun y => (List.range (cdiv (t.n 0) 64)).map (fun x => (x, y))))

/-- The operand of DM.PREF with its scale descriptor (R114). -/
def prefCheck (c : CoreId) (ops : BitVec 52) : M (Tens × Option Tens) := ranked do
  let t ← evalK c (tOf (fldB ops)) 1 false
  let ws ← scaleK c t 1
  pure (t, ws)

/-- The work of DM.PREF at issue. The lines that it needs of another device are asked for with their failures muted: one that
is refused or lost drops the prefetch; a corrupt tile drops it too, and the MM instruction that reads it raises DESC_BAD (R80,
R114, R140; DESIGN CHOICE, log entry 95). -/
def workDmPref (c : CoreId) (ops : BitVec 52) : M Unit :=
  let w := word clsDM 2 ops
  do
    match ← caught (prefCheck c ops) with
    | .error f => if f.code = fDesc then flt fDesc f.info true f.dim f.operand else pure ()
    | .ok (t, ws) =>
      inOrder c
      queueRoom c .dm
      if t.empty then setFlag c 0
      else
        if t.d.kind ≤ 1 ∧ weightOk t.d.fmt then
          match ← caught (prefetch c t ws) with
          | .error _ => pure ()
          | .ok _ => pure ()
        dispatchWork c .dm w {}

/-- DM.PREF raises only ILLEGAL_OP and DESC_BAD; any other fault drops it (R114). -/
def execDmPref (c : CoreId) (ops : BitVec 52) (s : State) : Out :=
  let w := word clsDM 2 ops
  .next (s.issue c w (zbits 51 47 ||| zTB ||| zbits 41 0) (thenNext c (workDmPref c ops)))

/-! ### DM.PACK (R115, R225, R232, R233) -/

/-- Z of R225. -/
def packZ (fmt : Nat) : Nat := if fmt = 1 then 4128 else if fmt = 0 ∨ fmt = 2 then 4096 else 0
/-- The worst-case size of a packed object (R225). -/
def packWorst (fmt nb : Nat) : Nat := 64 + nb * (16 + 4096 + packZ fmt)

/-- Grid of a tensor by its bounds: K slabs and column blocks. -/
def Tens.grid (t : Tens) : Nat × Nat := (cdiv (t.n 0) 64, cdiv (t.n 1) (nslab t.d.fmt))

/-- The codes of tile (x, y) by columns, within the bounds. -/
def packColumns (c : CoreId) (t : Tens) (x y : Nat) : M (List (List Nat)) := do
  let ns := nslab t.d.fmt
  let n := min 64 (t.n 0 - 64 * x)
  let cols := (List.range ns).filter (fun j => decide (y * ns + j < t.n 1))
  let (l, bad) ← readRanges c t.d (cols.map (fun j => (t.d.rowAt (y * ns + j) 0 0 + 8 * x * t.d.ebits, t.d.rowBytes n)))
  eccNow bad
  pure ((l.map (fun b => unpack t.d.ebits b n ++ List.replicate (64 - n) 0))
    ++ List.replicate (ns - cols.length) (List.replicate 64 0))

/-- The block layout of a tile's columns (R219). -/
def layoutBytes (fmt : Nat) (cols : List (List Nat)) : List Byte := cols.flatMap (pack (elemBits fmt) 0)

/-- The tip list and the wide list of a tile, from the side area (R220). -/
def packLists (c : CoreId) (t : Tens) (x y : Nat) (cols scales : List (List Nat)) : M (List Byte × List Byte × Nat) := do
  if 2 < t.d.fmt then pure ([], [], 0)
  else
    let gp := groupIn t.d.groupSize
    let flat := (List.zipWith (fun col es => List.zip es (chunks gp col)) cols scales).flatten
    let esc := (flat.map (fun g => escapes t.d.fmt g.1 g.2)).sum
    let nw := (flat.filter (fun g => wideEntry t.d.fmt g.1)).length
    fltIf (flat.any (fun g => decide (8 < escapes t.d.fmt g.1 g.2))) fDesc t.d.toile false 0 1
    let rec' := t.d.base + (t.d.extent + 4095) / 4096 * 4096 + 8192 * (y * ((t.d.capAt 0 + 63) / 64) + x)
    if esc = 0 ∧ nw = 0 then pure ([], [], 0)
    else
      let ad (o : Nat) : Nat := if t.d.kind = 0 then localAddr o else o
      let (tips, wide) ← if t.d.kind ≤ 1 then do
          let a ← stageRead c (ad rec') (2 * esc)
          let b ← stageRead c (ad (rec' + 4096)) (nw * (gp / 2))
          pure (a, b)
        else do
          let (l, bad) ← readRanges c t.d [(rec', 2 * esc), (rec' + 4096, nw * (gp / 2))]
          eccNow bad
          pure (l.headD [], l.getD 1 [])
      pure (tips, wide, nw)

/-- A list of bytes filled with zeros to a multiple of 16. -/
def pad16 (l : List Byte) : List Byte := padTo ((l.length + 15) / 16 * 16) l

/-- The shortest coding of a block by the loaded slots, the lowest slot on a tie (R232). -/
def bestCode (tables : List (Nat × List Byte)) (b : List Byte) : Option (Nat × List Bool) :=
  tables.foldl (fun (best : Option (Nat × List Bool)) p =>
    match encodeBits (canon p.2) b with
    | none => best
    | some e => match best with
      | none => some (p.1, e)
      | some q => if e.length < q.2.length ∨ (e.length = q.2.length ∧ p.1 < q.1) then some (p.1, e) else some q) none

/-- One stored block at offset o: its index fields and bytes (R222, R232). `full` are the reconstructed codes. -/
def packBlock (tables : List (Nat × List Byte)) (o : Nat) (b full : List Byte) : IdxEnt × List Byte :=
  let e0 : IdxEnt := ⟨0, 0, false, true, 0, 0, 0⟩
  if b.all (· == 0) then (e0, [])
  else
    let raw : IdxEnt × List Byte := (⟨o / 16, 256, true, false, 0, 0, 0⟩, b)
    match bestCode tables b with
    | none => raw
    | some (slot, e) =>
      let n := 16 + 16 * ((e.length + 127) / 128)
      if n ≤ 3840 then
        (⟨o / 16, n / 16, false, false, 0, 0, 0⟩,
          padTo n (toLE 16 (slot + (crc32 full).toNat * 2 ^ 32 + e.length * 2 ^ 64) ++ packBits e))
      else raw

/-- The object under construction: next offset, index entries and data, newest last. -/
structure Packing where
  o : Nat
  idx : List Byte := []
  dat : List Byte := []
deriving DecidableEq, Repr

/-- Pack one tile. -/
def packTile (c : CoreId) (tables : List (Nat × List Byte)) (ta : Tens) (tb : Option Tens) (ws : Option Desc) (p : Packing)
    (x y : Nat) : M Packing := do
  let cols ← packColumns c ta x y
  let scales ← tileScales c { ta.d with cap := ta.b } ws x y
  let (tips, wide, nw) ← packLists c ta x y cols scales
  let full := layoutBytes ta.d.fmt cols
  let codes ← match tb with
    | some t => do let bc ← packColumns c t x y; pure (List.zipWith (· ^^^ ·) full (layoutBytes ta.d.fmt bc))
    | none => pure full
  let bt := tileBlocks ta.d.fmt
  pure ((List.range bt).foldl (fun (p : Packing) h =>
    let (e, bs) := packBlock tables p.o ((codes.drop (4096 * h)).take 4096) ((full.drop (4096 * h)).take 4096)
    let o := p.o + bs.length
    let lists := if h = 0 then pad16 tips ++ pad16 wide else []
    let e := if lists = [] then e else { e with side := o / 16, ntips := tips.length / 2, nwide := nw }
    { o := o + lists.length, idx := p.idx ++ e.bytes, dat := p.dat ++ bs ++ lists }) p)

/-- A group of 128 that holds more than 8 escapes over its two slabs (R233). -/
def packPairBad (c : CoreId) (ta : Tens) (ws : Option Desc) (gk gn : Nat) : M Bool :=
  if ta.d.groupSize ≠ 128 ∨ ta.d.fmt ≠ 1 then pure false
  else do
    let l ← (List.range gn).mapM (fun y => (List.range ((gk + 1) / 2)).mapM (fun q => do
      let a ← packColumns c ta (2 * q) y
      let b ← if 2 * q + 1 < gk then packColumns c ta (2 * q + 1) y else pure []
      let sc ← tileScales c { ta.d with cap := ta.b } ws (2 * q) y
      pure ((List.range 128).any (fun j =>
        decide (8 < escapes 1 ((sc.getD j []).headD unitScale) (a.getD j [] ++ b.getD j []))))))
    pure (l.any (·.any id))

/-- The operands of DM.PACK: the object's place, the tensor, in mode 1 the base tensor and the base object's address, the
tensor's scales. -/
structure PackOps where
  td : Tens
  ta : Tens
  tb : Option Tens
  ws : Option Tens
  base : Nat
deriving DecidableEq, Repr

/-- Blocks of the object. -/
def PackOps.nb (o : PackOps) : Nat := tileBlocks o.ta.d.fmt * o.ta.grid.1 * o.ta.grid.2
/-- An operand with a zero bound. -/
def PackOps.empty (o : PackOps) : Bool := ([o.td, o.ta] ++ o.tb.toList ++ o.ws.toList).any (·.empty)

/-- The issue checks of DM.PACK (R115, R225). -/
def packCheck (c : CoreId) (ops : BitVec 52) : M PackOps := ranked do
  let ctl := fldD ops
  let mode1 := ctl.testBit 0
  let td ← evalK c (tOf (fldA ops)) 0 true
  let ta ← evalK c (tOf (fldB ops)) 1 false
  let tb ← if mode1 then do let t ← evalK c (tOf (fldC ops)) 2 false; pure (some t) else pure none
  let ws ← scaleK c ta 1
  let sb ← getS c (bits ctl 1 5)
  chkIf (td.d.kind ≠ 0) fDesc 52 (operand := 0)
  chkIf (td.d.comp ≠ 0) fDesc 61 (operand := 0)
  chkIf (ta.d.comp ≠ 0) fDesc 61 (operand := 1)
  match tb with
  | some t =>
    chkIf (t.d.comp ≠ 0) fDesc 61 (operand := 2)
    chkIf (t.d.fmt ≠ ta.d.fmt) fDesc 55 (operand := 2)
    chkIf (t.d.group ≠ ta.d.group) fDesc 59 (operand := 2)
    chkIf (t.d.cap ≠ ta.d.cap) fDesc 84 (operand := 2)
    chk 3 (fltIf (decide (2 ^ 52 ≤ sb.toNat) || sb.toNat % 4096 ≠ 0) fDesc sb.toNat)
  | none => pure ()
  let o : PackOps := { td := td, ta := ta, tb := tb, ws := ws, base := if mode1 then sb.toNat else 0 }
  unlessNoop ([td, ta] ++ tb.toList ++ ws.toList)
    (chkBIf [ta] (decide (td.d.extent < packWorst ta.d.fmt o.nb)) td.d.extent 0 0)
  pure o

/-- The packed object of the operands: its header, and its index with its data (R225, R232, R233). The loaded slots are read
under their code: a slot with an uncorrectable word empties and codes nothing (R211, R331). -/
def packObject (c : CoreId) (o : PackOps) : M (ObjHdr × List Byte) := do
  let (gk, gn) := o.ta.grid
  if o.tb.isSome then
    let hb ← (do let l ← stageRead c o.base 64; pure (objHdr l))
    fltIf (!(hb.comp == 1 && hb.nb == o.nb && hb.fmt == o.ta.d.fmt && hb.group == o.ta.d.group && hb.gk == gk && hb.gn == gn))
      fDesc o.base false 0 2
  let bad ← packPairBad c o.ta (o.ws.map (·.d)) gk gn
  fltIf bad fDesc o.ta.d.toile false 0 1
  modify (fun s => (List.range 4).foldl (fun (s : State) k => s.slotRead (c.val / 8) k) s)
  let s ← get
  let tables := (s.hoop (c.val / 8)).dt
  let cells := (List.range gn).flatMap (fun y => (List.range gk).map (fun x => (x, y)))
  let p ← cells.foldlM (fun p q => packTile c tables o.ta o.tb (o.ws.map (·.d)) p q.1 q.2) ({ o := 64 + 16 * o.nb } : Packing)
  pure ({ nb := o.nb, fmt := o.ta.d.fmt, group := o.ta.d.group, comp := if o.tb.isSome then 2 else 1, gk := gk, gn := gn,
          baseObj := o.base, size := p.o }, p.idx ++ p.dat)

/-- The work of DM.PACK at issue. -/
def workDmPack (c : CoreId) (ops : BitVec 52) : M Unit :=
  let w := word clsDM 3 ops
  do
    let o ← packCheck c ops
    beforeWrite c
    queueRoom c .dm
    if o.empty then setFlag c 0
    else
      let (h, dat) ← packObject c o
      wrToile c w (localAddr (o.td.d.base + 64)) dat
      wrToile c w (localAddr o.td.d.base) h.bytes
      dispatchWork c .dm w {}

/-- DM.PACK (R115, R232, R233). -/
def execDmPack (c : CoreId) (ops : BitVec 52) (s : State) : Out :=
  let w := word clsDM 3 ops
  let ctl := fldD ops
  let mode1 := ctl.testBit 0
  .next (s.issue c w (zT ||| zTB ||| zTC ||| zbits 36 35 ||| zbits 28 0 ||| (if mode1 then 0 else zbits 41 37 ||| zbits 34 30))
    (thenNext c (workDmPack c ops)))

/-! ### Descriptors, words and vectors (R116, R117) -/

/-- The work of DM.TLD at issue. -/
def workDmTld (c : CoreId) (ops : BitVec 52) : M Unit := do
    let a ← scalarAddr c ops 32 false
    inOrder c
    queueRoom c .dm
    let l ← rdToile c a 32
    setT c (tOf (fldA ops)) (BitVec.ofNat 256 (leNat l))

/-- DM.TLD (R116). -/
def execDmTld (c : CoreId) (ops : BitVec 52) (s : State) : Out :=
  .next (s.issue c (word clsDM 4 ops) (zT ||| zbits 41 32) (thenNext c (workDmTld c ops)))

/-- The work of DM.TST at issue. -/
def workDmTst (c : CoreId) (ops : BitVec 52) : M Unit := do
    let a ← scalarAddr c ops 32 true
    beforeWrite c
    queueRoom c .dm
    let t ← getT c (tOf (fldA ops))
    wrToile c (word clsDM 5 ops) a (toLE 32 t.toNat)

/-- DM.TST (R107, R116). -/
def execDmTst (c : CoreId) (ops : BitVec 52) (s : State) : Out :=
  .next (s.issue c (word clsDM 5 ops) (zT ||| zbits 41 32) (thenNext c (workDmTst c ops)))

/-- Bits [lo + w - 1 : lo] of a descriptor replaced. -/
def setBits (t : BitVec 256) (lo w v : Nat) : BitVec 256 :=
  BitVec.ofNat 256 (t.toNat - bits t.toNat lo w * 2 ^ lo + v % 2 ^ w * 2 ^ lo)

/-- The work of DM.TBASE at issue. -/
def workDmTbase (c : CoreId) (ops : BitVec 52) : M Unit := do
    queueRoom c .dm
    let v ← getS c (fldB ops)
    let t ← getT c (tOf (fldA ops))
    setT c (tOf (fldA ops)) (setBits t 0 52 v.toNat)

/-- DM.TBASE (R116). -/
def execDmTbase (c : CoreId) (ops : BitVec 52) (s : State) : Out :=
  .next (s.issue c (word clsDM 6 ops) (zT ||| zbits 41 0) (thenNext c (workDmTbase c ops)))

/-- The work of DM.TCAP at issue. -/
def workDmTcap (c : CoreId) (ops : BitVec 52) : M Unit := do
    let v ← getS c (fldB ops)
    fltIf (decide (v.toNat = 0 ∨ 16384 < v.toNat)) fBound v.toNat true (fldD ops % 4) 1
    queueRoom c .dm
    let t ← getT c (tOf (fldA ops))
    setT c (tOf (fldA ops)) (setBits t ([84, 105, 154, 203].getD (fldD ops % 4) 84) 14 (v.toNat - 1))

/-- DM.TCAP (R116). -/
def execDmTcap (c : CoreId) (ops : BitVec 52) (s : State) : Out :=
  .next (s.issue c (word clsDM 7 ops) (zT ||| zbits 41 37 ||| zbits 36 31 ||| zbits 28 0) (thenNext c (workDmTcap c ops)))

/-- The checked offset s[C] of an n-byte access at multiples of m, with the tensor (R117). -/
def wordCheck (c : CoreId) (ops : BitVec 52) (n m : Nat) (wr : Bool) : M (Tens × Nat) := ranked do
  let t ← evalK c (tOf (fldB ops)) 1 wr
  let v ← getS c (fldC ops)
  chkIf (v.toNat % m ≠ 0) fAlign v.toNat (operand := 2)
  chkIf (decide (t.d.extent < v.toNat + n)) fBound v.toNat (operand := 2)
  if wr then allocK c t 1
  pure (t, t.d.base + v.toNat)

/-- Read n bytes of a tensor at s[C]. -/
def tensorRead (c : CoreId) (ops : BitVec 52) (n m : Nat) : M (List Byte) := do
  let (t, o) ← wordCheck c ops n m false
  inOrderKind c t.d
  queueRoom c .dm
  let (l, bad) ← readRanges c t.d [(o, n)]
  eccNow bad
  pure (l.headD [])

/-- Write bytes into a tensor at s[C]. -/
def tensorWrite (c : CoreId) (w : W64) (ops : BitVec 52) (n m : Nat) (bs : M (List Byte)) : M Unit := do
  let (t, o) ← wordCheck c ops n m true
  beforeKind c t.d
  inOrderKind c t.d
  queueRoom c .dm
  let l ← bs
  writeAt c w t.d o l

/-- The work of DM.RDW at issue. -/
def workDmRdw (c : CoreId) (ops : BitVec 52) : M Unit := do
    let l ← tensorRead c ops 8 8
    setS c (fldA ops) (BitVec.ofNat 64 (leNat l))

/-- DM.RDW (R117). -/
def execDmRdw (c : CoreId) (ops : BitVec 52) (s : State) : Out :=
  .next (s.issue c (word clsDM 8 ops) (zTB ||| zbits 36 0) (thenNext c (workDmRdw c ops)))

/-- The work of DM.WRW at issue. -/
def workDmWrw (c : CoreId) (ops : BitVec 52) : M Unit := tensorWrite c (word clsDM 9 ops) ops 8 8 (do let v ← getS c (fldA ops); pure (toLE 8 v.toNat))

/-- DM.WRW (R117). -/
def execDmWrw (c : CoreId) (ops : BitVec 52) (s : State) : Out :=
  .next (s.issue c (word clsDM 9 ops) (zTB ||| zbits 36 0) (thenNext c
    (workDmWrw c ops)))

/-- The work of DM.VLD at issue. -/
def workDmVld (c : CoreId) (ops : BitVec 52) : M Unit := do
    let l ← tensorRead c ops 256 16
    setV c (fldA ops) (BitVec.ofNat 2048 (leNat l))

/-- DM.VLD (R117). -/
def execDmVld (c : CoreId) (ops : BitVec 52) (s : State) : Out :=
  .next (s.issue c (word clsDM 10 ops) (zTB ||| zbits 36 0) (thenNext c (workDmVld c ops)))

/-- The work of DM.VST at issue. -/
def workDmVst (c : CoreId) (ops : BitVec 52) : M Unit := tensorWrite c (word clsDM 11 ops) ops 256 16 (do let v ← getVNow c (fldA ops); pure (toLE 256 v.toNat))

/-- DM.VST (R117). -/
def execDmVst (c : CoreId) (ops : BitVec 52) (s : State) : Out :=
  .next (s.issue c (word clsDM 11 ops) (zTB ||| zbits 36 0) (thenNext c
    (workDmVst c ops)))

/-! ### Synchronisation (R118) -/

/-- The writes of a core to remote memory have been acknowledged. -/
def State.writesDone (s : State) (c : CoreId) : Bool :=
  !s.txns.any (fun t => t.typ = 2 && (t.who.key == c.val || t.who.key == 512 + c.val))

/-- Every earlier access of a core to the kinds named has completed (R118). -/
def State.fenceOk (s : State) (c : CoreId) (kinds : Nat) : Bool :=
  (s.core c).quiet && (!(kinds == 0 || kinds.testBit 0) || s.writesDone c)

/-- The work of SY.FENCE at issue. -/
def workSyFence (c : CoreId) (ops : BitVec 52) : M Unit := do
    let s ← get
    if s.fenceOk c (bits ops.toNat 0 3) then pure () else hold

/-- SY.FENCE (R118). -/
def execSyFence (c : CoreId) (ops : BitVec 52) (s : State) : Out :=
  .next (s.issue c (word clsSY 1 ops) (zbits 51 3) (thenNext c (workSyFence c ops)))

/-- The core numbered d of a hoop's group, as a core. -/
def coreOf (d : Nat) : CoreId := ⟨d % 128, Nat.mod_lt _ (by decide)⟩

/-- The last core of a group has issued SY.BAR: each goes on when its fence is met (R118). -/
def State.openBar (s : State) (h : Nat) (k : Section) : State :=
  let s := s.updSect h k.serial (fun k => { k with barred := [] })
  (k.cores h).foldl (fun (s : State) d =>
    if s.fenceOk (coreOf d) 0 then s.updCore d (fun x => { x with wait := .none, barPass := false, pc := x.pc + 8 })
    else s.updCore d (fun x => { x with wait := .none, barPass := true })) s

/-- The work of SY.BAR at issue, and the next pc. -/
def goSyBar (c : CoreId) (ops : BitVec 52) : M (BitVec 52) := do
    let _ ← needSection c
    let s ← get
    let x := s.core c
    if x.barPass then
      if s.fenceOk c 0 then do
        modify (fun s => s.updCore c (fun x => { x with barPass := false }))
        pure (x.pc + 8)
      else hold
    else
      modify (fun s => s.updCore c (fun x => { x with wait := .syBar, waitWord := word clsSY 2 ops }))
      updHeld c (fun k => { k with barred := (c.val % 8) :: k.barred })
      let s ← get
      match s.held c with
      | some k => if k.g ≤ k.barred.length then modify (fun s => s.openBar (c.val / 8) k) else pure ()
      | none => pure ()
      let s ← get
      pure (s.core c).pc

/-- SY.BAR: the core waits until every core of its group has issued SY.BAR, then performs SY.FENCE #0 (R99, R118). -/
def execSyBar (c : CoreId) (ops : BitVec 52) (s : State) : Out :=
  .next (s.issue c (word clsSY 2 ops) (zbits 51 0) (goSyBar c ops))

end Sys2Proof.Machine
end

