-- ==== Sys2Proof/Machine/Approx.lean ====
section
/-! DEFINITION. Functions that the spec bounds without fixing their result (R160, R165, R179, R206, R305): the exact value
to about 300 fractional bits, and a result anywhere within the bound of the spec, chosen by a free value. -/
namespace Sys2Proof.Machine

/-- Fractional bits of a fixed-point value. -/
def fxP : Nat := 320

/-- One in fixed point. -/
def fxOne : Int := 2 ^ 320

/-- ln 2 in fixed point. -/
def fxLn2 : Int := 0xb17217f7d1cf79abc9e3b39803f2f6af40f343267298b62d8a0d175b8baafa2be7b876206debac98

/-- pi in fixed point. -/
def fxPi : Int := 0x3243f6a8885a308d313198a2e03707344a4093822299f31d0082efa98ec4e6c89452821e638d01377

/-- A value in fixed point. -/
def Dy.fx (a : Dy) : Int :=
  let k := a.e + 320
  let v : Int := if 0 ≤ k then a.m * 2 ^ k.toNat else (a.m / 2 ^ (-k).toNat : Nat)
  if a.neg then -v else v

/-- A fixed-point value as a dyadic one. -/
def fxDy (x : Int) : Dy := { neg := decide (x < 0), m := x.natAbs, e := -320 }

def fxMul (a b : Int) : Int := a * b / fxOne
def fxDiv (a b : Int) : Int := a * fxOne / b

/-- 1 + r/1 (1 + r/2 (1 + ...)). -/
def expSeries (r : Int) : Int :=
  (List.range 80).foldr (fun k acc => fxOne + fxMul r acc / (k + 1 : Nat)) fxOne

/-- e^x; zero below -220, where it lies far below every format. -/
def fxExp (x : Int) : Int :=
  if x < -220 * fxOne then 0
  else
    let k := x / fxLn2
    let e := expSeries (x - k * fxLn2)
    if 0 ≤ k then e * 2 ^ k.toNat else e / 2 ^ (-k).toNat

/-- ln x of a positive value, as k ln 2 + 2 artanh((m - 1) / (m + 1)). -/
def fxLn (x : Int) : Int :=
  let k : Int := (x.natAbs.log2 : Int) - 320
  let m := if 0 ≤ k then x / 2 ^ k.toNat else x * 2 ^ (-k).toNat
  let t := fxDiv (m - fxOne) (m + fxOne)
  let t2 := fxMul t t
  let u := (List.range 110).foldr (fun i acc => fxOne / (2 * i + 1 : Nat) + fxMul t2 acc) 0
  k * fxLn2 + 2 * fxMul t u

/-- The square root of a value that is not negative. -/
def fxSqrt (x : Int) : Int := (Nat.sqrt (x.natAbs * 2 ^ 320) : Nat)

/-- The logistic function. -/
def fxSigma (x : Int) : Int :=
  if 0 ≤ x then fxDiv fxOne (fxOne + fxExp (-x)) else let e := fxExp x; fxDiv e (fxOne + e)

/-- tanh. -/
def fxTanh (x : Int) : Int :=
  if 150 * fxOne < x then fxOne
  else if x < -150 * fxOne then -fxOne
  else let e := fxExp (2 * x); fxDiv (e - fxOne) (e + fxOne)

/-- The standard normal distribution function; 0 and 1 beyond 14, where x Phi(x) lies below every format or at x. -/
def fxPhi (x : Int) : Int :=
  if 14 * fxOne < x then fxOne
  else if x < -14 * fxOne then 0
  else
    let x2 := fxMul x x
    let dens := fxDiv (fxExp (-x2 / 2)) (fxSqrt (2 * fxPi))
    let (s, _) := (List.range 600).foldl (fun (q : Int × Int) n => (q.1 + q.2, fxMul q.2 x2 / (2 * n + 3 : Nat))) (0, x)
    fxOne / 2 + fxMul dens s

/-- cos and sin of an angle. -/
def fxCos (x : Int) : Int :=
  let r := x % (2 * fxPi)
  let r2 := fxMul r r
  (List.range 80).foldr (fun k acc => fxOne - fxMul r2 acc / ((2 * k + 1) * (2 * k + 2) : Nat)) fxOne
def fxSin (x : Int) : Int := fxCos (x - fxPi / 2)

/-- y moved by at most the bound, as a free value in [-2^63, 2^63) says. -/
def spread (y bound : Int) (w : BitVec 64) : Int := y + bound * w.toInt / 2 ^ 63

/-- n / d ulps of a value in a format with fb fraction bits, less a margin of 2^-20 of itself for FP32 rounding where asked. -/
def ulps (y : Int) (fb n d : Nat) : Int := if y = 0 then 0 else (2 ^ y.natAbs.log2 : Nat) * n / (2 ^ fb * d : Nat)

/-- Functions by number: 0 to 8 those of VX.FN (Table 7-4), 16 exp of the recurrence engine, 17 and 18 the gates, 19 e^x
of the attention unit, 20 and 21 its cosine and sine. -/
def exactFn (fn : Nat) (x : Int) : Int :=
  match fn with
  | 0 => fxExp x
  | 1 => fxLn x
  | 2 => fxDiv fxOne x
  | 3 => fxDiv fxOne (fxSqrt x)
  | 4 => fxSqrt x
  | 5 => fxSigma x
  | 6 => fxTanh x
  | 7 => fxMul x (fxSigma x)
  | 8 => fxMul x (fxPhi x)
  | 16 => fxExp x
  | 17 => fxSigma x
  | 18 => fxTanh x
  | 19 => fxExp x
  | 20 => fxCos x
  | _ => fxSin x

/-- The bound on a device's deviation from the exact value y: 2 ulp of BF16 for VX.FN and the gates (R165, R179), what
leaves 1 ulp of FP32 after rounding for the recurrence engine (R160) and 2 ulp for the attention unit, and 2^-20 less the
rounding for its angles (R206). -/
def boundFn (fn : Nat) (y : Int) : Int :=
  if fn < 16 then ulps y 7 2 1
  else if fn = 16 then ulps y 23 1 2
  else if fn < 19 then ulps y 7 2 1 - ulps y 23 1 1
  else if fn = 19 then ulps y 23 3 2
  else fxOne / 2 ^ 20 - fxOne / 2 ^ 24

/-- What the device computes for a function: within its bound of the exact value, and free there (log entry 5). -/
def devFn (fn : Nat) (x : Dy) : Dy :=
  let y := exactFn fn x.fx
  fxDy (spread y (boundFn fn y) (Config.deviation fn x.neg x.m x.e))

/-- The same, rounded to FP32. -/
def devFn32 (fn : Nat) (x : Dy) : Dy := ((fl32 (devFn fn x)).run {}).1

end Sys2Proof.Machine
end

