-- ==== Sys2Proof/Machine/Recur.lean ====
section
/-! DEFINITION. The RC instructions: scans, gated cells, long convolutions and anchors (R152 to R170). -/
namespace Sys2Proof.Machine

/-- Class of the RC instructions (Table 4-3). -/
def clsRC : Nat := 4

/-! ### Members and operands (R154, R155, R157) -/

/-- The members an instruction covers: the first, the number, and their records. -/
structure Span where
  j0 : Nat
  n : Nat
  G : Nat
  ms : List Member
deriving DecidableEq, Repr

/-- The members that s[sm] names (R154); their count is checked against the section's folios. -/
def membersOf (c : CoreId) (sm : Nat) : M Span := do
  let v ← getS c sm
  let s ← get
  let (all, G) := match s.held c with
    | some k => (k.members, (s.bpar k.binder).frames)
    | none => ([], 0)
  let j0 := bits v.toNat 0 16
  let n := bits v.toNat 16 16
  fltIf (decide (2 ^ 32 ≤ v.toNat) || decide (all.length < j0 + n)) fBound v.toNat
  pure { j0 := j0, n := n, G := G, ms := (all.drop j0).take n }

/-- No members. -/
def noSpan : Span := { j0 := 0, n := 0, G := 0, ms := [] }

/-- Elements along dimensions 0 and 2 (R155). -/
def Tens.elems (t : Tens) : Nat := t.n 0 * t.n 2

/-- Kinds, as a list, that an operand may have; dimension 3 has capacity 1 (R155, R157). -/
def rcKind (t : Tens) (kinds fmts : List Nat) (opnd : Nat) : M Unit := do
  fltIf (!kinds.contains t.d.kind) fDesc 52 (operand := opnd)
  fltIf (!fmts.contains t.d.fmt) fDesc 55 (operand := opnd)
  fltIf (t.d.capAt 3 ≠ 1) fDesc 203 (operand := opnd)

/-- A state operand: kinds 2 and 4, FP32; of kind 4 dimension 1 has capacity 1 (R155, Table 6-2). -/
def rcState (t : Tens) (opnd : Nat) : M Unit := do
  rcKind t [2, 4] [8] opnd
  fltIf (t.d.kind = 4 ∧ t.d.capAt 1 ≠ 1) fDesc 105 (operand := opnd)

/-- A written operand may meet a read operand only by coinciding with it (R157). -/
def rcOverlap (c : CoreId) (wr rd : Tens) (opnd : Nat) : M Unit := do
  let s ← get
  fltIf (overlaps s c wr.d rd.d && !coincide wr.d rd.d) fDesc wr.d.base (operand := opnd)

/-- The overlap of a written operand at place o with one at place p, checked where neither descriptor is bad (R157). -/
def overK (c : CoreId) (wr rd : Tens) (o p : Nat) : K Unit := do
  let l ← get
  if l.all (fun x => x.2.code ≠ fDesc || (x.1 ≠ o && x.1 ≠ p)) then chk o (rcOverlap c wr rd o)

/-- At least n elements. -/
def needElems (t : Tens) (n opnd : Nat) : M Unit := fltIf (decide (t.elems < n)) fBound t.elems true 0 opnd
/-- At least n rows. -/
def needRows (t : Tens) (n opnd : Nat) : M Unit := fltIf (decide (t.n 1 < n)) fBound (t.n 1) true 1 opnd

/-- The state operand's bounds: its elements, and for kind 2 one row for each member (R155). -/
def needState (t : Tens) (e n opnd : Nat) : M Unit := do
  needElems t e opnd
  if t.d.kind = 2 then needRows t n opnd

/-- A state of kind 4 lies within the working copy of member j0, where the section has that member; with no members named
the check still stands (R154, R155). -/
def stateIn (c : CoreId) (t : Tens) (p : Span) (opnd : Nat) : M Unit := do
  let s ← get
  let copy := ((s.held c).map (fun k => (s.bpar k.binder).copy)).getD 0
  let e := t.d.base + t.d.extent
  match (s.held c).bind (fun k => k.members[p.j0]?) with
  | some m => fltIf (t.d.kind = 4 && !(decide (m.work ≤ t.d.base) && decide (e ≤ m.work + copy))) fState e (operand := opnd)
  | none => pure ()

/-- Byte offset of the row of member i (its index from j0) at i2 in a state operand (R155). -/
def stateRow (t : Tens) (p : Span) (i i2 : Nat) : Nat :=
  if t.d.kind = 4 then
    t.d.rowAt 0 i2 0 + (p.ms.map (·.work)).getD i 0 - (p.ms.map (·.work)).headD 0
  else t.d.rowAt i i2 0

/-- The FP32 words of one member's state, by element index, and the location of a bad word. -/
def readState (c : CoreId) (t : Tens) (p : Span) (i : Nat) : M (Array Nat × Option CFlt) := do
  let (l, bad) ← readRanges c t.d ((List.range (t.n 2)).map (fun i2 => (stateRow t p i i2, 4 * t.n 0)))
  pure ((l.flatMap (fun x => unpack 32 x (t.n 0))).toArray, bad)

/-- Write the first elements of one member's state. -/
def writeState (c : CoreId) (w : W64) (t : Tens) (p : Span) (i : Nat) (v : List Nat) : M Unit :=
  (List.range (t.n 2)).forM (fun i2 =>
    let row := (v.drop (t.n 0 * i2)).take (t.n 0)
    if row = [] then pure () else writeAt c w t.d (stateRow t p i i2) (pack 32 0 row))

/-- Elements of an operand without rows, by element index: those at dimension-1 index 0. -/
def readFlat (c : CoreId) (t : Tens) : M (Array Nat × Option CFlt) := do
  let (v, bad) ← readSub c t.d (t.n 0) 1 (t.n 2) 1
  pure (v.dat, bad)

/-- Rows [0, rows) of an operand, each by element index. -/
def readRows (c : CoreId) (t : Tens) (rows : Nat) : M ((Nat → Nat → Nat) × Option CFlt) := do
  let (v, bad) ← readSub c t.d (t.n 0) rows (t.n 2) 1
  pure (fun i e => v.at (e % (max (t.n 0) 1)) i (e / (max (t.n 0) 1)) 0, bad)

/-- The rows of a list, each by element index; no other row is read (R185, R190). -/
def readRowsAt (c : CoreId) (t : Tens) (rows : List Nat) : M ((Nat → Nat → Nat) × Option CFlt) := do
  let rs := rows.eraseDups
  let (l, bad) ← readRanges c t.d (rs.flatMap (fun r => (List.range (t.n 2)).map (fun i2 => (t.d.rowAt r i2 0, t.d.rowBytes (t.n 0)))))
  let dat := (l.flatMap (fun x => unpack t.d.ebits x (t.n 0))).toArray
  let place := ((List.range (rs.foldl max 0 + 1)).map (fun r => rs.idxOf r)).toArray
  pure (fun r e => dat.getD (place.getD r 0 * (t.n 0 * t.n 2) + e) 0, bad)

/-- Write elements [0, D) of a row. -/
def writeElems (c : CoreId) (w : W64) (t : Tens) (i : Nat) (v : List Nat) : M Unit :=
  (List.range (t.n 2)).forM (fun i2 =>
    let row := (v.drop (t.n 0 * i2)).take (t.n 0)
    if row = [] then pure () else writeRow c w t.d i i2 0 row)

/-- A value as an element of an output operand (R71). -/
def outElem (fmt : Nat) (d : Dy) : NM Nat :=
  match floatFmt fmt with
  | some F => F.round d
  | none => pure 0

/-- Count the reset bits an instruction applies (R158). -/
def countResets (c : CoreId) (p : Span) : M Unit :=
  let n := (p.ms.map (fun m => ((List.range p.G).filter (fun f => m.resetWord.getLsbD f)).length)).sum
  modify (fun s => s.count R.CORE_RC_RESETS_count n c)

/-! ### Numbers of the recurrence engine (R152, R160, R162) -/

def one : Dy := Dy.ofInt 1
/-- 1 - 2^-20. -/
def decayMax : Dy := { neg := false, m := 2 ^ 20 - 1, e := -20 }

/-- Limit a real decay (R160). -/
def clampDecay (a : Dy) : NM Dy :=
  if decayMax.lt a.abs then do
    modify (fun k => { k with clamp := k.clamp + 1 })
    pure { decayMax with neg := a.neg }
  else pure a

/-- exp of a log-decay (R160); a positive one is limited to 1 - 2^-20. -/
def decayExp (z : Dy) : NM Dy :=
  if z.lt (Dy.ofInt (-87)) then pure Dy.zero
  else if Dy.zero.lt z then clampDecay (Dy.ofInt 2)
  else clampDecay (devFn32 16 z)

def fmul (a b : Dy) : NM Dy := do fl32 (← mulNM a b)
def fadd (a b : Dy) : NM Dy := do fl32 (← addNM a b)
def fsub (a b : Dy) : NM Dy := do fl32 (← addNM a b.negate)

/-- An element (A, B) of the map h -> A h + B (R162). -/
abbrev Lin := Dy × Dy

/-- Combine two elements, the right one applied first (R162). -/
def lcomb (x2 x1 : Lin) : NM Lin := do
  let a ← fmul x2.1 x1.1
  let t ← fmul x2.1 x1.2
  let b ← fadd t x2.2
  pure (a, b)

/-- The first element of the right part where a run lo to hi of at most 2^(lv + 1) elements is split in two: any place that
leaves both parts at most 2^lv (R162, R206). -/
def splitAt (all lv lo hi : Nat) : Nat :=
  let least := max 1 (hi - lo + 1 - 2 ^ lv)
  lo + least + Config.split all lo hi % (min (hi - lo) (2 ^ lv) - least + 1)

/-- E_hi o ... o E_lo, in a free association order of at most the given levels (R162). -/
def lprefix (es : Array Lin) (G : Nat) : Nat → Nat → Nat → NM Lin
  | 0, lo, _ => pure (es.getD lo (one, Dy.zero))
  | lv + 1, lo, hi =>
    if hi ≤ lo then pure (es.getD lo (one, Dy.zero))
    else do
      let k := splitAt G lv lo hi
      let r ← lprefix es G lv lo (k - 1)
      let l ← lprefix es G lv k hi
      lcomb l r

/-- The outputs h_f = P_f h + Q_f of all frames (R162). -/
def lscan (es : List Lin) (h : Dy) : NM (List Dy) :=
  (List.range es.length).mapM (fun f => do
    let (P, Q) ← lprefix es.toArray es.length (clog2 es.length) 0 f
    let t ← fmul P h
    fadd t Q)

/-- A sum of FP32 terms in a free association order of at most the given levels (R93, R171, R206). -/
def treeSum (ts : Array Dy) : Nat → Nat → Nat → NM Dy
  | 0, lo, _ => pure (ts.getD lo Dy.zero)
  | lv + 1, lo, hi =>
    if hi ≤ lo then pure (ts.getD lo Dy.zero)
    else do
      let k := splitAt ts.size lv lo hi
      let a ← treeSum ts lv lo (k - 1)
      let b ← treeSum ts lv k hi
      fadd a b

/-- The sum of a list of FP32 terms, in a tree of the fewest levels. -/
def sumFree (l : List Dy) : NM Dy := treeSum l.toArray (clog2 l.length) 0 (l.length - 1)

/-! ### RC.SCAN (R161 to R163) -/

/-- One channel of one member: outputs and the new state, from decays, inputs, reset word and the old state. -/
def scanChannel (as us : List Dy) (w : W64) (init h : Dy) : NM (List Dy × Dy) := do
  let es ← (List.zip (List.range as.length) (List.zip as us)).mapM (fun p => do
    let (f, a, u) := p
    if w.getLsbD f then do
      let t ← fmul a init
      let b ← fadd t u
      pure ((Dy.zero, b) : Lin)
    else pure (a, u))
  let ys ← lscan es h
  pure (ys, ys.getLastD h)

/-- The anchor in force at frame f: the stored one before the first set bit, then init (R163). -/
def anchorAt (w : W64) (f : Nat) (anch init : Dy) : Dy :=
  if (List.range (f + 1)).any (fun i => w.getLsbD i) then init else anch

/-- One anchored channel: outputs, the new offset and the new anchor (R163). -/
def scanAnchored (as us : List Dy) (w : W64) (init off anch : Dy) : NM (List Dy × Dy × Dy) := do
  let es ← (List.zip (List.range as.length) (List.zip as us)).mapM (fun p => do
    let (f, a, u) := p
    let am1 ← fsub a one
    let t ← fmul am1 (anchorAt w f anch init)
    let b ← fadd t u
    pure (((if w.getLsbD f then Dy.zero else a), b) : Lin))
  let os ← lscan es off
  let ys ← (List.zip (List.range as.length) os).mapM (fun p => fadd (anchorAt w p.1 anch init) p.2)
  pure (ys, os.getLastD off, anchorAt w (as.length - 1) anch init)

/-- The operands of RC.SCAN. -/
structure ScanOps where
  td : Tens
  tu : Tens
  tz : Tens
  ts : Tens
  ti : Tens
  p : Span
deriving DecidableEq, Repr

/-- It retires as a no-op: an operand has a zero bound, or it covers no member (R103, R154). -/
def ScanOps.noop (o : ScanOps) : Bool := o.p.n == 0 || [o.td, o.tu, o.tz, o.ts, o.ti].any (·.empty)

/-- The issue checks of RC.SCAN (R157, Table 6-2). -/
def scanCheck (c : CoreId) (ops : BitVec 52) : M ScanOps := ranked do
  let b := tOf (fldB ops)
  let k := tOf (fldC ops)
  let anch := (fldD ops).testBit 6
  let td ← evalK c (tOf (fldA ops)) 0 true
  let tu ← evalK c b 1 false
  let tz ← evalK c (b + 1) 1 false
  let ts ← evalK c k 2 true
  let ti ← evalK c (k + 1) 2 false
  chk 0 (rcKind td [2, 3] [8, 7] 0)
  chk 1 (rcKind tu [2, 3] [8, 7] 1)
  chk 1 (rcKind tz [2, 3] [8, 7] 1)
  chk 2 (rcState ts 2)
  chk 2 (rcKind ti [0, 1, 2] [8] 2)
  [(tu, 1), (tz, 1), (ti, 2), (ts, 2)].forM (fun r => overK c td r.1 0 r.2)
  [(tu, 1), (tz, 1), (ti, 2), (td, 0)].forM (fun r => overK c ts r.1 2 r.2)
  let p ← gather 3 (membersOf c (fldD ops % 32)) (fun _ => noSpan)
  let D := tu.elems
  unlessNoop [td, tu, tz, ts, ti] do
    chkBIf [tu] (decide (16384 < D)) D 0 1
    chkB [td] 0 (needRows td (p.n * p.G) 0)
    chkB [td, tu] 0 (needElems td D 0)
    chkB [tu] 1 (needRows tu (p.n * p.G) 1)
    chkB [tz] 1 (needRows tz (p.n * p.G) 1)
    chkB [tz, tu] 1 (needElems tz D 1)
    chkB [ts, tu] 2 (needState ts (if anch then 2 * D else D) p.n 2)
    chkB [ti, tu] 2 (needElems ti D 2)
  chk 2 (stateIn c ts p 2)
  allocK c td 0
  pure { td := td, tu := tu, tz := tz, ts := ts, ti := ti, p := p }

/-- The work of RC.SCAN. -/
def scanWork (c : CoreId) (w : W64) (o : ScanOps) (direct anch : Bool) : M Work := do
  let p := o.p
  let D := o.tu.elems
  let (init, b0) ← readFlat c o.ti
  let (u, b1) ← readRows c o.tu (p.n * p.G)
  let (z, b2) ← readRows c o.tz (p.n * p.G)
  let rd (t : Tens) (x : Nat) : NM Dy := readElem t.d.fmt x
  let all ← (List.zip (List.range p.n) p.ms).mapM (fun im => do
    let (i, m) := im
    let (st, bad) ← readState c o.ts p i
    let chans ← nm c ((List.range D).mapM (fun e => do
      let us ← (List.range p.G).mapM (fun f => rd o.tu (u (i * p.G + f) e))
      let as ← (List.range p.G).mapM (fun f => do
        let x ← rd o.tz (z (i * p.G + f) e)
        if direct then clampDecay x else decayExp x)
      let ini ← fp32.read (init.getD e 0)
      let h ← fp32.read (st.getD e 0)
      let (ys, h', a') ← if anch then do
          let a ← fp32.read (st.getD (D + e) 0)
          scanAnchored as us m.resetWord ini h a
        else do
          let (ys, h') ← scanChannel as us m.resetWord ini h
          pure (ys, h', Dy.zero)
      let yo ← ys.mapM (outElem o.td.d.fmt)
      pure (yo, bits32 h', bits32 a')))
    pure (i, chans, bad))
  all.forM (fun x => do
    let (i, chans, _) := x
    (List.range p.G).forM (fun f => writeElems c w o.td (i * p.G + f) (chans.map (fun y => y.1.getD f 0)))
    writeState c w o.ts p i (chans.map (·.2.1) ++ (if anch then chans.map (·.2.2) else [])))
  countResets c p
  pure { fault := (b0 <|> b1 <|> b2 <|> all.findSome? (·.2.2)), defer := true }

/-- Issue an RC instruction that is no no-op: the queue, the work and the dispatch. -/
def rcGo (c : CoreId) (e : Engine) (w : W64) (empty : Bool) (m : M Work) : M Unit := do
  queueRoom c e
  if empty then setFlag c 0
  else
    let r ← execPart m
    dispatchWork c e w r

/-- Bits that the pair fields B and C of RC instructions mark zero (R156). -/
def zPairB : Nat := zbits 43 42
def zPairC : Nat := zbits 38 37
def zPairA : Nat := zbits 48 47

/-- The work of RC.SCAN at issue. -/
def workRcScan (c : CoreId) (ops : BitVec 52) : M Unit :=
  let w := word clsRC 2 ops
  do
    let o ← scanCheck c ops
    rcGo c .rc w o.noop
      (scanWork c w o ((fldD ops).testBit 5) ((fldD ops).testBit 6))

/-- RC.SCAN (R161). -/
def execRcScan (c : CoreId) (ops : BitVec 52) (s : State) : Out :=
  let w := word clsRC 2 ops
  .next (s.issue c w (zT ||| zPairB ||| zPairC ||| zbits 36 36 ||| zbits 28 0) (thenNext c (workRcScan c ops)))

/-! ### RC.ANCHOR (R164) -/

/-- RC.ANCHOR folds offsets into anchors exactly. -/
def anchorWork (c : CoreId) (w : W64) (ts : Tens) (p : Span) : M Work := do
  let ea := ts.elems / 2
  let bads ← (List.range p.n).mapM (fun i => do
    let (st, bad) ← readState c ts p i
    let l ← nm c ((List.range ea).mapM (fun k => do
      let o ← fp32.read (st.getD k 0)
      let a ← fp32.read (st.getD (ea + k) 0)
      let t ← fadd a o
      let r ← fl32 ((a.add o).sub t)
      pure (bits32 r, bits32 t)))
    writeState c w ts p i (l.map (·.1) ++ l.map (·.2))
    pure bad)
  pure { fault := (bads.findSome? id), defer := true }

/-- The issue checks of RC.ANCHOR: the state and its members (R157, R164). -/
def anchorCheck (c : CoreId) (ops : BitVec 52) : M (Tens × Span) := ranked do
  let ts ← evalK c (tOf (fldB ops)) 1 true
  chk 1 (rcState ts 1)
  let p ← gather 3 (membersOf c (fldD ops % 32)) (fun _ => noSpan)
  unlessNoop [ts] do
    chkBIf [ts] (ts.elems % 2 = 1) ts.elems 0 1
    chkB [ts] 1 (needState ts 0 p.n 1)
  chk 1 (stateIn c ts p 1)
  pure (ts, p)

/-- The work of RC.ANCHOR at issue. -/
def workRcAnchor (c : CoreId) (ops : BitVec 52) : M Unit :=
  let w := word clsRC 4 ops
  do
    let (ts, p) ← anchorCheck c ops
    rcGo c .rc w (p.n == 0 || ts.empty) (anchorWork c w ts p)

/-- RC.ANCHOR (R164). -/
def execRcAnchor (c : CoreId) (ops : BitVec 52) (s : State) : Out :=
  let w := word clsRC 4 ops
  .next (s.issue c w (zbits 51 47 ||| zTB ||| zbits 41 37 ||| zbits 36 34 ||| zbits 28 0) (thenNext c (workRcAnchor c ops)))

/-! ### RC.GATE (R165 to R167) -/

/-- The scale of the recurrent activations: 1,033 * 2^-17 (R166). -/
def gateScale : Dy := { neg := false, m := 1033, e := -17 }

/-- The code of a hidden value at the gate scale (R84, R166). -/
def gateCode (h : Dy) : NM Int := do
  let rs ← do let q ← divNM fp32 one gateScale; fl32 q
  let x ← fmul h rs
  clampNM (-127) 127 x.rne

/-- Column of gate g of channel e (R165). -/
def gateCol (gc g e : Nat) : Nat := 16 * gc * (e / 16) + 16 * g + e % 16

def sigma (x : Dy) : Dy := devFn32 17 x
def tanh' (x : Dy) : Dy := devFn32 18 x

/-- A result of the gate pipeline, held within a bound B of its exact value y: where free values of the functions would take
it out, it lies at the bound (R171). -/
def heldIn (y B : Int) (d : Dy) : NM Dy :=
  if (d.fx - y).natAbs ≤ B.toNat then pure d
  else
    let b := B - B / 2 ^ 20 - y.natAbs / 2 ^ 22
    fl32 (fxDy (if d.fx < y then y - b else y + b))

/-- The exact c' of a four-gate cell, and Table 6-5's bound on its error. -/
def fourExact (x rho : Nat → Dy) (cc : Dy) : Int × Int :=
  let a := fxMul (fxSigma ((x 1).add (rho 1)).fx) cc.fx
  let b := fxMul (fxSigma ((x 0).add (rho 0)).fx) (fxTanh ((x 2).add (rho 2)).fx)
  (a + b, ((a.natAbs + b.natAbs) / 2 ^ 7 + (a + b).natAbs / 2 ^ 23 : Nat))

/-- The exact h' of a four-gate cell, and Table 6-5's bound on its error. -/
def fourExactH (x rho : Nat → Dy) (cc : Dy) : Int × Int :=
  let y := fxMul (fxSigma ((x 3).add (rho 3)).fx) (fxTanh (fourExact x rho cc).1)
  (y, (y.natAbs : Int) / 2 ^ 7 + fxOne / 2 ^ 7)

/-- The exact h' of a three-gate cell, and Table 6-5's bound on its error. -/
def threeExact (x rho : Nat → Dy) (bias h : Dy) : Int × Int :=
  let z := fxSigma ((x 0).add (rho 0)).fx
  let r := fxSigma ((x 1).add (rho 1)).fx
  let n := fxTanh ((x 2).fx + fxMul r ((rho 2).add bias).fx)
  let y := fxMul (fxOne - z) n + fxMul z h.fx
  (y, (y.natAbs : Int) / 2 ^ 7 + fxOne / 2 ^ 7)

/-- One channel of a four-gate cell: the new c and h (R165, R171). -/
def fourGate (x rho : Nat → Dy) (cc : Dy) : NM (Dy × Dy) := do
  let i := sigma (← fadd (x 0) (rho 0))
  let f := sigma (← fadd (x 1) (rho 1))
  let g := tanh' (← fadd (x 2) (rho 2))
  let o := sigma (← fadd (x 3) (rho 3))
  let a ← fmul f cc
  let b ← fmul i g
  let c' ← fadd a b
  let c' ← heldIn (fourExact x rho cc).1 (fourExact x rho cc).2 c'
  let h ← fmul o (tanh' c')
  let h ← heldIn (fourExactH x rho cc).1 (fourExactH x rho cc).2 h
  pure (c', h)

/-- One channel of a three-gate cell: the new h (R165, R171). -/
def threeGate (x rho : Nat → Dy) (bias h : Dy) : NM Dy := do
  let z := sigma (← fadd (x 0) (rho 0))
  let r := sigma (← fadd (x 1) (rho 1))
  let q ← fadd (rho 2) bias
  let t ← fmul r q
  let n := tanh' (← fadd (x 2) t)
  let a ← fsub one z
  let b ← fmul a n
  let d ← fmul z h
  let y ← fadd b d
  heldIn (threeExact x rho bias h).1 (threeExact x rho bias h).2 y

/-- The operands of RC.GATE. -/
structure GateOps where
  ts : Tens
  ti : Tens
  tx : Tens
  th : Tens
  tw : Tens
  tb : Option Tens
  ws : Option Tens
  p : Span
deriving DecidableEq, Repr

/-- It retires as a no-op: an operand has a zero bound, or it covers no member (R103, R154). -/
def GateOps.noop (o : GateOps) : Bool :=
  o.p.n == 0 || ([o.ts, o.ti, o.tx, o.th, o.tw] ++ o.tb.toList ++ o.ws.toList).any (·.empty)

/-- The issue checks of RC.GATE (R157, R167, Table 6-2). Its weights' scale descriptor is evaluated and checked as MM.GRP's is
(R138; DEDUCED, log entry 94). -/
def gateCheck (c : CoreId) (ops : BitVec 52) : M GateOps := ranked do
  let a := tOf (fldA ops)
  let b := tOf (fldB ops)
  let k := tOf (fldC ops)
  let three := (fldD ops).testBit 5
  let gc := if three then 3 else 4
  let ts ← evalK c a 0 true
  let ti ← evalK c (a + 1) 0 false
  let tx ← evalK c b 1 false
  let th ← evalK c (b + 1) 1 true
  let tw ← evalK c k 2 false
  let tb ← if three then do let t ← evalK c (k + 1) 2 false; pure (some t) else pure none
  let ws ← scaleK c tw 2
  chk 0 (rcState ts 0)
  chk 0 (rcKind ti [0, 1, 2] [8] 0)
  chk 1 (rcKind tx [2, 3] [8, 7] 1)
  chk 1 (rcKind th [2, 3] [8, 7] 1)
  chk 2 (rcKind tw [0, 1] [0, 1, 2, 3] 2)
  match tb with
  | some t => chk 2 (rcKind t [0, 1, 2] [8] 2)
  | none => pure ()
  match ws with
  | some x => chkIf (decide (1 < x.d.kind)) fDesc 52 (operand := 2)
  | none => pure ()
  let bias := tb.toList.map (fun t => (t, 2))
  ([(ti, 0), (tx, 1), (tw, 2)] ++ bias).forM (fun r => overK c ts r.1 0 r.2)
  ([(ti, 0), (tx, 1), (tw, 2), (ts, 0)] ++ bias).forM (fun r => overK c th r.1 1 r.2)
  overK c ts th 0 1
  let p ← gather 3 (membersOf c (fldD ops % 32)) (fun _ => noSpan)
  let D := tw.n 0
  let E := if three then D else 2 * D
  let kstep := if tw.d.groupSize = 128 then 128 else 64
  let nt := cdiv D kstep * cdiv (gc * D) (nslab tw.d.fmt)
  unlessNoop ([ts, ti, tx, th, tw] ++ tb.toList ++ ws.toList) do
    chkBIf [tw] (decide (D % 16 ≠ 0 ∨ D < 16 ∨ 1024 < D)) D 0 2
    chkBIf [tw] (decide (tw.n 1 ≠ gc * D)) (tw.n 1) 1 2
    match ws with
    | some x =>
      let gs := if tw.d.groupSize = 0 then max D 1 else tw.d.groupSize
      chkBIf [x, tw] (decide (x.n 0 < cdiv D gs)) (x.n 0) 0 2
      chkBIf [x, tw] (decide (x.n 1 < gc * D)) (x.n 1) 1 2
    | none => pure ()
    chkB [ts, tw] 0 (needState ts E p.n 0)
    chkB [ti, tw] 0 (needElems ti E 0)
    chkB [tx] 1 (needRows tx (p.n * p.G) 1)
    chkB [tx, tw] 1 (needElems tx (gc * D) 1)
    chkB [th] 1 (needRows th (p.n * p.G) 1)
    chkB [th, tw] 1 (needElems th D 1)
    match tb with
    | some t => chkB [t, tw] 2 (needElems t D 2)
    | none => pure ()
    chkBIf [tw] (decide (256 < nt)) nt 0 2
  chk 0 (stateIn c ts p 0)
  allocK c th 1
  pure { ts := ts, ti := ti, tx := tx, th := th, tw := tw, tb := tb, ws := ws, p := p }

/-- One frame of one member, in section row `m`: the new c, none for three gates, and h of every channel (R159, R166). -/
def gateFrame (three : Bool) (D : Nat) (cols : Array (List Grp)) (x : Nat → Nat) (xfmt : Nat) (bias : Array Nat)
    (errs : List (Nat × Nat × Nat × Int × Int)) (m : Nat) (cs hs : Array Dy) : NM (Array Dy × Array Dy) := do
  let gc := if three then 3 else 4
  let q ← (List.range D).mapM (fun e => gateCode (hs.getD e Dy.zero))
  let row : ActRow := { ints := q.toArray, flts := #[], scale := gateScale }
  let l ← (List.range D).mapM (fun e => do
    let pre ← (List.range gc).mapM (fun g => do
      let n := gateCol gc g e
      let r ← addGroups false row (errsAt errs m n) m n (cols.getD n []) Dy.zero
      let v ← readElem xfmt (x (gateCol gc g e))
      pure (v, r))
    let xv (g : Nat) : Dy := (pre.getD g (Dy.zero, Dy.zero)).1
    let rv (g : Nat) : Dy := (pre.getD g (Dy.zero, Dy.zero)).2
    if three then do
      let b ← fp32.read (bias.getD e 0)
      let h ← threeGate xv rv b (hs.getD e Dy.zero)
      pure (Dy.zero, h)
    else fourGate xv rv (cs.getD e Dy.zero))
  pure (if three then #[] else (l.map (·.1)).toArray, (l.map (·.2)).toArray)

/-- Every frame of one member: the outputs by frame and the last c and h (R166). The row that a RESIDUE names counts the frames
of all members from j0 (R167; DESIGN CHOICE, log entry 98). -/
def gateMember (three : Bool) (G D : Nat) (cols : Array (List Grp)) (x : Nat → Nat → Nat) (xfmt ofmt : Nat) (bias : Array Nat)
    (errs : List (Nat × Nat × Nat × Int × Int)) (i : Nat) (w : W64) (init : Array Dy) (st : Array Dy) :
    NM (List (List Nat) × Array Dy × Array Dy) := do
  let cOf (a : Array Dy) : Array Dy := if three then #[] else a.extract 0 D
  let hOf (a : Array Dy) : Array Dy := if three then a else a.extract D (2 * D)
  (List.range G).foldlM (fun (acc : List (List Nat) × Array Dy × Array Dy) f => do
    let (outs, cs, hs) := acc
    let (cs, hs) := if w.getLsbD f then (cOf init, hOf init) else (cs, hs)
    let (cs, hs) ← gateFrame three D cols (x f) xfmt bias errs (i * G + f) cs hs
    let o ← hs.toList.mapM (outElem ofmt)
    pure (outs ++ [o], cs, hs)) ([], cOf st, hOf st)

/-- The work of RC.GATE (R166, R167). -/
def gateWork (c : CoreId) (w : W64) (o : GateOps) (three array : Bool) : M Work := do
  let p := o.p
  let t := o.tw.d
  let D := o.tw.n 0
  let N := o.tw.n 1
  let gk := cdiv D 64
  let steps := walkSteps 1 (cdiv gk (stepSlabs t)) (cdiv N (nslab t.fmt))
  let cells := steps.flatMap (fun q => (slabsOf t gk q.1).map (fun x => (x, q.2)))
  let tiles ← stageTiles c t (o.ws.map (·.d)) cells
  codedRoom c .mm (tiles.map (·.2.tile))
  if (stagingStop tiles).isSome then
    pure { tiles := tiles.map (·.2.tile), fault := (stagingStop tiles).map (fun f => { f with operand := if f.code = fDesc then 2 else f.operand }) }
  else
    let (init, b0) ← readFlat c o.ti
    let (bias, b1) ← match o.tb with
      | some b => readFlat c b
      | none => pure (#[], none)
    let (x, b2) ← readRows c o.tx (p.n * p.G)
    let cols ← nm c (columnGroups t D N steps (stagedDat tiles))
    let E := if three then D else 2 * D
    let ini ← nm c ((List.range E).mapM (fun e => fp32.read (init.getD e 0)))
    let old ← (List.range p.n).mapM (fun i => readState c o.ts p i)
    let (all, res) ← onArray c array (fun errs =>
      (List.zip (List.range p.n) (List.zip p.ms old)).mapM (fun im => do
        let (i, m, st, _) := im
        let sv ← (List.range E).mapM (fun e => fp32.read (st.getD e 0))
        gateMember three p.G D cols.toArray (fun f e => x (i * p.G + f) e) o.tx.d.fmt o.th.d.fmt bias errs i m.resetWord
          ini.toArray sv.toArray))
    (List.zip (List.range p.n) all).forM (fun v => do
      let (i, outs, cs, hs) := v
      (List.zip (List.range p.G) outs).forM (fun q => writeElems c w o.th (i * p.G + q.1) q.2)
      writeState c w o.ts p i ((cs.toList ++ hs.toList).map bits32))
    countResets c p
    pure { tiles := tiles.map (·.2.tile), defer := true,
           fault := stagingLate tiles <|> b0 <|> b1 <|> b2 <|> old.findSome? (·.2) <|> res }

/-- The work of RC.GATE at issue. -/
def workRcGate (c : CoreId) (ops : BitVec 52) : M Unit :=
  let w := word clsRC 1 ops
  do
    let o ← gateCheck c ops
    let s ← get
    rcGo c .mm w o.noop
      (gateWork c w o ((fldD ops).testBit 5) (!s.bit R.CORE_MM_CTRL_lut_mode c))

/-- RC.GATE (R165 to R167). -/
def execRcGate (c : CoreId) (ops : BitVec 52) (s : State) : Out :=
  let w := word clsRC 1 ops
  .next (s.issue c w (zPairA ||| zPairB ||| zPairC ||| zbits 36 35 ||| zbits 28 0) (thenNext c (workRcGate c ops)))

/-! ### RC.LCONV (R168 to R170) -/

/-- A complex FP32 number. -/
abbrev Cx := Dy × Dy

def cxZero : Cx := (Dy.zero, Dy.zero)

/-- Complex multiplication, each product and sum rounded to FP32 (R170). -/
def cmul (a b : Cx) : NM Cx := do
  let x ← fmul a.1 b.1
  let y ← fmul a.2 b.2
  let z ← fmul a.1 b.2
  let t ← fmul a.2 b.1
  let re ← fsub x y
  let im ← fadd z t
  pure (re, im)

def cadd (a b : Cx) : NM Cx := do let re ← fadd a.1 b.1; let im ← fadd a.2 b.2; pure (re, im)

/-- Limit a pole: its magnitude rounded once to the precision of FP32, taken at 2^-8 of its size, where it is in range for every
FP32 pole; the components are multiplied and divided at their own size, so that each result is one that FP32 holds (R160; log
entry 74). -/
def clampPole (p : Cx) : NM Cx := do
  let x := p.1.scale (-8)
  let y := p.2.scale (-8)
  let r ← fl32 ((x.mul x).add (y.mul y)).sqrt
  let m := r.scale 8
  if decayMax.lt m then do
    modify (fun k => { k with clamp := k.clamp + 1 })
    let re ← do let q ← divNM fp32 (p.1.mul decayMax) m; fl32 q
    let im ← do let q ← divNM fp32 (p.2.mul decayMax) m; fl32 q
    pure (re, im)
  else pure p

/-- Powers p^0 to p^G by repeated multiplication (R170). -/
def powers (p : Cx) (G : Nat) : NM (List Cx) :=
  (List.range G).foldlM (fun (l : List Cx) _ => do
    let q ← match l with
      | [] => pure p
      | [_] => pure p
      | _ => cmul (l.getLastD p) p
    pure (l ++ [q])) [(one, Dy.zero)]

/-- A kernel: its taps, and its modes as pole powers, pole and residue (Table 6-4). -/
structure Kernel where
  taps : List Dy
  modes : List (List Cx × Cx × Cx)
deriving DecidableEq, Repr

/-- A kernel record of words. -/
def kernelOf (ws : Nat → Nat) (J G : Nat) : NM Kernel := do
  let taps ← (List.range 64).mapM (fun k => bf16.read (bits (ws (k / 2)) (16 * (k % 2)) 16))
  let modes ← (List.range J).mapM (fun m => do
    let pr ← fp32.read (ws (32 + 4 * m))
    let pi ← fp32.read (ws (33 + 4 * m))
    let rr ← fp32.read (ws (34 + 4 * m))
    let ri ← fp32.read (ws (35 + 4 * m))
    let p ← clampPole (pr, pi)
    let pw ← powers p G
    pure (pw, p, (rr, ri)))
  pure { taps := taps, modes := modes }

/-- The highest set bit of a reset word at or below f. -/
def resetAt (w : W64) (f : Nat) : Option Nat := ((List.range (f + 1)).filter (fun i => w.getLsbD i)).getLast?

/-- The near part: exact products, rounded once per 32 frames (R133, R170). -/
def nearPart (k : Kernel) (xs : List Dy) (r0 f : Nat) : NM Dy := do
  let part (lo hi : Nat) : NM Dy := (List.range (hi - lo)).foldlM (fun (a : Dy) i => do
    let t := lo + i
    if r0 ≤ t ∧ t ≤ f then pure (a.add (← mulNM (k.taps.getD (f - t) Dy.zero) (xs.getD t Dy.zero))) else pure a) Dy.zero
  let a ← fl32 (← part 0 32)
  let b ← fl32 (← part 32 64)
  fadd a b

/-- A mode's state as value, or as offset and anchor (R159, R163). -/
structure ModeSt where
  off : Cx
  anch : Cx
deriving DecidableEq, Repr

/-- The far part at frame f and the homogeneous steps since r0: Re(rho * p^(f - r0 + 1) * base) (R169). -/
def farTerm (pw : List Cx) (rho : Cx) (n : Nat) (base : Cx) : NM Dy := do
  let t ← cmul (pw.getD n cxZero) base
  let y ← cmul rho t
  pure y.1

/-- The offset that n homogeneous steps make: o := p o + (p - 1) A (R163). -/
def homog (p : Cx) (st : ModeSt) : Nat → NM Cx
  | 0 => pure st.off
  | n + 1 => do
    let o ← homog p st n
    let a ← cmul p o
    let pm ← do let re ← fsub p.1 one; pure ((re, p.2) : Cx)
    let b ← cmul pm st.anch
    cadd a b

/-- One channel of one member of RC.LCONV: outputs and the new states of its modes (R169, R163). -/
def lconvChannel (k : Kernel) (anch : Bool) (G : Nat) (w : W64) (xs : List Dy) (init st : List ModeSt) :
    NM (List Dy × List ModeSt) := do
  let baseAt (f m : Nat) : Nat × ModeSt :=
    match resetAt w f with
    | some r => (r, init.getD m ⟨cxZero, cxZero⟩)
    | none => (0, st.getD m ⟨cxZero, cxZero⟩)
  let ys ← (List.range G).mapM (fun f => do
    let near ← nearPart k xs (baseAt f 0).1 f
    let far ← (List.zip (List.range k.modes.length) k.modes).mapM (fun q => do
      let (m, pw, p, rho) := q
      let (r0, b) := baseAt f m
      if anch then do
        let o ← homog p b (f - r0 + 1)
        let v ← cadd b.anch o
        let y ← cmul rho v
        pure y.1
      else farTerm pw rho (f - r0 + 1) b.off)
    let fs ← sumFree far
    fadd near fs)
  let new ← (List.zip (List.range k.modes.length) k.modes).mapM (fun q => do
    let (m, pw, p, _) := q
    let (r0, b) := baseAt (G - 1) m
    let h ← if anch then homog p b (G - r0) else cmul (pw.getD (G - r0) cxZero) b.off
    let terms ← (List.range (G - r0)).mapM (fun i => do
      let x := xs.getD (r0 + i) Dy.zero
      cmul (pw.getD (G - 1 - (r0 + i)) cxZero) (x, Dy.zero))
    let re ← sumFree (h.1 :: terms.map (·.1))
    let im ← sumFree (h.2 :: terms.map (·.2))
    pure (⟨(re, im), b.anch⟩ : ModeSt))
  pure (ys, new)

/-- The operands of RC.LCONV. -/
structure LconvOps where
  td : Tens
  tx : Tens
  tk : Tens
  ts : Tens
  ti : Tens
  J : Nat
  Q : Nat
  p : Span
deriving DecidableEq, Repr

/-- It retires as a no-op: an operand has a zero bound, or it covers no member (R103, R154). -/
def LconvOps.noop (o : LconvOps) : Bool := o.p.n == 0 || [o.td, o.tx, o.tk, o.ts, o.ti].any (·.empty)

/-- The issue checks of RC.LCONV (R157, R168, Table 6-2). -/
def lconvCheck (c : CoreId) (ops : BitVec 52) : M LconvOps := ranked do
  let b := tOf (fldB ops)
  let k := tOf (fldC ops)
  let anch := (fldD ops).testBit 6
  let td ← evalK c (tOf (fldA ops)) 0 true
  let tx ← evalK c b 1 false
  let tk ← evalK c (b + 1) 1 false
  let ts ← evalK c k 2 true
  let ti ← evalK c (k + 1) 2 false
  chk 0 (rcKind td [3] [8] 0)
  chk 1 (rcKind tx [2] [7] 1)
  chk 1 (rcKind tk [0, 1, 2] [10] 1)
  chk 2 (rcState ts 2)
  chk 2 (rcKind ti [0, 1, 2] [8] 2)
  [(tx, 1), (tk, 1), (ti, 2), (ts, 2)].forM (fun r => overK c td r.1 0 r.2)
  [(tx, 1), (tk, 1), (ti, 2), (td, 0)].forM (fun r => overK c ts r.1 2 r.2)
  let p ← gather 3 (membersOf c (fldD ops % 32)) (fun _ => noSpan)
  let D := tx.elems
  let J := (tk.n 0 - 32) / 4
  let Q := tk.n 1
  unlessNoop [td, tx, tk, ts, ti] do
    chkBIf [tx] (decide (16384 < D)) D 0 1
    chkBIf [tk] (decide (tk.n 0 < 36 ∨ (tk.n 0 - 32) % 4 ≠ 0 ∨ 32 < J)) (tk.n 0) 0 1
    chkBIf [tk, tx] (decide (D % Q ≠ 0)) Q 1 1
    chkB [td] 0 (needRows td (p.n * p.G) 0)
    chkB [td, tx] 0 (needElems td D 0)
    chkB [tx] 1 (needRows tx (p.n * p.G) 1)
    chkB [ts, tx, tk] 2 (needState ts (if anch then 4 * D * J else 2 * D * J) p.n 2)
    chkB [ti, tx, tk] 2 (needElems ti (2 * D * J) 2)
  chk 2 (stateIn c ts p 2)
  allocK c td 0
  pure { td := td, tx := tx, tk := tk, ts := ts, ti := ti, J := J, Q := Q, p := p }

/-- The modes of channel e in a state operand: FP32 words from `off`, anchors `D` channels further when anchored. -/
def modesOf (rd : Nat → NM Dy) (e J : Nat) (anchor : Option Nat) : NM (List ModeSt) :=
  (List.range J).mapM (fun m => do
    let a ← rd (2 * (e * J + m))
    let b ← rd (2 * (e * J + m) + 1)
    match anchor with
    | some z => do
      let x ← rd (z + 2 * (e * J + m))
      let y ← rd (z + 2 * (e * J + m) + 1)
      pure ⟨(a, b), (x, y)⟩
    | none => pure ⟨(a, b), cxZero⟩)

/-- The work of RC.LCONV. -/
def lconvWork (c : CoreId) (w : W64) (o : LconvOps) (anch : Bool) : M Work := do
  let p := o.p
  let D := o.tx.elems
  let (kern, b0) ← readSub c o.tk.d (o.tk.n 0) o.Q 1 1
  let (init, b1) ← readFlat c o.ti
  let (x, b2) ← readRows c o.tx (p.n * p.G)
  let ks ← nm c ((List.range o.Q).mapM (fun q => kernelOf (fun i => kern.at i q 0 0) o.J p.G))
  let all ← (List.zip (List.range p.n) p.ms).mapM (fun im => do
    let (i, mb) := im
    let (st, bad) ← readState c o.ts p i
    let chans ← nm c ((List.range D).mapM (fun e => do
      let k := ks.getD (e / (D / o.Q)) { taps := [], modes := [] }
      let xs ← (List.range p.G).mapM (fun f => bf16.read (x (i * p.G + f) e))
      let ini ← modesOf (fun j => fp32.read (init.getD j 0)) e o.J none
      let ini := if anch then ini.map (fun (v : ModeSt) => ({ off := cxZero, anch := v.off } : ModeSt)) else ini
      let sv ← modesOf (fun j => fp32.read (st.getD j 0)) e o.J (if anch then some (2 * D * o.J) else none)
      lconvChannel k anch p.G mb.resetWord xs ini sv))
    pure (i, chans, bad))
  all.forM (fun v => do
    let (i, chans, _) := v
    (List.range p.G).forM (fun f => writeElems c w o.td (i * p.G + f) (chans.map (fun y => bits32 (y.1.getD f Dy.zero))))
    let offs := chans.flatMap (fun y => y.2.flatMap (fun m => [bits32 m.off.1, bits32 m.off.2]))
    let anchs := chans.flatMap (fun y => y.2.flatMap (fun m => [bits32 m.anch.1, bits32 m.anch.2]))
    writeState c w o.ts p i (offs ++ (if anch then anchs else [])))
  countResets c p
  pure { fault := (b0 <|> b1 <|> b2 <|> all.findSome? (·.2.2)), defer := true }

/-- The work of RC.LCONV at issue. -/
def workRcLconv (c : CoreId) (ops : BitVec 52) : M Unit :=
  let w := word clsRC 3 ops
  do
    let o ← lconvCheck c ops
    rcGo c .mm w o.noop (lconvWork c w o ((fldD ops).testBit 6))

/-- RC.LCONV (R168 to R170). -/
def execRcLconv (c : CoreId) (ops : BitVec 52) (s : State) : Out :=
  let w := word clsRC 3 ops
  .next (s.issue c w (zT ||| zPairB ||| zPairC ||| zbits 34 34 ||| zbits 36 36 ||| zbits 28 0) (thenNext c (workRcLconv c ops)))

end Sys2Proof.Machine
end

