-- ==== Sys2Proof/Machine/Attn.lean ====
section
/-! DEFINITION. Windowed attention: leaves, quire tables, AT.WIN, AT.APPEND and the freeing of leaves (R192 to R208). -/
namespace Sys2Proof.Machine

/-- Class of the AT instructions (Table 4-3). -/
def clsAT : Nat := 5
/-- Core fault code QUIRE_BAD is `fQuire`; its information word (R201). -/
def quireInfo (reason member slot : Nat) : Nat := reason + member % 2 ^ 16 * 2 ^ 8 + slot % 2 ^ 8 * 2 ^ 24

/-- Faults of a computation become faults at issue. -/
def atIssueM {α : Type} (m : M α) : M α := fun s =>
  match m s with
  | .error (.flt f) => .error (.flt { f with atIssue := true })
  | r => r

/-! ### Leaf layout (R193, Table 8-1) -/

/-- The geometry of a quire header (Table 8-2). -/
structure Geo where
  hkv : Nat
  dh : Nat
  fmt : Nat
  gs : Nat
deriving DecidableEq, Repr

/-- Header bits [31:0] as a geometry. -/
def geoOf (h : Nat) : Geo :=
  { hkv := bits h 7 3 + 1, dh := 32 * (bits h 10 3 + 1), fmt := bits h 13 2, gs := if h.testBit 15 then 64 else 32 }

/-- Bits of a code. -/
def Geo.cb (g : Geo) : Nat := if g.fmt = 0 then 8 else if g.fmt = 1 then 4 else 16
/-- Groups of a head. -/
def Geo.ng (g : Geo) : Nat := g.dh / g.gs
/-- Bytes of one head's row. -/
def Geo.row (g : Geo) : Nat := g.dh * g.cb / 8
/-- Offsets of the values and of the scales. -/
def Geo.V0 (g : Geo) : Nat := 64 + g.hkv * 64 * g.row
def Geo.S0 (g : Geo) : Nat := g.V0 + g.hkv * 64 * g.row
/-- Bytes of a leaf. -/
def Geo.LB (g : Geo) : Nat :=
  ((if g.fmt = 2 then g.S0 else g.S0 + 2 * (2 * g.hkv * 64 * g.ng)) + 255) / 256 * 256
/-- Offset of the row of head h at entry t, of a key or a value. -/
def Geo.rowOff (g : Geo) (value : Bool) (h t : Nat) : Nat := (if value then g.V0 else 64) + (h * 64 + t) * g.row
/-- Offset of the first scale of head h at entry t. -/
def Geo.scaleOff (g : Geo) (value : Bool) (h t : Nat) : Nat :=
  g.S0 + (if value then 2 * g.hkv * 64 * g.ng else 0) + 2 * ((h * 64 + t) * g.ng)

/-- The elements of a head's row in a leaf, dequantised exactly (R204). An infinite or NaN scale is read, and counts, for each
element that it multiplies (R74 leaves it open; log entry 75). -/
def Geo.read (g : Geo) (leaf : Array Byte) (value : Bool) (h t : Nat) : NM (List Dy) := do
  let byte (o n : Nat) : Nat := leNat ((List.range n).map (fun k => leaf.getD (o + k) 0))
  let o := g.rowOff value h t
  (List.range g.dh).mapM (fun d => do
    if g.fmt = 2 then bf16.read (byte (o + 2 * d) 2)
    else do
      let c : Int := if g.fmt = 0 then sext 8 (byte (o + d) 1) else sext 4 (bits (byte (o + d / 2) 1) (4 * (d % 2)) 4)
      let s ← fp16.read (byte (g.scaleOff value h t + 2 * (d / g.gs)) 2)
      mulNM (Dy.ofInt c) s)

/-- One group's scale and codes (R90). -/
def quantGroup (fmt : Nat) (xs : List Dy) : NM (Nat × List Nat) := do
  let qm : Int := if fmt = 0 then 127 else 7
  let mx := xs.foldl (fun (m : Dy) x => m.max x.abs) Dy.zero
  let s16 ← if mx.m = 0 then pure 0 else roundUp16 (mx.quot (Dy.ofInt qm))
  if s16 = 0 then pure (0, xs.map (fun _ => 0))
  else do
    let s ← fp16.read s16
    let r ← fl32 ((Dy.ofInt 1).quot s)
    let l ← xs.mapM (fun x => do
      let y ← fl32 (← mulNM x r)
      let c ← clampNM (-qm) qm y.rne
      pure (code (if fmt = 0 then 8 else 4) c))
    pure (s16, l)

/-- The bytes that a head's row puts into a leaf: codes, and scales (R90, R202). -/
def Geo.rowBytes (g : Geo) (xs : List Dy) : NM (List Byte × List Byte) :=
  if g.fmt = 2 then do
    let l ← xs.mapM bf16.round
    pure (pack 16 0 l, [])
  else do
    let gs ← (List.range g.ng).mapM (fun i => quantGroup g.fmt ((xs.drop (g.gs * i)).take g.gs))
    pure (pack g.cb 0 (gs.flatMap (·.2)), pack 16 0 (gs.map (·.1)))

/-! ### Layer records and quire tables (R195, R196, R200) -/

/-- A layer record (Table 8-4). -/
structure Layer where
  W : Nat
  gq : Nat
  dr2 : Nat
  hdr : Nat
  c : Nat
  qoff : Nat
  omega : List Nat
deriving DecidableEq, Repr

/-- The geometry that layer word 1 expects. -/
def Layer.geo (l : Layer) : Geo := geoOf l.hdr

/-- Words of the layer record, read at issue as late-bound words are. -/
def recordWords (c : CoreId) (t : Tens) (n : Nat) : M (Array Nat) := do
  let (v, bad) ← atIssueM (readSub c t.d n 1 1 1)
  match bad with
  | some f => fun _ => .error (.flt { f with atIssue := true, operand := lateOp })
  | none => pure ()
  pure v.dat

/-- The layer record of an AT instruction (R200). -/
def layerOf (c : CoreId) (t : Tens) (S : Nat) : M Layer := do
  fltIf (decide (t.n 0 < 4)) fBound (t.n 0) true 0 2
  let h ← recordWords c t 4
  let w0 := h.getD 0 0
  let w1 := h.getD 1 0
  let g := geoOf w1
  let dr2 := bits w0 18 8
  fltIf (decide (t.n 0 < 4 + dr2)) fBound (t.n 0) true 0 2
  let W := bits w0 0 13
  let gq := bits w0 13 5
  fltIf (decide (W = 0 ∨ 4096 < W ∨ gq = 0 ∨ 16 < gq ∨ g.dh < 2 * dr2 ∨ bits w0 26 6 ≠ 0)) fBound w0 (operand := 2)
  fltIf (decide (g.fmt = 3 ∨ bits w1 0 7 ≠ 0 ∨ bits w1 16 16 ≠ 0)) fBound w1 (operand := 2)
  fltIf (bits (h.getD 2 0) 23 8 = 255) fBound (h.getD 2 0) (operand := 2)
  let qoff := h.getD 3 0
  fltIf (decide (qoff % 8 ≠ 0 ∨ S < qoff + 8)) fBound qoff (operand := 2)
  let r ← recordWords c t (4 + dr2)
  let om := (List.range dr2).map (fun i => r.getD (4 + i) 0)
  match om.find? (fun v => !(decide (v ≤ 0x40490FDA) || v == 0x80000000)) with
  | some v => flt fBound v (operand := 2)
  | none => pure ()
  pure { W := W, gq := gq, dr2 := dr2, hdr := w1, c := h.getD 2 0, qoff := qoff, omega := om }

/-- A member's quire header and the entries of the slots read. -/
structure Quire where
  hdr : Nat
  qid : Nat
  R : Nat
  /-- (slot, primary leaf, mirror leaf): leaves as Toile address bits [51:8] -/
  slots : List (Nat × Nat × Option Nat)
deriving DecidableEq, Repr

/-- A quire read of 16 bytes of local HBM at issue (R198, R201). -/
def quireRead (c : CoreId) (a : Nat) : M Nat := do
  let s ← get
  match s.reach c (localAddr a) 16 true with
  | some code => flt code (localAddr a)
  | none => pure ()
  let l ← atIssueM (rdToile c (localAddr a) 16)
  pure (leNat l)

/-- An aligned word of a working copy read at issue. -/
def copyAtIssue (c : CoreId) (o n : Nat) : M Nat := do
  let s ← get
  let a := storeAddr (c.val / 8) o
  match s.sramBad a n with
  | [] => modify (fun s => s.sramCheck a n); pure (leNat (s.peek a n))
  | p :: l => fun _ => .error (.flt { code := fEcc, info := faultLoc p, words := l.map faultLoc })

/-- A read at issue whose fault is gathered; none where it fails (R122, R201). -/
def readK (m : M Nat) : K (Option Nat) := gather 3 (do let v ← m; pure (some v)) (fun _ => none)

/-- One entry of a quire table (Table 8-2); a slot without a leaf where its read fails. -/
def quireEntry (c : CoreId) (base member slot : Nat) : K (Nat × Nat × Option Nat) := do
  match ← readK (quireRead c (base + 16 + 16 * slot)) with
  | none => pure (slot, 0, none)
  | some e =>
    chkIf (!e.testBit 44 || decide (bits e 45 19 ≠ 0) || decide (bits e 109 19 ≠ 0)) fQuire (quireInfo 4 member slot)
    pure (slot, bits e 0 44, if e.testBit 108 then some (bits e 64 44) else none)

/-- What stands for a quire table that cannot be read. -/
def noQuire : Quire := { hdr := 0, qid := 0, R := 1, slots := [] }

/-- A member's quire table: pointer, header, and the entries of the blocks named, with the checks of Table 8-6. A check that
fails stops no later read whose place is known, because QUIRE_BAD comes after the faults of every quire read (R201; log
entry 75). The read is part of issue (R209). -/
def quireOf (c : CoreId) (l : Layer) (G idx : Nat) (m : Member) (blocks : List Nat) : K Quire := do
  match ← readK (copyAtIssue c (m.work + l.qoff) 8) with
  | none => pure noQuire
  | some p =>
    chkIf (decide (hbmSize ≤ p ∨ p % 256 ≠ 0)) fQuire (quireInfo 1 idx 0)
    if hbmSize ≤ p ∨ p % 256 ≠ 0 then pure noQuire
    else match ← readK (quireRead c p) with
      | none => pure noQuire
      | some h =>
        let g := geoOf h
        chkIf (decide (bits h 7 9 ≠ bits l.hdr 7 9 ∨ g.fmt = 3 ∨ (g.gs = 64 ∧ g.dh % 64 ≠ 0) ∨ bits h 16 16 ≠ 0 ∨ bits h 64 64 ≠ 0))
          fQuire (quireInfo 2 idx 0)
        let R := bits h 0 7
        chkIf (decide (R < 2 ∨ 80 < R ∨ R < (l.W + G - 1 + 63) / 64 + 1)) fQuire (quireInfo 3 idx 0)
        let es ← (if R < 2 ∨ 80 < R then [] else (blocks.map (· % R)).eraseDups).mapM (quireEntry c p idx)
        pure { hdr := bits h 0 32 / 2 ^ 7 * 2 ^ 7, qid := bits h 32 32, R := R, slots := es }

/-- The entry of a block's slot. -/
def Quire.slot (q : Quire) (b : Nat) : Nat × Option Nat :=
  ((q.slots.find? (fun e => e.1 == b % q.R)).map (·.2)).getD (0, none)

/-- The first 16 bytes of a leaf that a block's positions are written to (Table 8-1). -/
def Quire.tag (q : Quire) (b : Nat) : List Byte := toLE 8 b ++ toLE 4 q.qid ++ toLE 4 q.hdr

/-! ### AT.WIN (R192, R204, R205) -/

/-- lo of frame f of a member (R192): the earliest position its query may attend to. -/
def loOf (m : Member) (W resetPos f : Nat) : Int :=
  let q : Int := m.pos0.toInt + f
  let rp : Int := match resetAt m.resetWord f with
    | some r => m.pos0.toInt + r
    | none => (BitVec.ofNat 64 resetPos).toInt
  max (q - W + 1) rp

/-- The blocks that AT.WIN walks for a member (R204). -/
def blocksOf (m : Member) (W resetPos G : Nat) : List Nat :=
  let lo := (List.range G).foldl (fun (a : Int) f => min a (loOf m W resetPos f)) (loOf m W resetPos 0)
  let b0 := (lo / 64).toNat
  let b1 := (m.pos0.toNat + G - 1) / 64
  (List.range (b1 + 1 - b0)).map (· + b0)

/-- A member as AT.WIN works on it: its index from j0, the record, reset position, quire and blocks. -/
structure WinMember where
  i : Nat
  m : Member
  resetPos : Nat
  q : Quire
  blocks : List Nat
deriving DecidableEq, Repr

/-- What reading a block's leaf gave: its bytes when it is live, or not. -/
inductive LeafRes where
  | live (l : List Byte)
  | stale
  | unreadable (f : CFlt)
deriving DecidableEq, Repr

/-- Read bytes of a leaf from its memory, past the tile cache (R209); an error, of this device or of the leaf's, is
answered and reported, and missing remote lines are waited for (R205, R330). -/
def leafRead (c : CoreId) (a n : Nat) : M (Except CFlt (List Byte)) := do
  let s ← get
  match s.reach c a n true with
  | some code => pure (.error { code := code, info := a, atIssue := false })
  | none =>
    match ← caught (rdToile c a n) with
    | .ok l => pure (.ok l)
    | .error f => modify (fun s => s.eccReport f); pure (.error f)

/-- Read the leaf of a block of a member: its first 64 bytes decide whether it is live; a live leaf of another geometry
is reason 5 (R195, R205). -/
def winLeaf (c : CoreId) (g : Geo) (j0 : Nat) (x : WinMember) (b : Nat) : M (Nat × LeafRes) := do
  let a := (x.q.slot b).1 * 256
  match ← leafRead c a 64 with
  | .error f => pure (b, .unreadable f)
  | .ok h =>
    if h.take 12 ≠ (x.q.tag b).take 12 then
      modify (fun s => s.count R.CORE_AT_STALE_count 1 c)
      pure (b, .stale)
    else
      fltIf ((h.drop 12).take 4 ≠ toLE 4 x.q.hdr) fQuire (quireInfo 5 (j0 + x.i) (b % x.q.R)) false
      match ← leafRead c a g.LB with
      | .error f => pure (b, .unreadable f)
      | .ok l => pure (b, .live l)

/-- rotate(x, d) of R204. -/
def rotate (l : Layer) (xs : List Dy) (d : Int) : NM (List Dy) := do
  let a := xs.toArray
  let head ← (List.zip (List.range l.dr2) l.omega).mapM (fun p => do
    let om ← fp32.read p.2
    let ang ← fmul (Dy.ofInt d) om
    let co := devFn32 20 ang
    let si := devFn32 21 ang
    let x := a.getD (2 * p.1) Dy.zero
    let y := a.getD (2 * p.1 + 1) Dy.zero
    let x1 ← fmul x co
    let y1 ← fmul y si
    let x2 ← fmul x si
    let y2 ← fmul y co
    let u ← fsub x1 y1
    let v ← fadd x2 y2
    pure [u, v])
  pure (head.flatten ++ xs.drop (2 * l.dr2))

/-- dot with a free association order (R93, R206). -/
def dotFree (a b : List Dy) : NM Dy := do
  let ps ← (List.zip a b).mapM (fun p => fmul p.1 p.2)
  sumFree ps

/-- The running softmax of one query row and head. -/
structure Soft where
  m : Option Dy
  l : Dy
  acc : List Dy
  rises : Nat
deriving DecidableEq, Repr

def devExp (x : Dy) : Dy := devFn32 19 x

/-- One block's positions folded into the softmax (R204): scores and values in ascending position. -/
def softBlock (st : Soft) (ss : List Dy) (vs : List (List Dy)) : NM Soft := do
  match ss with
  | [] => pure st
  | s0 :: rest =>
    let mb := rest.foldl (fun (a : Dy) x => a.max x) s0
    let (m, l, acc, rise) ← match st.m with
      | none => pure (mb, st.l, st.acc, 0)
      | some m =>
        if m.lt mb then do
          let d ← fsub m mb
          let f := devExp d
          let acc ← st.acc.mapM (fun x => fmul x f)
          let l ← fmul st.l f
          pure (mb, l, acc, 1)
        else pure (m, st.l, st.acc, 0)
    let es ← ss.mapM (fun x => do let d ← fsub x m; pure (devExp d))
    let se ← sumFree es
    let l ← fadd l se
    let acc ← (List.zip (List.range acc.length) acc).mapM (fun p => do
      let ts ← (List.zip es vs).mapM (fun q => fmul q.1 (q.2.getD p.1 Dy.zero))
      let t ← sumFree ts
      fadd p.2 t)
    pure { m := some m, l := l, acc := acc, rises := st.rises + rise }

/-- The query of frame f of a member may attend to entry t of block b (R192). -/
def WinMember.attends (x : WinMember) (W f b t : Nat) : Bool :=
  let k : Int := (64 * b + t : Nat)
  decide (loOf x.m W x.resetPos f ≤ k) && decide (k ≤ x.m.pos0.toInt + f)

/-- A block's dequantised rows for one head: rotated keys, values, by entry; none where no query attends. -/
structure HeadBlock where
  b : Nat
  keys : List (List Dy)
  vals : List (List Dy)
deriving DecidableEq, Repr

/-- The rows of head h in the live leaves of a member, those of positions that some query of its gathering attends to
(R204). -/
def headBlocks (l : Layer) (g : Geo) (G : Nat) (x : WinMember) (leaves : List (Nat × LeafRes)) (h : Nat) : NM (List HeadBlock) :=
  (leaves.filterMap (fun p => match p.2 with | .live d => some (p.1, d.toArray) | _ => none)).mapM (fun p => do
    let seen (t : Nat) : Bool := (List.range G).any (fun f => x.attends l.W f p.1 t)
    let ks ← (List.range 64).mapM (fun t =>
      if seen t then do
        let k ← g.read p.2 false h t
        rotate l k (((64 * p.1 + t : Nat) : Int) - x.m.pos0.toInt)
      else pure [])
    let vs ← (List.range 64).mapM (fun t => if seen t then g.read p.2 true h t else pure [])
    pure { b := p.1, keys := ks, vals := vs })

/-- One query row and head: its output elements' values, whether no position was attended to, and the rises of the
maximum (R204). -/
def winQuery (l : Layer) (g : Geo) (x : WinMember) (f : Nat) (query : List Dy) (bs : List HeadBlock) : NM (List Dy × Bool × Nat) := do
  let qr ← rotate l query f
  let c ← fp32.read l.c
  let st ← bs.foldlM (fun (st : Soft) hb => do
    let ts := (List.range 64).filter (x.attends l.W f hb.b)
    let ss ← ts.mapM (fun t => do
      let d ← dotFree qr (hb.keys.getD t [])
      fmul c d)
    softBlock st ss (ts.map (fun t => hb.vals.getD t []))) ({ m := none, l := Dy.zero, acc := List.replicate g.dh Dy.zero, rises := 0 } : Soft)
  if st.l.m = 0 then pure (List.replicate g.dh Dy.zero, true, st.rises)
  else do
    let r ← divNM fp32 one st.l
    let r ← fl32 r
    let o ← st.acc.mapM (fun a => fmul a r)
    pure (o, false, st.rises)

/-- The operands of AT.WIN. -/
structure WinOps where
  td : Tens
  tq : Tens
  p : Span
  l : Layer
  ms : List WinMember
deriving DecidableEq, Repr

/-- The leaves that an AT.WIN in flight pins. -/
def WinOps.leaves (o : WinOps) : List Nat := o.ms.flatMap (fun x => x.blocks.map (fun b => (x.q.slot b).1))

/-- Size S of the state of the section a core holds. -/
def State.sectionS (s : State) (c : CoreId) : Nat := ((s.held c).map (fun k => (s.bpar k.binder).size)).getD 0

/-- The layer record operand (Table 8-5). -/
def layerKind (t : Tens) : M Unit := rcKind t [0, 1, 2] [0xA] 2

/-- The members that AT.WIN covers, with their reset positions and quire tables read at issue; of several faults the first in
the order of R122 is raised (R192, R201). -/
def winMembers (c : CoreId) (l : Layer) (p : Span) : M (List WinMember) :=
  ranked ((List.zip (List.range p.n) p.ms).mapM (fun q => do
    let rp ← readK (copyAtIssue c (q.2.work + 16) 8)
    let bs := match rp with | some rp => blocksOf q.2 l.W rp p.G | none => []
    let qu ← quireOf c l p.G (p.j0 + q.1) q.2 bs
    pure { i := q.1, m := q.2, resetPos := rp.getD 0, q := qu, blocks := bs }))

/-- The layer record of an AT instruction, read where its descriptor is sound (R122, R200). -/
def layerK (c : CoreId) (tl : Tens) : K (Option Layer) := do
  let s ← getThe State
  if tl.known && (← soundAt 2) then gather 2 (do let l ← layerOf c tl (s.sectionS c); pure (some l)) (fun _ => none)
  else pure none

/-- The issue checks of AT.WIN: its operands, its members, and its layer where no operand is empty (R201). -/
def winOperands (c : CoreId) (ops : BitVec 52) : M (Tens × Tens × Span × Option Layer) := ranked do
  let td ← evalK c (tOf (fldA ops)) 0 true
  let tq ← evalK c (tOf (fldB ops)) 1 false
  let tl ← evalK c (tOf (fldC ops)) 2 false
  chk 0 (rcKind td [2, 3] [8, 7] 0)
  chk 1 (rcKind tq [2, 3] [8, 7] 1)
  chk 2 (layerKind tl)
  overK c td tq 0 1
  overK c td tl 0 2
  let p ← gather 3 (membersOf c (fldD ops % 32)) (fun _ => noSpan)
  allocK c td 0
  if td.empty || tq.empty || tl.empty then pure (td, tq, p, none)
  else
    let l ← layerK c tl
    chkB [td] 0 (needRows td (p.n * p.G) 0)
    chkB [tq] 1 (needRows tq (p.n * p.G) 1)
    match l with
    | some l =>
      let E := l.geo.hkv * l.gq * l.geo.dh
      chkB [td] 0 (needElems td E 0)
      chkB [tq] 1 (needElems tq E 1)
    | none => pure ()
    pure (td, tq, p, l)

/-- The issue of AT.WIN; `none` retires it as a no-op. -/
def winCheck (c : CoreId) (ops : BitVec 52) : M (Option WinOps) := do
  let (td, tq, p, l) ← winOperands c ops
  match l with
  | none => pure none
  | some l =>
    if p.n = 0 then pure none
    else
      let ms ← winMembers c l p
      pure (some { td := td, tq := tq, p := p, l := l, ms := ms })

/-- The frames of one member: output rows, counts of empty queries and of rises. -/
def winMember (o : WinOps) (g : Geo) (src : Nat → Nat → Nat) (x : WinMember) (leaves : List (Nat × LeafRes)) :
    NM (List (List Nat) × Nat × Nat) := do
  let hbs ← (List.range g.hkv).mapM (headBlocks o.l g o.p.G x leaves)
  let rows ← (List.range o.p.G).mapM (fun f => do
    let hs ← (List.range (g.hkv * o.l.gq)).mapM (fun q => do
      let xs ← (List.range g.dh).mapM (fun d => readElem o.tq.d.fmt (src (x.i * o.p.G + f) (q * g.dh + d)))
      let (out, em, rises) ← winQuery o.l g x f xs (hbs.getD (q / o.l.gq) [])
      let l ← out.mapM (outElem o.td.d.fmt)
      pure (l, em, rises))
    pure (hs.flatMap (·.1), (hs.filter (·.2.1)).length, (hs.map (·.2.2)).sum))
  pure (rows.map (·.1), (rows.map (·.2.1)).sum, (rows.map (·.2.2)).sum)

/-- The work of AT.WIN (R204, R205). -/
def winWork (c : CoreId) (w : W64) (o : WinOps) : M Work := do
  let g := o.l.geo
  let leaves ← o.ms.mapM (fun x => do let l ← x.blocks.mapM (winLeaf c g o.p.j0 x); pure (x, l))
  let (src, bad) ← readRows c o.tq (o.p.n * o.p.G)
  leaves.forM (fun q => do
    let (rows, em, rises) ← nm c (winMember o g src q.1 q.2)
    (List.zip (List.range o.p.G) rows).forM (fun r => writeElems c w o.td (q.1.i * o.p.G + r.1) r.2)
    if em ≠ 0 then setFlag c 0
    modify (fun s => (s.count R.CORE_AT_EMPTY_Q_count em c).count R.CORE_AT_RESCALE_count rises c))
  let badLeaf := (leaves.flatMap (·.2)).findSome? (fun p => match p.2 with | .unreadable f => some f | _ => none)
  pure { fault := badLeaf <|> bad, defer := true }

/-- The work of AT.WIN at issue. -/
def workAtWin (c : CoreId) (ops : BitVec 52) : M Unit :=
  let w := word clsAT 1 ops
  do
    let r ← winCheck c ops
    queueRoom c .at
    match r with
    | none => setFlag c 0
    | some o =>
      inOrder c
      let r ← execPart (winWork c w o)
      dispatchWork c .at w r (leaves := o.leaves)

/-- AT.WIN (R199, R204). -/
def execAtWin (c : CoreId) (ops : BitVec 52) (s : State) : Out :=
  let w := word clsAT 1 ops
  .next (s.issue c w (zT ||| zTB ||| zTC ||| zbits 36 34 ||| zbits 28 0) (thenNext c (workAtWin c ops)))

/-! ### AT.APPEND (R202, R203) -/

/-- The blocks that a member's gathering lies in. -/
def appendBlocks (m : Member) (G : Nat) : List Nat := ((List.range G).map (fun f => (m.pos0.toNat + f) / 64)).eraseDups

/-- What one frame puts into its leaf: offsets and bytes. -/
def appendFrame (g : Geo) (q : Quire) (k v : List Dy) (p : Nat) : NM (List (Nat × List Byte)) := do
  let t := p % 64
  let l ← (List.range g.hkv).mapM (fun h => do
    let row (xs : List Dy) : List Dy := (xs.drop (h * g.dh)).take g.dh
    let (kc, ks) ← g.rowBytes (row k)
    let (vc, vs) ← g.rowBytes (row v)
    pure ([(g.rowOff false h t, kc), (g.rowOff true h t, vc)]
      ++ (if g.fmt = 2 then [] else [(g.scaleOff false h t, ks), (g.scaleOff true h t, vs)])))
  pure ((0, q.tag (p / 64) ++ List.replicate 48 0) :: l.flatten)

/-- Write a frame's bytes into a leaf. -/
def putLeaf (c : CoreId) (w : W64) (leaf : Nat) (l : List (Nat × List Byte)) : M Unit :=
  l.forM (fun x => wrToile c w (leaf * 256 + x.1) x.2)

/-- A leaf may be written; what stops it is raised in execution. -/
def leafReach (c : CoreId) (leaf n : Nat) : M (Option Nat) := do
  let s ← get
  pure (s.reach c (leaf * 256) n true)

/-- Write a frame to the primary leaf and, where it has a route, to the mirror (R197, R203). -/
def appendTo (c : CoreId) (w : W64) (g : Geo) (prim : Nat) (mirror : Option Nat) (l : List (Nat × List Byte)) : M Unit := do
  match ← leafReach c prim g.LB with
  | some code => flt code (prim * 256) false
  | none => putLeaf c w prim l
  match mirror with
  | none => pure ()
  | some m =>
    match ← leafReach c m g.LB with
    | some code =>
      if code = fUnreach then modify (fun s => s.count R.CORE_AT_MIRROR_SKIP_count 1 c)
      else flt code (m * 256) false
    | none => putLeaf c w m l

/-- The operands of AT.APPEND. -/
structure AppendOps where
  tk : Tens
  tv : Tens
  p : Span
  l : Layer
  qs : List (Nat × Member × Quire)
deriving DecidableEq, Repr

/-- The leaves that an AT.APPEND in flight pins. -/
def AppendOps.leaves (o : AppendOps) : List Nat := o.qs.flatMap (fun x => x.2.2.slots.flatMap (fun e => e.2.1 :: e.2.2.toList))

/-- The issue checks of AT.APPEND: its operands, its members, and its layer where no operand is empty (R201). -/
def appendOperands (c : CoreId) (ops : BitVec 52) : M (Tens × Tens × Span × Option Layer) := ranked do
  let b := tOf (fldB ops)
  let tk ← evalK c b 1 false
  let tv ← evalK c (b + 1) 1 false
  let tl ← evalK c (tOf (fldC ops)) 2 false
  chk 1 (rcKind tk [2, 3] [8, 7] 1)
  chk 1 (rcKind tv [2, 3] [8, 7] 1)
  chk 2 (layerKind tl)
  let p ← gather 3 (membersOf c (fldD ops % 32)) (fun _ => noSpan)
  if tk.empty || tv.empty || tl.empty then pure (tk, tv, p, none)
  else
    let l ← layerK c tl
    match l with
    | some l => [tk, tv].forM (fun t => chkB [t] 1 (needElems t (l.geo.hkv * l.geo.dh) 1))
    | none => pure ()
    [tk, tv].forM (fun t => chkB [t] 1 (needRows t (p.n * p.G) 1))
    pure (tk, tv, p, l)

/-- The issue of AT.APPEND; `none` retires it as a no-op. -/
def appendCheck (c : CoreId) (ops : BitVec 52) : M (Option AppendOps) := do
  let (tk, tv, p, l) ← appendOperands c ops
  match l with
  | none => pure none
  | some l =>
    if p.n = 0 then pure none
    else
      let qs ← ranked ((List.zip (List.range p.n) p.ms).mapM (fun q => do
        let qu ← quireOf c l p.G (p.j0 + q.1) q.2 (appendBlocks q.2 p.G)
        pure (q.1, q.2, qu)))
      pure (some { tk := tk, tv := tv, p := p, l := l, qs := qs })

/-- The work of AT.APPEND (R202). -/
def appendWork (c : CoreId) (w : W64) (o : AppendOps) : M Work := do
  let g := o.l.geo
  let E := g.hkv * g.dh
  let (ks, b0) ← readRows c o.tk (o.p.n * o.p.G)
  let (vs, b1) ← readRows c o.tv (o.p.n * o.p.G)
  o.qs.forM (fun x => do
    let (i, m, q) := x
    (List.range o.p.G).forM (fun f => do
      let p := m.pos0.toNat + f
      let l ← nm c (do
        let k ← (List.range E).mapM (fun e => readElem o.tk.d.fmt (ks (i * o.p.G + f) e))
        let v ← (List.range E).mapM (fun e => readElem o.tv.d.fmt (vs (i * o.p.G + f) e))
        appendFrame g q k v p)
      let (prim, mir) := q.slot (p / 64)
      appendTo c w g prim mir l))
  pure { fault := (b0 <|> b1), defer := true }

/-- The work of AT.APPEND at issue. -/
def workAtAppend (c : CoreId) (ops : BitVec 52) : M Unit :=
  let w := word clsAT 2 ops
  do
    let r ← appendCheck c ops
    beforeWrite c
    queueRoom c .at
    match r with
    | none => setFlag c 0
    | some o =>
      let r ← execPart (appendWork c w o)
      dispatchWork c .at w r (leaves := o.leaves)

/-- AT.APPEND (R199, R202, R203). -/
def execAtAppend (c : CoreId) (ops : BitVec 52) (s : State) : Out :=
  let w := word clsAT 2 ops
  .next (s.issue c w (zbits 51 47 ||| zTB ||| zPairB ||| zTC ||| zbits 36 34 ||| zbits 28 0) (thenNext c (workAtAppend c ops)))

/-! ### Freeing leaves (R207, R208) -/

/-- Change the attention queues of a hoop's cores. -/
def State.updAtQueues (s : State) (h : Nat) (f : InFlight → InFlight) : State :=
  (List.range 8).foldl (fun (s : State) j =>
    if ((s.core (8 * h + j)).at').isEmpty then s
    else s.updCore (8 * h + j) (fun k => { k with at' := k.at'.map f })) s

/-- A pin of a hoop that a free waits for. -/
def State.freeing (s : State) (h : Nat) : Bool :=
  (List.range 8).any (fun j => ((s.core (8 * h + j)).at').any (·.freeing.isSome))

/-- The pins on a leaf are those that a free of it waits for. -/
def State.atMark (s : State) (h : Nat) (leaf : Nat) : State :=
  s.updAtQueues h (fun q => { q with freeing := if q.leaves.contains leaf then some leaf else none })

/-- AT_FREE: the pins that lie on the leaf now are the ones the free waits for (R208). -/
def State.atFree (s : State) (h : Nat) (leaf : Nat) : State :=
  if s.bit R.HOOP_AT_FREE_STAT_busy h then s
  else if (s.atMark h leaf).freeing h then (s.atMark h leaf).put R.HOOP_AT_FREE_STAT_busy 1 h
  else s.atMark h leaf

/-- The instruction is an AT.WIN. -/
def isAtWin (w : W64) : Bool := w.toNat / 2 ^ 52 == clsAT * 2 ^ 8 + 1

/-- A pin that a free waits for and that its instruction cannot have released: AT.APPEND releases its pins when its writes
complete, and an AT.WIN that waits behind another instruction has finished with no leaf (R207). -/
def State.freeHeld (s : State) (h : Nat) : Bool :=
  (List.range 8).any (fun j => ((s.core (8 * h + j)).at').zipIdx.any (fun q =>
    q.1.freeing.isSome && !(q.2 == 0 && isAtWin q.1.word)))

/-- The free ends: an AT.WIN in its walk has finished with the leaf and releases it (R207, R208, Table 8-8). -/
def State.freeEnd (s : State) (h : Nat) : State :=
  ((s.updAtQueues h (fun q => { q with leaves := q.leaves.filter (fun l => q.freeing != some l), freeing := none })).put
    R.HOOP_AT_FREE_STAT_busy 0 h).count R.HOOP_AT_FREE_WAIT_count 1 h

/-- AT_FREE (R208). -/
def execAtFree (p : Port) (h : HoopId) (leaf : BitVec 44) (s : State) : Out :=
  .next (s.regCmd p (R.HOOP_AT_FREE_leaf.addr h.val 0) (fun s => s.atFree h leaf.toNat))

/-- AT_FREE_DONE: the last of the earlier pins has been released, and the free that found the leaf pinned counts. When an
AT.WIN in its walk has finished with a leaf is the time of this command (R207, R208, Table 8-8; log entry 97). -/
def execAtFreeDone (h : HoopId) (s : State) : Out :=
  .next (s.mainEv (fun s => if !s.bit R.HOOP_AT_FREE_STAT_busy h || s.freeHeld h then s else s.freeEnd h))

end Sys2Proof.Machine
end

