-- ==== Sys2Proof/Machine/Flow.lean ====
section
/-! DEFINITION. The jitter buffer of a flow: playout times, rebases, and which packets it holds (R312, R313, R316). -/
namespace Sys2Proof.Machine

/-- a - b as a signed 32-bit value. -/
def sdiff (a b : Nat) : Int := (BitVec.ofNat 32 (since a b)).toInt

/-- P(k): the playout time of sample index k at a sample rate (R312). -/
def Flow.play (f : Flow) (fs k : Nat) : Int :=
  let q := sdiff k f.anchorI.toNat * 1000000000
  f.anchorT.toNat + q / fs + (if q % fs ≠ 0 ∧ Config.playUp q fs then 1 else 0)

/-- The jitter allowance J in ns. -/
def Flow.jit (f : Flow) : Nat := f.jitter.toNat * 1000000

/-- A per-flow count: 32 bits that saturate, and an overflow bit (R310). -/
def bump (v : BitVec 33) (n : Nat) : BitVec 33 := BitVec.ofNat 33 (satAdd v.toNat n)

/-- A packet discarded and counted as late. -/
def Flow.dropLate (f : Flow) : Flow := { f with late := bump f.late 1 }

/-- Two runs of samples overlap, seen from index w. -/
def runsMeet (w a n b m : Nat) : Bool :=
  decide (sdiff a w < sdiff b w + m) && decide (sdiff b w < sdiff a w + n)

/-- A packet enters the buffer unless it starts below the write position w or overlaps a packet held (R313). -/
def Flow.place (f : Flow) (w : Nat) (p : HeldPkt) : Flow :=
  if sdiff p.idx.toNat w < 0 ∨ f.held.any (fun q => runsMeet w p.idx.toNat p.count q.idx.toNat q.count) then f.dropLate
  else { f with held := f.held ++ [p] }

/-- The lowest index k ≥ w with P(k) ≥ t under the present anchor (R312). -/
def Flow.indexAt (f : Flow) (fs w : Nat) (t : Nat) : Nat :=
  let x : Int := -(-(((t : Int) - f.anchorT.toNat) * fs) / 1000000000)
  let d := x - sdiff w f.anchorI.toNat
  (w + d.toNat) % 2 ^ 32

/-- A new base at an SSRC change or a timestamp jump: the packet's first sample takes that index (R312). -/
def Flow.rebase (f : Flow) (fs w now : Nat) (p : HeldPkt) : Flow :=
  let k := f.indexAt fs w (now + f.jit)
  let t := f.play fs k
  let f := { f with baseTs := p.ts - BitVec.ofNat 32 k, anchorI := BitVec.ofNat 32 k, anchorT := BitVec.ofNat 64 t.toNat, stray := 0 }
  f.place w { p with idx := BitVec.ofNat 32 k, mark := true }

/-- The first sample would play more than 1 s after the arrival or more than 1 s before it (R312). -/
def Flow.isStray (f : Flow) (fs now : Nat) (i : BitVec 32) : Bool :=
  let d := f.play fs i.toNat - now
  decide (1000000000 < d) || decide (d < -1000000000)

/-- A packet reaches the flow of a live folio (R312). Answers whether the flow took a new base. -/
def Flow.arrive (f : Flow) (fs w now : Nat) (p : HeldPkt) : Flow × Bool :=
  if !f.started then
    let f := { f with baseTs := p.ts - BitVec.ofNat 32 w, curSsrc := p.ssrc, prevSsrc := p.ssrc, anchorI := BitVec.ofNat 32 w,
                      anchorT := BitVec.ofNat 64 (now + f.jit), started := true, stray := 0 }
    (f.place w { p with idx := BitVec.ofNat 32 w, mark := true }, true)
  else if p.ssrc = f.curSsrc then
    let i := p.ts - f.baseTs
    if f.isStray fs now i then
      if 3 ≤ f.stray then (f.rebase fs w now p, true) else ({ f.dropLate with stray := f.stray + 1 }, false)
    else ({ f with stray := 0 }.place w { p with idx := i }, false)
  else if p.ssrc = f.prevSsrc then (f.dropLate, false)
  else ({ f with prevSsrc := f.curSsrc, curSsrc := p.ssrc }.rebase fs w now p, true)

/-- A packet reaches a shadow flow, which takes no base of its own (R316). -/
def Flow.arriveShadow (f : Flow) (fs w now : Nat) (p : HeldPkt) : Flow :=
  if f.started ∧ p.ssrc = f.curSsrc then
    let i := p.ts - f.baseTs
    if f.isStray fs now i then f.dropLate else f.place w { p with idx := i }
  else if f.started ∧ p.ssrc = f.prevSsrc then f.dropLate
  else { f with waiting := f.waiting ++ [p] }

/-- A shadow flow takes a base, with the indices that base updates name: packets of its SSRC that waited enter the buffer
(R316). -/
def Flow.takeBase (f : Flow) (w : Nat) (b : SrcBase) (marks : List (BitVec 32)) : Flow :=
  let prev := if f.started then (if f.curSsrc = b.ssrc then f.prevSsrc else f.curSsrc) else b.ssrc
  let f := { f with baseTs := b.baseTs, curSsrc := b.ssrc, anchorT := b.anchorT, anchorI := b.anchorI, started := true,
                    prevSsrc := prev, marks := f.marks ++ marks }
  let mine := f.waiting.filter (fun p => p.ssrc = b.ssrc)
  mine.foldl (fun (f : Flow) p => f.place w { p with idx := p.ts - b.baseTs })
    { f with waiting := f.waiting.filter (fun p => p.ssrc ≠ b.ssrc) }

/-- Where the next block of a folio's source begins: wr_index and the samples held to be merged (R32, R313). -/
def State.flowPos (s : State) (n : Folio) : Nat :=
  ((s.ring n).wr + (match (s.fol n).merge with | some m => m.count | none => 0)) % 2 ^ 32

/-- The held packet at the write position, if any. -/
def Flow.heldAt (f : Flow) (w : Nat) : Option HeldPkt := f.held.find? (fun p => p.idx.toNat == w)

/-- Packets that start below the write position are discarded and counted as late (R313). -/
def Flow.purge (f : Flow) (w : Nat) : Flow :=
  let gone := f.held.filter (fun p => sdiff p.idx.toNat w < 0)
  { f with held := f.held.filter (fun p => ¬ sdiff p.idx.toNat w < 0), late := bump f.late gone.length }

/-- Samples of the concealment block at w: 64, or fewer up to the next held packet (R313). -/
def Flow.hole (f : Flow) (w : Nat) : Nat :=
  f.held.foldl (fun n p => min n (sdiff p.idx.toNat w).toNat) 64

end Sys2Proof.Machine
end

