-- ==== Sys2Proof/Machine/Folios.lean ====
section
/-! DEFINITION. The FOL commands, swap-out, folio closing and the release of gatherings (R34 to R41, R52, R54, R62 to
R64, R266, R268, R269). -/
namespace Sys2Proof.Machine

/-- A FOL command ends with a result (R37). -/
def State.folDone (s : State) (n : Folio) (result : Nat) : State :=
  ((s.put R.FOL_STATUS_busy 0).put R.FOL_STATUS_result result).put R.FOL_STATUS_folio n.toNat

/-- Address of FOL_CMD. -/
def folCmdAddr : Nat := 0xF000200000

/-- A FOL command: discarded while another runs (R37). It reads the folio's entry, whose words an error may hold: one that is
uncorrectable retires the device, and the command has no other effect (Table 13-3, code 7). -/
def State.folOp (s : State) (p : Port) (n : Folio) (eff : State → State) : State :=
  s.regCmd p folCmdAddr (fun s =>
    if s.bit R.FOL_STATUS_busy then s
    else s.reading [n] eff)

/-- Whole of n bytes at a local address in HBM (R38). -/
def inHbm (a n : Nat) : Bool := decide (a + n ≤ hbmSize)

/-- The source base that LINE.OPEN carries: the base of the flow bound to the folio, absent before its stream start
(R266). -/
def State.srcBase (s : State) (n : Folio) : Option SrcBase :=
  (s.flows.find? (fun p => p.2.bound && p.2.folio == n && p.2.started)).map (fun p =>
    { ssrc := p.2.curSsrc, baseTs := p.2.baseTs, anchorI := p.2.anchorI, anchorT := p.2.anchorT })

/-- The home sends LINE.OPEN (R264, R266). -/
def State.sendLineOpen (s : State) (n : Folio) (partner : BitVec 12) : State :=
  let e := s.ent n
  let p := s.par n
  let m : LineParams := {
    binder := e.binder, size := BitVec.ofNat 32 p.size, external := p.external,
    hop := BitVec.ofNat 13 p.hop, frames := BitVec.ofNat 7 p.frames, lookback := BitVec.ofNat 17 p.lookback,
    channels := BitVec.ofNat 5 p.channels, fs := BitVec.ofNat 18 p.fs, hoop := e.hoop, egress := e.egress,
    base := s.srcBase n }
  let s := s.post partner.toNat 2 (.lineOpen n m)
  s.updFol n (fun f => { f with line := { openAt := some s.now } })

/-- The result of OPEN's checks in order (R38): the result code, and the hoop when all pass. With hoop_auto set and every
hoop that holds the binder draining, no hoop is left to pick and the result is HOOP (DESIGN CHOICE, log entry 69). -/
def State.openCheck (s : State) (n : Folio) : Nat × Nat :=
  let b : BitVec 12 := BitVec.ofNat 12 (s.fld R.FOL_ARG0_binder)
  match s.binder b with
  | none => if (s.ent n).st ≠ .free then (1, 0) else (2, 0)
  | some bd =>
    let p := bd.par
    let named := s.fld R.FOL_ARG0_hoop
    let hoop := if s.bit R.FOL_ARG0_hoop_auto then s.fewest b (s.hoopsFor b)
                else if (s.hoopsFor b).contains named then some named else none
    let page := s.fld R.FOL_ARG1_state_page
    let log2 := s.fld R.FOL_ARG2_ring_log2
    let e : RingE := { base := s.fld R.FOL_ARG2_ring_base, log2 := log2, ch := p.channels, fmt := p.fmt, wr := 0, rd := 0,
                       nextSeq := 0, stampWr := 0, stampRd := 0 }
    let room := if p.external then 2 * p.size else p.size
    if (s.ent n).st ≠ .free then (1, 0)
    else if bd.hoops = [] ∨ bd.swap.isSome then (2, 0)
    else match hoop with
      | none => (3, 0)
      | some h =>
        if page % 4096 ≠ 0 ∨ !inHbm (page % 2 ^ 40) room ∨ e.base % 4096 ≠ 0 ∨ !inHbm e.stampBase e.stampBytes then (4, 0)
        else if log2 < 10 ∨ 24 < log2 ∨ 2 ^ log2 < p.lookback + 4 * p.frames * p.hop then (5, 0)
        else if s.bit R.FOL_ARG0_lined ∧ (s.bit R.TOILE_QUORUM_standalone ∨ !s.routed (s.fld R.FOL_ARG0_partner) 2) then (6, 0)
        else (0, h)

/-- OPEN accepted: the folio enters OPEN with its fields and an empty ring (R35, R38). -/
def State.openAccept (s : State) (n : Folio) (h : Nat) : State :=
  let b : BitVec 12 := BitVec.ofNat 12 (s.fld R.FOL_ARG0_binder)
  let p := s.bpar b
  let lined := s.bit R.FOL_ARG0_lined
  let partner : BitVec 12 := BitVec.ofNat 12 (s.fld R.FOL_ARG0_partner)
  let s := s.updEnt n (fun _ => {
    st := .opening, binder := b, hoop := BitVec.ofNat 4 h, lined := lined, partner := if lined then partner else 0,
    egress := BitVec.ofNat 4 (s.fld R.FOL_ARG0_egress), resetPending := true,
    statePage := BitVec.ofNat 40 (s.fld R.FOL_ARG1_state_page / 4096) })
  let s := { s with fx := SMap.put {} s.fx n.toNat {}, folCmd := some (.opening n) }
  let s := s.setRing n { base := s.fld R.FOL_ARG2_ring_base, log2 := s.fld R.FOL_ARG2_ring_log2, ch := p.channels,
                         fmt := p.fmt, wr := 0, rd := 0, nextSeq := 0, stampWr := 0, stampRd := 0 }
  let s := (s.put R.FOL_STATUS_busy 1).put R.FOL_STATUS_folio n.toNat
  if lined then s.sendLineOpen n partner else s

/-- OPEN (R38). -/
def execFolOpen (p : Port) (n : Folio) (s : State) : Out :=
  .next (s.folOp p n (fun s =>
    match s.openCheck n with
    | (0, h) => s.openAccept n h
    | (r, _) => s.folDone n r))

/-- The initial state and header reach the state page; the folio enters IDLE (R35, R38, R56). -/
def State.openFinish (s : State) (n : Folio) : State :=
  let s := match s.binder (s.ent n).binder with
    | some b => s.writeToile (.fol n) ((s.ent n).statePage.toNat * 4096) (b.initState 0xFFFFFFFF 0)
    | none => s
  { ((s.enterIdle n).folDone n 0) with folCmd := none }

/-- OPEN_COMPLETE (R35, R38). -/
def execOpenComplete (s : State) : Out :=
  .next (s.mainEv (fun s => match s.folCmd with
    | some (.opening n) => s.reading [n] (fun s => s.openFinish n)
    | _ => s))

/-- CLOSE: accepted for IDLE and READY, deferred for ACTIVE, refused otherwise (R35 to R37, R40). -/
def execFolClose (p : Port) (n : Folio) (s : State) : Out :=
  .next (s.folOp p n (fun s =>
    match (s.ent n).st with
    | .idle => (s.enterClosing n).folDone n 0
    | .ready => ((s.enterClosing n).schedStat (s.ent n).hoop.toNat).folDone n 0
    | .active => (s.updEnt n (fun e => { e with closePending := true })).folDone n 0
    | _ => s.folDone n 1))

/-- RESET sets reset_pending for an IDLE, READY or ACTIVE folio (R41). -/
def execFolReset (p : Port) (n : Folio) (s : State) : Out :=
  .next (s.folOp p n (fun s =>
    if (s.ent n).st = .idle ∨ (s.ent n).st = .ready ∨ (s.ent n).st = .active then
      (s.updEnt n (fun e => { e with resetPending := true })).folDone n 0
    else s.folDone n 1))

/-- MOVE changes the hoop at once, after the swap-out of a resident folio, or at the end of the release of an ACTIVE one
(R41, R344). -/
def execFolMove (p : Port) (n : Folio) (s : State) : Out :=
  .next (s.folOp p n (fun s =>
    let h : BitVec 4 := BitVec.ofNat 4 (s.fld R.FOL_ARG0_hoop)
    let e := s.ent n
    if e.st ≠ .idle ∧ e.st ≠ .ready ∧ e.st ≠ .active then s.folDone n 1
    else if !(s.hoopsFor e.binder).contains h.toNat then s.folDone n 3
    else if e.st = .active then (s.updFol n (fun f => { f with moveTo := some h })).folDone n 0
    else if e.resident then
      (({ s with folCmd := some (.moving n h) }).put R.FOL_STATUS_busy 1).put R.FOL_STATUS_folio n.toNat
    else (s.rehome n h).folDone n 0))

/-- A MOVE whose folio is swapped out changes the hoop, and ends; a hoop that drains by now passes the folio on (R41, R344). -/
def State.moveFinish (s : State) (n : Folio) (h : BitVec 4) : State :=
  { ((((s.rehome n h).drainFolio n).drainStat h.toNat).folDone n 0) with folCmd := none }

/-- STATE_SWAP_OUT: the committed copy is written back if changed and its space freed; a MOVE that waits for it then
changes the hoop (R41, R54). It is for a folio that no section holds. -/
def execStateSwapOut (n : Folio) (s : State) : Out :=
  .next (s.mainEv (fun s =>
    if (s.ent n).st = .idle ∨ (s.ent n).st = .ready then
      s.reading [n] (fun s => match s.folCmd with
        | some (.moving m h) => if m = n then s.moveFinish n h else s.swapOut n
        | _ => s.swapOut n)
    else s))

/-! ### Release (R14, R52, R62, R63) -/

/-- An egress ring is usable and has room for n records (R63). -/
def State.egressRoom (s : State) (r n : Nat) : Bool :=
  let log2 := s.fld R.FOL_EGR_BASE_log2 r
  ringUsable (s.fld R.FOL_EGR_BASE_base r) log2 8 24 (s.bit R.FOL_EGR_BASE_enable r)
    && decide (since (s.fld R.FOL_EGR_WR_index r) (s.fld R.FOL_EGR_RD_index r) + n ≤ 2 ^ log2)

/-- Write records to an egress ring and advance its write index once (R63). -/
def State.egressWrite (s : State) (r : Nat) (recs : List (BitVec 128)) : State :=
  let wr := s.fld R.FOL_EGR_WR_index r
  let occ := since wr (s.fld R.FOL_EGR_RD_index r)
  let size := 2 ^ s.fld R.FOL_EGR_BASE_log2 r
  let s := (List.zip (List.range recs.length) recs).foldl (fun s x =>
    s.hwWrite (s.fld R.FOL_EGR_BASE_base r + 16 * ((wr + x.1) % size)) (toLE 16 x.2.toNat)) s
  let s := s.put R.FOL_EGR_WR_index (wr + recs.length) r
  if occ = 0 ∧ recs ≠ [] ∧ s.bit R.FOL_EGR_BASE_irq r then s.irq (.egress r) else s

/-- Set bits of the flags field of a token record (Table 2-10). -/
def orFlags (r : BitVec 128) (f : BitVec 22) : BitVec 128 := r ||| (f.setWidth 128 <<< 106)

/-- The folio heads the releases bound for its ring (R63). -/
def State.nextRelease (s : State) (n : Folio) : Bool :=
  (s.releases.find? (fun m => (s.ent m).egress == (s.ent n).egress)) == some n

/-- The release that heads the folio's ring waits already, so that those behind it wait too (R63). -/
def State.behindStalled (s : State) (n : Folio) : Bool :=
  match s.releases.find? (fun m => (s.ent m).egress == (s.ent n).egress) with
  | some m => s.releases.contains n && ((s.fol m).flight.map (·.stalled)).getD false
  | none => false

/-- A gathering's release (R14, R52, R63): records, late flag and event, then the folio's boundary. -/
def State.release (s : State) (n : Folio) (f : Flight) : State :=
  let e := s.ent n
  let h := e.hoop.toNat
  let late := decide (f.deadline < s.now)
  let fl : BitVec 22 := f.flags ||| (if late then 1 else 0) ||| (if f.linedOk then 4 else 0)
  let s := s.egressWrite e.egress.toNat (f.recs.map (fun r => orFlags r fl))
  let s := if late then
      (s.event 0x03 1 h n.toNat (min ((s.now - f.deadline) / 1000) 0xFFFFFF)).count R.HOOP_LATE_count 1 h
    else s
  let s := if f.linedOk ∧ e.lined then s.post e.partner.toNat 2 (.lineRel n f.seq) else s
  let s := { s with releases := s.releases.filter (· ≠ n) }
  let s := s.updEnt n (fun e => { e with retries := 0 })
  (s.updFol n (fun x => { x with flight := none })).boundary n

/-- GATHERING_RELEASE: stage 11 of the gathering a folio has eligible, in order of its ring; a release that waits, for
room or behind one that does, counts once (R14, R15, R63). -/
def execGatheringRelease (n : Folio) (s : State) : Out :=
  .next (s.mainEv (fun s =>
    match (s.fol n).flight with
    | none => s
    | some f =>
      if s.fenced ∨ (!s.nextRelease n && !s.behindStalled n) then s
      else if s.nextRelease n && s.egressRoom (s.ent n).egress.toNat f.recs.length then s.reading [n] (fun s => s.release n f)
      else if f.stalled then s
      else (s.count R.FOL_EGR_STALL_count 1 (s.ent n).egress.toNat).updFol n
        (fun x => { x with flight := some { f with stalled := true } })))

/-! ### Closing (R40, R64, R240, R269) -/

/-- The end-of-stream record of a folio (R62, R64). -/
def eosRecord (n : Folio) (b : BitVec 12) (seq : Nat) : BitVec 128 :=
  orFlags (BitVec.ofNat 128 (n.toNat + b.toNat * 2 ^ 20 + seq % 2 ^ 32 * 2 ^ 32 + 0xFFFFF * 2 ^ 70)) 8

/-- A REPARTNER ends with a result (R268). -/
def State.repartDone (s : State) (n : Folio) (result : Nat) : State :=
  if s.repart = some n then
    let s : State := { s with repart := none }
    (s.put R.TOILE_CMD_STATUS_busy 0).put R.TOILE_CMD_STATUS_result result
  else s

/-- The folio enters FREE (R35, R40); a REPARTNER of it that runs ends with STATE (DEDUCED, log entry 36). -/
def State.freeFolio (s : State) (n : Folio) : State :=
  let s := s.repartDone n 1
  { s with dir := SMap.put {} s.dir n.toNat {}, fx := SMap.put {} s.fx n.toNat {},
           releases := s.releases.filter (· ≠ n) }

/-- A closing folio ends: its end-of-stream record, the close to its partner, FREE (R40, R64, R269). -/
def State.closeEnd (s : State) (n : Folio) : State :=
  let e := s.ent n
  let s := s.ringRead n
  let seq := (s.ring n).nextSeq
  let s := s.egressWrite e.egress.toNat [eosRecord n e.binder seq]
  let s := if e.lined ∨ (s.fol n).line.setLined ∨ (s.fol n).line.openAt.isSome then
      s.post e.partner.toNat 2 (.lineClose n (BitVec.ofNat 32 (seq + 2 ^ 32 - 1)))
    else s
  let s := (s.freeFolio n).swapUnload e.binder
  (s.schedStat e.hoop.toNat).drainStat e.hoop.toNat

/-- FOLIO_CLOSE_COMPLETE: the end-of-stream record once its ring has room, the close to the partner, FREE (R40, R64,
R269). The record's wait is no release's, and FOL_EGRn_STALL does not count it (DESIGN CHOICE, log entry 69). -/
def execFolioCloseComplete (n : Folio) (s : State) : Out :=
  .next (s.mainEv (fun s =>
    if (s.ent n).st ≠ .closing ∨ !s.egressRoom (s.ent n).egress.toNat 1 then s
    else s.reading [n] (fun s => s.closeEnd n)))

end Sys2Proof.Machine
end

