-- ==== Sys2Proof/Machine/Shadow.lean ====
section
/-! DEFINITION. Lining: the home's side of a lined folio, the partner's shadow table, slots and shadows, and the LINE
commands (R14, R264 to R269, R316). -/
namespace Sys2Proof.Machine

/-! ### The shadow table (Table 10-9) -/

/-- A shadow table entry. -/
structure ShEnt where
  homeFolio : Nat
  valid : Bool
  stale : Bool
  home : Nat
  binder : Nat
  lastSeq : Nat
  relSeq : Nat
  nextFirst : Nat
  egress : Nat
  hoop : Nat
  slot : Nat
  hop : Nat
  frames : Nat
  channels : Nat
  lookback : Nat
  fs : Nat
  size : Nat
  external : Bool
deriving DecidableEq, Repr

/-- A shadow entry from the 512 bits of its 64 bytes; the parameters stand at bytes 32 to 48 in the widths of Table 9-8
(DESIGN CHOICE, log entry 41). -/
def shEnt (v : Nat) : ShEnt :=
  { homeFolio := bits v 0 20, valid := v.testBit 20, stale := v.testBit 21, home := bits v 32 12, binder := bits v 48 12,
    lastSeq := bits v 64 32, relSeq := bits v 96 32, nextFirst := bits v 128 32, egress := bits v 160 4,
    hoop := bits v 164 4, slot := bits v 192 40, hop := bits v 256 16, frames := bits v 272 8, channels := bits v 280 8,
    lookback := bits v 288 32, fs := bits v 320 32, size := bits v 352 32, external := v.testBit 384 }

/-- The 512 bits of a shadow entry. -/
def ShEnt.num (e : ShEnt) : Nat :=
  e.homeFolio % 2 ^ 20 + e.valid.toNat * 2 ^ 20 + e.stale.toNat * 2 ^ 21 + e.home % 2 ^ 12 * 2 ^ 32
    + e.binder % 2 ^ 12 * 2 ^ 48 + e.lastSeq % 2 ^ 32 * 2 ^ 64 + e.relSeq % 2 ^ 32 * 2 ^ 96
    + e.nextFirst % 2 ^ 32 * 2 ^ 128 + e.egress % 16 * 2 ^ 160 + e.hoop % 16 * 2 ^ 164 + e.slot % 2 ^ 40 * 2 ^ 192
    + e.hop % 2 ^ 16 * 2 ^ 256 + e.frames % 256 * 2 ^ 272 + e.channels % 256 * 2 ^ 280 + e.lookback % 2 ^ 32 * 2 ^ 288
    + e.fs % 2 ^ 32 * 2 ^ 320 + e.size % 2 ^ 32 * 2 ^ 352 + e.external.toNat * 2 ^ 384

/-- Shadows that the device may hold: the length of its shadow range. -/
def State.shadowCount (s : State) : Nat := s.fld R.TOILE_LINE_CFG_shadow_count

/-- Address of shadow entry i. -/
def State.shAddr (s : State) (i : Nat) : Nat := s.fld R.TOILE_SHADOW_base + 64 * i

/-- Shadow entry i. -/
def State.sh (s : State) (i : Nat) : ShEnt := shEnt (s.hwN (s.shAddr i) 64)

/-- Write shadow entry i. -/
def State.setSh (s : State) (i : Nat) (e : ShEnt) : State := s.writeLocal (s.shAddr i) (toLE 64 e.num)

/-- The reserved folio number of shadow i. -/
def State.shFolio (s : State) (i : Nat) : Folio := BitVec.ofNat 20 (s.fld R.TOILE_LINE_CFG_shadow_first + i)

/-- Entry i describes a shadow: it is valid, and its line can be read (DESIGN CHOICE, log entry 90). -/
def State.shLive (s : State) (i : Nat) : Bool := s.linesOk (s.shAddr i) 64 && (s.sh i).valid

/-- Valid shadows in ascending index. -/
def State.shadows (s : State) : List Nat := (List.range s.shadowCount).filter s.shLive

/-- The checks that a search of the shadow table makes, on each line of it that is not sound (R216). -/
def State.readShadows (s : State) : State :=
  ((s.hbmErr.map (·.1)).filter (fun l => decide (s.fld R.TOILE_SHADOW_base ≤ l * 64) &&
    decide (l * 64 < s.fld R.TOILE_SHADOW_base + 64 * s.shadowCount))).foldl (fun s l => s.checkLine l) s

/-- The shadow of a home's folio. -/
def State.shadowOf (s : State) (home : Nat) (n : Folio) : Option Nat :=
  s.shadows.find? (fun i => (s.sh i).home == home && (s.sh i).homeFolio == n.toNat)

/-- A folio number that a valid shadow reserves (R266). -/
def State.reservedFolio (s : State) (n : Folio) : Option Nat := s.shadows.find? (fun i => s.shFolio i == n)

/-- Free a shadow: its entry, its slot and its folio number; its memory is not cleared (R269). -/
def State.freeShadow (s : State) (i : Nat) : State :=
  let n := s.shFolio i
  ({ s with shBase := s.shBase.filter (fun p => p.1 ≠ n.toNat) } : State).setSh i { s.sh i with valid := false }

/-- The pool's slot at an address holds the state of a folio that a shadow became (R274): its page lies there. -/
def State.slotTaken (s : State) (a size : Nat) : Bool :=
  s.dir.any (fun d => d.2.st != .free && (match s.locate (d.2.statePage.toNat * 4096) with
    | .here o => decide (a ≤ o) && decide (o < a + size)
    | .there _ _ => false))

/-- A free slot of the pool for a state, the lowest (R266). -/
def State.freeSlot (s : State) (need : Nat) : Option Nat :=
  let log2 := s.fld R.TOILE_POOL_slot_log2
  let base := s.fld R.TOILE_POOL_base
  if log2 < 12 ∨ 24 < log2 ∨ 2 ^ log2 < need then none
  else
    let used := s.shadows.map (fun i => (s.sh i).slot)
    ((List.range (min (s.fld R.TOILE_POOL_slots) (used.length + s.dir.length + 1))).map (fun k => base + k * 2 ^ log2)).find?
      (fun a => !used.contains a && !s.slotTaken a (2 ^ log2) && decide (a + 2 ^ log2 ≤ hbmSize))

/-- A FREE and unreserved folio of the shadow range with room in the table: the lowest index (R266). -/
def State.freeShadowIndex (s : State) : Option Nat :=
  if s.fld R.TOILE_SHADOW_base % 4096 ≠ 0 then none
  else (List.range s.shadowCount).find? (fun i =>
    !s.shLive i && decide ((s.ent (s.shFolio i)).st = .free) && decide (s.shAddr i + 64 ≤ hbmSize))

/-- The entry of a shadow that LINE.OPEN describes, stale until a FULL (R266). -/
def shadowEntry (d : Nat) (n : Folio) (m : LineParams) (slot : Nat) : ShEnt :=
  { homeFolio := n.toNat, valid := true, stale := true, home := d, binder := m.binder.toNat, lastSeq := 2 ^ 32 - 1,
    relSeq := 2 ^ 32 - 1, nextFirst := 0, egress := m.egress.toNat, hoop := m.hoop.toNat, slot := slot,
    hop := m.hop.toNat, frames := m.frames.toNat, channels := m.channels.toNat, lookback := m.lookback.toNat,
    fs := m.fs.toNat, size := m.size.toNat, external := m.external }

/-- The shadow ring of a reserved folio number begins at index 0, as a folio's does at OPEN (DEDUCED, log entry 40). -/
def State.clearRing (s : State) (n : Folio) : State :=
  s.setRing n { s.ring n with wr := 0, rd := 0, nextSeq := 0, stampWr := 0, stampRd := 0 }

/-- A shadow is set up at index i, with the source base of its home (R266, R316). -/
def State.openShadow (s : State) (i : Nat) (e : ShEnt) (base : Option SrcBase) : State :=
  let k := (s.shFolio i).toNat
  { (s.clearRing (s.shFolio i)).setSh i e with
    shBase := s.shBase.filter (fun p => p.1 ≠ k) ++ (base.map (fun b => (k, b, []))).toList,
    fx := SMap.upd {} s.fx k (fun f => { f with written := 0 }) }

/-- A shadow that an earlier LINE.OPEN of the same folio set up is freed. -/
def State.dropOldShadow (s : State) (d : Nat) (n : Folio) : State :=
  match s.shadowOf d n with
  | some i => s.freeShadow i
  | none => s

/-- LINE.OPEN at the partner, and its answer: it reserves a folio number, an entry and a slot, or refuses (R266, R278). -/
def State.lineOpened (s : State) (d : Nat) (n : Folio) (m : LineParams) : State × LineResult :=
  let s := s.readShadows.dropOldShadow d n
  if s.standalone then (s, .noRoom)
  else match s.freeShadowIndex, s.freeSlot (if m.external then 2 * m.size.toNat else m.size.toNat) with
    | some i, some slot => (s.openShadow i (shadowEntry d n m slot) m.base, .ack)
    | _, _ => (s, .noRoom)

/-! ### Deltas at the partner (R265, R267) -/

/-- Mark a shadow stale. -/
def State.markStale (s : State) (i : Nat) : State := s.setSh i { s.sh i with stale := true }

/-- The shadow takes a new state: last_seq, next_first and the shadow ring's rd_index (R267). -/
def State.lineTake (s : State) (i seq next : Nat) (new : List Byte) : State :=
  let e := s.sh i
  let s := (s.writeLocal e.slot new).setSh i { e with lastSeq := seq, nextFirst := next, stale := false }
  let n := s.shFolio i
  s.setRing n { s.ring n with rd := next }

/-- A DELTA or FULL at the partner, and its answer (R265, R267). -/
def State.lineApply (s : State) (d : Nat) (n : Folio) (seq next : Nat) (crc : BitVec 32) (full : Bool) (dat : List Byte) :
    State × LineResult :=
  let s := s.readShadows
  match s.shadowOf d n with
  | none => (s, .stale)
  | some i =>
    let e := s.sh i
    if e.lastSeq = seq ∧ !e.stale then (s, .ack)
    else if !full && decide (seq ≠ (e.lastSeq + 1) % 2 ^ 32) then (s.markStale i, .seq)
    else if !full && e.stale then (s, .stale)
    else
      let copy := if full then some [] else match s.readLocal e.slot e.size with | .bytes l => some l | _ => none
      match copy with
      | none => ((s.checkLocal e.slot e.size).markStale i, .stale)
      | some c =>
        let new := if full then padTo e.size dat else applyDelta c dat
        if crc32c new = crc then (s.lineTake i seq next new, .ack) else (s.markStale i, .stale)

/-- LINE.REL at the partner (R268). -/
def State.lineReleased (s : State) (d : Nat) (n : Folio) (seq : BitVec 32) : State :=
  let s := s.readShadows
  match s.shadowOf d n with
  | some i => s.setSh i { s.sh i with relSeq := seq.toNat }
  | none => s

/-- LINE.CLOSE at the partner (R269): the last seq it carries changes nothing. -/
def State.lineClosed (s : State) (d : Nat) (n : Folio) : State :=
  let s := s.readShadows
  match s.shadowOf d n with
  | some i => s.freeShadow i
  | none => s

/-- The index a base update names lies in a block already written, whose stamp entry then takes the reset mark, or in the
block held to be merged (R316). -/
def State.markBehind (s : State) (n : Folio) (i : Nat) : State :=
  let e := s.ring n
  let holds (first count : Nat) : Bool := decide (0 ≤ sdiff i first) && decide (sdiff i first < count)
  if sdiff i e.wr < 0 then
    match (List.range (2 ^ (e.log2 - 4))).find? (fun k =>
        let t := s.stamp e (e.stampWr + 2 ^ 32 - 1 - k)
        holds t.first.toNat t.count.toNat) with
    | some k =>
      let j := e.stampWr + 2 ^ 32 - 1 - k
      s.hwWrite (e.stampAt j) (toLE 16 (stampNum { s.stamp e j with resetMark := true }))
    | none => s
  else
    s.updFol n (fun x => { x with merge := x.merge.map (fun m =>
      { m with resetMark := m.resetMark || holds e.wr m.count }) })

/-- A base update reaches the shadow flow bound to a reserved folio; with none bound it is kept for one bound later, with the
index it names (R316). -/
def State.baseUpdate (s : State) (n : Folio) (b : SrcBase) : State :=
  let bound := s.flows.filter (fun p => p.2.bound ∧ p.2.shadow ∧ p.2.folio = n)
  let kept := (s.shBase.filter (fun p => p.1 = n.toNat)).flatMap (fun p => p.2.2)
  let marks := if bound.isEmpty then kept ++ [b.anchorI] else []
  let s : State := { s with shBase := s.shBase.filter (fun p => p.1 ≠ n.toNat) ++ [(n.toNat, b, marks)] }
  bound.foldl (fun (s : State) p => s.updFlow p.1 (fun f => f.takeBase (s.flowPos n) b [b.anchorI]))
    (s.markBehind n b.anchorI.toNat)

/-- LINE.AUDIO at the partner: a stamp entry and its samples go to the shadow ring under their home indices; one with count 0
and reset_mark is a base update (R266, R267, R316). -/
def State.lineAudioIn (s : State) (d : Nat) (n : Folio) (st : StampEntry) (ssrc ts : BitVec 32) (dat : List Byte) : State :=
  let s := s.readShadows
  match s.shadowOf d n with
  | none => s
  | some i =>
    let k := s.shFolio i
    if st.count = 0 then
      if st.resetMark then s.baseUpdate k { ssrc := ssrc, baseTs := ts, anchorI := st.first, anchorT := st.time } else s
    else
      let r := s.shadowBlock k (s.sh i).lookback { time := st.time.toNat, dat := dat, count := st.count.toNat } st
      if r.2 then r.1.markStale i else r.1

/-! ### The home (R14, R266, R268) -/

/-- A gathering that waits for its partner becomes releasable. -/
def State.lineFree (s : State) (n : Folio) (ok : Bool) : State :=
  match (s.fol n).flight with
  | some f =>
    if f.committed ∧ f.waitLine then
      let s := s.updFol n (fun x => { x with flight := some { f with waitLine := false, linedOk := ok } })
      { s with releases := s.releases ++ [n] }
    else s
  | none => s

/-- A transaction about the lining of a folio that its home sends to the partner (Table 10-8). -/
def Txn.lines (t : Txn) (n : Folio) : Bool :=
  match t.body with
  | some (.lineOpen m _) => m == n
  | some (.lineDelta m _ _ _ _) => m == n
  | some (.lineFull m _ _ _ _) => m == n
  | some (.lineRel m _) => m == n
  | some (.lineClose m _) => m == n
  | some (.lineAudio m _ _ _ _) => m == n
  | _ => false

/-- Nothing more goes to a lost partner for a folio: what was sent and not acknowledged is not sent again, and what waits in a
link's queue leaves it, unless some of its flits are sent (R248, R268). As many others of the flow that were held back are
outstanding in their place (R259). -/
def State.lineStop (s : State) (n : Folio) (dev : Nat) : State :=
  let tags := (s.txns.filter (fun t => t.dest.toNat == dev && t.lines n)).map (·.tag)
  let rest := s.txns.filter (fun t => !tags.contains t.tag)
  let next := ((rest.filter (fun t => t.held && t.dest.toNat == dev && t.cls == 2)).map (·.tag)).take tags.length
  { s with txns := rest.map (fun t => if next.contains t.tag then { t with held := false, sentAt := s.now } else t),
           links := s.links.foldl (fun m k => SMap.upd {} m k.1 (fun k => { k with
             queue := k.queue.filter (fun w => w.started || !tags.contains w.tag) })) s.links }

/-- The folio is lined no more: lined clear, a held gathering releasable with lined clear (R266, R268). -/
def State.unline (s : State) (n : Folio) : State :=
  let s := (s.updEnt n (fun e => { e with lined := false })).updFol n (fun f => { f with line := {} })
  (s.lineFree n false).repartDone n 6

/-- The answer to LINE.OPEN (R266, R268). -/
def State.openAnswered (s : State) (n : Folio) (ok : Bool) : State :=
  if !ok then (s.count R.TOILE_LINE_REFUSED_count).unline n
  else
    let set := s.repart == some n
    (s.updFol n (fun f => { f with line := { f.line with openAt := none, setLined := set } })).repartDone n 0

/-- The gathering unacknowledged is answered: an acknowledged one may be released, and sets lined after a REPARTNER; after a
refusal the next commit sends FULL (R14, R265, R268). -/
def State.lineAcked (s : State) (n : Folio) (ok : Bool) : State :=
  let s := if ok ∧ (s.fol n).line.setLined then s.updEnt n (fun e => { e with lined := true }) else s
  (s.updFol n (fun f => { f with line := { f.line with
    unacked := none, needFull := !ok, setLined := f.line.setLined && !ok } })).lineFree n ok

/-- LINE.ACK at the home: the answer to an OPEN, or to the gathering unacknowledged (R14, R265, R268). After a refusal the
home sends FULL at the next commit, and the gathering is released with lined clear. -/
def State.lineAnswer (s : State) (d : Nat) (n : Folio) (seq : BitVec 32) (r : LineResult) : State :=
  let f := s.fol n
  if (s.ent n).st = .free ∨ (s.ent n).partner.toNat ≠ d then s
  else if f.line.openAt.isSome then s.openAnswered n (r == .ack)
  else match f.line.unacked with
    | none => s
    | some (q, _) =>
      if q ≠ seq then s
      else s.lineAcked n (r == .ack)

/-- LINE_OPEN_TIMEOUT (R266). -/
def execLineOpenTimeout (n : Folio) (s : State) : Out :=
  .next (s.mainEv (fun s => match (s.fol n).line.openAt with
    | some t => if t + max 100 (s.fld R.TOILE_CFG_timeout_us) * us ≤ s.now then s.openAnswered n false else s
    | none => s))

/-- A DELTA or FULL goes to the partner again, counted (R268). -/
def State.lineResend (s : State) (n : Folio) (m : Note) : State :=
  ((s.post (s.ent n).partner.toNat 2 m).count R.TOILE_LINE_RESEND_count).updFol n
    (fun f => { f with line := { f.line with sentAt := s.now } })

/-- The folio's gathering has been committed and waits for the partner's acknowledgement (R14, R268). -/
def State.lineWaits (s : State) (n : Folio) : Bool :=
  ((s.fol n).flight.map (fun f => f.committed && f.waitLine)).getD false

/-- DELTA_RESEND: every ack_timeout without an acknowledgement; a fenced device performs no stage 10 (R15, R268). -/
def execDeltaResend (n : Folio) (s : State) : Out :=
  .next (s.mainEv (fun s =>
    let l := (s.fol n).line
    match l.unacked with
    | none => s
    | some (seq, next, full, c, dat) =>
      if s.fenced ∨ !s.lineWaits n ∨ s.now < l.sentAt + max 100 (s.fld R.TOILE_LINE_CFG_ack_timeout_us) * us then s
      else s.lineResend n (if full then .lineFull n seq next c dat else .lineDelta n seq next c dat)))

/-- The frame of TOILE_CMD: discarded while a command runs. -/
def State.toileCmd (s : State) (p : Port) (eff : State → State) : State :=
  s.regCmd p (R.TOILE_CMD_op.addr 0 0) (fun s => if s.bit R.TOILE_CMD_STATUS_busy then s else eff s)

/-- A folio takes a new partner, and opens its shadow there (R268). -/
def State.repartStart (s : State) (n : Folio) (dev : DevNum) : State :=
  let s := (s.updEnt n (fun e => { e with lined := false, partner := dev })).put R.TOILE_CMD_STATUS_busy 1
  ({ s with repart := some n } : State).sendLineOpen n dev

/-- REPARTNER: a new partner for an IDLE or READY folio, opened with LINE.OPEN (R268, R278). -/
def execRepartner (p : Port) (n : Folio) (dev : DevNum) (s : State) : Out :=
  .next (s.toileCmd p (fun s =>
    let st := (s.ent n).st
    if st ≠ .idle ∧ st ≠ .ready then s.put R.TOILE_CMD_STATUS_result 1
    else if s.standalone ∨ !s.routed dev.toNat 2 then s.put R.TOILE_CMD_STATUS_result 6
    else s.repartStart n dev))

end Sys2Proof.Machine
end

