-- ==== Sys2Proof/Machine/PortWire.lean ====
section
/-! DEFINITION. What the pins of a serial audio port carry: slots and words, PDM bits through the decimators, and IEC 60958
subframes (R281 to R287). -/
namespace Sys2Proof.Machine

/-! ### Slots and words (R281, R282) -/

/-- The format of a port's lines (Table 11-2, SAPp_FMT). -/
structure LineFmt where
  mode : Nat
  slots : Nat
  slotBits : Nat
  wordBits : Nat
  delay : Nat
  long : Bool
  bclkInv : Bool
  fsyncInv : Bool
deriving DecidableEq, Repr

/-- FSYNC in BCLK period i of a frame: low for slot 0 of I2S, high for slot 0 left-justified, a pulse of one period or of one
slot in TDM; fsync_inv inverts it (R281). -/
def LineFmt.fsync (f : LineFmt) (i : Nat) : Bool :=
  f.fsyncInv ^^ (match f.mode with
    | 1 => decide (f.slotBits ≤ i)
    | 2 => decide (i < f.slotBits)
    | _ => decide (i < if f.long then f.slotBits else 1))

/-- FSYNC over a frame. -/
def LineFmt.syncLevels (f : LineFmt) : List Bool := (List.range (f.slots * f.slotBits)).map f.fsync

/-- The period in which FSYNC takes a level that it did not have before: a slave port's frame begins there (DEDUCED, log entry
85). -/
def edgeTo (lvl : Bool) : List Bool → Option Nat
  | a :: b :: l => if a != lvl && b == lvl then some 1 else (edgeTo lvl (b :: l)).map (· + 1)
  | _ => none

/-- A word of n bits, the first most significant, left-justified with the lower bits zero (R282). -/
def wordOf (n : Nat) (l : List Bool) : BitVec 32 :=
  BitVec.ofNat 32 ((List.range n).foldl (fun v i => 2 * v + (l.getD i false).toNat) 0 * 2 ^ (32 - n))

/-- The words of a line whose frame begins in a BCLK period, taken at the capturing edges (R282). -/
def LineFmt.words (f : LineFmt) (first : Nat) (l : LineLevels) : List (BitVec 32) :=
  let b := (l.drop (first + f.delay)).map (fun x => if f.bclkInv then x.2 else x.1)
  (List.range f.slots).map (fun k => wordOf f.wordBits (b.drop (k * f.slotBits)))

/-- The bits of a line that sends words: word_bits of each from its slot's first bit, and zero after them (R282). -/
def LineFmt.levels (f : LineFmt) (ws : List (BitVec 32)) : List Bool :=
  ws.flatMap (fun w => (List.range f.slotBits).map (fun i => decide (i < f.wordBits) && w.getLsbD (31 - i)))

/-! ### PDM decimation (R283, R284) -/

/-- The product of two polynomials, coefficients from the lowest. -/
def polyMul : List Int → List Int → List Int
  | [], _ => []
  | a :: l, b =>
    let t := 0 :: polyMul l b
    (List.range (max b.length t.length)).map (fun i => a * b.getD i 0 + t.getD i 0)

/-- A filter as its inputs at n times the rate see it: n - 1 zeros between taps. -/
def atRate (n : Nat) (l : List Int) : List Int :=
  ((l.map (fun x => x :: List.replicate (n - 1) 0)).flatten).take (n * l.length - (n - 1))

/-- The CIC stage of ratio R: fifth order, differential delay 1; its gain at DC is R^5. -/
def cicTaps (R : Nat) : List Int :=
  let b := List.replicate R 1
  polyMul b (polyMul b (polyMul b (polyMul b b)))

/-- A free tap of a symmetric filter, in units of 2^-24: Table 11-3 gives no coefficients (log entry 84). -/
def freeTap (R stage d : Nat) : Int := (Config.pdmTap R stage d).toInt

/-- A half-band filter of n taps: one half at the centre, nothing at even distances, and unit gain at DC. -/
def halfBand (R stage n : Nat) : List Int :=
  let c := n / 2
  let near : Int := 2 ^ 22 - ((List.range c).map (fun d => if d % 2 = 0 ∧ 0 < d then freeTap R stage (d + 1) else 0)).sum
  (List.range n).map (fun i =>
    let d := max i c - min i c
    if d = 0 then 2 ^ 23 else if d % 2 = 0 then 0 else if d = 1 then near else freeTap R stage d)

/-- The compensation filter of n taps, of unit gain at DC. -/
def compTaps (R n : Nat) : List Int :=
  let c := n / 2
  let centre : Int := 2 ^ 24 - 2 * ((List.range c).map (fun d => freeTap R 2 (d + 1))).sum
  (List.range n).map (fun i => if i = c then centre else freeTap R 2 (max i c - min i c))

/-- The two half-bands and the compensation as one filter of the CIC's outputs: 379 symmetric taps, in units of 2^-72, so that
the group delay is 47.25 frames (Table 11-3). -/
def chainTaps (R : Nat) : List Int :=
  polyMul (atRate 4 (compTaps R 33)) (polyMul (atRate 2 (halfBand R 1 115)) (halfBand R 0 23))

/-- The response of a symmetric filter at n/d cycles per input, in fixed point times the unit of its taps. -/
def response (l : List Int) (n d : Nat) : Int :=
  (l.zipIdx.map (fun t => t.1 * fxCos (fxPi * ((2 * t.2 : Nat) - (l.length : Int) + 1) * n / d))).sum

/-- The response of the whole chain at n/d times fs. -/
def chainGain (R n d : Nat) : Int := response (chainTaps R) n (4 * d) * response (cicTaps R) n (4 * R * d) / fxOne

/-- The chain's response at DC. -/
def chainUnit (R : Nat) : Int := 2 ^ 72 * (R : Int) ^ 5 * fxOne

/-- What R284 says of the free taps, for claims that rest on it: flat within 0.05 dB from 0 to 0.45 fs. -/
def PdmFlat (R : Nat) : Prop :=
  ∀ n d : Nat, 0 < d → 20 * n ≤ 9 * d →
    994260 * chainUnit R ≤ 1000000 * chainGain R n d ∧ 1000000 * chainGain R n d ≤ 1005774 * chainUnit R

/-- And at least 90 dB down from 0.55 fs to 2 fs, the band that the stages behind the CIC see. Above it Table 11-3's CIC alone
leaves 86 to 89.7 dB at 3.55 fs beside 0.45 fs, whatever the taps, so that no chain meets R284 there (log entry 84). -/
def PdmStop (R : Nat) : Prop :=
  ∀ n d : Nat, 0 < d → 11 * d ≤ 20 * n → n ≤ 2 * d → 31622 * (chainGain R n d).natAbs ≤ (chainUnit R).natAbs

/-- A bit of a decimator's CIC, one from before its clock began being free. -/
def Mic.bit (m : Mic) (seed i : Nat) : Bool := m.bits.getD i ((Config.freeValue (seed + 512 + i)).getLsbD 0)

/-- An output of a decimator's CIC, one from before its clock began being free (log entry 84). -/
def Mic.cicAt (m : Mic) (R seed i : Nat) : Int :=
  m.cic.getD i ((Config.freeValue (seed + i)).toNat % (2 * R ^ 5 + 1) - R ^ 5)

/-- A decimator takes R bits: its CIC gives one output. -/
def Mic.push (m : Mic) (R seed : Nat) (l : List Bool) : Mic :=
  let m := { m with bits := (l.reverse ++ m.bits).take (5 * R) }
  let y := ((cicTaps R).zipIdx.map (fun t => if m.bit seed t.2 then t.1 else -t.1)).sum
  { m with cic := (y :: m.cic).take 379 }

/-- A decimator's output as a 24-bit sample in bits [31:8]: a density d of ones gives (2d - 1) * 2^23 at DC, saturated;
the rounding is free (log entry 84). -/
def Mic.sample (m : Mic) (R seed : Nat) : BitVec 32 :=
  let num := ((chainTaps R).zipIdx.map (fun t => t.1 * m.cicAt R seed t.2)).sum
  let den : Nat := 2 ^ 49 * R ^ 5
  let v := num / (den : Int) + if num % (den : Int) ≠ 0 ∧ Config.pdmUp num den then 1 else 0
  BitVec.ofInt 32 (max (-(2 ^ 23)) (min (2 ^ 23 - 1) v) * 256)

/-- A decimator takes the bits of a frame, 4R of them. -/
def Mic.frame (m : Mic) (R seed : Nat) (l : List Bool) : Mic :=
  (List.range 4).foldl (fun (m : Mic) q => m.push R seed ((l.drop (q * R)).take R)) m

/-- The bits of slot k of a PDM line: the rising edge's for slot 0, the falling edge's for slot 1, swapped by pdm_swap. -/
def pdmBits (swap : Bool) (k : Nat) (l : LineLevels) : List Bool :=
  l.map (fun x => if (k == 0) != swap then x.1 else x.2)

/-! ### IEC 60958 and AES3 (R285 to R287) -/

/-- A subframe's sample in bits [31:8]; its bit V and a wrong parity of time slots 4 to 31 mark it invalid (R285). -/
def SubFrame.sample (f : SubFrame) : BitVec 32 × Bool :=
  (f.slots.setWidth 24 ++ (0 : BitVec 8),
    !f.slots.getLsbD 24 && (List.range 28).countP (fun i => f.slots.getLsbD i) % 2 == 0)

/-- A subframe that the device sends: bits [31:8] of the word, V, U = 0, C and the parity P (R287). -/
def subFrame (start : Bool) (w : BitVec 32) (valid c : Bool) : SubFrame :=
  let b : BitVec 27 := BitVec.ofBool c ++ ((0 : BitVec 1) ++ (BitVec.ofBool (!valid) ++ w.extractLsb' 8 24))
  { start := start, slots := BitVec.ofBool ((List.range 27).countP (fun i => b.getLsbD i) % 2 == 1) ++ b }

/-- Bits of a channel-status block as bytes, the first bit as bit 0 of byte 0. -/
def csBytes (l : List Bool) : List Byte :=
  (List.range 24).map (fun j => BitVec.ofNat 8 ((List.range 8).foldl (fun v i => v + (l.getD (8 * j + i) false).toNat * 2 ^ i) 0))

/-- Bit n of a channel-status block. -/
def csBit (l : List Byte) (n : Nat) : Bool := (l.getD (n / 8) 0).getLsbD (n % 8)

end Sys2Proof.Machine
end

