-- ==== Sys2Proof/Machine/Audio.lean ====
section
/-! DEFINITION. The serial audio ports: ports, alignment groups, blocks, bindings, gains and routes, output streams (R280
to R305, R307). -/
namespace Sys2Proof.Machine

/-! ### Parts of the state -/

def State.sap (s : State) (a : Nat) : Sap := SMap.get {} s.saps a
def State.updSap (s : State) (a : Nat) (f : Sap → Sap) : State := { s with saps := SMap.upd {} s.saps a f }
def State.agrp (s : State) (k : Nat) : AGrp := SMap.get {} s.agrps k
def State.updAgrp (s : State) (k : Nat) (f : AGrp → AGrp) : State := { s with agrps := SMap.upd {} s.agrps k f }
def State.chan (s : State) (c : Nat) : Chan := SMap.get {} s.chans c
def State.updChan (s : State) (c : Nat) (f : Chan → Chan) : State := { s with chans := SMap.upd {} s.chans c f }
def State.outMode (s : State) (o : Nat) : OutMode := SMap.get .silent s.outs o
def State.setOut (s : State) (o : Nat) (m : OutMode) : State := { s with outs := SMap.put .silent s.outs o m }

/-- A port is ready: until then it starts no data transfer (R27, Table 14-11). -/
def State.sapUsable (s : State) (a : Nat) : Bool := (s.fld R.COLO_READY0_ready).testBit (8 + a)

/-- A port's state (SAPp_STAT): 0 OFF, 1 LEAD, 2 RUN, 3 TAIL, 4 LOST, 5 RELOCK, 6 RATE_STOP. -/
def State.sapState (s : State) (a : Nat) : Nat := s.fld R.SAP_STAT_state a
def State.setSap (s : State) (a v : Nat) : State := s.put R.SAP_STAT_state v a
/-- A group's state: 0 idle, 1 armed, 2 running. -/
def State.grpState (s : State) (k : Nat) : Nat := s.fld R.AUD_GRP_STAT_state k
/-- The group of a port. -/
def State.grpOf (s : State) (a : Nat) : Nat := s.fld R.SAP_CTRL_group a
/-- The mode of a port (Table 11-2). -/
def State.mode (s : State) (a : Nat) : Nat := s.fld R.SAP_FMT_mode a
/-- A port that takes its frames on another's clock (R290). -/
def State.slave (s : State) (a : Nat) : Bool := s.mode a == 5 || !s.bit R.SAP_CLK_master a
/-- Nominal rate of a group. -/
def State.rate (s : State) (k : Nat) : Nat := s.fld R.AUD_GRP_CFG_rate_hz k

/-! ### Clocks (R288, R289, R291) -/

/-- Output of the audio PLL for a family, in Hz. -/
def famHz (f : Nat) : Nat := if f = 0 then 196608000 else 180633600

/-- A group's divider in 65,536ths. -/
def State.grpDiv (s : State) (k : Nat) : Nat := s.fld R.AUD_GRP_CFG_div_n k * 65536 + s.fld R.AUD_GRP_CFG_div_f k
/-- A master port's divider in 65,536ths. -/
def State.sapDiv (s : State) (a : Nat) : Nat := s.fld R.SAP_CLK_div_n a * 65536 + s.fld R.SAP_CLK_div_f a

/-- ns of n frames of a group, rounded down. -/
def State.framesNs (s : State) (k n : Nat) : Nat :=
  n * s.grpDiv k * 1000000000 / (65536 * famHz (s.fld R.AUD_GRP_CFG_family k))

/-- fs_k lies within 1 ppm of rate_hz (R291). -/
def State.rateOk (s : State) (k : Nat) : Bool :=
  let d := s.grpDiv k
  let num := famHz (s.fld R.AUD_GRP_CFG_family k) * 65536
  let want := s.rate k * d
  decide (0 < want) && decide ((max num want - min num want) * 1000000 ≤ want)

/-- Slots of a line in a port's mode (Table 11-2). -/
def State.slots (s : State) (a : Nat) : Nat := if s.mode a = 3 then s.fld R.SAP_FMT_slots a + 1 else 2

/-- Bits of a width code. -/
def widthBits (c : Nat) : Nat := if c = 0 then 16 else if c = 1 then 24 else 32

/-- BCLK periods or biphase cells per frame, where the mode fixes them (Table 11-2); PDM has its own ratio. -/
def State.bpf (s : State) (a : Nat) : Nat :=
  if 5 ≤ s.mode a then 128 else s.slots a * widthBits (s.fld R.SAP_FMT_slot_bits a)

/-! ### Starting and stopping a port (R298, R299) -/

/-- Lines in use that capture, and that output. -/
def State.capLines (s : State) (a : Nat) : Nat := s.fld R.SAP_FMT_line_en a &&& (15 ^^^ s.fld R.SAP_FMT_dir a)
def State.outLines (s : State) (a : Nat) : Nat := s.fld R.SAP_FMT_line_en a &&& s.fld R.SAP_FMT_dir a

/-- Check MODE of R298. -/
def State.modeBad (s : State) (a : Nat) : Bool :=
  let m := s.mode a
  m == 0 || m == 7 || (decide (5 ≤ m) && decide (a < 12)) || (m == 6 && s.capLines a != 0)
    || ((m == 4 || m == 5) && s.outLines a != 0) || s.fld R.SAP_FMT_slot_bits a == 3
    || decide (s.fld R.SAP_FMT_slot_bits a < s.fld R.SAP_FMT_word_bits a)

/-- The group's divider is a whole multiple of a PDM master's. -/
def State.pdmRatio (s : State) (a : Nat) : Nat := if s.sapDiv a = 0 then 0 else s.grpDiv (s.grpOf a) / s.sapDiv a

/-- Check RATIO of R298: the divider and family of a master (R289). -/
def State.ratioBad (s : State) (a : Nat) : Bool :=
  let k := s.grpOf a
  !s.slave a && (s.fld R.SAP_CLK_family a != s.fld R.AUD_GRP_CFG_family k || decide (s.fld R.SAP_CLK_div_n a < 2)
    || (if s.mode a = 4 then s.pdmRatio a * s.sapDiv a != s.grpDiv k else s.sapDiv a * s.bpf a != s.grpDiv k))

/-- Check BCLK of R298: bit clock, PDM clock and IEC rate (R281). -/
def State.bclkBad (s : State) (a : Nat) : Bool :=
  let k := s.grpOf a
  let m := s.mode a
  if m = 4 then
    let num := famHz (s.fld R.SAP_CLK_family a) * 65536
    !s.slave a && (decide (num < 768000 * s.sapDiv a) || decide (4800000 * s.sapDiv a < num))
  else decide (49152000 < s.bpf a * s.rate k) || (decide (5 ≤ m) && (decide (s.rate k < 32000) || decide (192000 < s.rate k)))

/-- Check GROUP of R298: the group is configured within the ranges of its register. -/
def State.groupBad (s : State) (a : Nat) : Bool :=
  let k := s.grpOf a
  decide (s.fld R.AUD_GRP_CFG_div_n k < 32) || decide (s.rate k < 8000) || decide (192000 < s.rate k)

/-- The rate that pdm_rate names. -/
def pdmHz (c : Nat) : Nat := if c = 0 then 16000 else if c = 1 then 24000 else if c = 2 then 48000 else 0

/-- Check PDM of R298: ratio and rate (R283). -/
def State.pdmBad (s : State) (a : Nat) : Bool :=
  let r := s.pdmRatio a
  s.mode a == 4 && (pdmHz (s.fld R.SAP_FMT_pdm_rate a) == 0 || pdmHz (s.fld R.SAP_FMT_pdm_rate a) != s.rate (s.grpOf a)
    || (!s.slave a && (r % 4 != 0 || decide (r < 16) || decide (300 < r))))

/-- The first failure of a start, 0 for none (R298). -/
def State.startErr (s : State) (a : Nat) : Nat :=
  if s.modeBad a then 1 else if s.ratioBad a then 2 else if s.bclkBad a then 3 else if s.groupBad a then 4
  else if s.pdmBad a then 5 else 0

/-- The format of a port's lines (SAPp_FMT). -/
def State.lineFmt (s : State) (a : Nat) : LineFmt :=
  { mode := s.mode a, slots := s.slots a, slotBits := widthBits (s.fld R.SAP_FMT_slot_bits a),
    wordBits := widthBits (s.fld R.SAP_FMT_word_bits a),
    delay := if s.mode a = 1 then 1 else if s.mode a = 3 then s.fld R.SAP_FMT_delay a else 0,
    long := s.bit R.SAP_FMT_fsync_long a, bclkInv := s.bit R.SAP_FMT_bclk_inv a, fsyncInv := s.bit R.SAP_FMT_fsync_inv a }

/-- The CRCC of IEC 60958-4 over bytes, initial value 0xFF, in the order of transmission (R286). -/
def crcc (l : List Byte) : Byte :=
  l.foldl (fun c b => (List.range 8).foldl (fun (c : Byte) _ => if c.getLsbD 0 then (c >>> 1) ^^^ 0xB8 else c >>> 1) (c ^^^ b)) 0xFF

/-- The channel status that a transmitting port sends: byte 23 replaced while tx_crc is 1 (R287). -/
def State.txStatus (s : State) (a : Nat) (f : Fld) : List Byte :=
  let l := (List.range 3).flatMap (fun i => toLE 8 (s.fld f a i))
  if s.bit R.SAP_TX_CFG_tx_crc a then l.take 23 ++ [crcc (l.take 23)] else l

/-- Frames of a group's rate that have begun within some ns. -/
def State.framesIn (s : State) (k ns : Nat) : Nat :=
  ns * 65536 * famHz (s.fld R.AUD_GRP_CFG_family k) / (s.grpDiv k * 1000000000)

/-- An IEC port's lead or tail outside a running group has sent its frames of zero audio with V = 1 (R287, R299). -/
def State.iecSpent (s : State) (a : Nat) : State :=
  let k := s.grpOf a
  if s.mode a = 6 ∧ (s.sapState a = 1 ∨ s.sapState a = 3) ∧ s.grpState k ≠ 2 then
    let n := s.framesIn k (s.now - (s.sap a).leadAt)
    (s.send (.iecRun (Fin.ofNat 16 a) n (s.sap a).txN (s.txStatus a R.SAP_TXCSA_bytes) (s.txStatus a R.SAP_TXCSB_bytes))).updSap a
      (fun x => { x with txN := (x.txN + n) % 192 })
  else s

/-- A port's decimators begin with their clock: what they held before is free (R284). -/
def State.micsBegin (s : State) (a : Nat) : State :=
  ({ s with free := s.free + 8 * 1024 } : State).updSap a (fun x => { x with mics := List.replicate 8 {}, seed := s.free })

/-- A port enters RUN: its next slip and underrun raise their events; the slips since the last SLIP event stay counted, and a
stop that waits for the next frame edge still comes (R295, R297, R299). -/
def State.sapRun (s : State) (a : Nat) : State :=
  (s.setSap a 2).updSap a (fun x => { x with slipAt := none, under := false })

/-- A port enters OFF. -/
def State.sapOff (s : State) (a : Nat) : State :=
  let s := (((s.iecSpent a).setSap a 0).put R.SAP_STAT_pending 0 a).put R.SAP_STAT_fill 0 a
  s.updSap a (fun x => { master := x.master, slips := x.slips, slipDrop := x.slipDrop })

/-- A master port begins its lead, or runs at once without one (R299). -/
def State.sapLead (s : State) (a : Nat) : State :=
  let s := ((s.put R.SAP_STAT_pending 0 a).micsBegin a).updSap a (fun x => { x with leadAt := s.now, master := true, txN := 0 })
  if s.fld R.SAP_LEAD_clk_lead a = 0 then s.sapRun a else s.setSap a 1

/-- A slave or receiving port begins to lock (R293, R299). -/
def State.sapRelock (s : State) (a : Nat) (restarted : Bool) : State :=
  let s := ((s.put R.SAP_STAT_pending 0 a).put R.SAP_STAT_good 0 a).put R.SAP_STAT_fill 0 a
  ((s.setSap a 5).micsBegin a).updSap a (fun x => { x with fifo := [], cs := none, restarted := restarted })

/-- A pending port leaves OFF with its running group, once it is ready (R27, R298). -/
def State.sapGo (s : State) (a : Nat) : State := if !s.sapUsable a then s else if s.slave a then s.sapRelock a false else s.sapLead a

/-- A port ends its data at a frame edge: a master runs its tail, any other is OFF (R299). -/
def State.sapEnd (s : State) (a : Nat) : State :=
  if s.slave a ∨ s.fld R.SAP_LEAD_clk_tail a = 0 then s.sapOff a
  else (s.setSap a 3).updSap a (fun x => { x with leadAt := s.now, stopping := false, fifo := [], last := [] })

/-- The stored fields of SAPp_CTRL. -/
def State.sapCtrl (s : State) (a : Nat) (v : BitVec 64) : State :=
  (s.put R.SAP_CTRL_group (bits v.toNat 3 3) a).put R.SAP_CTRL_detach_stop (bits v.toNat 6 1) a

/-- SAP_START (R298): of an OFF port without a pending start. -/
def execSapStart (p : Port) (a : SapId) (v : BitVec 64) (s : State) : Out :=
  .next (s.regCmd p (R.SAP_CTRL_start.addr a 0) (fun s =>
    let s := s.sapCtrl a v
    if s.sapState a ≠ 0 ∨ s.bit R.SAP_STAT_pending a then s
    else
      let e := s.startErr a
      let s := s.put R.SAP_STAT_err e a
      if e ≠ 0 then s
      else
        let s := s.put R.SAP_STAT_pending 1 a
        if s.grpState (s.grpOf a) = 2 ∧ s.slave a ∧ s.sapUsable a then s.sapRelock a false else s))

/-- A port stops (R299): LEAD and TAIL end at once, data at the next frame edge of a running group. -/
def State.sapStopNow (s : State) (a : Nat) : State :=
  let st := s.sapState a
  if st = 0 ∨ st = 1 ∨ st = 3 then s.sapOff a
  else if s.grpState (s.grpOf a) = 2 then s.updSap a (fun x => { x with stopping := true })
  else s.sapEnd a

/-- SAP_STOP (R299). -/
def execSapStop (p : Port) (a : SapId) (v : BitVec 64) (s : State) : Out :=
  .next (s.regCmd p (R.SAP_CTRL_start.addr a 0) (fun s => (s.sapCtrl a v).sapStopNow a))

/-- SAP_RESTART: from RATE_STOP to RELOCK (R294). -/
def execSapRestart (p : Port) (a : SapId) (v : BitVec 64) (s : State) : Out :=
  .next (s.regCmd p (R.SAP_CTRL_start.addr a 0) (fun s =>
    let s := s.sapCtrl a v
    if s.sapState a = 6 then s.sapRelock a true else s))

/-- LEAD_START: a pending master's lead begins clk_lead frames before T (R299). -/
def execLeadStart (a : SapId) (s : State) : Out :=
  .next (s.mainEv (fun s =>
    let k := s.grpOf a
    if s.bit R.SAP_STAT_pending a ∧ s.sapUsable a ∧ !s.slave a ∧ s.grpState k = 1 ∧ s.fld R.SAP_LEAD_clk_lead a ≠ 0
        ∧ (s.agrp k).start ≤ s.now + s.framesNs k (s.fld R.SAP_LEAD_clk_lead a) then s.sapLead a
    else s))

/-- The decimators of a PDM port take the frames of its lines, each of four times `ratio` periods (R283). -/
def State.micsTake (s : State) (a ratio : Nat) (lines : List LineLevels) : State :=
  let sw := s.bit R.SAP_FMT_pdm_swap a
  s.updSap a (fun x => { x with mics := x.mics.zipIdx.map (fun m =>
    let b := pdmBits sw (m.2 % 2) (lines.getD (m.2 / 2) [])
    (List.range (b.length / (4 * ratio))).foldl (fun (c : Mic) q => c.frame ratio (x.seed + 1024 * m.2) (b.drop (q * (4 * ratio)))) m.1) })

/-- LEAD_END (R299): the port enters RUN; its decimators have taken what its lines carried since the lead began (R284). -/
def execLeadEnd (a : SapId) (heard : List LineLevels) (s : State) : Out :=
  .next (s.mainEv (fun s =>
    if s.sapState a = 1 ∧ (s.sap a).leadAt + s.framesNs (s.grpOf a) (s.fld R.SAP_LEAD_clk_lead a) ≤ s.now then
      ((s.iecSpent a).micsTake a (s.pdmRatio a / 4) heard).sapRun a
    else s))

/-- TAIL_END (R299). -/
def execTailEnd (a : SapId) (s : State) : Out :=
  .next (s.mainEv (fun s =>
    if s.sapState a = 3 ∧ (s.sap a).leadAt + s.framesNs (s.grpOf a) (s.fld R.SAP_LEAD_clk_tail a) ≤ s.now then s.sapOff a else s))

/-! ### Groups (R291, R292) -/

/-- AUD_GRP_START: an idle group is armed, or the write is refused (R291). -/
def execAudGrpStart (p : Port) (k : GrpId) (t : BitVec 64) (s : State) : Out :=
  .next (s.regCmd p (R.AUD_GRP_START_time.addr k 0) (fun s =>
    if s.grpState k ≠ 0 then s
    else
      let late := decide (t.toNat < s.now + 100 * us)
      let s := if late then s.put R.AUD_GRP_STAT_late 1 k else s
      let s := if !s.rateOk k then s.put R.AUD_GRP_STAT_bad_rate 1 k else s
      if late ∨ !s.rateOk k then s
      else (s.put R.AUD_GRP_STAT_state 1 k).updAgrp k (fun g => { start := t.toNat, queue := g.queue, dropped := g.dropped })))

/-- Ports of a group that are started or pending. -/
def State.members (s : State) (k : Nat) : List Nat :=
  (List.range 16).filter (fun a => s.grpOf a == k && (s.sapState a != 0 || s.bit R.SAP_STAT_pending a))

/-- GROUP_FRAME_ZERO: device time reaches T (R291, R299). -/
def execGroupFrameZero (k : GrpId) (s : State) : Out :=
  .next (s.mainEv (fun s =>
    if s.grpState k ≠ 1 ∨ s.now < (s.agrp k).start then s
    else ((s.members k).filter (fun a => s.bit R.SAP_STAT_pending a)).foldl (fun (s : State) a => s.sapGo a)
      (((s.members k).foldl (fun (s : State) a => s.iecSpent a) s).put R.AUD_GRP_STAT_state 2 k)))

/-- A group is idle again and its member ports stop (R291). -/
def State.grpIdle (s : State) (k : Nat) : State :=
  let s := (s.members k).foldl (fun (s : State) a =>
    let st := s.sapState a
    if st = 0 ∨ st = 1 ∨ st = 3 then s.sapOff a else s.sapEnd a) s
  (s.put R.AUD_GRP_STAT_state 0 k).updAgrp k (fun g => { queue := g.queue, dropped := g.dropped })

/-- AUD_GRP_STOP: at the next block boundary; an armed group at once (R291). -/
def execAudGrpStop (p : Port) (k : GrpId) (s : State) : Out :=
  .next (s.regCmd p (R.AUD_GRP_CTRL_stop.addr k 0) (fun s =>
    match s.grpState k with
    | 2 => s.updAgrp k (fun g => { g with stopping := true })
    | 1 => s.grpIdle k
    | _ => s))

/-! ### A port's frame at a group frame edge (R290, R295) -/

/-- The lines of a port that captures, a PDM port's through its decimators and an IEC port's from its subframes; none where
FSYNC begins no frame (R281 to R285). -/
def State.capture (s : State) (a : Nat) (fr : PortFrame) : State × Option Samples :=
  if s.mode a = 5 then (s, fr.iec.map (fun p => [SubFrame.sample p.1, SubFrame.sample p.2]))
  else if s.mode a = 4 then
    let ratio := (if s.slave a then (fr.lines.map List.length).foldl max 0 else s.pdmRatio a) / 4
    let s := s.micsTake a ratio fr.lines
    (s, some ((s.sap a).mics.zipIdx.map (fun m => (m.1.sample ratio ((s.sap a).seed + 1024 * m.2), true))))
  else
    let f := s.lineFmt a
    let first := if s.slave a then edgeTo (f.fsync 0) fr.sync else some 0
    (s, first.map (fun i => (List.range 4).flatMap (fun l => (f.words i (fr.lines.getD l [])).map (·, true))))

/-- Count the capture samples that a port delivers invalid (SAPp_INVALID). -/
def State.countInvalid (s : State) (a : Nat) (l : Samples) : State :=
  let n := s.slots a
  s.count R.SAP_INVALID_count ((List.range (4 * n)).countP (fun i => (s.capLines a).testBit (i / n) && !(l.getD i (0, false)).2)) a

/-- A slip (R290, Table 11-5): counted; SLIP at the first after RUN, then at most once a second. -/
def State.slip (s : State) (a : Nat) (drop : Bool) : State :=
  let s := s.count R.SAP_SLIP_count 1 a
  let n := (s.sap a).slips + 1
  let due := match (s.sap a).slipAt with | none => true | some t => decide (t + 1000000000 ≤ s.now)
  let s := s.updSap a (fun x => { x with slipBlk := true, slipDrop := drop, slips := if due then 0 else n,
                                         slipAt := if due then some s.now else x.slipAt })
  if due then s.event 0x05 5 a 0xFFFFF (min n 0xFFF + drop.toNat * 2 ^ 12 + s.grpOf a * 2 ^ 13) else s

/-- The elastic buffer after a read; SAPp_STAT.fill follows. -/
def State.setFifo (s : State) (a : Nat) (l : List Samples) : State :=
  (s.updSap a (fun x => { x with fifo := l })).put R.SAP_STAT_fill l.length a

/-- An underrun: a zero frame; UNDERRUN once until a frame is delivered (R295). -/
def State.underrun (s : State) (a : Nat) : State :=
  let s := s.count R.SAP_UNDERRUN_count 1 a
  if (s.sap a).under then s
  else (s.updSap a (fun x => { x with under := true })).event 0x08 5 a 0xFFFFF (s.grpOf a * 2 ^ 13)

/-- What a slave port in RUN delivers by the fill of its buffer (R290). -/
def State.slaveRead (s : State) (a : Nat) : State × Option Samples :=
  match (s.sap a).fifo with
  | [] => (s.underrun a, none)
  | f :: rest =>
    let s := s.updSap a (fun x => { x with under := false })
    if 6 ≤ rest.length + 1 then ((s.slip a true).setFifo a rest.tail, rest.head?)
    else if 3 ≤ rest.length + 1 then (s.setFifo a rest, some f)
    else (s.slip a false, some f)

/-- A member port's frame at a group frame edge: a port outside RUN or not ready, one that waits for a block boundary, or a master that the
command names no frame of (DESIGN CHOICE, log entry 85), delivers zeros marked invalid. -/
def State.readPort (s : State) (a : Nat) (fr : List PortFrame) : State × Samples :=
  let (s, l) :=
    if s.sapState a ≠ 2 ∨ (s.sap a).stopping ∨ !s.sapUsable a then (s, none)
    else if s.slave a then s.slaveRead a
    else match fr.find? (fun x => x.port.val == a) with
      | some x => s.capture a x
      | none => (s, none)
  let out := if (s.sap a).waitBlk then [] else l.getD []
  ((s.countInvalid a out).updSap a (fun x => { x with last := out }), out)

/-! ### Gains and routes (R300, R302, R303) -/

/-- A route as one number: port, line and slot. -/
def State.routeOf (s : State) (c : Nat) : Nat :=
  s.fld R.AUD_CH_SRC_port c + s.fld R.AUD_CH_SRC_line c * 16 + s.fld R.AUD_CH_SRC_slot c * 64

/-- The port, line and slot of a route exist with a line of the direction asked (R300). -/
def State.routeOk (s : State) (r : Nat) (output : Bool) : Bool :=
  let a := r % 16
  let line := r / 16 % 4
  decide (r / 64 < s.slots a) && (if output then s.outLines a else s.capLines a).testBit line
    && (line == 0 || decide (s.mode a < 5))

/-- The sample of a capture route in a frame; one that does not exist is zero and invalid. -/
def State.sample (s : State) (fr : List (Nat × Samples)) (r : Nat) : BitVec 32 × Bool :=
  match fr.find? (fun x => x.1 == r % 16) with
  | some (a, l) => if s.routeOk r false then l.getD (r / 16 % 4 * s.slots a + r / 64) (0, false) else (0, false)
  | none => (0, false)

/-- A sample crosses zero (R303). -/
def crosses (prev x : BitVec 32) : Bool := x == 0 || prev.msb != x.msb || decide (x.toInt.natAbs ≤ 2 ^ 19)

/-- A gain as a value: one that is not finite acts as 0 (R302). -/
def gainVal (g : Nat) : Dy := if fp16.mag g < 0x7C00 then fp16.val g else Dy.zero

/-- A value on its way from a to b, j of n frames done. -/
def lerp (a b : Dy) (j n : Nat) : Dy :=
  if n ≤ j then b
  else if j = 0 then a
  else Dy.quot ((a.mul (Dy.ofInt (n - j))).add (b.mul (Dy.ofInt j))) (Dy.ofInt n)

/-- A change at a frame: pending until its source crosses, or ramping; `now0`: the group's timeout is 0. -/
def Chg.frame (g : Chg) (cross now0 : Bool) (n : Nat) : Option Chg :=
  match g.ramp with
  | some j => some { g with ramp := some (min (j + 1) n) }
  | none => if now0 then some { g with ramp := some (min 1 n) } else if cross then none else some g

/-- Frames of a ramp already done when this frame plays. -/
def Chg.done (g : Chg) (now0 : Bool) : Option Nat :=
  match g.ramp with | some j => some j | none => if now0 then some 0 else none

/-- An entry at a frame: the samples px, x of its source and py, y of its new one, the previous before the present. Answers
its gain, its sample and the entry after. -/
def Chan.step (c : Chan) (gain : Nat) (px x py y : BitVec 32) (now0 : Bool) (n : Nat) : Dy × Dy × Chan :=
  let cx := crosses px x
  let cy := crosses py y
  let g := match c.gain with
    | none => gainVal gain
    | some k => match k.done now0 with
      | some j => lerp (gainVal k.old) (gainVal k.new) j n
      | none => gainVal (if cx then k.new else k.old)
  let v := match c.route with
    | none => Dy.ofInt x.toInt
    | some k => match k.done now0 with
      | some j => lerp (Dy.ofInt x.toInt) (Dy.ofInt y.toInt) j n
      | none => Dy.ofInt (if cx && cy then y.toInt else x.toInt)
  (g, v, { c with gain := c.gain.bind (fun k => k.frame cx now0 n), route := c.route.bind (fun k => k.frame (cx && cy) now0 n),
                  prev := x })

/-- A place's part of a route change at a frame: all of the entry, or the side that fades out or in, with the frames of the
ramp done. -/
inductive Part where
  | whole
  | leaving (j : Nat)
  | coming (j : Nat)
deriving DecidableEq, Repr

/-- The routes that an entry with register route r uses at a frame, with their part of a ramp: the old one until the change
applies, both while it ramps (R303). -/
def Chan.places (c after : Chan) (r : Nat) (now0 : Bool) : List (Nat × Part) :=
  match c.route with
  | none => [(r, .whole)]
  | some g => match g.done now0 with
    | some j => [(g.old, .leaving j), (g.new, .coming j)]
    | none => [(if after.route.isNone then g.new else g.old, .whole)]

/-- The route that an entry with register route r leaves, or keeps: what is written during a ramp waits for its end (R303). -/
def Chan.route0 (c : Chan) (r : Nat) : Nat := (c.route.map (·.old)).getD r

/-- Keep the pending and ramping bits of an entry in step. -/
def State.chanBits (s : State) (c : Nat) : State :=
  let k := s.chan c
  let l := k.gain.toList ++ k.route.toList
  (s.put R.AUD_CH_SRC_pending (l.any (fun g => g.ramp.isNone)).toNat c).put R.AUD_CH_SRC_ramping
    (l.any (fun g => g.ramp.isSome)).toNat c

/-- The change that a write makes: a new one, a new value of a pending one, or a wait for the ramp's end (R303). -/
def changeTo (cur : Option Chg) (next : Option Nat) (old new due : Nat) : Option Chg × Option Nat :=
  match cur with
  | none => (some { old := old, new := new, due := due }, none)
  | some g => if g.ramp.isSome then (some g, some new) else (some { g with new := new }, next)

/-- The timeout of a group in ns (AUD_GRPk_CFG). -/
def State.zcNs (s : State) (k : Nat) : Nat := min (s.fld R.AUD_GRP_CFG_zc_timeout_ms k) 100 * ms

/-- Frames of a ramp: round(fs / 1,000). -/
def State.rampLen (s : State) (k : Nat) : Nat := (s.rate k + 500) / 1000

/-- A gain is written: a bound change of R303 begins, or takes the new value, or waits for the ramp's end. -/
def State.gainWrite (s : State) (ch v : Nat) : State :=
  let old := s.fld R.AUD_CH_GAIN_gain ch
  let q := changeTo (s.chan ch).gain (s.chan ch).gainNext old (bits v 0 16) (s.now + s.zcNs (s.grpOf (s.routeOf ch % 16)))
  ((s.put R.AUD_CH_GAIN_gain (bits v 0 16) ch).updChan ch (fun c => { c with gain := q.1, gainNext := q.2 })).chanBits ch

/-- AUD_CH_GAIN_WRITE (R303). -/
def execAudChGainWrite (p : Port) (ch : Fin 384) (v : BitVec 64) (s : State) : Out :=
  .next (s.regCmd p (R.AUD_CH_GAIN_gain.addr ch 0) (fun s => s.gainWrite ch v.toNat))

/-- A route is written: that of a bound entry changes under R303, that of any other at once. -/
def State.routeWrite (s : State) (ch v : Nat) : State :=
  let old := s.routeOf ch
  let c := s.chan ch
  let q := if s.bit R.AUD_CH_SRC_bound ch then
      changeTo c.route c.routeNext old (bits v 0 10) (s.now + s.zcNs (s.grpOf (old % 16)))
    else (none, none)
  let s := (s.put R.AUD_CH_SRC_port (bits v 0 4) ch).put R.AUD_CH_SRC_line (bits v 4 2) ch
  let s := (s.put R.AUD_CH_SRC_slot (bits v 6 4) ch).put R.AUD_CH_SRC_enable (bits v 10 1) ch
  (s.updChan ch (fun c => { c with route := q.1, routeNext := q.2 })).chanBits ch

/-- AUD_CH_SRC_WRITE: the route of a bound entry changes under R303, that of any other at once. -/
def execAudChSrcWrite (p : Port) (ch : Fin 384) (v : BitVec 64) (s : State) : Out :=
  .next (s.regCmd p (R.AUD_CH_SRC_port.addr ch 0) (fun s => s.routeWrite ch v.toNat))

/-- A pending change whose deadline has passed starts its ramp. -/
def Chg.expire (g : Chg) (now : Nat) : Chg := if g.ramp.isNone ∧ g.due ≤ now then { g with ramp := some 0 } else g

/-- ZC_TIMEOUT (R303). -/
def execZcTimeout (ch : Fin 384) (s : State) : Out :=
  .next (s.mainEv (fun s =>
    (s.updChan ch (fun c => { c with gain := c.gain.map (fun g => g.expire s.now),
                                     route := c.route.map (fun g => g.expire s.now) })).chanBits ch))

/-- A ramp that has run its frames ends; a write made during it starts its own wait (R303). -/
def endRamp (cur : Option Chg) (next : Option Nat) (n due : Nat) : Option Chg × Option Nat :=
  match cur with
  | some g => match g.ramp with
    | some j => if n ≤ j then (next.map (fun v => { old := g.new, new := v, due := due }), none) else (cur, next)
    | none => (cur, next)
  | none => (none, none)

/-- The ramps of an entry that have run their frames end (R303). -/
def State.rampsEnd (s : State) (ch : Nat) : State :=
  let c := s.chan ch
  let k := s.grpOf (c.route0 (s.routeOf ch) % 16)
  let g := endRamp c.gain c.gainNext (s.rampLen k) (s.now + s.zcNs k)
  let r := endRamp c.route c.routeNext (s.rampLen k) (s.now + s.zcNs k)
  (s.updChan ch (fun c => { c with gain := g.1, gainNext := g.2, route := r.1, routeNext := r.2 })).chanBits ch

/-- RAMP_END (R303). -/
def execRampEnd (ch : Fin 384) (s : State) : Out := .next (s.mainEv (fun s => s.rampsEnd ch))

/-- A sample in a ring's format: its bytes and whether it saturated (R302). -/
def ringSample (fmt : Nat) (y : Dy) : List Byte × Nat :=
  if fmt = 2 then (toLE 4 (bits32 y), 0)
  else
    let (w, n) : Nat × Nat := if fmt = 0 then (15, 2) else (23, 4)
    let (v, c) := (clampNM (-((2 : Int) ^ w)) ((2 : Int) ^ w - 1) (y.scale (w : Int)).rne).run {}
    (toLE n (BitVec.ofInt 32 v).toNat, c.sat)

/-- y of R302: the sample over 2^31 times the gain, in one rounding. -/
def scaled (x g : Dy) : Dy := ((fl32 ((x.scale (-31)).mul g)).run {}).1

/-! ### Output streams (R304, R305) -/

/-- Fade length of a stream in frames (R305). -/
def State.fadeLen (s : State) (o : Nat) : Nat :=
  (max 5 (min 500 (s.fld R.AUD_OUT_CFG_ramp o)) * s.rate (s.fld R.AUD_OUT_BASE_group o) + 5000) / 10000

/-- The ring of a stream is usable (AUD_OUTo_BASE). -/
def State.outUsable (s : State) (o : Nat) : Bool :=
  let log2 := s.fld R.AUD_OUT_BASE_log2 o
  decide (8 ≤ log2 ∧ log2 ≤ 24)

/-- Occupancy at play index P (R304). -/
def State.occupancy (s : State) (o p : Nat) : Nat :=
  let d := since (s.fld R.AUD_OUT_WR_index o) p
  if 2 ^ 31 ≤ d then 0 else min d (2 ^ s.fld R.AUD_OUT_BASE_log2 o)

/-- A sample of the ring as a 32-bit word left-justified, or its FP32 value over full scale. -/
def outSample (fmt : Nat) (l : List Byte) : Dy :=
  let v := leNat l
  if fmt = 0 then (Dy.ofInt (BitVec.ofNat 16 v).toInt).scale 16
  else if fmt = 1 then (Dy.ofInt (BitVec.ofNat 24 v).toInt).scale 8
  else (if fp32.mag v < 0x7F800000 then fp32.val v else Dy.zero).scale 31

/-- Channel c of frame P of a stream's ring; a line that cannot be read gives zero. -/
def State.outRead (s : State) (o p c : Nat) : Dy :=
  let f := s.fld R.AUD_OUT_BASE_format o
  let n := fmtBytes f
  let a := s.fld R.AUD_OUT_BASE_base o
    + ((p % 2 ^ s.fld R.AUD_OUT_BASE_log2 o) * (s.fld R.AUD_OUT_BASE_channels o + 1) + c) * n
  if s.linesOk a n then outSample f (s.peek a n) else Dy.zero

/-- A value over full scale as the 32-bit word it drives. -/
def outWord (y : Dy) : BitVec 32 := BitVec.ofInt 32 (((clampNM (-(2 ^ 31)) (2 ^ 31 - 1) (y.scale 31).rne).run {}).1)

/-- A word under the fade g(j) of n frames. -/
def faded (j n : Nat) (w : BitVec 32) : BitVec 32 := if j = 0 then w else if n ≤ j then 0 else
  let y := w.toInt * (fxOne + fxCos (fxPi * j / n)) / (2 * fxOne)
  BitVec.ofInt 32 (y + (if Config.fadeUp j n w then 1 else 0))

/-- The mode of a stream at a frame of occupancy d, before it plays. -/
def outEnter (m : OutMode) (d n : Nat) : OutMode :=
  match m with
  | .full => if d < n then .fadeOut 0 else .full
  | .silent => if 2 * n ≤ d then .fadeIn 0 else .silent
  | m => m

/-- The mode after the frame. -/
def outLeave (m : OutMode) (n : Nat) : OutMode :=
  match m with
  | .fadeOut j => if n ≤ j + 1 then .silent else .fadeOut (j + 1)
  | .fadeIn j => if n ≤ j + 1 then .full else .fadeIn (j + 1)
  | m => m

/-- What a mode makes of a word. -/
def OutMode.shape (m : OutMode) (n : Nat) (w : BitVec 32) : BitVec 32 :=
  match m with
  | .silent => 0
  | .full => w
  | .fadeOut j => faded j n w
  | .fadeIn j => faded (n - j) n w

/-- One output entry of a stream at a frame: its gain and route step, and the words for its lines; a route that ramps fades out
of the old place and into the new (R303; DEDUCED, log entry 85). -/
def State.outEntry (s : State) (e : Nat) (x : BitVec 32) (n : Nat) (m : OutMode) : State × List (Nat × BitVec 32) :=
  let c := s.chan e
  let r := s.routeOf e
  let k := s.grpOf (c.route0 r % 16)
  let now0 := s.zcNs k == 0
  let (g, v, c') := c.step (s.fld R.AUD_CH_GAIN_gain e) c.prev x c.prev x now0 (s.rampLen k)
  let s := (s.updChan e (fun _ => c')).chanBits e
  let word (p : Nat × Part) : BitVec 32 :=
    let v := match p.2 with
      | .whole => v
      | .coming j => lerp Dy.zero v j (s.rampLen k)
      | .leaving j => lerp v Dy.zero j (s.rampLen k)
    m.shape n (outWord (scaled v g))
  (s, ((c.places c' r now0).filter (fun p => s.routeOk p.1 true)).map (fun p =>
    (p.1 % 16 * 64 + p.1 / 16 % 4 * 16 + p.1 / 64, word p)))

/-- An output stream at group frame F (R304, R305). -/
def State.outFrame (s : State) (o F : Nat) : State × List (Nat × BitVec 32) :=
  let start := s.fld R.AUD_OUT_START_start o
  if F < start then (s, [])
  else
    let p := (F - start) % 2 ^ 32
    let n := s.fadeLen o
    let d := s.occupancy o p
    let m := if s.outUsable o then outEnter (s.outMode o) d n else .silent
    let s := if s.outMode o = .full ∧ m = .fadeOut 0 then
        (s.event 0x08 5 o 0xFFFFF (2 ^ 23 + s.fld R.AUD_OUT_BASE_group o * 2 ^ 13 + o)).count R.AUD_OUT_UNDERRUN_count 1 o
      else s
    let s := s.put R.AUD_OUT_RD_index (p + 1) o
    let cs := List.range (s.fld R.AUD_OUT_BASE_channels o + 1)
    let (s, l) := cs.foldl (fun (acc : State × List (Nat × BitVec 32)) c =>
      let x := if m = .silent then 0 else outWord ((acc.1.outRead o p c).scale (-31))
      let (s, w) := acc.1.outEntry (256 + s.fld R.AUD_OUT_BASE_first o + c) x n m
      (s, acc.2 ++ w)) (s, [])
    (s.setOut o (outLeave m n), l)

/-! ### A group frame (R290, R292, R299, R301, R304) -/

/-- A block is complete: passed on through the buffer of 4, or dropped (R296). -/
def State.blockEnd (s : State) (k : Nat) : State :=
  let g := s.agrp k
  if g.got < 64 then s
  else if 4 ≤ g.queue.length then
    let s := s.count R.AUD_GRP_DROP_count 1 k
    let s := if g.dropped then s
      else s.event 0x09 5 (((List.range 16).find? (fun a => s.grpOf a == k && s.sapState a != 0)).getD 0xFF) 0xFFFFF (k * 2 ^ 13)
    s.updAgrp k (fun g => { g with got := 0, parts := [], dropped := true })
  else
    s.updAgrp k (fun g => { g with
      got := 0, parts := [], dropped := false, queue := g.queue ++ [{ time := s.fld R.AUD_GRP_BLK_TIME_time k, parts := g.parts, gap := g.dropped }] })

/-- Bindings at a block boundary: new ones begin, ending ones are gone (R301). -/
def State.bindBoundary (s : State) (k : Nat) : State :=
  let gone := s.abinds.filter (fun b => b.grp = k ∧ b.ending)
  let s := gone.foldl (fun (s : State) b => (s.unboundEntries b.c0 b.count).updEnt b.folio (fun e => { e with sourceBound := false })) s
  { s with abinds := (s.abinds.filter (fun b => !(b.grp = k ∧ b.ending))).map (fun b => if b.grp = k then { b with live := true } else b) }

/-- Ports at a block boundary: one that waited becomes valid, with its mark (R293, R294). -/
def State.portBoundary (s : State) (a : Nat) : State :=
  s.updSap a (fun x =>
    if x.waitBlk ∧ s.sapState a = 2 then { x with waitBlk := false, markBlk := x.markNext, markNext := false, slipBlk := false }
    else { x with markBlk := false, slipBlk := false })

/-- The start of a block: its frame and time, and an empty part for each live binding (R292). -/
def State.blockStart (s : State) (k F : Nat) : State :=
  let s := (s.put R.AUD_GRP_BLK_FRAME_frame F k).put R.AUD_GRP_BLK_TIME_time s.now k
  let s := (s.members k).foldl (fun (s : State) a => s.portBoundary a) (s.bindBoundary k)
  s.updAgrp k (fun g => { g with
    got := 0, parts := (s.abinds.filter (fun b => b.grp = k ∧ b.live)).map (fun b => { folio := b.folio }) })

/-- A capture entry's value at a frame: whether it is valid, and the ports that supply it. -/
structure EntryVal where
  ch : Nat
  y : Dy
  ok : Bool
  ports : List Nat

/-- Every capture entry of a group at a frame, from what its ports delivered at the frame before and at this one. -/
def State.entryFrame (s : State) (k : Nat) (before fr : List (Nat × Samples)) : State × List EntryVal :=
  (List.range 256).foldl (fun (acc : State × List EntryVal) c =>
    let s := acc.1
    let r := s.routeOf c
    let ch := s.chan c
    let r0 := ch.route0 r
    if s.grpOf (r0 % 16) ≠ k ∨ !(s.bit R.AUD_CH_SRC_enable c) then acc
    else
      let r1 := (ch.route.map (·.new)).getD r
      let (g, v, ch') := ch.step (s.fld R.AUD_CH_GAIN_gain c) (s.sample before r0).1 (s.sample fr r0).1 (s.sample before r1).1
        (s.sample fr r1).1 (s.zcNs k == 0) (s.rampLen k)
      let ps := (ch.places ch' r (s.zcNs k == 0)).map (·.1)
      let s := if ch = ch' then s else (s.updChan c (fun _ => ch')).chanBits c
      (s, acc.2 ++ [{ ch := c, y := scaled v g, ok := ps.all (fun p => (s.sample fr p).2), ports := ps.map (· % 16) }])) (s, [])

/-- A frame of one binding: C samples in its ring's format appended to its part (R301, R302). -/
def State.partFrame (s : State) (k : Nat) (vals : List EntryVal) (b : ABind) : State :=
  let fmt := (s.ring b.folio).fmt
  let of := (List.range b.count).map (fun i => vals.find? (fun v => v.ch == b.c0 + i))
  let cells := of.map (fun v =>
    match v with
    | some v => if v.ok then (ringSample fmt v.y, true) else ((List.replicate (fmtBytes fmt) 0, 0), false)
    | none => ((List.replicate (fmtBytes fmt) 0, 0), false))
  let ports := of.flatMap (fun v => match v with | some v => v.ports | none => [])
  let s := s.count R.AUD_GRP_CLIP_count (cells.map (fun c => c.1.2)).sum k
  s.updAgrp k (fun g => { g with parts := g.parts.map (fun p =>
    if p.folio = b.folio then
      { p with dat := p.dat ++ cells.flatMap (fun c => c.1.1), invalid := p.invalid || cells.any (fun c => !c.2),
               slip := p.slip || ports.any (fun a => (s.sap a).slipBlk), mark := p.mark || ports.any (fun a => (s.sap a).markBlk) }
    else p) })

/-- An IEC port sends a frame: the words of its slots, V = 1 where a slot has none (DEDUCED, log entry 85), and the channel
status (R287). -/
def State.iecSend (s : State) (a : Nat) (w : Nat → Option (BitVec 32)) : State :=
  let n := (s.sap a).txN
  let sub (slot : Nat) (f : Fld) : SubFrame :=
    subFrame (n == 0 && slot == 0) ((w slot).getD 0) (w slot).isSome (csBit (s.txStatus a f) n)
  (s.send (.iec (Fin.ofNat 16 a) (sub 0 R.SAP_TXCSA_bytes) (sub 1 R.SAP_TXCSB_bytes))).updSap a (fun x => { x with txN := (n + 1) % 192 })

/-- A port sends a frame on its output lines: zero where no word is for a slot (R281, R282). -/
def State.lineSend (s : State) (a : Nat) (w : Nat → Option (BitVec 32)) : State :=
  let f := s.lineFmt a
  s.send (.audio (Fin.ofNat 16 a) (if s.slave a then [] else f.syncLevels) f.delay f.bclkInv
    (((List.range 4).filter (fun l => (s.outLines a).testBit l)).map (fun l =>
      (l, f.levels ((List.range f.slots).map (fun k => (w (l * 16 + k)).getD 0))))))

/-- The frame that a port sends: in RUN the words of two frame edges ago, the lowest stream's where two have one slot
(DESIGN CHOICE, log entry 85), in LEAD and TAIL none (R287, R299, R304). -/
def State.drivePort (s : State) (a : Nat) (l : List (Nat × BitVec 32)) : State :=
  let st := s.sapState a
  let run := st == 2 && !(s.sap a).stopping
  let w (i : Nat) : Option (BitVec 32) := if run then (l.find? (fun w => w.1 == a * 64 + i)).map (·.2) else none
  if s.outLines a = 0 ∨ !s.sapUsable a ∨ !(run ∨ st = 1 ∨ st = 3) then s
  else if s.mode a = 6 then s.iecSend a w
  else s.lineSend a w

/-- The frame of a running group. -/
def State.grpFrame (s : State) (k : Nat) (fr : List PortFrame) : State :=
  let F := (s.agrp k).frame
  let s := if F % 64 = 0 then s.blockStart k F else s
  let ms := s.members k
  let s := (ms.filter (fun a => (s.sap a).stopping)).foldl (fun (s : State) a => s.sapEnd a) s
  let s := (ms.filter (fun a => s.bit R.SAP_STAT_pending a)).foldl (fun (s : State) a => s.sapGo a) s
  let before := (s.members k).map (fun a => (a, (s.sap a).last))
  let (s, got) := (s.members k).foldl (fun (acc : State × List (Nat × Samples)) a =>
    let (s, d) := acc.1.readPort a fr
    (s, acc.2 ++ [(a, d)])) (s, [])
  let (s, vals) := s.entryFrame k before got
  let s := (s.abinds.filter (fun b => b.grp = k ∧ b.live)).foldl (fun (s : State) b => s.partFrame k vals b) s
  let (s, words) := ((List.range 16).filter (fun o => s.bit R.AUD_OUT_BASE_enable o && s.fld R.AUD_OUT_BASE_group o == k)).foldl
    (fun (acc : State × List (Nat × BitVec 32)) o =>
      let (s, w) := acc.1.outFrame o F
      (s, acc.2 ++ w)) (s, [])
  let pipe := (s.agrp k).pipe ++ [words]
  let now := if 3 ≤ pipe.length then pipe.headD [] else []
  let s := s.updAgrp k (fun g => { g with frame := F + 1, got := g.got + 1, pipe := if 3 ≤ pipe.length then pipe.tail else pipe })
  (s.members k).foldl (fun (s : State) a => s.drivePort a now) s

/-- GROUP_FRAME: one frame from every member port at a group frame edge; a stop takes effect at a block boundary (R290 to
R292). -/
def execGroupFrame (k : GrpId) (fr : List PortFrame) (s : State) : Out :=
  .next (s.mainEv (fun s =>
    if s.grpState k ≠ 2 then s
    else
      let s := s.blockEnd k
      if (s.agrp k).stopping ∧ (s.agrp k).frame % 64 = 0 then (s.bindBoundary k).grpIdle k else s.grpFrame k fr))

/-- BLOCK_COMPLETE (R292, R296). -/
def execBlockComplete (k : GrpId) (s : State) : Out := .next (s.mainEv (fun s => s.blockEnd k))

/-- The home sends a block's stamp entry and samples to a lined folio's partner (R266). -/
def State.lineAudioOut (s : State) (n : Folio) (before : RingE) (dat : List Byte) : State :=
  let e := s.ent n
  if e.lined ∧ (s.ring n).stampWr ≠ before.stampWr then
    s.post e.partner.toNat 2 (.lineAudio n (s.stamp (s.ring n) before.stampWr) 0 0 dat)
  else s

/-- A part of a block goes to its folio's ring (R301); one due to a folio that takes none is discarded. -/
def State.partWrite (s : State) (b : ABlk) (p : APart) : State :=
  let n := p.folio
  let st := (s.ent n).st
  if st ≠ .idle ∧ st ≠ .ready ∧ st ≠ .active then s.count R.AUD_DISCARD_count
  else
    let r := s.ring n
    let s := s.ingestBlock n { time := b.time, dat := p.dat, count := 64, invalid := p.invalid,
                               resetMark := p.mark || b.gap, slip := p.slip, gap := b.gap }
    s.lineAudioOut n r p.dat

/-- PORT_BLOCK_WRITE: the oldest block of the group's buffer is written for each binding (R301). -/
def execPortBlockWrite (k : GrpId) (s : State) : Out :=
  .next (s.mainEv (fun s =>
    match (s.agrp k).queue with
    | [] => s
    | b :: rest => (s.updAgrp k (fun g => { g with queue := rest })).reading (b.parts.map (·.folio))
        (fun s => b.parts.foldl (fun (s : State) p => s.partWrite b p) s)))

/-! ### Slave and receiving ports (R285, R286, R290, R293, R294) -/

/-- A frame enters the elastic buffer, of which the last n frames stay (R290, R293). -/
def State.pushFrame (s : State) (a : Nat) (fr : Samples) (n : Nat) : State :=
  let l := (s.sap a).fifo ++ [fr]
  s.setFifo a (l.drop (l.length - n))

/-- A frame that took some picoseconds has a period within 0.5 % of rate_hz (R293). -/
def State.periodOk (s : State) (a ps : Nat) : Bool :=
  let n := s.rate (s.grpOf a) * ps
  decide ((max n (10 ^ 12) - min n (10 ^ 12)) * 200 ≤ 10 ^ 12)

/-- Good frames in RELOCK, counted; a bad one starts the count anew (R293). -/
def State.goodFrame (s : State) (a ps : Nat) : State :=
  s.put R.SAP_STAT_good (if s.periodOk a ps then min (s.fld R.SAP_STAT_good a + 1) 511 else 0) a

/-- An IEC receiver collects the bits C of both subframes from a block start on; at the next, the block has ended (R286). -/
def State.csCollect (s : State) (a : Nat) (fr : PortFrame) : State :=
  match fr.iec with
  | none => s
  | some (x, y) =>
    let c := (x.slots.getLsbD 26, y.slots.getLsbD 26)
    s.updSap a (fun p =>
      if x.start then { p with cs := some [c], csDone := p.cs.or p.csDone }
      else { p with cs := p.cs.map (fun l => if l.length ≤ 192 then c :: l else l) })

/-- A complete frame of a port that is not stopped enters its elastic buffer; in RELOCK good frames are counted. -/
def State.frameTo (s : State) (a : Nat) (fr : Samples) (ps : Nat) : State :=
  if s.sapState a = 2 then s.pushFrame a fr 8
  else
    let s := if s.sapState a = 4 then (s.setSap a 5).put R.SAP_STAT_good 0 a else s
    (s.goodFrame a ps).pushFrame a fr 4

/-- SLAVE_FRAME (R286, R290, R293). -/
def execSlaveFrame (a : SapId) (fr : PortFrame) (ps : Nat) (s : State) : Out :=
  .next (s.mainEv (fun s =>
    if !s.slave a ∨ !s.sapUsable a ∨ !(s.sapState a = 2 ∨ s.sapState a = 4 ∨ s.sapState a = 5) then s
    else
      let q := s.capture a fr
      match q.2 with
      | some l => (q.1.csCollect a fr).frameTo a l ps
      | none => s))

/-- A port has lost its frame sync: LOST, the buffer flushed, counted, CLOCK_LOST (R293). -/
def State.fsyncLost (s : State) (a : Nat) : State :=
  (((((s.setSap a 4).setFifo a []).updSap a (fun x => { x with cs := none })).put R.SAP_STAT_good 0 a).count R.SAP_LOST_count 1 a).event 0x06 5 a 0xFFFFF (s.grpOf a * 2 ^ 13)

/-- FSYNC_LOSS: LOST, the buffer flushed, CLOCK_LOST (R293). -/
def execFsyncLoss (a : SapId) (s : State) : Out :=
  .next (s.mainEv (fun s =>
    if s.slave a ∧ (s.sapState a = 2 ∨ s.sapState a = 5) then s.fsyncLost a else s))

/-- RELOCK_DONE: 256 good frames and a buffer of 4 (R293); the first valid block is marked by relock_reset, and always
after RATE_STOP (R294). -/
def execRelockDone (a : SapId) (s : State) : Out :=
  .next (s.mainEv (fun s =>
    if s.sapState a = 5 ∧ 256 ≤ s.fld R.SAP_STAT_good a ∧ (s.sap a).fifo.length = 4 then
      (s.sapRun a).updSap a (fun x => { x with
        waitBlk := true, restarted := false, markNext := x.markNext || x.restarted || s.bit R.AUD_GRP_CFG_relock_reset (s.grpOf a) })
    else s))

/-- A deviation in ppm as 24 bits, saturating (R294, Table 11-5). -/
def ppm24 (meas nominal : Int) : Nat :=
  (BitVec.ofInt 24 (max (-(2 ^ 23)) (min (2 ^ 23 - 1) ((meas - nominal) * 1000000 / nominal)))).toNat

/-- The deviation of 256 frames that took ns from a port's nominal rate, in ppm (R294). -/
def State.windowPpm (s : State) (a ns : Nat) : Nat := ppm24 256000000000 ((s.rate (s.grpOf a) * ns : Nat) : Int)

/-- 256 frames that took ns deviate by more than 0.5 % (R294). -/
def State.windowOff (s : State) (a ns : Nat) : Bool :=
  let nom : Int := ((s.rate (s.grpOf a) * ns : Nat) : Int)
  decide (nom < ((256000000000 : Int) - nom).natAbs * 200)

/-- RATE_WINDOW: the rate of 256 frames that took ns (R294). -/
def execRateWindow (a : SapId) (ns : Nat) (s : State) : Out :=
  .next (s.mainEv (fun s =>
    if !s.slave a ∨ s.sapState a ≠ 2 ∨ ns = 0 ∨ s.rate (s.grpOf a) = 0 then s
    else
      let t := s.put R.SAP_STAT_rate_ppm (s.windowPpm a ns) a
      if s.windowOff a ns then ((t.setSap a 6).setFifo a []).event 0x07 5 a 0xFFFFF (s.windowPpm a ns) else t))

/-- A professional block whose byte 23 differs from its CRCC. -/
def crccBad (l : List Byte) : Bool := (l.headD 0).getLsbD 0 && l.getD 23 0 != crcc (l.take 23)

/-- A channel-status block of both channels is taken (R286). -/
def State.csTake (s : State) (a : Nat) (csa csb : List Byte) : State :=
  let s := (List.range 3).foldl (fun (s : State) i =>
    (s.put R.SAP_CSA_bytes (leNat (padTo 8 (csa.drop (8 * i)))) a i).put R.SAP_CSB_bytes (leNat (padTo 8 (csb.drop (8 * i)))) a i) s
  (s.put R.SAP_CS_STAT_pro ((csa.headD 0).getLsbD 0).toNat a).put R.SAP_CS_STAT_seq (s.fld R.SAP_CS_STAT_seq a + 1) a

/-- A block that has ended: discarded unless it held 192 frames and passes its CRCC, else taken (R286). -/
def State.csEnd (s : State) (a : Nat) (l : List (Bool × Bool)) : State :=
  let csa := csBytes (l.reverse.map (·.1))
  let csb := csBytes (l.reverse.map (·.2))
  if l.length ≠ 192 then s.put R.SAP_CS_STAT_block_err 1 a
  else if crccBad csa ∨ crccBad csb then (s.put R.SAP_CS_STAT_crc_bad 1 a).count R.SAP_CS_CRC_count 1 a
  else s.csTake a csa csb

/-- CS_BLOCK_END (R286): the block collected before the last block start. -/
def execCsBlockEnd (a : SapId) (s : State) : Out :=
  .next (s.mainEv (fun s =>
    match (s.sap a).csDone with
    | none => s
    | some l => (s.updSap a (fun x => { x with csDone := none })).csEnd a l))

/-! ### The audio PLL (R288, R365) -/

/-- Readiness of the 16 ports (Table 11-14). -/
def State.sapReady (s : State) (b : Bool) : State :=
  (List.range 16).foldl (fun (s : State) a => s.setBit R.COLO_READY0_ready (8 + a) b) s

/-- AUDIO_PLL_LOCK. -/
def execAudioPllLock (s : State) : Out :=
  .next (s.mainEv (fun s =>
    if s.bit R.AUD_PLL_CFG_enable then ((s.put R.AUD_PLL_STAT_lock48 1).put R.AUD_PLL_STAT_lock44 1).sapReady true else s))

/-- MCLK_IN_LOSS: the PLL holds over (R288). -/
def execMclkInLoss (s : State) : Out :=
  .next (s.mainEv (fun s =>
    if s.bit R.AUD_PLL_CFG_enable ∧ s.bit R.AUD_PLL_CFG_ref ∧ !s.bit R.AUD_PLL_STAT_holdover then
      (s.put R.AUD_PLL_STAT_holdover 1).event 0x06 5 0xFF
    else s))

/-- AUDIO_PLL_RELOCK (R288). -/
def execAudioPllRelock (s : State) : Out := .next (s.mainEv (fun s => s.put R.AUD_PLL_STAT_holdover 0))

/-! ### Bindings (R301, R304) -/

/-- BIND's checks in order (R301): the result code. -/
def State.bindCheck (s : State) (n : Folio) (k c0 C : Nat) : Nat :=
  let e := s.ent n
  let cs := (List.range C).map (· + c0)
  if (e.st ≠ .idle ∧ e.st ≠ .ready ∧ e.st ≠ .active) ∨ e.sourceBound then 1
  else if C ≠ (s.ring n).ch ∨ 256 < c0 + C ∨ !cs.all (fun c => s.bit R.AUD_CH_SRC_enable c && s.grpOf (s.routeOf c % 16) == k) then 2
  else if s.rate k ≠ (s.par n).fs then 3
  else if cs.any (fun c => s.bit R.AUD_CH_SRC_bound c) then 4
  else 0

/-- An audio bind command ends. -/
def State.audDone (s : State) (n : Folio) (r : Nat) : State :=
  ((s.put R.AUD_BIND_STATUS_busy 0).put R.AUD_BIND_STATUS_result r).put R.AUD_BIND_STATUS_folio n.toNat

/-- Capture entries c0 to c0 + C - 1 are bound to a folio; the binding begins at the next block boundary (R301). -/
def State.bindNow (s : State) (n : Folio) (k c0 C : Nat) : State :=
  let s := (List.range C).foldl (fun (s : State) i => s.put R.AUD_CH_SRC_bound 1 (c0 + i)) s
  let s := s.updEnt n (fun e => { e with sourceBound := true })
  { s with abinds := s.abinds ++ [{ folio := n, grp := k, c0 := c0, count := C }] }

/-- AUD_BIND (R301). -/
def execAudBind (p : Port) (n : Folio) (s : State) : Out :=
  .next (s.regCmd p (R.AUD_BIND_CMD_op.addr 0 0) (fun s =>
    let k := s.fld R.AUD_BIND_ARG_group
    let c0 := s.fld R.AUD_BIND_ARG_c0
    let C := s.fld R.AUD_BIND_ARG_count + 1
    let r := s.bindCheck n k c0 C
    if r ≠ 0 then s.audDone n r else (s.bindNow n k c0 C).audDone n 0))

/-- A folio's binding is ending. -/
def State.endBind (s : State) (n : Folio) : State :=
  { s with abinds := s.abinds.map (fun x => if x.folio = n then { x with ending := true } else x) }

/-- AUD_UNBIND: at the next block boundary of a running group, else at once (R301). -/
def execAudUnbind (p : Port) (n : Folio) (s : State) : Out :=
  .next (s.regCmd p (R.AUD_BIND_CMD_op.addr 0 0) (fun s =>
    match s.abinds.find? (fun b => b.folio = n) with
    | none => s.audDone n 1
    | some b =>
      (if s.grpState b.grp = 2 then s.endBind n else (s.endBind n).bindBoundary b.grp).audDone n 0))

/-- The entries of a stream's register value. -/
def outEntries (v : Nat) : List Nat := (List.range (bits v 45 4 + 1)).map (fun c => 256 + bits v 49 7 + c)

/-- A stream's register is written: enable binds the stream's entries, which must be enabled and unbound, and a stream starts
in silence (R304, R305). -/
def State.outWrite (s : State) (o : Nat) (v : BitVec 64) : State :=
  let was := s.bit R.AUD_OUT_BASE_enable o
  let s := if was then
      (outEntries (s.word R.AUD_OUT_BASE o 0).toNat).foldl (fun (s : State) c => s.put R.AUD_CH_SRC_bound 0 c) s
    else s
  let es := outEntries v.toNat
  let on := v.getLsbD 61 && es.all (fun c => decide (c < 384) && s.bit R.AUD_CH_SRC_enable c && !s.bit R.AUD_CH_SRC_bound c)
  let s := R.AUD_OUT_BASE.flds.foldl (fun (s : State) f => s.writeFld f v o 0) s
  let s := s.put R.AUD_OUT_BASE_enable on.toNat o
  let s := if on then es.foldl (fun (s : State) c => s.put R.AUD_CH_SRC_bound 1 c) s else s
  if was ∧ on then s else (s.setOut o .silent).put R.AUD_OUT_RD_index 0 o

/-- AUD_OUT_ENABLE: a write of AUD_OUTo_BASE (R304, R305). -/
def execAudOutEnable (p : Port) (o : Fin 16) (v : BitVec 64) (s : State) : Out :=
  .next (s.regCmd p (R.AUD_OUT_BASE_base.addr o 0) (fun s => s.outWrite o v))

end Sys2Proof.Machine
end

