-- ==== Sys2Proof/Machine/HbmTile.lean ====
section
/-! DEFINITION. The HBM controller's own steps, invalidation of the tile cache and loading of decode tables (R212, R214,
R217, R218, R226, R227, R397). -/
namespace Sys2Proof.Machine

/-! ### Patrol scrub (R217) -/

/-- Lines of the stack. -/
def hbmLines : Nat := hbmSize / 64

/-- The scrub reads one line. -/
def State.scrubLine (s : State) (line : Nat) : State := s.checkLine line true

/-- A line's pseudo-channel is under recalibration. -/
def State.recalOn (s : State) (line : Nat) : Bool := s.bit R.HBM_STAT_recal_busy && decide (pchanOf line = s.fld R.HBM_STAT_recal_pc)

/-- The end of a pass, once no skipped line is left. -/
def State.scrubWrap (s : State) : State :=
  if s.fld R.HBM_SCRUB_POS_line = hbmLines ∧ s.hbm.skipped = [] then
    (s.put R.HBM_SCRUB_POS_line 0).put R.HBM_SCRUB_POS_passes (s.fld R.HBM_SCRUB_POS_passes + 1)
  else s

/-- One read of the pass: a skipped line whose recalibration has ended, else the next line. -/
def State.scrubStep (s : State) : State :=
  match s.hbm.skipped.find? (fun l => !s.recalOn l) with
  | some l =>
    let s : State := { s with hbm := { s.hbm with skipped := s.hbm.skipped.erase l } }
    s.scrubLine l
  | none =>
    let pos := s.fld R.HBM_SCRUB_POS_line
    if hbmLines ≤ pos then s
    else
      let s := if s.recalOn pos then { s with hbm := { s.hbm with skipped := s.hbm.skipped ++ [pos] } } else s.scrubLine pos
      s.put R.HBM_SCRUB_POS_line (pos + 1)

/-- The interface is trained: COLO_READY0[5] (R27, Table 14-11). -/
def State.hbmUp (s : State) : Bool := (s.fld R.COLO_READY0_ready).testBit 5

/-- PATROL_SCRUB (R27, R217). -/
def execPatrolScrub (s : State) : Out :=
  .next (s.mainEv (fun s => if s.bit R.HBM_CTRL_scrub_en && s.hbmUp then s.scrubStep.scrubWrap else s))

/-! ### Recalibration (R218, Table 9-4) -/

/-- Time and temperature of a pseudo-channel's last recalibration. -/
def State.lastRecal (s : State) (pc : Nat) : Nat × Nat := SMap.get (0, 0) s.hbm.recals pc

/-- An automatic turn is due: the pseudo-channel is next in turn and recal_period has passed since its last
recalibration. -/
def State.turnDue (s : State) (pc : Nat) : Bool :=
  let period := s.fld R.HBM_CTRL_recal_period
  s.hbm.turn == pc && decide (10 ≤ period) && decide (period ≤ 10000) && decide ((s.lastRecal pc).1 + period * 1000000 ≤ s.now)

/-- The stack temperature has moved by recal_dtemp since the pseudo-channel's last recalibration. -/
def State.driftDue (s : State) (pc : Nat) : Bool :=
  let d := s.fld R.HBM_CTRL_recal_dtemp
  let t := s.fld R.HBM_STAT_temp
  let t0 := (s.lastRecal pc).2
  d != 0 && decide (d ≤ max t t0 - min t t0)

/-- A recalibration starts. -/
def State.recalStart (s : State) (pc : Nat) : State := (s.put R.HBM_STAT_recal_pc pc).put R.HBM_STAT_recal_busy 1

/-- RECAL_AUTO (R218). -/
def execRecalAuto (pc : Fin 32) (s : State) : Out :=
  .next (s.mainEv (fun s =>
    if !s.bit R.HBM_CTRL_recal_auto || s.bit R.HBM_STAT_recal_busy || !s.hbmUp then s
    else if s.turnDue pc.val then
      ({ s with hbm := { s.hbm with turn := (s.hbm.turn + 1) % 32 } } : State).recalStart pc.val
    else if s.driftDue pc.val then s.recalStart pc.val
    else s))

/-- A recalibration asked for: it starts, or waits until the interface is trained (R27, R218). -/
def State.recalAsk (s : State) (pc : Nat) : State :=
  if s.hbmUp then s.recalStart pc else { s with hbm := { s.hbm with asked := some pc } }

/-- HBM_RECAL: discarded while a recalibration runs (R218). -/
def execHbmRecal (p : Port) (pc : Fin 32) (go : Bool) (s : State) : Out :=
  .next (s.regCmd p (R.HBM_RECAL_pc.addr 0 0) (fun s => if !go || s.bit R.HBM_STAT_recal_busy then s else s.recalAsk pc.val))

/-- RECAL_DONE: new timing applies, or training did not converge and counts (Table 9-4). -/
def execRecalDone (conv : Bool) (s : State) : Out :=
  .next (s.mainEv (fun s =>
    if !s.bit R.HBM_STAT_recal_busy then s
    else
      let pc := s.fld R.HBM_STAT_recal_pc
      let s := s.put R.HBM_STAT_recal_busy 0
      let s : State := { s with hbm := { s.hbm with recals := SMap.put (0, 0) s.hbm.recals pc (s.now, s.fld R.HBM_STAT_temp) } }
      if conv then s else s.count R.HBM_RECAL_FAIL_count))

/-- HBM_TEMP_READOUT: double-rate refresh above 85 °C (R214). -/
def execHbmTempReadout (temp : BitVec 8) (s : State) : Out :=
  .next (s.mainEv (fun s => (s.put R.HBM_STAT_temp temp.toNat).put R.HBM_STAT_hot (decide (85 < temp.toNat)).toNat))

/-! ### Tile cache and decode tables -/

/-- Invalidate the tiles that a test chooses: a pinned one when its pin is released (R212, R239). -/
def State.invalTiles (s : State) (h : Nat) (p : Tile → Bool) : State :=
  s.updTiles h (fun l => (l.filter (fun t => !(p t && t.pins == 0))).map (fun t => if p t then { t with inval := true } else t))

/-- TC_INVAL (R212). -/
def execTcInval (p : Port) (h : HoopId) (all : Bool) (s : State) : Out :=
  .next (s.regCmd p (R.HOOP_TC_INVAL_all.addr h.val 0) (fun s => if all then s.invalTiles h.val (fun _ => true) else s))

/-- A slot takes a table, or is empty. -/
def State.setSlot (s : State) (h k : Nat) (t : Option (List Byte)) : State :=
  ((s.updHoop h (fun x => { x with dt := x.dt.filter (fun p => p.1 ≠ k) ++ (t.map (fun v => (k, v))).toList })).sramDrop
    (dtAddr h k 0) 128).dtLoaded h

/-- A table is loaded into a slot: one that breaks R226 loads as empty and sets the slot's bad bit. -/
def State.loadTable (s : State) (h k : Nat) (t : Option (List Byte)) : State :=
  let good := t.filter tableOk
  (s.setSlot h k good).setBit R.HOOP_DT_STAT_bad k good.isNone h

/-- DT_LOAD: discarded while busy; from the write on, stagings that name the slot wait (R227). -/
def execDtLoad (p : Port) (h : HoopId) (addr : BitVec 45) (slot : Fin 4) (s : State) : Out :=
  .next (s.regCmd p (R.HOOP_DT_LOAD_addr.addr h.val 0) (fun s =>
    if s.bit R.HOOP_DT_STAT_busy h.val then s
    else (s.updHoop h.val (fun k => { k with dtLoad := some (addr.toNat * 128, slot.val) })).put R.HOOP_DT_STAT_busy 1 h.val))

end Sys2Proof.Machine
end

