-- ==== Sys2Proof/Machine/Crypto.lean ====
section
/-! DEFINITION. The algorithms that the trust chapter names: SHAKE256 of FIPS 202 and Ed448 of RFC 8032 with an empty
context (R350). -/
namespace Sys2Proof.Machine

/-! ### Bytes -/

/-- A little-endian number of bytes. -/
def edNat (l : List Byte) : Nat := l.foldr (fun b n => b.toNat + 256 * n) 0

/-- n little-endian bytes of a number. -/
def edBytes : Nat → Nat → List Byte
  | 0, _ => []
  | n + 1, v => BitVec.ofNat 8 (v % 256) :: edBytes n (v / 256)

/-! ### SHAKE256 -/

/-- The round constants' shift register: multiplication by x modulo x^8 + x^6 + x^5 + x^4 + 1. -/
def keccakShift (r : Nat) : Nat := if r < 128 then 2 * r else 2 * r ^^^ 0x171

/-- The constant of a round and the register after it: step j of seven gives bit 2^j - 1. -/
def keccakConst (r : Nat) : Nat × Nat :=
  (List.range 7).foldl (fun q j => (q.1 + q.2 % 2 * 2 ^ (2 ^ j - 1), keccakShift q.2)) (0, r)

/-- The constants of n rounds from a register on. -/
def keccakConsts : Nat → Nat → List Nat
  | 0, _ => []
  | n + 1, r => (keccakConst r).1 :: keccakConsts n (keccakConst r).2

/-- A 1 at the low bit of each of the five lanes of a plane, and of each of the five planes. A state is one number: lane
x + 5 y at bit 64 (x + 5 y). -/
def keccakLanes : Nat := 2 ^ 256 + 2 ^ 192 + 2 ^ 128 + 2 ^ 64 + 1
def keccakPlanes : Nat := 2 ^ 1280 + 2 ^ 960 + 2 ^ 640 + 2 ^ 320 + 1

/-- Theta: each lane takes in the parity of the columns on either side, the one above rotated by 1. -/
def keccakTheta (a : Nat) : Nat :=
  let c := (a ^^^ a / 2 ^ 320 ^^^ a / 2 ^ 640 ^^^ a / 2 ^ 960 ^^^ a / 2 ^ 1280) % 2 ^ 320
  let r := (c &&& keccakLanes * (2 ^ 63 - 1)) * 2 + (c / 2 ^ 63 &&& keccakLanes)
  let d := (c * 2 ^ 64 % 2 ^ 320 + c / 2 ^ 256) ^^^ (r / 2 ^ 64 + r % 2 ^ 64 * 2 ^ 256)
  a ^^^ d * keccakPlanes

/-- Rho and pi along the walk that lane (x, y) takes to (y, 2 x + 3 y): step t rotates by the triangular number of t + 1. -/
def keccakWalk (a : Nat) : Nat → Nat → Nat → Nat → Nat
  | 0, _, _, _ => 0
  | n + 1, t, x, y =>
    let w := a / 2 ^ (64 * (x + 5 * y)) % 2 ^ 64
    let k := (t + 1) * (t + 2) / 2 % 64
    let z := (2 * x + 3 * y) % 5
    (w * 2 ^ k % 2 ^ 64 + w / 2 ^ (64 - k)) * 2 ^ (64 * (y + 5 * z)) + keccakWalk a n (t + 1) y z

/-- Chi: each lane takes in what the next lane of its plane does not have of the one after. -/
def keccakChi (b : Nat) : Nat :=
  let b1 := (b / 2 ^ 64 &&& keccakPlanes * (2 ^ 256 - 1)) + (b &&& keccakPlanes * (2 ^ 64 - 1)) * 2 ^ 256
  let b2 := (b / 2 ^ 128 &&& keccakPlanes * (2 ^ 192 - 1)) + (b &&& keccakPlanes * (2 ^ 128 - 1)) * 2 ^ 192
  b ^^^ ((2 ^ 1600 - 1 - b1) &&& b2)

/-- One round of Keccak-f[1600]: theta, rho, pi, chi and iota. -/
def keccakRound (a rc : Nat) : Nat :=
  let b := keccakTheta a
  keccakChi (b % 2 ^ 64 + keccakWalk b 24 0 1 0) ^^^ rc

/-- Keccak-f[1600]. -/
def keccakF (a : Nat) : Nat := (keccakConsts 24 1).foldl keccakRound a

/-- Rate of SHAKE256 in bytes. -/
def shakeRate : Nat := 136

/-- A message of k bytes with its domain bits and padding, in n whole blocks, as one number. -/
def shakePad (l : List Byte) (k n : Nat) : Nat := edNat l + 0x1F * 2 ^ (8 * k) + 0x80 * 2 ^ (8 * shakeRate * n - 8)

/-- Absorb n blocks. -/
def absorb : Nat → Nat → Nat → Nat
  | 0, _, a => a
  | n + 1, m, a => absorb n (m / 2 ^ (8 * shakeRate)) (keccakF (a ^^^ m % 2 ^ (8 * shakeRate)))

/-- Squeeze n blocks. -/
def squeeze : Nat → Nat → List Byte
  | 0, _ => []
  | n + 1, a => edBytes shakeRate a ++ squeeze n (keccakF a)

/-- SHAKE256 with n bytes of output. -/
def shake256 (l : List Byte) (n : Nat) : List Byte :=
  let b := l.length / shakeRate + 1
  (squeeze ((n + shakeRate - 1) / shakeRate) (absorb b (shakePad l l.length b) 0)).take n

/-- A digest: SHAKE256 with 64 bytes of output (R350). -/
def digest (l : List Byte) : List Byte := shake256 l 64

/-! ### Ed448 -/

/-- The field prime 2^448 - 2^224 - 1, the constant d and the group order. -/
def edP : Nat := 2 ^ 448 - 2 ^ 224 - 1
def edD : Nat := edP - 39081
def edL : Nat := 2 ^ 446 - 13818066809895115352007386748515426880336692474882178609894547503885

/-- b^e modulo p by squaring; `fuel` bounds the bits of e. -/
def powMod (p : Nat) : Nat → Nat → Nat → Nat
  | 0, _, _ => 1 % p
  | fuel + 1, b, e =>
    if e = 0 then 1 % p
    else
      let r := powMod p fuel (b * b % p) (e / 2)
      if e % 2 = 1 then r * b % p else r

/-- The inverse in the field. -/
def edInv (a : Nat) : Nat := powMod edP 450 a (edP - 2)

/-- A point in projective coordinates. -/
structure EdPt where
  x : Nat
  y : Nat
  z : Nat
deriving DecidableEq, Repr

def edZero : EdPt := ⟨0, 1, 1⟩

/-- The base point. -/
def edBase : EdPt :=
  ⟨224580040295924300187604334099896036246789641632564134246125461686950415467406032909029192869357953282578032075146446173674602635247710,
   298819210078481492676017930443930673437544040154080242095928241372331506189835876003536878655418784733982303233503462500531545062832660, 1⟩

/-- Subtraction in the field. -/
def edSub (a b : Nat) : Nat := (a + edP - b % edP) % edP

/-- Addition on the untwisted Edwards curve. -/
def edAdd (p q : EdPt) : EdPt :=
  let a := p.z * q.z % edP
  let b := a * a % edP
  let c := p.x * q.x % edP
  let d := p.y * q.y % edP
  let e := edD * (c * d % edP) % edP
  let f := edSub b e
  let g := (b + e) % edP
  let h := (p.x + p.y) * (q.x + q.y) % edP
  ⟨a * f % edP * edSub h ((c + d) % edP) % edP, a * g % edP * edSub d c % edP, f * g % edP⟩

/-- A multiple of a point; `fuel` bounds the bits of n. -/
def edMul : Nat → Nat → EdPt → EdPt
  | 0, _, _ => edZero
  | fuel + 1, n, p =>
    if n = 0 then edZero
    else
      let r := edMul fuel (n / 2) (edAdd p p)
      if n % 2 = 1 then edAdd r p else r

/-- Equality of points. -/
def edEq (p q : EdPt) : Bool :=
  p.x * q.z % edP == q.x * p.z % edP && p.y * q.z % edP == q.y * p.z % edP

/-- A point as its 57 bytes. -/
def edEncode (p : EdPt) : List Byte :=
  let zi := edInv p.z
  let x := p.x * zi % edP
  let y := p.y * zi % edP
  edBytes 57 (y + x % 2 * 2 ^ 455)

/-- The point that 57 bytes encode. -/
def edDecode (l : List Byte) : Option EdPt :=
  let v := edNat l
  let y := v % 2 ^ 455
  let sg := v / 2 ^ 455
  if l.length ≠ 57 ∨ edP ≤ y then none
  else
    let u := edSub (y * y % edP) 1
    let w := edSub (edD * (y * y % edP) % edP) 1
    let x := u * edInv w % edP
    let r := powMod edP 450 x ((edP + 1) / 4)
    if r * r % edP ≠ x then none
    else if r = 0 ∧ sg = 1 then none
    else some ⟨if r % 2 = sg then r else edP - r, y, 1⟩

/-- The hash prefix of Ed448 with an empty context. -/
def edDom : List Byte := [0x53, 0x69, 0x67, 0x45, 0x64, 0x34, 0x34, 0x38, 0x00, 0x00]

/-- The hash of Ed448, 114 bytes. -/
def edHash (l : List Byte) : List Byte := shake256 (edDom ++ l) 114

/-- The scalar and the prefix that a private key expands to. -/
def edExpand (priv : List Byte) : Nat × List Byte :=
  let h := shake256 priv 114
  let s := edNat (h.take 56)
  (s / 4 * 4 % 2 ^ 447 + 2 ^ 447, h.drop 57)

/-- The public key of a private key. -/
def edPublic (priv : List Byte) : List Byte := edEncode (edMul 460 (edExpand priv).1 edBase)

/-- A signature. -/
def edSign (priv msg : List Byte) : List Byte :=
  let (a, pre) := edExpand priv
  let pub := edPublic priv
  let r := edNat (edHash (pre ++ msg)) % edL
  let rb := edEncode (edMul 460 r edBase)
  let k := edNat (edHash (rb ++ pub ++ msg)) % edL
  rb ++ edBytes 57 ((r + k * a) % edL)

/-- A signature verifies. -/
def edVerify (pub msg sig : List Byte) : Bool :=
  match edDecode pub, edDecode (sig.take 57) with
  | some a, some r =>
    let s := edNat (sig.drop 57)
    let k := edNat (edHash (sig.take 57 ++ pub ++ msg)) % edL
    sig.length == 114 && decide (s < edL) &&
      edEq (edMul 4 4 (edMul 460 s edBase)) (edMul 4 4 (edAdd r (edMul 460 k a)))
  | _, _ => false

end Sys2Proof.Machine
end

