-- ==== Sys2Proof/Machine/Trust.lean ====
section
/-! DEFINITION. Fuses, identity, manifests and measurements (R347 to R353). -/
namespace Sys2Proof.Machine

/-- The present lifecycle state: 0 MANUFACTURE, 1 PROVISIONED, 2 DEPLOYED, 3 RETURN (R348). -/
def State.lifecycle (s : State) : Nat := s.fld R.SEC_LIFECYCLE_state

/-- The ASCII bytes of a string of characters below 128. -/
def ascii (t : List Nat) : List Byte := t.map (BitVec.ofNat 8)

/-- "GM4620 production identity" and "GM4620 return identity" (R353). -/
def identityLabel (ret : Bool) : List Byte :=
  ascii [0x47, 0x4D, 0x34, 0x36, 0x32, 0x30, 0x20]
    ++ (if ret then ascii [0x72, 0x65, 0x74, 0x75, 0x72, 0x6E]
        else ascii [0x70, 0x72, 0x6F, 0x64, 0x75, 0x63, 0x74, 0x69, 0x6F, 0x6E])
    ++ ascii [0x20, 0x69, 0x64, 0x65, 0x6E, 0x74, 0x69, 0x74, 0x79]

/-- The identity private key: the first 57 bytes of SHAKE256 of the device secret and the label (R353). -/
def State.idPriv (s : State) : List Byte :=
  shake256 (toLE 32 s.fuses.secret.toNat ++ identityLabel (s.lifecycle == 3)) 57

/-- The identity public key, 57 bytes, as SEC_ID_PUB holds it (R353). -/
def State.idPub (s : State) : List Byte :=
  ((List.range 8).flatMap (fun k => toLE 8 (s.fld R.SEC_ID_PUB_bytes k))).take 57

/-- The first 16 bytes of the identity digest (R353). -/
def State.idDigest16 (s : State) : List Byte := (digest s.idPub).take 16

/-- The identity key is derived at a device reset (R353): SEC_ID_PUB takes the public key. -/
def State.deriveIdentity (s : State) : State :=
  let pub := edPublic s.idPriv
  (List.range 8).foldl (fun (s : State) k => s.put R.SEC_ID_PUB_bytes (leNat ((pub.drop (8 * k)).take 8)) k) s

/-! ### Manifests (R350, R351, Table 14-2, Table 14-3) -/

/-- Bytes of a manifest. -/
def manifestSize : Nat := 320

/-- A field of a manifest: n bytes from o, little-endian. -/
def mfield (m : List Byte) (o n : Nat) : Nat := leNat ((m.drop o).take n)

/-- The bytes are all zero. -/
def allZero (l : List Byte) : Bool := l.all (· == 0)

/-- The signer that Table 14-2 requires for a kind in a lifecycle state: 0 vendor, 1 owner, none where every such image is
refused. -/
def signerFor (life kind : Nat) : Option Nat :=
  if kind = 5 then (if life = 2 then some 1 else if life = 3 then none else some 0)
  else if kind = 7 then some (if life = 2 then 1 else 0)
  else some 0

/-- The digest of the key that a signer must use: root_digest or owner_digest. -/
def State.signerDigest (s : State) (signer : Nat) : List Byte :=
  toLE 64 (if signer = 0 then s.fuses.rootDigest.toNat else s.fuses.ownerDigest.toNat)

/-- Check 1 of R351: magic, version, kind and reserved bytes are as Table 14-3 states; svn is zero for kinds 5 to 7. -/
def manifestForm (m : List Byte) (kind : Nat) : Bool :=
  mfield m 0 4 == 0x4E4D4D47 && mfield m 4 2 == 1 && mfield m 6 1 == kind && (kind ≤ 4 || mfield m 8 4 == 0)
    && mfield m 12 4 == 0 && allZero ((m.drop 104).take 8) && allZero ((m.drop 169).take 7) && allZero (m.drop 290)

/-- Checks 1 to 5 of R351: form, signer and key, binding, signature, svn. -/
def State.manifestSigned (s : State) (m : List Byte) (kind : Nat) : Bool :=
  let signer := mfield m 7 1
  let key := (m.drop 112).take 57
  let bind := (m.drop 88).take 16
  manifestForm m kind
    && signerFor s.lifecycle kind == some signer && digest key == s.signerDigest signer
    && (allZero bind || bind == s.idDigest16)
    && edVerify key (m.take 176) ((m.drop 176).take 114)
    && (4 < kind || decide (s.fuses.svnFloor ≤ mfield m 8 4))

/-- Check 6 of R351: the digest of the covered bytes equals the manifest's. -/
def digestOk (m covered : List Byte) : Bool := digest covered == (m.drop 24).take 64

/-- The measurement of an image: SHAKE256 over bytes 0 to 175 of its accepted manifest (R352). -/
def measure (m : List Byte) : List Byte := digest (m.take 176)

end Sys2Proof.Machine
end

