-- ==== Sys2Proof/Machine/Binder.lean ====
section
/-! DEFINITION. Binder images and the binder commands (R28, R83, R85, R226, R227, R234 to R240, R351, R352). -/
namespace Sys2Proof.Machine

/-! ### Checking an image (Table 9-9) -/

/-- A check ends the command with a result and its detail, or needs remote lines. -/
inductive BStop where
  | stop (code detail : Nat)
  | need (lines : List Nat)
deriving DecidableEq, Repr

/-- Checks read the image through the state. -/
abbrev Chk := EStateM BStop State

/-- Bytes of the image; a byte that cannot be read stops with READ. -/
def readImg (a n : Nat) : Chk (List Byte) := fun s =>
  match s.readToile 129 a n with
  | .bytes l => .ok l (s.touched a n)
  | .need ls => .error (.need ls) s
  | _ => .error (.stop 0x0E 0) (s.touched a n)

/-- Stop with a result unless a condition holds. -/
def must (code detail : Nat) (ok : Bool) : Chk Unit := if ok then pure () else throw (.stop code detail)

/-- A list of conditions with their details; the first that fails stops. -/
def mustAll (code : Nat) : List (Nat × Bool) → Chk Unit
  | [] => pure ()
  | (d, ok) :: l => do
    must code d ok
    mustAll code l

/-- A part of an image: 16-byte aligned and within its size (R234). -/
def partOk (hd : List Byte) (size o n : Nat) : Bool := decide (mfield hd o 8 % 16 = 0) && decide (mfield hd o 8 + n ≤ size)

/-- The set bits of a mask of 4 in ascending order. -/
def slotsOf (mask : Nat) : List Nat := (List.range 4).filter (fun k => mask.testBit k)

/-- A stream parameter record (Table 9-8). -/
def paramsOf (r : List Byte) : Params :=
  { hop := mfield r 0 2, frames := mfield r 2 1, channels := mfield r 3 1, lookback := mfield r 4 4, fmt := mfield r 8 1,
    external := mfield r 9 1 == 1, g := mfield r 10 1, size := mfield r 12 4, resSize := mfield r 16 4,
    sites := mfield r 20 2, rows := mfield r 22 2, waitUs := mfield r 24 4, budgetUs := mfield r 28 4,
    costA := BitVec.ofNat 32 (mfield r 32 4), costB := BitVec.ofNat 32 (mfield r 36 4), fs := mfield r 40 4,
    layout := mfield r 44 4 }

/-- An FP32 number that is finite and not below zero. -/
def finiteNonNeg (v : Nat) : Bool := decide (v < 0x7F800000) || v == 0x80000000

/-- The bytes that a state must cover: header, scale entries and running maxima (R85). -/
def leastState (q : Nat) : Nat := 64 + 4 * q + (2 * q + 63) / 64 * 64

/-- The ranges of Table 2-1 and Table 9-8, by record byte offset (R28, R85, R235). -/
def paramChecks (r : List Byte) : List (Nat × Bool) :=
  let p := paramsOf r
  let least := leastState p.sites
  [(0, decide (16 ≤ p.hop ∧ p.hop ≤ 4096)), (2, decide (1 ≤ p.frames ∧ p.frames ≤ 64)),
   (3, decide (1 ≤ p.channels ∧ p.channels ≤ 16)), (4, decide (p.lookback ≤ 65536)), (8, decide (p.fmt ≤ 2)),
   (9, decide (mfield r 9 1 ≤ 1)), (10, [1, 2, 4, 8].contains p.g), (11, mfield r 11 1 == 0),
   (12, decide (p.size % 256 = 0 ∧ 256 ≤ p.size ∧ p.size ≤ (if p.external then 0x1000000 else 0x40000) ∧ least ≤ p.size)),
   (16, !p.external || decide (256 ≤ p.resSize ∧ p.resSize ≤ 0x40000 ∧ p.resSize ≤ p.size ∧ least ≤ p.resSize)),
   (20, decide (p.sites ≤ 256)), (22, decide (p.frames ≤ p.rows ∧ p.rows ≤ 1024)), (24, decide (p.waitUs ≤ 10000)),
   (28, decide (1000 ≤ p.budgetUs ∧ p.budgetUs ≤ 25000)), (32, finiteNonNeg (mfield r 32 4)),
   (36, finiteNonNeg (mfield r 36 4)), (40, decide (8000 ≤ p.fs ∧ p.fs ≤ 192000)), (48, allZero (r.drop 48))]

/-- A site record that R83 accepts. -/
def siteOk (v : Nat) : Bool :=
  decide (0 < bits v 0 16 ∧ bits v 0 16 < 0x7C00) && decide (3 ≤ bits v 24 4 ∧ bits v 24 4 ≤ 5)
    && (bits v 28 8 == 0 || bits v 24 4 == 4) && decide (v < 2 ^ 37)

/-- A region entry (R236). -/
def regionOf (v : Nat) : Region :=
  { base := bits v 0 52, size := bits v 64 40, read := v.testBit 104, write := v.testBit 105, immutable := v.testBit 106 }

/-- A region entry that is well formed by itself. -/
def regionForm (v : Nat) : Bool :=
  let r := regionOf v
  decide (r.base % 4096 = 0) && bits v 52 12 == 0 && decide (0 < r.size ∧ r.size % 4096 = 0) && bits v 107 21 == 0
    && !(r.immutable && r.write)

/-- Two regions share a byte. -/
def State.regionsMeet (s : State) (a b : Region) : Bool :=
  decide (s.norm a.base < s.norm b.base + b.size) && decide (s.norm b.base < s.norm a.base + a.size)

/-- The region checks in ascending order of index: its form, and no overlap with an earlier one. -/
def State.regionChecks (s : State) (vs : List Nat) : List (Nat × Bool) :=
  (List.range vs.length).map (fun i =>
    (i, regionForm (vs.getD i 0)
      && (vs.take i).all (fun w => !s.regionsMeet (regionOf (vs.getD i 0)) (regionOf w))))

/-- n bytes at an address lie in a readable immutable region: the index of the region that holds them but is not one, or
the number of regions (Table 9-9, REGION). -/
def State.homeRegion (s : State) (rs : List Region) (a n : Nat) : Option Nat :=
  match rs.findIdx? (fun r => decide (s.norm r.base ≤ s.norm a) && decide (s.norm a + n ≤ s.norm r.base + r.size)) with
  | none => some rs.length
  | some i => match rs[i]? with
    | some r => if r.read && r.immutable then none else some i
    | none => some rs.length

/-- The checks STATE to BASE of REGISTER, in order; what they read becomes the binder (R234 to R238). -/
def checkImage (a : Nat) : Chk Binder := do
  let off := a % 2 ^ 40
  must 0x02 0 (decide (off % 4096 = 0) && decide (off < hbmSize))
  let sz ← readImg (a + 8) 8
  let size := leNat sz
  must 0x02 0 (decide (off + size ≤ hbmSize))
  let hd ← readImg a 256
  let s ← get
  let link := mfield hd 16 8
  let variant := (mfield hd 6 2).testBit 0
  let nreg := mfield hd 48 2
  let mask := mfield hd 80 1
  mustAll 0x03 [(0, mfield hd 0 4 == 0x49424D47), (4, mfield hd 4 2 == 1), (6, mfield hd 6 2 / 4 == 0),
    (8, decide (0 < size ∧ size % 4096 = 0)), (16, decide (link < 2 ^ 52) && s.norm link == s.norm a),
    (32, partOk hd size 32 64)]
  let rec' ← readImg (a + mfield hd 32 8) 64
  let p := paramsOf rec'
  let initLen := p.size - 64 - 4 * p.sites
  mustAll 0x03 [(40, partOk hd size 40 (16 * nreg)), (48, decide (1 ≤ nreg ∧ nreg ≤ 64)), (50, allZero ((hd.drop 50).take 6)),
    (56, partOk hd size 56 (8 * p.sites)), (64, partOk hd size 64 initLen),
    (72, partOk hd size 72 (128 * (slotsOf mask).length)), (80, decide (mask < 16)), (81, allZero ((hd.drop 81).take 3)),
    (84, variant || mfield hd 84 2 == 0), (86, mfield hd 86 2 == 0), (88, partOk hd size 88 manifestSize),
    (96, variant || allZero ((hd.drop 96).take 64)), (160, allZero (hd.drop 160))]
  let moff := mfield hd 88 8
  let man ← readImg (a + moff) manifestSize
  must 0x04 0 (mfield man 16 8 == size && s.manifestSigned man 5)
  let img ← readImg a size
  must 0x04 0 (digestOk man (img.take moff ++ List.replicate manifestSize 0 ++ img.drop (moff + manifestSize)))
  mustAll 0x05 (paramChecks rec')
  let sites := (List.range p.sites).map (fun q => mfield img (mfield hd 56 8 + 8 * q) 8)
  mustAll 0x06 (sites.mapIdx (fun q v => (q, siteOk v)))
  let regs := (List.range nreg).map (fun i => mfield img (mfield hd 40 8 + 16 * i) 16)
  mustAll 0x07 (s.regionChecks regs)
  let rs := regs.map regionOf
  let entry := mfield hd 24 8
  match s.homeRegion rs a size with
  | some i => throw (.stop 0x07 i)
  | none => pure ()
  match if entry < 2 ^ 52 then s.homeRegion rs entry 8 else some rs.length with
  | some i => throw (.stop 0x07 i)
  | none => pure ()
  let tables := (slotsOf mask).mapIdx (fun i k => (k, (img.drop (mfield hd 72 8 + 128 * i)).take 128))
  mustAll 0x08 (tables.map (fun t => (t.1, tableOk t.2)))
  let base : BitVec 12 := BitVec.ofNat 12 (mfield hd 84 2)
  must 0x09 0 (!variant || (s.binder base).map (fun b => b.measurement) == some (BitVec.ofNat 512 (mfield hd 96 64)))
  pure { image := s.norm a, par := p, regions := rs, entry := BitVec.ofNat 52 entry,
         sites := sites.map (BitVec.ofNat 64), init := (img.drop (mfield hd 64 8)).take initLen, dtMask := mask,
         tables := tables, base := if variant then some base else none,
         measurement := BitVec.ofNat 512 (leNat (measure man)), record := rec' }

/-! ### Running a command -/

/-- The command ends with a result (R37, R237). -/
def State.bndDone (s : State) (code detail : Nat) : State :=
  let s := (s.put R.FOL_BND_STATUS_result code).put R.FOL_BND_STATUS_detail detail
  ({ s with bnd := none } : State).put R.FOL_BND_STATUS_busy 0

/-- Hoops of a mask in ascending order. -/
def hoopsOf (mask : Nat) : List Nat := (List.range 16).filter (fun h => mask.testBit h)

/-- A binder loaded on a hoop, other than b, names a slot. -/
def State.slotNamed (s : State) (h k : Nat) (b : Option (BitVec 12)) : Bool :=
  (s.hoop h).loaded.any (fun x => some x != b && (((s.binder x).map (fun (y : Binder) => y.dtMask)).getD 0).testBit k)

/-- DT_CONFLICT: the first slot, by hoop, that holds a different table named by another binder loaded there. -/
def State.dtConflict (s : State) (b : BitVec 12) (bd : Binder) (hs : List Nat) : Option Nat :=
  (hs.flatMap (fun h => (bd.tables.filter (fun t =>
    match s.dtSlot h t.1 with
    | none => false
    | some x => x != t.2 && s.slotNamed h t.1 (some b))).map (·.1))).head?

/-- FULL: 64 binders on the device, or 8 on a hoop of the mask. -/
def State.loadFull (s : State) (b : BitVec 12) (bd : Binder) (hs : List Nat) : Option Nat :=
  if bd.hoops.isEmpty ∧ hs ≠ [] ∧ 64 ≤ (s.binders.filter (fun p => !p.2.hoops.isEmpty)).length then some 0xFFFF
  else hs.find? (fun h => !(s.hoop h).loaded.contains b && decide (8 ≤ (s.hoop h).loaded.length))

/-- A table of the image goes to its slot: at once when nothing in flight names the slot, else when that ends (R227). -/
def State.placeTable (s : State) (h : Nat) (t : Nat × List Byte) : State :=
  let go := match s.dtSlot h t.1 with
    | none => true
    | some x => x != t.2 && !s.slotNamed h t.1 none
  if !go then s
  else if s.dtInflight h t.1 = 0 then s.loadTable h t.1 (some t.2)
  else (s.updHoop h (fun k => { k with dtQueue := k.dtQueue ++ [t] })).put R.HOOP_DT_STAT_busy 1 h

/-- A binder is loaded on a hoop: its tables, and the start of the cores of a hoop that had no binder (R96, R238, R239). -/
def State.loadOn (s : State) (b : BitVec 12) (bd : Binder) (h : Nat) : State :=
  let first := (s.hoop h).loaded.isEmpty
  let s := bd.tables.foldl (fun (s : State) t => s.placeTable h t) s
  if (s.hoop h).loaded.contains b then s
  else
    let s := s.updHoop h (fun k => { k with loaded := k.loaded ++ [b] })
    let s := s.updBinder b (fun x => { x with hoops := (x.hoops ++ [h]).mergeSort (fun x y => decide (x ≤ y)) })
    if first ∧ s.hoopOn h then (List.range 8).foldl (fun (s : State) j => s.startCore (8 * h + j) b bd.entry) s else s

/-- A LOAD or SWAP loads a binder on hoops, and wakes those that are off (R238, R240, R378). -/
def State.loadHoops (s : State) (b : BitVec 12) (bd : Binder) (hs : List Nat) : State :=
  let new := hs.filter (fun h => !(s.hoop h).loaded.contains b)
  let s : State := { s with bnd := s.bnd.map (fun r => { r with added := new }) }
  hs.foldl (fun (s : State) h => (s.loadOn b bd h).wakeHoop h) s

/-- Every table of the running LOAD or SWAP is in its slot. -/
def State.tablesIn (s : State) : Bool := (List.range 16).all (fun h => (s.hoop h).dtQueue.isEmpty)

/-- A LOAD or SWAP completes when every hoop is done; a SWAP makes b2 the successor of b from then on (R238, R240). -/
def State.bndSettle (s : State) : State :=
  match s.bnd with
  | none => s
  | some r =>
    if !s.tablesIn then s
    else if r.op = 3 then s.bndDone 0 0
    else if r.op = 5 then
      let s := (s.updBinder r.b (fun x => { x with swap := some r.b2 })).swapUnload r.b
      s.bndDone 0 0
    else s

/-- Image fields in which two binders of a SWAP differ beyond R240: a record byte offset, or 0x8000 + q. -/
def swapDiff (x y : Binder) : Option Nat :=
  let flds : List (Nat × Nat) := [(0, 2), (2, 1), (3, 1), (4, 4), (8, 1), (9, 1), (10, 1), (12, 4), (16, 4), (20, 2), (22, 2),
    (24, 4), (28, 4), (40, 4), (44, 4)]
  match flds.find? (fun f => mfield x.record f.1 f.2 != mfield y.record f.1 f.2) with
  | some f => some f.1
  | none => ((List.range (max x.sites.length y.sites.length)).find? (fun q =>
      (x.sites.getD q 0 ^^^ y.sites.getD q 0) >>> 24 != 0)).map (· + 0x8000)

/-- A binder recorded under its number, what was read for it put away. -/
def State.registered (s : State) (b : BitVec 12) (bd : Binder) : State :=
  { s.dropRx 129 with binders := (s.binders ++ [(b.toNat, bd)]).mergeSort (fun x y => decide (x.1 ≤ y.1)) }

/-- REGISTER (R238): what the checks find. Remote bytes are read first and the command goes on when they come. -/
def State.runRegister (s : State) (r : BndRun) : State :=
  if (s.binder r.b).isSome then s.bndDone 0x01 0
  else
    match (checkImage r.image).run s with
    | .error (.need ls) s => s.askLines .binder ls
    | .error (.stop c d) s => (s.dropRx 129).bndDone c d
    | .ok bd s =>
      (s.registered r.b bd).bndDone 0 0

/-- A registered variant names the binder as its base. -/
def State.isBase (s : State) (b : BitVec 12) : Bool := s.binders.any (fun p => p.2.base == some b)

/-- A binder's record gone. -/
def State.deregistered (s : State) (b : BitVec 12) : State := { s with binders := s.binders.filter (fun p => p.1 ≠ b.toNat) }

/-- DEREGISTER (R238). -/
def State.runDeregister (s : State) (r : BndRun) : State :=
  match s.binder r.b with
  | none => s.bndDone 0x01 0
  | some bd =>
    if !bd.hoops.isEmpty then s.bndDone 0x01 0
    else if s.isBase r.b then s.bndDone 0x0C 0
    else (s.deregistered r.b).bndDone 0 0

/-- LOAD on hoops, as LOAD and SWAP do it: the checks DT_CONFLICT and FULL. -/
def State.loadChecks (s : State) (b : BitVec 12) (bd : Binder) (hs : List Nat) : Option (Nat × Nat) :=
  match s.dtConflict b bd hs with
  | some k => some (0x0A, k)
  | none => (s.loadFull b bd hs).map (fun h => (0x0B, h))

/-- LOAD (R238, R240). -/
def State.runLoad (s : State) (r : BndRun) : State :=
  match s.binder r.b with
  | none => s.bndDone 0x01 0
  | some bd =>
    if bd.swap.isSome then s.bndDone 0x01 0
    else
      match s.loadChecks r.b bd (hoopsOf r.mask) with
      | some (c, d) => s.bndDone c d
      | none => (s.loadHoops r.b bd (hoopsOf r.mask)).bndSettle

/-- A binder leaves a list of hoops; one that is left on none has no swap under way. -/
def State.unloadAll (s : State) (b : BitVec 12) (hs : List Nat) : State :=
  (hs.foldl (fun (s : State) h => s.unloadFrom b h) s).updBinder b (fun x => if x.hoops = [] then { x with swap := none } else x)

/-- UNLOAD, after the check BUSY: no open folio on a named hoop, and no registered variant of the binder, which no hoop is
named for (R238, R239, Table 9-9; log entry 76). -/
def State.runUnload (s : State) (r : BndRun) : State :=
  match s.binder r.b with
  | none => s.bndDone 0x01 0
  | some bd =>
    match (hoopsOf r.mask).find? (fun h => decide (0 < s.openFolios r.b h)) with
    | some h => s.bndDone 0x0C h
    | none =>
      if s.isBase r.b then s.bndDone 0x0C 0
      else (s.unloadAll r.b ((hoopsOf r.mask).filter (fun h => bd.hoops.contains h))).bndDone 0 0

/-- SWAP (R240). -/
def State.runSwap (s : State) (r : BndRun) : State :=
  match s.binder r.b, s.binder r.b2 with
  | some x, some y =>
    if x.hoops.isEmpty ∨ r.b = r.b2 ∨ x.swap.isSome ∨ y.swap.isSome ∨ s.binders.any (fun p => p.2.swap == some r.b) then
      s.bndDone 0x01 0
    else
      match s.loadChecks r.b2 y x.hoops with
      | some (c, d) => s.bndDone c d
      | none =>
        match swapDiff x y with
        | some d => s.bndDone 0x0D d
        | none => (s.loadHoops r.b2 y x.hoops).bndSettle
  | _, _ => s.bndDone 0x01 0

/-- Go on with the binder command that runs: REGISTER waits for remote bytes, the others for slots. -/
def State.bndResume (s : State) : State :=
  match s.bnd with
  | some r => if r.op = 1 then s.runRegister r else s
  | none => s

/-- The binder command that a write of FOL_BND_CMD starts, with the arguments as they stand (R237). -/
def State.bndArgs (s : State) (op : Nat) (b : BitVec 12) : BndRun :=
  { op := op, b := b, image := s.fld R.FOL_BND_ARG0_image, mask := s.fld R.FOL_BND_ARG1_hoops,
    b2 := BitVec.ofNat 12 (s.fld R.FOL_BND_ARG1_binder2) }

/-- A binder command has started (R237). -/
def State.bndBusy (s : State) (op : Nat) (b : BitVec 12) : State :=
  { (s.put R.FOL_BND_STATUS_busy 1).put R.FOL_BND_STATUS_binder b.toNat with bnd := some (s.bndArgs op b) }

/-- A write of FOL_BND_CMD with an operation: discarded while a command runs (R37, R237). -/
def State.bndOp (s : State) (p : Port) (op : Nat) (b : BitVec 12) : State :=
  s.regCmd p (R.FOL_BND_CMD_op.addr 0 0) (fun s =>
    if s.bit R.FOL_BND_STATUS_busy then s
    else
      let r := s.bndArgs op b
      let s := s.bndBusy op b
      match op with
      | 1 => s.runRegister r
      | 2 => s.runDeregister r
      | 3 => s.runLoad r
      | 4 => s.runUnload r
      | _ => s.runSwap r)

/-- REGISTER. -/
def execBndRegister (p : Port) (b : BitVec 12) (s : State) : Out := .next (s.bndOp p 1 b)
/-- DEREGISTER. -/
def execBndDeregister (p : Port) (b : BitVec 12) (s : State) : Out := .next (s.bndOp p 2 b)
/-- LOAD. -/
def execBndLoad (p : Port) (b : BitVec 12) (s : State) : Out := .next (s.bndOp p 3 b)
/-- UNLOAD. -/
def execBndUnload (p : Port) (b : BitVec 12) (s : State) : Out := .next (s.bndOp p 4 b)
/-- SWAP. -/
def execBndSwap (p : Port) (b : BitVec 12) (s : State) : Out := .next (s.bndOp p 5 b)

/-! ### Decode-table loads (R227) -/

/-- The load of HOOPh_DT_LOAD ends with a table, or with none where it could not be read. -/
def State.dtEnd (s : State) (h a k : Nat) (t : Option (List Byte)) : State :=
  let s := s.updHoop h (fun x => { x with dtLoad := none })
  let s := s.put R.HOOP_DT_STAT_busy (!(s.hoop h).dtQueue.isEmpty).toNat h
  (s.loadTable h k t).dropRemote (256 + h) a 128

/-- The queued tables of a LOAD whose slots are idle go in (R227, R238). -/
def State.dtDrain (s : State) (h : Nat) : State :=
  let ready := (s.hoop h).dtQueue.filter (fun t => s.dtInflight h t.1 = 0)
  let s := s.updHoop h (fun x => { x with dtQueue := x.dtQueue.filter (fun t => !ready.contains t) })
  let s := ready.foldl (fun (s : State) t => s.loadTable h t.1 (some t.2)) s
  let s := s.put R.HOOP_DT_STAT_busy (!(s.hoop h).dtQueue.isEmpty || (s.hoop h).dtLoad.isSome).toNat h
  s.bndSettle

/-- DT_LOAD_COMPLETE: the slot's in-flight count is 0, the hoop is ready (R27) and the table is read (R227). A table that cannot be read loads as
empty. -/
def execDtLoadComplete (h : HoopId) (s : State) : Out :=
  .next (s.mainEv (fun s =>
    let s := s.dtDrain h.val
    match (s.hoop h.val).dtLoad with
    | none => s
    | some (a, k) =>
      if s.dtInflight h.val k ≠ 0 ∨ !(s.fld R.COLO_READY0_ready).testBit (24 + h.val) then s
      else
        match s.readToile (256 + h.val) a 128 with
        | .need ls => s.askLines (.hoop h) ls
        | .bytes t => (s.touched a 128).dtEnd h.val a k (some t)
        | _ => (s.touched a 128).dtEnd h.val a k none))

end Sys2Proof.Machine
end

