-- ==== Sys2Proof/Machine/Attest.lean ====
section
/-! DEFINITION. Responses of the management service and attestation reports (R358, R359, R362). -/
namespace Sys2Proof.Machine

/-- The number of a status in a response, which the spec does not give (DESIGN CHOICE, log entry 57). -/
def MgmtStatus.code : MgmtStatus → Nat
  | .ok => 0 | .stale => 1 | .sig => 2 | .state => 3 | .slot => 4 | .denied => 5 | .args => 6

/-- The bytes of a response that the identity key signs: status, next challenge, result (R362; their order is a DESIGN CHOICE,
log entry 57). -/
def respBytes (st : MgmtStatus) (chal : BitVec 128) (res : List Byte) : List Byte :=
  toLE 1 st.code ++ toLE 16 chal.toNat ++ res

/-- A response: status, next challenge and result, signed with the identity key. -/
def State.respond (s : State) (st : MgmtStatus) (res : List Byte := []) : State :=
  s.send (.mgmt st s.colo.chal res (edSign s.idPriv (respBytes st s.colo.chal res)))

/-- An entry of a report (Table 14-8). -/
def attEntry (kind index hoops svn : Nat) (meas : List Byte) : List Byte :=
  toLE 2 kind ++ toLE 2 index ++ toLE 2 hoops ++ toLE 2 0 ++ toLE 4 svn ++ List.replicate 20 0 ++ padTo 64 meas

/-- The hoops on which a binder is loaded, but those on which a LOAD or SWAP that runs loads it (R358). -/
def State.hoopsLoaded (s : State) (b : Nat) (x : Binder) : List Nat :=
  match s.bnd with
  | some r => if r.into.toNat = b then x.hoops.filter (fun h => !r.added.contains h) else x.hoops
  | none => x.hoops

/-- The images that run and the binders that are loaded: kind, index, and the entry, by kind and index. -/
def State.attEntries (s : State) : List (List Byte) :=
  let imgs := s.colo.images.map (fun i => (i.kind * 2 ^ 16 + i.index, attEntry i.kind i.index 0 i.svn i.meas))
  let bnds := (s.binders.filter (fun b => !(s.hoopsLoaded b.1 b.2).isEmpty)).map (fun b =>
    (5 * 2 ^ 16 + b.1, attEntry 5 b.1 (((s.hoopsLoaded b.1 b.2).map (fun h => 2 ^ h)).sum) 0 (toLE 64 b.2.measurement.toNat)))
  ((imgs ++ bnds).mergeSort (fun a b => decide (a.1 ≤ b.1))).map (·.2)

/-- An attestation report for a nonce, signed by the identity key (R358). -/
def State.attReport (s : State) (nonce : List Byte) : List Byte :=
  let es := s.attEntries
  let flags := s.fld R.SEC_DEBUG_since_reset + 2 * s.fld R.COLO_BOOT_fallback + 4 * s.fld R.COLO_BOOT_mixed
  let body := toLE 4 0x54414D47 ++ toLE 2 1 ++ toLE 2 flags ++ toLE 1 s.lifecycle ++ toLE 3 0 ++ toLE 2 s.devnum
    ++ toLE 2 es.length ++ toLE 8 s.now ++ padTo 32 nonce ++ s.idDigest16 ++ toLE 4 (s.fld R.TOILE_LEASE_epoch)
    ++ toLE 4 s.fuses.svnFloor ++ List.replicate 48 0 ++ es.flatten
  body ++ edSign s.idPriv body ++ List.replicate 14 0

/-- An attestation request ends with a result; the ATTEST requests that waited are answered in order (R359). -/
def State.attEnd (s : State) (result : Nat) : State :=
  let s := (s.put R.SEC_ATT_STAT_busy 0).put R.SEC_ATT_STAT_result result
  s.attWait.foldl (fun (s : State) nonce => s.respond .ok (s.attReport nonce)) { s with att := none, attWait := [] }

end Sys2Proof.Machine
end

