-- ==== Sys2Proof/Machine/Bus.lean ====
section
/-! DEFINITION. Module identity and the module buses SAPG0 to SAPG3 (R306, R321, R322, R325). -/
namespace Sys2Proof.Machine

/-- A module bus. -/
def State.i2c (s : State) (g : Nat) : I2cX := SMap.get {} s.i2cs g

/-- The state with a module bus changed. -/
def State.updI2c (s : State) (g : Nat) (f : I2cX → I2cX) : State := { s with i2cs := SMap.upd {} s.i2cs g f }

/-- busy reads 1 while a Spine transfer waits or runs (R325). -/
def State.i2cBusy (s : State) (g : Nat) : State :=
  s.put R.MISC_I2C_STAT_busy ((s.i2c g).run.isSome || (s.i2c g).wait.isSome).toNat g

/-- What a command puts on a bus (R325): ops 1, 3 and 5 send wlen bytes from DATA0 on, ops 2 and 3 ask for rlen bytes, op 4
assigns addresses from addr on to at most 4 targets. -/
def State.busSend (s : State) (g : Nat) (v : BitVec 64) : BusSend :=
  let op := bits v.toNat 0 3
  let addr := bits v.toNat 3 7
  let held := (List.range 4).flatMap (fun w => toLE 8 (s.fld R.MISC_I2C_DATA_bytes g w))
  { i3c := s.bit R.MISC_I2C_CFG_i3c g, op := op, addr := BitVec.ofNat 7 addr,
    dat := if op = 1 ∨ op = 3 ∨ op = 5 then held.take (bits v.toNat 10 6) else [],
    ask := if op = 2 ∨ op = 3 then bits v.toNat 16 6 else 0,
    ccc := BitVec.ofNat 8 (if op = 5 then bits v.toNat 22 8 else 0),
    assign := if op = 4 then (List.range 4).map (fun k => BitVec.ofNat 7 (addr + k)) else [] }

/-- A Spine transfer that waits starts on the bus (R325). -/
def State.i2cStart (s : State) (g : Nat) : State :=
  match (s.i2c g).wait with
  | some v => (s.updI2c g (fun x => { x with run := some v, wait := none })).send (.bus g (s.busSend g v))
  | none => s

/-- The bus is free and no identity is to be read: a Spine transfer that waits starts (R325). -/
def State.i2cNext (s : State) (g : Nat) : State :=
  let x := s.i2c g
  (if x.run.isNone ∧ x.ident = [] then s.i2cStart g else s).i2cBusy g

/-! ### Module identity (R306, R321, R322) -/

/-- A port's presence bit, and what follows a removal: a port told to stops, a read of its identity is called off, and an
attached module is gone (R306, R321, R322). -/
def State.modGone (s : State) (a : SapId) : State :=
  let g := a.val / 4
  let s := if s.bit R.SAP_CTRL_detach_stop a ∧ (s.sapState a ≠ 0 ∨ s.bit R.SAP_STAT_pending a) then s.sapOff a else s
  let s := (s.updI2c g (fun x => { x with ident := x.ident.filter (· ≠ a.val) })).i2cNext g
  if s.attached.contains a.val then
    let s : State := { s with attached := s.attached.filter (· ≠ a.val) }
    (s.put R.MISC_MOD_STAT_valid 0 a).event 0x15 5 a 0xFFFFF 0
  else s

/-- A module is there: its identity is to be read, unless it is known or due (R321, R322). -/
def State.modThere (s : State) (a : SapId) : State :=
  let g := a.val / 4
  if s.attached.contains a.val ∨ (s.i2c g).ident.contains a.val then s
  else s.updI2c g (fun x => { x with ident := x.ident ++ [a.val] })

/-- PRSNT_CHANGE: a debounced edge of PRSNT_N (R306, R321, R322). -/
def execPrsntChange (a : SapId) (present : Bool) (s : State) : Out :=
  .next (s.mainEv (fun s =>
    if present then (s.put R.SAP_STAT_prsnt 1 a).modThere a else (s.put R.SAP_STAT_prsnt 0 a).modGone a))

/-- The status of an identity record (R322): 0 good, 1 no acknowledgement, 2 form, 3 digest. -/
def recStatus (ack : Bool) (l : List Byte) : Nat :=
  let len := leNat ((l.drop 6).take 2)
  let n := (l.getD 40 0).toNat
  if !ack then 1
  else if leNat (l.take 4) ≠ 0x44524D47 ∨ (l.getD 4 0).toNat ≠ 1 ∨ n < 1 ∨ 32 < n ∨ len ≠ 72 + 8 * n then 2
  else if (l.drop (len - 8)).take 8 ≠ shake256 (l.take (len - 8)) 8 then 3
  else 0

/-- The class byte that a read found; zero without an acknowledgement. -/
def recClass (ack : Bool) (l : List Byte) : Nat := if ack then (l.getD 5 0).toNat else 0

/-- Word w of a record, zero beyond its length. -/
def recWord (l : List Byte) (w : Nat) : Nat := leNat (((l.take (leNat ((l.drop 6).take 2))).drop (8 * w)).take 8)

/-- A port's identity record is read: its status and class, its words when it is good, and MODULE_ATTACH; the bus goes on
(R322). -/
def State.identTaken (s : State) (a : SapId) (st cls : Nat) (rec : List Byte) : State :=
  let g := a.val / 4
  let s := s.updI2c g (fun x => { x with ident := x.ident.tail })
  let s := ((s.put R.MISC_MOD_STAT_valid (decide (st = 0)).toNat a).put R.MISC_MOD_STAT_status st a).put R.MISC_MOD_STAT_class cls a
  let s := if st = 0 then
      (List.range 64).foldl (fun (s : State) w => s.put R.MISC_MOD_REC_bytes (recWord rec w) a w) s
    else s
  let s : State := { s with attached := s.attached ++ [a.val] }
  (s.event 0x14 5 a 0xFFFFF (st + cls * 2 ^ 8)).i2cNext g

/-- MODULE_IDENTITY_READ: the read of a port whose turn it is completes (R321, R322). -/
def execModuleIdentityRead (a : SapId) (ack : Bool) (rec : List Byte) (s : State) : Out :=
  .next (s.mainEv (fun s =>
    if (s.i2c (a.val / 4)).run.isSome ∨ (s.i2c (a.val / 4)).ident.head? ≠ some a.val then s
    else s.identTaken a (recStatus ack rec) (recClass ack rec) rec))

/-! ### Spine transfers (R325) -/

/-- A transfer ends: its result and count, busy, and the Spine interrupt. -/
def State.i2cDone (s : State) (g result rcount : Nat) : State :=
  let s := s.updI2c g (fun x => { x with run := none })
  let s := ((s.put R.MISC_I2C_STAT_result result g).put R.MISC_I2C_STAT_rcount rcount g).i2cNext g
  if s.bit R.MISC_I2C_CFG_irq g then s.irq (.i2c g) else s

/-- A command that I2C mode refuses: an identity address, a length above 32, or op 3 with nothing to send. -/
def State.i2cRefused (s : State) (g v : Nat) : Bool :=
  let addr := bits v 3 7
  !s.bit R.MISC_I2C_CFG_i3c g
    && ((decide (0x50 ≤ addr) && decide (addr ≤ 0x57)) || decide (32 < bits v 10 6) || decide (32 < bits v 16 6)
        || (bits v 0 3 == 3 && bits v 10 6 == 0))

/-- A refused command ends at once with result 4 (R325). -/
def State.i2cRefuse (s : State) (g : Nat) : State :=
  let s := (s.put R.MISC_I2C_STAT_result 4 g).put R.MISC_I2C_STAT_rcount 0 g
  if s.bit R.MISC_I2C_CFG_irq g then s.irq (.i2c g) else s

/-- A write of MISC_I2Cg_CMD with an op from 1 to 5 (R325): discarded while busy. -/
def State.i2cCmd (s : State) (p : Port) (g op : Nat) (v : BitVec 64) : State :=
  s.regCmd p (R.MISC_I2C_CMD_op.addr g 0) (fun s =>
    if bits v.toNat 0 3 ≠ op ∨ s.bit R.MISC_I2C_STAT_busy g then s
    else if s.i2cRefused g v.toNat then
      s.i2cRefuse g
    else (s.updI2c g (fun x => { x with wait := some v })).i2cNext g)

/-- I2C_WRITE. -/
def execI2cWrite (p : Port) (g : Fin 4) (v : BitVec 64) (s : State) : Out := .next (s.i2cCmd p g 1 v)

/-- I2C_READ. -/
def execI2cRead (p : Port) (g : Fin 4) (v : BitVec 64) (s : State) : Out := .next (s.i2cCmd p g 2 v)

/-- I2C_WRITE_READ. -/
def execI2cWriteRead (p : Port) (g : Fin 4) (v : BitVec 64) (s : State) : Out := .next (s.i2cCmd p g 3 v)

/-- ENTDAA. -/
def execEntdaa (p : Port) (g : Fin 4) (v : BitVec 64) (s : State) : Out := .next (s.i2cCmd p g 4 v)

/-- BROADCAST_CCC. -/
def execBroadcastCcc (p : Port) (g : Fin 4) (v : BitVec 64) (s : State) : Out := .next (s.i2cCmd p g 5 v)

/-- The result code of a bus result (R325). -/
def busCode : BusResult → Nat
  | .ok => 0
  | .addrNak => 1
  | .dataNak => 2
  | .lost => 3
  | .timeout => 5

/-- Received bytes go to the data registers from DATA0 on; bytes beyond them keep what the registers hold. -/
def State.i2cData (s : State) (g : Nat) (l : List Byte) : State :=
  let old := (List.range 4).flatMap (fun w => toLE 8 (s.fld R.MISC_I2C_DATA_bytes g w))
  let new := (l ++ old.drop l.length).take 32
  (List.range 4).foldl (fun (s : State) w => s.put R.MISC_I2C_DATA_bytes (leNat ((new.drop (8 * w)).take 8)) g w) s

/-- The most bytes that a command may receive. -/
def i2cMost (v : Nat) : Nat :=
  if bits v 0 3 = 4 then 32 else if bits v 0 3 = 2 ∨ bits v 0 3 = 3 then min (bits v 16 6) 32 else 0

/-- The count that a transfer leaves: targets assigned by ENTDAA, else bytes received. -/
def i2cCount (v n : Nat) : Nat := if bits v 0 3 = 4 then n / 8 else n

/-- I2C_TRANSFER_END: the bytes a target sent, or 8 bytes for each target that ENTDAA assigned (R325). -/
def execI2cTransferEnd (g : Fin 4) (r : BusResult) (dat : List Byte) (s : State) : Out :=
  .next (s.mainEv (fun s =>
    match (s.i2c g).run with
    | none => s
    | some v =>
      let l := dat.take (i2cMost v.toNat)
      (s.i2cData g l).i2cDone g (busCode r) (i2cCount v.toNat l.length)))

/-- SCL_TIMEOUT: a target has held SCL low for 25 ms; the controller releases the bus (R325). -/
def execSclTimeout (g : Fin 4) (s : State) : Out :=
  .next (s.mainEv (fun s => if (s.i2c g).run.isSome then s.i2cDone g 5 0 else s))

end Sys2Proof.Machine
end

