-- ==== Sys2Proof/Machine/Lease.lean ====
section
/-! DEFINITION. Peer watch, ownership leases, quorum members and promotion (R263, R270 to R278, R339, R340). -/
namespace Sys2Proof.Machine

/-- A peer. -/
def State.peer (s : State) (x : Nat) : Peer := SMap.get {} s.peers x

/-- The state with a peer changed. -/
def State.updPeer (s : State) (x : Nat) (f : Peer → Peer) : State := { s with peers := SMap.upd {} s.peers x f }

/-! ### Promotion (R274, R275) -/

/-- Samples from the ring's oldest sample to index b, negative when b lies before it. -/
def aheadOf (b oldest : Nat) : Int :=
  let d := since b oldest
  if d < 2 ^ 31 then (d : Int) else (d : Int) - 2 ^ 32

/-- The gatherings that a stale shadow skips: the smallest k whose samples from rd_index - L on the ring holds (R275). -/
def State.skipped (s : State) (n : Folio) (e : ShEnt) : Nat :=
  let r := s.ring n
  let w := (s.fol n).written
  let held := min w (2 ^ r.log2)
  let oldest := (r.wr + 2 ^ 32 - held % 2 ^ 32) % 2 ^ 32
  let lead : Int := aheadOf e.nextFirst oldest
  let gh := e.frames * e.hop
  let need : Int := (if w = held ∧ oldest = 0 then 0 else (e.lookback : Int)) - lead
  if need ≤ 0 ∨ gh = 0 then 0 else (need.toNat + gh - 1) / gh

/-- The hoop of a promoted folio: the hint where the binder is loaded, else the one with the fewest open folios. -/
def State.promoHoop (s : State) (e : ShEnt) : Option Nat :=
  let b : BitVec 12 := BitVec.ofNat 12 e.binder
  let hs := ((s.binder b).map (fun x => x.hoops)).getD []
  if hs.contains e.hoop then some e.hoop else s.fewest b hs

/-- One shadow is promoted (R274, R275); answers whether it was. -/
def State.promoteOne (s : State) (i : Nat) : State × Bool :=
  let e := s.sh i
  let n := s.shFolio i
  match s.promoHoop e, s.binder (BitVec.ofNat 12 e.binder) with
  | some h, some b =>
    if (s.ent n).st ≠ .free then (s.count R.TOILE_PROMO_FAIL_count, false)
    else
      let k := if e.stale then s.skipped n e else 0
      let seq := (e.lastSeq + 1 + k) % 2 ^ 32
      let src := s.flows.any (fun p => p.2.bound && p.2.folio == n)
      let s := s.updEnt n (fun _ => {
        st := .idle, binder := BitVec.ofNat 12 e.binder, hoop := BitVec.ofNat 4 h, egress := BitVec.ofNat 4 e.egress,
        statePage := BitVec.ofNat 40 ((ownDev * 2 ^ 40 + e.slot) / 4096), sourceBound := src,
        resetPending := e.stale, restartPending := e.stale })
      let s := if e.stale then
          s.writeLocal e.slot (b.initState ((seq + 2 ^ 32 - 1) % 2 ^ 32) (b.par.frames * seq))
        else s
      let s := s.setRing n { s.ring n with rd := (e.nextFirst + k * (e.frames * e.hop)) % 2 ^ 32, nextSeq := seq }
      let s := s.updFol n (fun f => { written := f.written, lastUsed := s.now })
      let s := if e.relSeq ≠ e.lastSeq then s.count R.TOILE_PROMO_UNSURE_count else s
      let s := (s.flows.filter (fun p => p.2.bound ∧ p.2.folio = n)).foldl (fun (s : State) p =>
        s.updFlow p.1 (fun f => { f with shadow := false, waiting := [] })) s
      (((((s.freeShadow i).noteComplete n).checkReady n).drainFolio n), true)
  | _, _ => (s.count R.TOILE_PROMO_FAIL_count, false)

/-- The partner promotes every valid shadow of a lost home and raises PROMOTED once (R274, Table 10-10). -/
def State.promote (s : State) (x : Nat) : State :=
  let s := s.readShadows
  let mine := s.shadows.filter (fun i => (s.sh i).home == x)
  let (s, k) := mine.foldl (fun (acc : State × Nat) i =>
    let (s, ok) := acc.1.promoteOne i
    (s, acc.2 + ok.toNat)) (s, 0)
  let s := s.updPeer x (fun p => { p with promoteAt := none, promoteBy := [] })
  s.event 0x0E 4 0xFF 0xFFFFF (x % 2 ^ 12 + min k 0xFFF * 2 ^ 12)

/-! ### Answers of the members reach the device (R271 to R276) -/

/-- A member's grants and joins are folded in (R271, R273, R276). -/
def State.leaseAnswer (s : State) (m : Nat) : LeaseReply → State
  | .renewed x => if s.renews then
      ({ s with lease := { s.lease with grants := SMap.put 0 s.lease.grants m x.toNat } } : State).leaseUpdate
    else s
  | .renewRefused e =>
    if s.fld R.TOILE_LEASE_epoch < e.toNat ∧ s.renews then { s with lease := { s.lease with revoked := true } } else s
  | .promoted x =>
    let p := s.peer x.toNat
    if !p.lost ∨ p.promoteAt.isNone then s
    else
      let s := s.updPeer x.toNat (fun p => { p with promoteBy := if p.promoteBy.contains (BitVec.ofNat 12 m) then p.promoteBy
                                                                   else p.promoteBy ++ [BitVec.ofNat 12 m] })
      if s.majority ≤ (s.peer x.toNat).promoteBy.length then s.promote x.toNat else s
  | .promoteRefused _ => s
  | .joined e x =>
    if !s.lease.joining then s
    else
      let joins := s.lease.joins.filter (fun j => j.1 ≠ m) ++ [(m, e, x)]
      let s : State := { s with lease := { s.lease with joins := joins } }
      if joins.length < s.majority then s
      else
        let e := joins.foldl (fun v j => max v j.2.1.toNat) 0
        let s : State := { s with lease := { s.lease with joining := false, revoked := false, joins := [], renewAt := s.now,
                                                          grants := joins.map (fun j => (j.1, j.2.2.toNat)) } }
        (s.put R.TOILE_LEASE_epoch e).leaseUpdate

/-- A member's answer goes to a device, or to itself; it returns the tag of what it answers. -/
def State.memberSay (s : State) (d : Nat) (tag : BitVec 16) (r : LeaseReply) : State :=
  if d = s.devnum then s.leaseAnswer d r else s.post d 3 (.leaseReply tag r)

/-- The device answers LEASE requests as a member: not in standalone mode, not within 60 ms of its reset (R277, R278). -/
def State.serves (s : State) : Bool := s.isMember && s.lease.quietUntil == 0

/-- A renewal at the member and its answer: one that is granted refuses the promotions held for the device (R271, R273). -/
def State.renewed (s : State) (d e t : Nat) : State × LeaseReply :=
  let a := s.memberRenew d e t
  let held : List HeldPromo := match a.2 with | .renewed _ => a.1.lease.heldPromotes.filter (fun h => h.x.toNat = d) | _ => []
  let s : State := { a.1 with lease := { a.1.lease with heldPromotes := a.1.lease.heldPromotes.filter (fun h => !held.contains h) } }
  (held.foldl (fun (s : State) h => s.memberSay h.src.toNat h.tag (.promoteRefused h.x)) s, a.2)

/-- A member's answer to the device (R271, R273, R276). -/
def State.leaseHeard (s : State) (m : Nat) (r : LeaseReply) : State := if s.quorum.contains m then s.leaseAnswer m r else s

/-- LEASE.RENEW with the device's epoch to every member; its own record answers at once (R270, R271, R273). -/
def State.sendRenew (s : State) : State :=
  let e := s.fld R.TOILE_LEASE_epoch
  let t := s.now
  s.quorum.foldl (fun (s : State) m =>
    if m = s.devnum then
      if s.serves then let a := s.renewed m e t; a.1.leaseAnswer m a.2 else s
    else s.post m 3 (.leaseRenew (BitVec.ofNat 32 e) (BitVec.ofNat 64 t))) s

/-- LEASE_RENEW_SEND: every 10 ms, while the device has an epoch to renew (R271, R340). -/
def execLeaseRenewSend (s : State) : Out :=
  .next (s.mainEv (fun s =>
    if !s.renews ∨ s.lease.autoJoin ∨ s.now < s.lease.renewAt then s
    else ({ s with lease := { s.lease with renewAt := s.now + 10 * ms } } : State).sendRenew))

/-- GRANT_EXPIRY: a grant expires unrenewed (R271, Table 10-10). -/
def execGrantExpiry (m : DevNum) (s : State) : Out :=
  .next (s.mainEv (fun s =>
    match s.lease.grants.find? (fun g => g.1 = m.toNat ∧ g.2 ≤ s.now) with
    | none => s
    | some _ =>
      let s : State := { s with lease := { s.lease with grants := SMap.del s.lease.grants m.toNat } }
      s.event 0x0C 4 0xFF 0xFFFFF m.toNat))

/-- LEASE_EXPIRY: the lease passes and the device fences (R272); never in standalone mode (R278). -/
def execLeaseExpiry (s : State) : Out :=
  .next (s.mainEv (fun s =>
    if s.standalone ∨ !s.bit R.TOILE_LEASE_leased ∨ s.now < s.fld R.TOILE_LEASE_EXP_expiry then s
    else (s.put R.TOILE_LEASE_leased 0).fence))

/-! ### The quorum member (R271, R273, R276, R277, R339) -/

/-- A promotion that a member holds is granted: the lost device's epoch is above the one named. -/
def State.grantHeld (s : State) (x : Nat) : State :=
  let held := s.lease.heldPromotes.filter (fun h => h.x.toNat = x)
  let s : State := { s with lease := { s.lease with heldPromotes := s.lease.heldPromotes.filter (fun h => h.x.toNat ≠ x) } }
  held.foldl (fun (s : State) h => s.memberSay h.src.toNat h.tag (.promoted h.x)) s

/-- LEASE.PROMOTE(x, e) at the member: granted or refused at once, or held (R273). A resend of one that is held takes its
place. -/
def State.memberPromote (s : State) (src : Nat) (tag : BitVec 16) (x : DevNum) (e : BitVec 32) : State × Option LeaseReply :=
  let s := s.readQrec x.toNat
  let r := s.qrec x.toNat
  if !r.valid then (s, some (.promoteRefused x))
  else if e.toNat < r.epoch then (s, some (.promoted x))
  else if r.epoch = e.toNat then
    let h : HeldPromo := { x := x, e := e, src := BitVec.ofNat 12 src, tag := tag }
    let l := s.lease.heldPromotes.filter (fun g => !(g.x == x && g.e == e && g.src.toNat == src)) ++ [h]
    ({ s with lease := { s.lease with heldPromotes := l } }, none)
  else (s, some (.promoteRefused x))

/-- PROMOTE_HOLD_EXPIRY: at the recorded expiry + 10 ms the member revokes, raises the epoch and grants (R273). -/
def execPromoteHoldExpiry (x : DevNum) (s : State) : Out :=
  .next (s.mainEv (fun s =>
    if s.lease.heldPromotes.all (fun h => h.x ≠ x) ∨ s.now < (s.qrec x.toNat).expiry + 10 * ms then s
    else ((s.readQrec x.toNat).revoke x.toNat).grantHeld x.toNat))

/-- LEASE.JOIN at the member, and its answer (R276): at once when the record is revoked or absent, or its expiry + 10 ms has
passed; else it is held. -/
def State.memberJoins (s : State) (d : Nat) (tag : BitVec 16) (e : Nat) : State × Option LeaseReply :=
  let s := s.readQrec d
  let r := s.qrec d
  if !r.valid ∨ r.revoked ∨ r.expiry + 10 * ms ≤ s.now then let a := s.memberJoin d e; (a.1, some a.2)
  else
    let l := s.lease.heldJoins.filter (fun h => h.1.toNat ≠ d) ++ [(BitVec.ofNat 12 d, tag)]
    ({ s with lease := { s.lease with heldJoins := l } }, none)

/-- JOIN_ANSWER_DUE (R276). -/
def execJoinAnswerDue (x : DevNum) (s : State) : Out :=
  .next (s.mainEv (fun s =>
    match s.lease.heldJoins.find? (fun h => h.1 = x) with
    | none => s
    | some h =>
      if s.now < (s.qrec x.toNat).expiry + 10 * ms then s
      else
        let s := s.readQrec x.toNat
        let a := ({ s with lease := { s.lease with heldJoins := s.lease.heldJoins.filter (fun h => h.1 ≠ x) } } : State).memberJoin
          x.toNat 0
        a.1.memberSay x.toNat h.2 a.2))

/-- QUORUM_QUIET_END: 60 ms after the device reset (R277). -/
def execQuorumQuietEnd (s : State) : Out :=
  .next (s.mainEv (fun s =>
    if s.lease.quietUntil = 0 ∨ s.now < s.lease.quietUntil then s
    else { s with lease := { s.lease with quietUntil := 0 } }))

/-- LEASE.RESIGN at the member, and whether it acknowledges (R339): the record is revoked at once and the epoch raised, which
grants the promotions held for the device; any other RESIGN is refused. -/
def State.memberResigns (s : State) (d e : Nat) : State × Bool :=
  let a := s.memberResign d e
  (if a.2 then a.1.grantHeld d else a.1, a.2)

/-! ### Joining (R276, R278) -/

/-- LEASE.JOIN to every member (R276). -/
def State.sendJoin (s : State) : State :=
  let s : State := { s with lease := { s.lease with joining := true, joins := [], autoJoin := false } }
  s.quorum.foldl (fun (s : State) m =>
    if m = s.devnum then
      if s.serves then
        let a := s.memberJoins m 0 (s.fld R.TOILE_LEASE_epoch)
        match a.2 with | some r => a.1.leaseAnswer m r | none => a.1
      else s
    else s.post m 3 (.leaseJoin (BitVec.ofNat 32 (s.fld R.TOILE_LEASE_epoch)))) s

/-- TOILE_LEASE.member in step with the quorum set and the device number. -/
def State.memberBit (s : State) : State := s.put R.TOILE_LEASE_member s.isMember.toNat

/-- TOILE_LEASE in standalone mode, and after it (R278); a device that has fenced itself to retire stays fenced until device
reset (R340). -/
def State.setStandalone (s : State) (b : Bool) : State :=
  if b then
    let s := (if s.retire.resignAt.isSome then s else s.setFenced false).put R.TOILE_LEASE_epoch 0
    (s.put R.TOILE_LEASE_leased 1).put R.TOILE_LEASE_EXP_expiry (2 ^ 64 - 1)
  else
    let s := s.fence.put R.TOILE_LEASE_leased 0
    s.put R.TOILE_LEASE_EXP_expiry 0

/-- The quorum set is written; the device joins when it may for the first time (R276, R278). -/
def State.setQuorum (s : State) (v : Nat) (change : Bool) : State :=
  let s := ((s.put R.TOILE_QUORUM_members (bits v 0 60)).put R.TOILE_QUORUM_count (bits v 60 3)).put
    R.TOILE_QUORUM_standalone (v.testBit 63).toNat
  let s := (if change then s.setStandalone (v.testBit 63) else s).memberBit.leaseCheck
  if s.lease.autoJoin && !s.quorum.isEmpty then s.sendJoin else s

/-- TOILE_QUORUM_WRITE: one that changes standalone takes effect only while every folio is FREE (R278); the device joins
once a quorum set is set after device reset (R276). -/
def execToileQuorumWrite (p : Port) (v : BitVec 64) (s : State) : Out :=
  .next (s.regCmd p (R.TOILE_QUORUM_members.addr 0 0) (fun s =>
    let alone := v.getLsbD 63
    let change := alone != s.standalone
    if change && !(s.dir.all (fun d => d.2.st == .free)) then s
    else s.setQuorum v.toNat change))

/-- A folio command that runs ends with STATE. -/
def State.endFolCmd (s : State) : State :=
  match s.folCmd with
  | some (.opening n) => { s.folDone n 1 with folCmd := none }
  | some (.moving n _) => { s.folDone n 1 with folCmd := none }
  | none => s

/-- Every folio becomes FREE and every shadow is dropped, without a record or a message (R276). -/
def State.forgetFolios (s : State) : State :=
  let s := s.dir.foldl (fun (s : State) d => s.freeFolio (BitVec.ofNat 20 d.1)) s
  let s := s.shadows.foldl (fun (s : State) i => s.freeShadow i) s
  (List.range 16).foldl (fun (s : State) h => (s.schedStat h).drainStat h) s

/-- REJOIN: every folio FREE with no record and no message, every shadow dropped, and JOIN sent (R276). -/
def execRejoin (p : Port) (s : State) : Out :=
  .next (s.toileCmd p (fun s =>
    let s := s.endFolCmd.forgetFolios
    (if s.quorum.isEmpty then s else s.sendJoin).put R.TOILE_CMD_STATUS_result 0))

/-! ### Peer watch (R263, R268, R273) -/

/-- A folio has a lining partner: it is lined, or its shadow is being opened or has not acknowledged yet (R263, R268). -/
def State.hasPartner (s : State) (n : Nat) : Bool :=
  let e := s.ent (BitVec.ofNat 20 n)
  let l := (s.fol (BitVec.ofNat 20 n)).line
  e.st != .free && (e.lined || l.setLined || l.openAt.isSome)

/-- The device watches a peer: partner of a folio, home of a shadow, or member of its quorum set. -/
def State.watches (s : State) (x : Nat) : Bool :=
  x != s.devnum && (s.quorum.contains x || s.dir.any (fun p => s.hasPartner p.1 && p.2.partner.toNat == x)
    || s.shadows.any (fun i => (s.sh i).home == x))

/-- Every watched peer, in ascending order. -/
def State.watchList (s : State) : List Nat :=
  ((s.quorum ++ (s.dir.filter (fun p => s.hasPartner p.1)).map (fun p => p.2.partner.toNat)
      ++ s.shadows.map (fun i => (s.sh i).home)).filter (fun x => x != s.devnum)).foldl
    (fun (l : List Nat) x => if l.contains x then l else insertDown x l) [] |>.reverse

/-- LEASE.PROMOTE for a lost home to every member (R273). -/
def State.sendPromote (s : State) (x : Nat) : State :=
  let e := (s.peer x).epoch
  let s := s.updPeer x (fun p => { p with promoteAt := some s.now })
  s.quorum.foldl (fun (s : State) m =>
    if m = s.devnum then
      if s.serves then
        let a := s.memberPromote m 0 (BitVec.ofNat 12 x) e
        match a.2 with | some r => a.1.leaseAnswer m r | none => a.1
      else s
    else s.post m 3 (.leasePromote (BitVec.ofNat 12 x) e)) s

/-- A watched peer is lost (R263): PEER_LOST once, its lined folios go on unlined (R268), its shadows ask for promotion
(R273). `via`: the link of its last usable candidate, 0xFF for none. -/
def State.peerLost (s : State) (x via : Nat) : State :=
  if (s.peer x).lost then s
  else
    let s := s.updPeer x (fun p => { p with lost := true, watched := true })
    let s := s.event 0x0B 4 via 0xFFFFF x
    let s := (s.dir.filter (fun p => s.hasPartner p.1 ∧ p.2.partner.toNat = x)).foldl
      (fun (s : State) p => (s.lineStop (BitVec.ofNat 20 p.1) x).unline (BitVec.ofNat 20 p.1)) s
    if s.shadows.any (fun i => (s.sh i).home == x) ∧ !s.standalone then s.sendPromote x else s

/-- The watched peers are those listed: a new one is taken to be alive now. -/
def State.rewatch (s : State) (l : List Nat) : State :=
  let s := (s.peers.filter (fun p => p.2.watched ∧ !l.contains p.1)).foldl (fun (s : State) p =>
    s.updPeer p.1 (fun q => { q with watched := false, lost := false })) s
  l.foldl (fun (s : State) x =>
    if (s.peer x).watched then s else s.updPeer x (fun p => { p with watched := true, lastBeat := s.now })) s

/-- A BEAT with the device's epoch to each peer listed; a retired device sends none (R263, R340). -/
def State.sendBeats (s : State) (l : List Nat) : State :=
  if s.retire.silent then s
  else l.foldl (fun (s : State) x => s.post x 3
    (.beat (BitVec.ofNat 32 (if s.bit R.TOILE_LEASE_leased then s.fld R.TOILE_LEASE_epoch else 0)))) s

/-- BEAT_SEND: every 500 µs to each watched peer (R263); newly watched peers are watched from now on, and a retired
device is silent (R340). -/
def execBeatSend (s : State) : Out :=
  .next (s.mainEv (fun s =>
    if s.now < s.lease.beatAt then s
    else (({ s with lease := { s.lease with beatAt := s.now + 500 * us } } : State).rewatch s.watchList).sendBeats s.watchList))

/-- A BEAT of a peer: it is alive, and is watched again if it was lost (R263). -/
def State.beatHeard (s : State) (d : Nat) (epoch : BitVec 32) : State :=
  s.updPeer d (fun p => { p with lastBeat := s.now, lost := false, epoch := epoch, promoteAt := none, promoteBy := [] })

/-- BEAT_TIMEOUT: no BEAT for 2 ms, or no usable candidate (R263). -/
def execBeatTimeout (dev : DevNum) (s : State) : Out :=
  .next (s.mainEv (fun s =>
    let x := dev.toNat
    let p := s.peer x
    if !p.watched ∨ !s.watches x then s
    else if p.lastBeat + 2 * ms ≤ s.now ∨ s.candidates x = [] then
      s.peerLost x ((s.candidates x).getLast?.getD 0xFF)
    else s))

/-- PROMOTE_RESEND: every 1 ms while the home remains lost (R273). -/
def execPromoteResend (x : DevNum) (s : State) : Out :=
  .next (s.mainEv (fun s =>
    match (s.peer x.toNat).promoteAt with
    | some t => if (s.peer x.toNat).lost ∧ t + ms ≤ s.now then s.sendPromote x.toNat else s
    | none => s))

end Sys2Proof.Machine
end

