-- ==== Sys2Proof/Machine/Peer.lean ====
section
/-! DEFINITION. Serving peers and the ends of the device's own transactions: the export table, read leases, completions,
forwarding and timeouts (R25, R241 to R243, R256 to R260). -/
namespace Sys2Proof.Machine

/-- The transaction timeout in ns (TOILE_CFG). -/
def State.timeout (s : State) : Nat := max 100 (s.fld R.TOILE_CFG_timeout_us) * us

/-! ### The export table (R25, R241) -/

/-- An export entry. -/
structure Export where
  base : Nat
  size : Nat
  owned : Bool
  peerRead : Bool
  owner : Nat
deriving DecidableEq, Repr

/-- Export entry r, when it is valid. -/
def State.exportAt (s : State) (r : Nat) : Option Export :=
  let base := s.fld R.TOILE_EXP_BASE_base r
  if s.bit R.TOILE_EXP_ATTR_valid r && decide (base % 4096 = 0) then
    some { base := base, size := 4096 * s.fld R.TOILE_EXP_ATTR_pages r, owned := s.bit R.TOILE_EXP_ATTR_owned r,
           peerRead := s.bit R.TOILE_EXP_ATTR_peer_read r, owner := s.fld R.TOILE_EXP_ATTR_owner r }
  else none

/-- The entry that applies to n bytes at an offset of local HBM: the lowest that meets them, if it covers them whole. -/
def State.exportFor (s : State) (off n : Nat) : Option (Nat × Export) :=
  let meets := (List.range 256).filterMap (fun r => (s.exportAt r).bind (fun e =>
    if off < e.base + e.size ∧ e.base < off + n then some (r, e) else none))
  match meets.head? with
  | some (r, e) => if e.base ≤ off ∧ off + n ≤ e.base + e.size ∧ off + n ≤ hbmSize then some (r, e) else none
  | none => none

/-- Table 10-1: the entry allows a READ by a peer. -/
def Export.readBy (e : Export) (d : Nat) : Bool := !e.owned || e.peerRead || e.owner == d
/-- Table 10-1: the entry allows a WRITE or ATOMIC by a peer. -/
def Export.writeBy (e : Export) (d : Nat) : Bool := e.owned && e.owner == d

/-- The entry allows an operation of a peer on n bytes. -/
def State.allows (s : State) (d off n : Nat) (wr : Bool) : Bool :=
  match s.exportFor off n with
  | some (_, e) => if wr then e.writeBy d else e.readBy d
  | none => false

/-! ### Read leases (R243) -/

/-- The bytes that an operation writes: offset and length. -/
def PeerOp.writes : PeerOp → Option (Nat × Nat)
  | .read _ _ => none
  | .write off dat => some (off, dat.length)
  | .atomic _ off _ _ => some (off / 8 * 8, 8)
  | .note _ => none

/-! ### Serving a request -/

/-- A refused request (R241). -/
def State.refusePeer (s : State) : State × Reply := (s.count R.TOILE_REFUSED_count, .refused)

/-- A request that the export table does not allow: refused, and counted as refused for privilege too (R241, R361). -/
def State.denyPeer (s : State) : State × Reply := (s.count R.SEC_DENIED_count).refusePeer

/-- The value that an ATOMIC stores (R260); none for a reserved sub. -/
def atomicVal (sub : Nat) (old opa opb : BitVec 64) : Option (BitVec 64) :=
  match sub with
  | 1 => some (old + opa)
  | 2 => some (if old = opa then opb else old)
  | 3 => some (if old < opa then opa else old)
  | _ => none

/-- The naturally aligned 64-bit word at an offset of HBM under an ATOMIC: the state after it and the answer (R215,
R260). -/
def State.atomicAt (s : State) (sub off : Nat) (opa opb : BitVec 64) : State × Reply :=
  let a := off / 8 * 8
  match s.hbmRead a 8 with
  | (s, none) => (s, .ecc)
  | (s, some l) =>
    let old := BitVec.ofNat 64 (leNat l)
    match atomicVal sub old opa opb with
    | some v => (s.hbmWrite a (toLE 8 v.toNat), .done [] old)
    | none => s.refusePeer

/-- A READ of peer d (R241, R243). -/
def State.serveRead (s : State) (d off len : Nat) : State × Reply :=
  if !s.allows d off len false then s.denyPeer
  else match s.hbmRead off len with
    | (t, some l) => (t, .done (s.peerView off l) 0)
    | (t, none) => (t, .ecc)

/-- A WRITE of peer d (R241). -/
def State.serveWrite (s : State) (d off : Nat) (dat : List Byte) : State × Reply :=
  if !s.allows d off dat.length true then s.denyPeer else (s.hbmWrite off dat, .done [] 0)

/-- An ATOMIC of peer d (R241, R260). -/
def State.serveAtomic (s : State) (d sub off : Nat) (opa opb : BitVec 64) : State × Reply :=
  if !s.allows d (off / 8 * 8) 8 true then s.denyPeer else s.atomicAt sub off opa opb

/-- A flow's state, keyed by source and class. -/
def State.rxFlow (s : State) (d cls : Nat) : RxFlow := SMap.get {} s.rxFlows (d * 4 + cls)

/-- The state with a flow changed. -/
def State.updRxFlow (s : State) (d cls : Nat) (f : RxFlow → RxFlow) : State :=
  { s with rxFlows := SMap.upd {} s.rxFlows (d * 4 + cls) f }

/-- Leases that hold back a request, none for one that the entry refuses. -/
def State.holdsBack (s : State) (d : Nat) (op : PeerOp) : List ReadLease :=
  match op.writes with
  | some (off, n) => if s.allows d off n true then (s.leasesOn off n).filter (fun l => l.holder.toNat != d) else []
  | none => []

/-- The read leases on the device's memory but for one holder's on one page. -/
def State.otherLeases (s : State) (src : DevNum) (page : Nat) : List ReadLease :=
  s.leases.filter (fun l => !(l.holder == src && l.page == page))

/-- A peer may take a read lease on a page: an owned entry that it may read covers the page, and fewer than 16 leases on the
entry run (R243). -/
def State.leaseEntry (s : State) (src : DevNum) (addr : BitVec 40) : Option Nat :=
  match s.exportFor (addr.toNat / 4096 * 4096) 4096 with
  | some (r, e) =>
    if addr.toNat % 4096 = 0 ∧ e.owned ∧ e.readBy src.toNat ∧
        ((s.otherLeases src (addr.toNat / 4096)).filter (fun l => decide (s.now < l.expiry) && l.entry == r)).length < 16 then
      some r
    else none
  | none => none

/-- A read lease given for 50 ms, or renewed. -/
def State.giveLease (s : State) (src : DevNum) (page r : Nat) : State :=
  { s with leases := s.otherLeases src page ++ [{ entry := r, page := page, holder := src, expiry := s.now + 50 * ms }] }

/-- Sequences missing before the first held request of a flow. -/
def RxFlow.gap (f : RxFlow) : Nat := f.held.foldl (fun m r => min m (r.seq - f.next).toNat) 0x8000

/-! ### Answers to the device's own transactions (R259) -/

/-- The lines of n bytes from an address; a lost, refused or unreadable one is held as such. -/
def deliverLines (who base n : Nat) (dat : Except RxFail (List Byte)) : List RxLine :=
  (List.range ((n + 63) / 64)).map (fun k =>
    { who := who, addr := base + 64 * k, dat := dat.map (fun d => padTo 64 ((d.drop (64 * k)).take 64)) })

/-- The Toile address of a transaction. -/
def Txn.addr (t : Txn) : Nat := t.dest.toNat * 2 ^ 40 + t.off

/-- The lines of a READ reach their requester. -/
def State.deliverRead (s : State) (t : Txn) (dat : Except RxFail (List Byte)) : State :=
  if t.typ = 1 then
    { s with rxbuf := (s.rxbuf.filter (fun l => !(l.who == t.who.key && decide (t.addr ≤ l.addr) && decide (l.addr < t.addr + t.len))))
                ++ deliverLines t.who.key t.addr t.len dat }
  else s

/-- TOILE_XCMD ends with a result (R260). -/
def State.xDone (s : State) (result : Nat) : State :=
  let s : State := { s with xrun := none }
  (s.put R.TOILE_XSTAT_busy 0).put R.TOILE_XSTAT_result result

/-- The answer to TOILE_XCMD: data or old value to the buffer, and the result (R260). -/
def State.xAnswer (s : State) (r : Reply) : State :=
  match s.xrun with
  | none => s
  | some x =>
    match r with
    | .refused => s.xDone 2
    | .ecc => s.xDone 4
    | .done dat old =>
      let s : State := match x.op with
        | 1 => s.writeLocal x.buf (dat.take x.len)
        | 2 => s
        | 6 => { s with myLeases := s.myLeases.filter (fun (l : Nat × Nat) => l.1 ≠ x.addr) ++ [(x.addr, s.now + 50 * ms)] }
        | 7 => { s with myLeases := s.myLeases.filter (fun (l : Nat × Nat) => l.1 ≠ x.addr) }
        | _ => s.writeLocal x.buf (toLE 8 old.toNat)
      s.xDone 0

/-- A core's write failed: the fault is raised at its next instruction boundary (R120), once for an instruction: the other
writes of the same one raise nothing more (R122). -/
def State.coreFails (s : State) (c : CoreId) (pc : BitVec 52) (w : W64) (code a : Nat) : State :=
  ({ s with txns := s.txns.map (fun t => if t.who = .core c pc w then { t with mute := true } else t) } : State).updCore c (fun k =>
    { k with remoteFault := some (k.remoteFault.getD (pc, w, { code := code, info := a, atIssue := false, byPeer := true })) })

/-- How a transaction of the device ended: answered, or given up. -/
inductive TxnEnd where
  | answer (r : Reply)
  | lost
deriving DecidableEq, Repr

/-- What a READ brought. -/
def TxnEnd.data : TxnEnd → Except RxFail (List Byte)
  | .answer (.done dat _) => .ok dat
  | .answer .refused => .error .denied
  | .answer .ecc => .error .ecc
  | .lost => .error .unreach

/-- The fault that a core's write leaves. -/
def TxnEnd.fault : TxnEnd → Option Nat
  | .answer .refused => some fDenied
  | .lost => some fUnreach
  | _ => none

/-- The end of a transaction reaches its requester. A read that failed raises its fault in the instruction that reads
(R120, R205); so does a fetch (R108). -/
def State.deliver (s : State) (t : Txn) (r : TxnEnd) : State :=
  match t.who with
  | .xcmd => match r with
    | .answer r => s.xAnswer r
    | .lost => s.xDone 3
  | .core c pc w =>
    if t.typ = 1 then s.deliverRead t r.data
    else match r.fault with
      | some code => if t.mute then s else s.coreFails c pc w code t.addr
      | none => s
  | .note => s
  | .binder =>
    let s := s.deliverRead t r.data
    if s.txns.any (fun u => u.who = .binder) then s else s.bndResume
  | _ => s.deliverRead t r.data

/-- A transaction leaves the outstanding ones; the next of its flow that waited is sent (R259). -/
def State.retireTxn (s : State) (t : Txn) : State :=
  let s : State := { s with txns := s.txns.filter (fun u => u.tag ≠ t.tag) }
  match s.txns.find? (fun u => u.dest = t.dest ∧ u.cls = t.cls ∧ u.held) with
  | none => s
  | some u =>
    let u := { u with held := false, sentAt := s.now }
    ({ s with txns := s.txns.map (fun x => if x.tag = u.tag then u else x) } : State).emitTxn u

/-- The answer of a device to the transaction with a tag: it ends, and its requester has it (R259). -/
def State.answered (s : State) (d : Nat) (tag : BitVec 16) (r : Reply) : State :=
  match s.txns.find? (fun t => t.tag = tag.toNat ∧ t.dest.toNat = d ∧ !t.held) with
  | none => s
  | some t => (s.retireTxn t).deliver t (.answer r)

/-- The acknowledgement of a transaction whose type has no response (R259). -/
def State.flowAcked (s : State) (d cls : Nat) (seq : BitVec 16) : State :=
  match s.txns.find? (fun t => t.body.isSome ∧ t.cls = cls ∧ t.seq = seq ∧ t.dest.toNat = d ∧ !t.held) with
  | none => s
  | some t => s.retireTxn t

/-- Send a transaction again, by any usable candidate (R259). -/
def State.resend (s : State) (t : Txn) : State :=
  ({ s with txns := s.txns.map (fun x => if x.tag = t.tag then { x with resent := true } else x) } : State).emitTxn t

/-- RESEND_TIMEOUT: half the timeout has passed without an answer (R259). -/
def execResendTimeout (tag : BitVec 16) (s : State) : Out :=
  .next (s.mainEv (fun s =>
    match s.txns.find? (fun t => t.tag = tag.toNat) with
    | some t => if t.held ∨ t.resent ∨ s.now < t.sentAt + s.timeout / 2 then s else s.resend t
    | none => s))

/-- TRANSACTION_TIMEOUT (R259). -/
def execTransactionTimeout (tag : BitVec 16) (s : State) : Out :=
  .next (s.mainEv (fun s =>
    match s.txns.find? (fun t => t.tag = tag.toNat) with
    | some t => if t.held ∨ s.now < t.sentAt + s.timeout then s else (s.retireTxn t).deliver t .lost
    | none => s))

/-! ### Forwarding (R256) -/

/-- Flits of a transaction from its header (R248). -/
def headerFlits (hd : TxnHeader) : Nat := flitsFor (headerData hd.typ.toNat hd.len.toNat hd.sub.toNat)

/-- A transaction as it goes on: one hop more, and the data that its header announces (R256). -/
def onward (hd : TxnHeader) : TxnHeader :=
  { hd with hops := hd.hops + 1, dat := padTo (headerData hd.typ.toNat hd.len.toNat hd.sub.toNat) hd.dat }

/-- TRANSACTION_FORWARD: a transaction for another device goes on by the device's own route table with one hop more, or
is dropped; a request that names device 0xFFF is refused (R25, R256). -/
def execTransactionForward (hd : TxnHeader) (s : State) : Out :=
  .next (s.mainEv (fun s =>
    let d := hd.dest.toNat
    if d = s.devnum then s
    else if d = ownDev ∧ 1 ≤ hd.typ ∧ hd.typ ≤ 3 then
      let (s, r) := s.refusePeer
      s.post hd.src.toNat 1 (.reply hd.tag r)
    else if hd.hops = 7 ∨ !s.routed d hd.cls.toNat then s.count R.TOILE_HOPDROP_count
    else match s.pickLink d hd.cls.toNat with
      | some l => s.enqueue l hd.cls.toNat noTag (headerFlits hd) (.forward l (onward hd))
      | none => s.count R.TOILE_HOPDROP_count))

end Sys2Proof.Machine
end

