-- ==== Sys2Proof/Machine/Link.lean ====
section
/-! DEFINITION. The optical links: light, training, HELLO, flits and retry, going down, routes and device number (R245 to
R255, R366). -/
namespace Sys2Proof.Machine

/-- A link's state (FLNKl_STAT): 0 OFF, 1 TRAIN, 2 HELLO, 3 UP, 4 waiting to retrain. -/
def State.linkState (s : State) (l : Nat) : Nat := s.fld R.FLNK_STAT_state l

/-- A link is enabled. -/
def State.linkOn (s : State) (l : Nat) : Bool := s.bit R.FLNK_CTRL_enable l

/-- An optical engine. -/
def State.engine (s : State) (e : Nat) : OptEngine := SMap.get {} s.engines e

/-- The state with an optical engine changed. -/
def State.updEngine (s : State) (e : Nat) (f : OptEngine → OptEngine) : State := { s with engines := SMap.upd {} s.engines e f }

/-! ### The time root (R261) -/

/-- The roots on offer: (priority, device, hops, link), the device itself without a link. -/
def State.rootOffers (s : State) : List (Nat × Nat × Nat × Option Nat) :=
  let own := if s.bit R.TOILE_TIME_CFG_root_ok ∧ s.devnum ≠ ownDev then
      [(s.fld R.TOILE_TIME_CFG_priority, s.devnum, 0, none)] else []
  own ++ (List.range 64).filterMap (fun l =>
    if s.linkState l = 3 then match (s.link l).root with
      | some (p, r, h) => if r = ownDev ∨ r = s.devnum ∨ 7 ≤ h then none else some (p, r, h + 1, some l)
      | none => none
    else none)

/-- The first offer is better: lower (priority, device), then fewer hops; the earlier one wins a tie. -/
def betterRoot (a b : Nat × Nat × Nat × Option Nat) : Bool :=
  decide (a.1 < b.1) || (a.1 == b.1 && (decide (a.2.1 < b.2.1) || (a.2.1 == b.2.1 && decide (a.2.2.1 < b.2.2.1))))

/-- The offer that the device takes. -/
def State.bestRoot (s : State) : Option (Nat × Nat × Nat × Option Nat) :=
  s.rootOffers.foldl (fun best o => match best with
    | none => some o
    | some b => if betterRoot o b then some o else some b) none

/-- TOILE_TIME_STAT in step with the root that the device follows (R261, R262). -/
def State.followRoot (s : State) : State :=
  match s.bestRoot with
  | none => (({ s with clk := { s.clk with rootPrio := 0xFF } } : State).put R.TOILE_TIME_STAT_locked 0).put R.TOILE_TIME_STAT_root ownDev
  | some (p, r, h, _) =>
    let s : State := { s with clk := { s.clk with rootPrio := p } }
    ((s.put R.TOILE_TIME_STAT_locked 1).put R.TOILE_TIME_STAT_root r).put R.TOILE_TIME_STAT_hops h

/-! ### Training and going down (R250, R252) -/

/-- Step 1 of Table 10-3; a link that is disabled is OFF. -/
def State.trainStart (s : State) (l : Nat) : State :=
  let s := (s.put R.FLNK_STAT_lock 0 l).put R.FLNK_STAT_state (if s.linkOn l then 1 else 0) l
  s.updLink l (fun k => { k with locked := false, started := false, timed := false, trainAt := s.now, replay := [], queue := [],
                                 replays := 0, ackOwed := false, nakOwed := false, nakAt := none, uncorrs := [], root := none })

/-- The transactions of a link that it had not sent whole, or whose flits were unacknowledged, are sent again by another
candidate (R250, R259). -/
def State.resendFrom (s : State) (tags : List Nat) : State :=
  (s.txns.filter (fun t => tags.contains t.tag ∧ !t.held)).foldl (fun (s : State) t => s.emitTxn t) s

/-- Watched peers whose route has just lost its last usable candidate are lost (R263). -/
def State.lostRoutes (s : State) (l : Nat) : State :=
  (s.watchList.filter (fun x => s.candidates x = [] ∧ (List.range 4).any (fun k =>
    s.fld (rtCand k) x = 2 ^ 6 + l))).foldl (fun (s : State) x => s.peerLost x l) s

/-- The buffers of a link are cleared, the errors in their words too. -/
def State.clearBuffers (s : State) (l : Nat) : State := s.sramDrop (fabAddr l 0) (2 ^ 17)

/-- A link goes down with a reason (R250, R252, R253): counted, LINK_DOWN, buffers cleared, training again; the device
follows another root if it can (R262). -/
def State.linkDown (s : State) (l reason : Nat) (next : State → State) : State :=
  let up := s.linkState l == 3
  let tags := (s.link l).replay.map (·.2) ++ (s.link l).queue.map (fun w => w.tag)
  let s := (s.put R.FLNK_STAT_reason reason l).count R.FLNK_DOWN_count 1 l
  let s := next ((s.clearBuffers l).trainStart l)
  let s := s.event 0x0A 4 l 0xFFFFF reason
  if up then ((s.setBit R.COLO_READY1_links l false).followRoot.resendFrom tags).lostRoutes l else s

/-- Training starts again at once. -/
def State.downNow (s : State) (l reason : Nat) : State := s.linkDown l reason id

/-- A link that is up goes down (Table 10-4). -/
def State.downIfUp (s : State) (l reason : Nat) : State := if s.linkState l = 3 then s.downNow l reason else s

/-- Links of an optical engine (R9). -/
def linksOf (e : Nat) : List Nat := (List.range 8).map (fun k => 8 * e + k)

/-- LASER_LOSS: laser_ok of the engine's links clears, and those up go down (R245). -/
def execLaserLoss (e : Fin 8) (_lane : Fin 8) (s : State) : Out :=
  .next (s.mainEv (fun s => (linksOf e.val).foldl (fun (s : State) l => (s.put R.FLNK_STAT_laser_ok 0 l).downIfUp l 2) s))

/-- LASER_RESTORE: all 8 wavelengths are back and the links retrain (R245). -/
def execLaserRestore (e : Fin 8) (s : State) : Out :=
  .next (s.mainEv (fun s => (linksOf e.val).foldl (fun (s : State) l =>
    let s := s.put R.FLNK_STAT_laser_ok 1 l
    if s.linkOn l ∧ s.linkState l ≠ 3 then s.trainStart l else s) s))

/-- LOSS_OF_SIGNAL (R250): a training link loses its lock. -/
def execLossOfSignal (l : LinkId) (s : State) : Out :=
  .next (s.mainEv (fun s =>
    if s.linkState l = 3 then s.downNow l 1
    else (s.put R.FLNK_STAT_lock 0 l).updLink l (fun k => { k with locked := false })))

/-- Uncorrectable codewords in the millisecond up to the latest of them. -/
def Link.uncorr (k : Link) : Nat := (k.uncorrs.map (·.2)).sum

/-- FEC_ERROR_LIMIT: 64 uncorrectable codewords within 1 ms (Table 10-4). -/
def execFecErrorLimit (l : LinkId) (s : State) : Out :=
  .next (s.mainEv (fun s => if 64 ≤ (s.link l).uncorr then s.downIfUp l 3 else s))

/-- The link reads n bytes of its buffers from o: errors are corrected or reported, and a word that cannot be corrected takes
the link down with reason RETRY; its transactions are sent again (R250, R331). Answers whether it goes on. -/
def State.bufferRead (s : State) (l o n : Nat) : State × Bool :=
  let bad := !(s.sramBad (fabAddr l o) n).isEmpty
  let s := s.sramCheck (fabAddr l o) n
  if bad then (if s.linkState l = 3 then s.downNow l 4 else s.clearBuffers l, false) else (s, true)

/-- Bytes of a link's replay buffer (R246). -/
def replayBytes : Nat := 96 * 1024

/-- A link trains, is in HELLO or is up: it can go down. -/
def State.linkRuns (s : State) (l : Nat) : Bool := s.linkState l != 0 && s.linkState l != 4

/-- A sensor's levels are taken anew: its next reading at a level counts as reaching it (R380). -/
def State.coldSensor (s : State) (n : Nat) : State :=
  { s with pwr := { s.pwr with thermLvl := s.pwr.thermLvl.filter (fun p => p.1 != n) } }

/-- The enable of a link and its engine's supply (R252, R366): a link that runs goes down with reason DISABLED. -/
def State.setEnable (s : State) (l : Nat) (on : Bool) : State :=
  let was := s.linkOn l
  let s := s.put R.FLNK_CTRL_enable on.toNat l
  if on then
    let s := if (s.engine (l / 8)).on then s else s.coldSensor (40 + l / 8)
    let s := s.updEngine (l / 8) (fun _ => { on := true, idleAt := none })
    if was then s else s.trainStart l
  else
    let s := if (linksOf (l / 8)).any (fun k => s.linkOn k) then s
             else s.updEngine (l / 8) (fun e => { e with idleAt := some s.now })
    if s.linkRuns l then s.downNow l 8
    else if was then s.trainStart l
    else s

/-- LINK_RETRAIN: down with reason DISABLED, and step 1 again (chapter 10, FLNKl_CTRL); a link that waits to retrain is down
already. -/
def execLinkRetrain (p : Port) (l : LinkId) (s : State) : Out :=
  .next (s.regCmd p (R.FLNK_CTRL_enable.addr l 0) (fun s =>
    if !s.linkOn l then s
    else if s.linkRuns l then s.downNow l 8
    else (s.put R.FLNK_STAT_reason 8 l).trainStart l))

/-- TRAIN_TIMEOUT: not UP 20 ms after step 1 (R252). -/
def execTrainTimeout (l : LinkId) (s : State) : Out :=
  .next (s.mainEv (fun s =>
    if (s.linkState l = 1 ∨ s.linkState l = 2) ∧ (s.link l).trainAt + 20 * ms ≤ s.now then
      s.linkDown l 7 (fun s => s.put R.FLNK_STAT_state 4 l)
    else s))

/-- RETRAIN_DELAY_END: 100 ms after a TRAIN failure (R252). -/
def execRetrainDelayEnd (l : LinkId) (s : State) : Out :=
  .next (s.mainEv (fun s => if s.linkState l = 4 ∧ (s.link l).trainAt + 100 * ms ≤ s.now then s.trainStart l else s))

/-- LANE_LOCK: every lane locks and the lanes are deskewed (Table 10-3, steps 2 and 3). -/
def execLaneLock (l : LinkId) (s : State) : Out :=
  .next (s.mainEv (fun s =>
    if s.linkState l = 1 then
      let s := (s.put R.FLNK_STAT_lock 0xFF l).updLink l (fun k => { k with locked := true })
      if s.bit R.FLNK_STAT_laser_ok l then s.send (.linkStart l) else s
    else s))

/-- LINK_START: both sequence counters reset to 0 (Table 10-3, step 3). -/
def execLinkStart (l : LinkId) (s : State) : Out :=
  .next (s.mainEv (fun s =>
    if s.linkState l = 1 ∧ (s.link l).locked then
      s.updLink l (fun k => { k with started := true, txSeq := 0, rxSeq := 0, replay := [], queue := [], replays := 0,
                                     credits := [128, 128, 128, 128], owed := [0, 0, 0, 0], rxLeft := 0, rxCls := 0,
                                     timeAt := s.now })
    else s))

/-- ENGINE_SWITCH_OFF: 1 ms after the last of the engine's links has enable cleared (R366). -/
def execEngineSwitchOff (e : Fin 8) (s : State) : Out :=
  .next (s.mainEv (fun s =>
    match (s.engine e).idleAt with
    | some t =>
      if t + ms ≤ s.now ∧ !(linksOf e.val).any (fun l => s.linkOn l) then s.updEngine e (fun _ => {}) else s
    | none => s))

/-! ### Flits (R247 to R249) -/

/-- The FEC counts of a flit, and the uncorrectable codewords of the last 1 ms (R247, Table 10-4). -/
def State.flitCounts (s : State) (l : LinkId) (sym uncorr : Nat) : State :=
  ((s.count R.FLNK_FEC_SYM_count sym l).count R.FLNK_FEC_UNCORR_count uncorr l).updLink l (fun k =>
    if uncorr = 0 then k
    else { k with uncorrs := k.uncorrs.filter (fun x => decide (s.now < x.1 + ms)) ++ [(s.now, uncorr)] })

/-- The receiver's count of the transaction that comes in, after one more of its flits: at a boundary a header gives its class
and its data flits; the flit's room is owed to the peer (R248, R258). -/
def Link.took (k : Link) (content : BitVec 480) : Link :=
  let v := content.toNat
  let cls := if k.rxLeft = 0 then bits v 8 2 else k.rxCls
  { k with
    rxSeq := k.rxSeq + 1, nakAt := none, ackOwed := true, nakOwed := false,
    rxLeft := if k.rxLeft = 0 then flitsFor (headerData (bits v 4 4) (bits v 53 6) (bits v 104 8)) - 1 else k.rxLeft - 1,
    rxCls := cls, owed := k.owed.set cls (k.owed.getD cls 0 + 1) }

/-- A control flit may go out: at most one in the time of 64 flits while transactions wait (R248, Table 10-2). -/
def Link.ctlDue (k : Link) (now : Nat) : Bool :=
  k.queue.isEmpty || (match k.ctlAt with | none => true | some t => decide (t + 28 ≤ now))

/-- The credits that a control flit hands back. -/
def Link.handBack (k : Link) : Credits :=
  let c (i : Nat) : BitVec 8 := BitVec.ofNat 8 (min (k.owed.getD i 0) 255)
  { request := c 0, response := c 1, lining := c 2, management := c 3 }

/-- The control flit that a link owes, when it may go out: a negative acknowledgement first (R248, R249). -/
def State.sayControl (s : State) (l : LinkId) : State :=
  let k := s.link l
  if !k.ctlDue s.now then s
  else if k.nakOwed then (s.updLink l (fun k => { k with nakOwed := false, ctlAt := some s.now })).send (.nakFlit l k.rxSeq)
  else if k.ackOwed then
    (s.updLink l (fun k => { k with ackOwed := false, ctlAt := some s.now,
                                    owed := k.owed.map (fun n => n - min n 255) })).send (.ackFlit l (k.rxSeq - 1) k.handBack)
  else s

/-- A flit is accepted in sequence, read out of the receive buffer, and acknowledged when a control flit may go out (R248,
R249). -/
def State.flitTaken (s : State) (l : LinkId) (content : BitVec 480) : State :=
  match s.bufferRead l replayBytes (2 ^ 17 - replayBytes) with
  | (s, true) => (s.updLink l (fun k => k.took content)).sayControl l
  | (s, false) => s

/-- No negative acknowledgement has gone out within a round trip (R249). -/
def State.nakDue (s : State) (l : LinkId) : Bool :=
  match (s.link l).nakAt with
  | none => true
  | some t => decide (t + 2 * s.fld R.FLNK_DELAY_delay l ≤ s.now)

/-- A flit is dropped: counted, and reported when that is due (R249). -/
def State.flitDropped (s : State) (l : LinkId) : State :=
  let s := s.count R.FLNK_CRC_ERR_count 1 l
  if s.nakDue l then (s.updLink l (fun k => { k with nakAt := some s.now, nakOwed := true })).sayControl l else s

/-- FLIT_RECEIVED: accepted in sequence, or dropped with at most one negative acknowledgement in a round trip (R249). The CRC
is checked with the sequence that the receiver expects, so a flit out of sequence fails it (R248); one that meets an
uncorrectable codeword counts as one with a bad CRC (R247). At a transaction boundary a numbered flit is a header. -/
def execFlitReceived (l : LinkId) (content : BitVec 480) (crc : BitVec 32) (sym uncorr : Nat) (s : State) : Out :=
  .next (s.mainEv (fun s =>
    if !(s.link l).started then s
    else if uncorr ≠ 0 ∨ crc ≠ flitCrc content (s.link l).rxSeq then (s.flitCounts l sym uncorr).flitDropped l
    else if (s.link l).rxLeft = 0 ∧ bits content.toNat 0 4 ≠ 1 then s.flitCounts l sym uncorr
    else (s.flitCounts l sym uncorr).flitTaken l content))

/-- Flits of a replay buffer after the one of a sequence, none where the buffer does not hold it. -/
def afterSeq (seq : BitVec 12) : List (BitVec 12 × Nat) → Option (List (BitVec 12 × Nat))
  | [] => none
  | x :: l => if x.1 = seq then some l else afterSeq seq l

/-- The credits of a control flit, by class. -/
def creditList (c : Credits) : List Nat := [c.request.toNat, c.response.toNat, c.lining.toNat, c.management.toNat]

/-- Credits come back, up to the 128 flits of each class. -/
def Link.credit (k : Link) (c : Credits) : Link :=
  { k with credits := (k.credits.zip (creditList c)).map (fun p => min 128 (p.1 + p.2)) }

/-- ACK_RECEIVED: the flits up to the named one leave the replay buffer, credits come back, and the link sends what waited
(R248, R249, R258). -/
def execAckReceived (l : LinkId) (seq : BitVec 12) (c : Credits) (s : State) : Out :=
  .next (s.mainEv (fun s =>
    let s := s.updLink l (fun k => k.credit c)
    let s := match afterSeq seq (s.link l).replay with
      | some rest => s.updLink l (fun k => { k with replay := rest, replays := 0, lastSend := s.now })
      | none => s
    (s.drainLink l).sayControl l))

/-- Replay flits, read out of the replay buffer (R249). -/
def State.replayFrom (s : State) (l : LinkId) (fl : List (BitVec 12 × Nat)) : State :=
  if fl.isEmpty then s
  else match s.bufferRead l 0 replayBytes with
    | (s, false) => s
    | (s, true) =>
      let s := (s.count R.FLNK_REPLAY_count 1 l).updLink l (fun k => { k with replays := k.replays + 1, lastSend := s.now })
      s.send (.replayFlits l (fl.map (·.1)))

/-- NAK_RECEIVED: a replay from the named sequence (R249). -/
def execNakReceived (l : LinkId) (seq : BitVec 12) (s : State) : Out :=
  .next (s.mainEv (fun s => s.replayFrom l ((s.link l).replay.dropWhile (fun x => x.1 != seq))))

/-- REPLAY_TIMEOUT: no acknowledgement for 4 µs plus twice the one-way delay (R249). -/
def execReplayTimeout (l : LinkId) (s : State) : Out :=
  .next (s.mainEv (fun s =>
    if (s.link l).lastSend + 4 * us + 2 * s.fld R.FLNK_DELAY_delay l ≤ s.now then s.replayFrom l (s.link l).replay else s))

/-- REPLAY_LIMIT: 16 replays without the acknowledged sequence advancing (R249). -/
def execReplayLimit (l : LinkId) (s : State) : Out :=
  .next (s.mainEv (fun s => if 16 ≤ (s.link l).replays then s.downIfUp l 4 else s))

/-! ### HELLO and routes (R251, R253, R254) -/

/-- The device's HELLO on a link (Table 10-6). -/
def State.myHello (s : State) (l : LinkId) : HelloMsg :=
  { devnum := BitVec.ofNat 12 s.devnum, fabricId := BitVec.ofNat 32 (s.fld R.TOILE_DEVNUM_fabric_id), link := BitVec.ofNat 6 l.val,
    lifecycle := BitVec.ofNat 2 s.lifecycle,
    epoch := BitVec.ofNat 32 (if s.bit R.TOILE_LEASE_leased then s.fld R.TOILE_LEASE_epoch else 0), quorum := s.isMember,
    digest := BitVec.ofNat 128 (leNat s.idDigest16), firmware := (s.link l).fw.getD s.linkFw }

/-- A HELLO or TIME transaction of a link itself: management class, numbered by the link (DESIGN CHOICE, log entry 77). -/
def State.linkSay (s : State) (l : LinkId) (m : LinkId → BitVec 16 → Msg) : State :=
  let n := (s.link l).mgmtSeq
  (s.updLink l (fun k => { k with mgmtSeq := k.mgmtSeq + 1 })).enqueue l 3 noTag 1 (m l n)

/-- The link enters state HELLO; a device without a number sends none and stops there (R251, Table 10-3). -/
def State.enterHello (s : State) (l : LinkId) : State :=
  let s := s.put R.FLNK_STAT_state 2 l
  if s.devnum = ownDev then s else s.linkSay l (fun l n => .hello l n (s.myHello l))

/-- A link that has measured its delay enters HELLO 3.0 ms after step 1 (Table 10-3, step 5). -/
def State.helloDue (s : State) (l : Nat) : Bool :=
  s.linkState l == 1 && (s.link l).timed && decide ((s.link l).trainAt + 3 * ms ≤ s.now)

/-- The links whose 3.0 ms are over enter HELLO. -/
def State.trainRun (s : State) : State :=
  (List.range 64).foldl (fun (s : State) l => if s.helloDue l then s.enterHello (Fin.ofNat 64 l) else s) s

/-- TOILE_RT_PENDING in step with the route table. -/
def State.pendingStat (s : State) : State :=
  match (List.range 4096).find? (fun d => s.bit R.TOILE_RT_pending d) with
  | some d => (s.put R.TOILE_RT_PENDING_dev d).put R.TOILE_RT_PENDING_valid 1
  | none => (s.put R.TOILE_RT_PENDING_dev 0).put R.TOILE_RT_PENDING_valid 0

/-- A link UP to a peer whose entry has no candidate on becomes its candidate 0, pending (R254). -/
def State.routePending (s : State) (d l : Nat) : State :=
  if (List.range 4).any (fun k => (s.fld (rtCand k) d).testBit 6) then s
  else
    let s := ((s.put R.TOILE_RT_cand0 (2 ^ 6 + l) d).put R.TOILE_RT_pending 1 d).pendingStat
    if s.bit R.TOILE_CFG_pend_irq then s.irq .route else s

/-- The link comes UP to its peer (Table 10-3, step 7). -/
def State.linkUp (s : State) (l : LinkId) (m : HelloMsg) : State :=
  let s := ((s.put R.FLNK_STAT_state 3 l).put R.FLNK_STAT_peer m.devnum.toNat l).put R.FLNK_STAT_peer_link m.link.toNat l
  let s := s.put R.FLNK_PEER_ID_digest (m.digest.toNat % 2 ^ 64) l
  let s := s.setBit R.COLO_READY1_links l true
  let s := s.updLink l (fun k => { k with peerLife := m.lifecycle.toNat })
  let s := s.updPeer m.devnum.toNat (fun p => { p with epoch := m.epoch })
  s.routePending m.devnum.toNat l

/-- HELLO: checked in state HELLO (R253). -/
def execHello (l : LinkId) (m : HelloMsg) (s : State) : Out :=
  .next (s.mainEv (fun s =>
    if s.linkState l ≠ 2 ∨ s.devnum = ownDev then s
    else if m.devnum.toNat = s.devnum then s.downNow l 6
    else if m.fabricId.toNat ≠ s.fld R.TOILE_DEVNUM_fabric_id ∨ m.lifecycle.toNat ≠ s.lifecycle ∨ m.devnum.toNat = ownDev then
      s.downNow l 5
    else s.linkUp l m))

/-- TOILE_DEVNUM_WRITE: only while every link is OFF (R251). -/
def execToileDevnumWrite (p : Port) (v : BitVec 64) (s : State) : Out :=
  .next (s.regCmd p (R.TOILE_DEVNUM_devnum.addr 0 0) (fun s =>
    if (List.range 64).all (fun l => s.linkState l == 0) then
      ((s.put R.TOILE_DEVNUM_devnum (bits v.toNat 0 12)).put R.TOILE_DEVNUM_fabric_id (bits v.toNat 12 32)).memberBit.followRoot
    else s))

/-- TOILE_RT_CONFIRM: a pending entry is confirmed or cleared (R254). -/
def execToileRtConfirm (p : Port) (dev : DevNum) (accept : Bool) (s : State) : Out :=
  .next (s.regCmd p (R.TOILE_RT_CONFIRM_dev.addr 0 0) (fun s =>
    let d := dev.toNat
    if !s.bit R.TOILE_RT_pending d then s
    else
      let s := s.put R.TOILE_RT_pending 0 d
      let s := if accept then s else (List.range 4).foldl (fun (s : State) k => s.put (rtCand k) 0 d) s
      s.pendingStat))

/-! ### Device time (R261, R262) -/

/-- The link to the parent, where the device follows one. -/
def State.parentLink (s : State) : Option Nat := s.bestRoot.bind (fun o => o.2.2.2)

/-- A device time behind its parent by more than 1 µs steps forward; any other offset is slewed (R262). -/
def State.steer (s : State) (off : Int) : State :=
  let s := s.put R.TOILE_TIME_STAT_offset (BitVec.ofInt 32 off).toNat
  if 1000 < off then { s with clk := { s.clk with time := s.clk.time + off.toNat, slew := 0, slewAcc := 0 } }
  else { s with clk := { s.clk with slew := off } }

/-- What the device advertises in TIME messages (R261). -/
def State.timeMsg (s : State) (t1 t2 t3 : BitVec 64) : TimeMsg :=
  { t1 := t1, t2 := t2, t3 := t3, t4 := 0, rootPrio := BitVec.ofNat 8 s.clk.rootPrio,
    root := BitVec.ofNat 12 (s.fld R.TOILE_TIME_STAT_root), hops := BitVec.ofNat 3 (s.fld R.TOILE_TIME_STAT_hops) }

/-- TIME_EXCHANGE: every 1 ms on an UP link, and in step 4 of training (R252, R261). -/
def execTimeExchange (l : LinkId) (s : State) : Out :=
  .next (s.mainEv (fun s =>
    let k := s.link l
    if (s.linkState l = 3 ∨ (s.linkState l = 1 ∧ k.started)) ∧ k.timeAt ≤ s.now then
      let s := s.followRoot
      (s.updLink l (fun k => { k with timeAt := s.now + ms })).linkSay l
        (fun l n => .time l n (s.timeMsg (BitVec.ofNat 64 s.now) 0 0))
    else s))

/-- What a TIME message advertises is kept, and the device follows the best root (R261). -/
def State.timeHeard (s : State) (l : LinkId) (m : TimeMsg) : State :=
  (s.updLink l (fun k => { k with root := some (m.rootPrio.toNat, m.root.toNat, m.hops.toNat) })).followRoot

/-- Offset of the device's time behind its neighbour's, the two directions taken as equal (R262). -/
def timeOffset (m : TimeMsg) : Int :=
  ((((m.t2.toNat : Int) - m.t1.toNat) + ((m.t3.toNat : Int) - m.t4.toNat)) / 2 : Int)

/-- One-way delay to the neighbour (Table 10-3, step 4). -/
def timeDelay (m : TimeMsg) : Int :=
  ((((m.t4.toNat : Int) - m.t1.toNat) - ((m.t3.toNat : Int) - m.t2.toNat)) / 2 : Int)

/-- An answer measures the delay; in training it ends step 4, and from the parent it steers device time (R262, Table 10-3). -/
def State.timeAnswer (s : State) (l : LinkId) (m : TimeMsg) : State :=
  let s := s.put R.FLNK_DELAY_delay (timeDelay m).toNat l
  if s.linkState l = 1 then s.updLink l (fun k => { k with timed := true })
  else if s.parentLink = some l.val then s.steer (timeOffset m)
  else s

/-- TIME: a message is answered with its stamps, by a link in state HELLO too, whose peer may still be in step 4; an answer,
whose arrival the device stamps itself as t4, gives offset and one-way delay (R261, R262, Table 10-3). -/
def execTimeMsg (l : LinkId) (m : TimeMsg) (s : State) : Out :=
  .next (s.mainEv (fun s =>
    if s.linkState l ≠ 3 ∧ s.linkState l ≠ 2 ∧ !(s.linkState l = 1 ∧ (s.link l).started) then s
    else if m.t2 = 0 ∧ m.t3 = 0 then
      (s.timeHeard l m).linkSay l
        (fun l n => .time l n ((s.timeHeard l m).timeMsg m.t1 (BitVec.ofNat 64 s.now) (BitVec.ofNat 64 s.now)))
    else (s.timeHeard l m).timeAnswer l { m with t4 := BitVec.ofNat 64 s.now }))

/-! ### TOILE_XCMD (R243, R258, R260) -/

/-- A core-less access to local memory by TOILE_XCMD: what is not memory is refused (R21, R22). -/
def State.localOk (s : State) (o n : Nat) : Bool :=
  match areaOf o, areaOf (o + n - 1) with
  | .hbm, .hbm => true
  | .dir, .dir => true
  | .store _, .store _ => true
  | .opbuf a, .opbuf b => s.hoopOn (a / 8) && s.hoopOn (b / 8)
  | _, _ => false

/-- A TOILE_XCMD on the device's own memory ends at once, but that a write or an atomic waits for the read leases on what it
writes (R243). R260 leaves open what an ATOMIC does outside HBM: it ends with DENIED, on a state-store or operand-buffer word
too (DESIGN CHOICE, log entry 34). -/
def State.xLocal (s : State) (x : XRun) (o : Nat) : State :=
  let n := if 3 ≤ x.op then 8 else x.len
  if x.op = 6 ∨ x.op = 7 then s.xDone 2
  else if !s.localOk o n then s.xDone 2
  else if x.op = 1 then match s.readLocal o x.len with
    | .bytes l => ((s.checked (localAddr o) x.len).writeLocal x.buf l).xDone 0
    | _ => (s.checked (localAddr o) x.len).xDone 4
  else if areaOf o = .dir ∨ (x.op ≠ 2 ∧ areaOf o ≠ .hbm) then s.xDone 2
  else
    let ls := s.leasesOn o n
    if areaOf o = .hbm ∧ !ls.isEmpty then
      (({ s with xrun := some { x with here := some o } } : State).put R.TOILE_XSTAT_busy 1).recallAll
        (if x.here.isSome then [] else ls)
    else if x.op = 2 then (s.writeLocal o x.dat).xDone 0
    else
      let (s, r) := s.atomicAt (x.op - 2) o x.opa x.opb
      s.xAnswer r

/-- A TOILE_XCMD that waited for read leases on the device's own memory goes on. -/
def State.xRetry (s : State) : State :=
  match s.xrun with
  | some x => match x.here with
    | some o => s.xLocal x o
    | none => s
  | none => s

/-- A TOILE_XCMD that passed its checks: its operands come from the buffer. -/
def State.xStart (s : State) (x : XRun) : State :=
  let need := if x.op = 2 then x.len else if x.op = 4 then 16 else if x.op = 3 ∨ x.op = 5 then 8 else 0
  match s.hbmRead x.buf need with
  | (s, none) => s.xDone 4
  | (s, some d) =>
    let opa := BitVec.ofNat 64 (leNat (d.take 8))
    let opb := BitVec.ofNat 64 (leNat (d.drop 8))
    let x : XRun := { x with dat := if x.op = 2 then d else [], opa := opa, opb := opb }
    let s : State := { s with xrun := some x }
    match s.locate x.addr with
    | .here o => s.xLocal x o
    | .there dev o =>
      if !s.routed dev (if 6 ≤ x.op then 3 else 0) then s.xDone 1
      else
        let s := s.put R.TOILE_XSTAT_busy 1
        match x.op with
        | 1 => s.startTxn .xcmd dev 1 0 o x.len
        | 2 => s.startTxn .xcmd dev 2 0 o x.len (dat := d)
        | 6 => s.startTxn .xcmd dev 6 3 o 0 (sub := 6)
        | 7 => s.startTxn .xcmd dev 6 3 o 0 (sub := 7)
        | op => s.startTxn .xcmd dev 3 0 o 8 (sub := op - 2) (opa := opa) (opb := opb)

/-- Alignment that an operation asks of its address (R243, R258, R260). -/
def xAligned (x : XRun) : Bool :=
  if x.op ≤ 2 then decide (x.addr % 64 = 0 ∧ x.addr % 4096 + x.len ≤ 4096)
  else if x.op ≤ 5 then decide (x.addr % 8 = 0)
  else decide (x.addr % 4096 = 0)

/-- A write of TOILE_XCMD: discarded while one runs; a misaligned one ends with ALIGN (R258, R260). -/
def State.xcmd (s : State) (p : Port) (op : Nat) (len : BitVec 6) : State :=
  s.regCmd p (R.TOILE_XCMD_op.addr 0 0) (fun s =>
    if s.bit R.TOILE_XSTAT_busy then s
    else
      let x : XRun := { op := op, addr := s.norm (s.fld R.TOILE_XADDR_addr), len := 64 * (len.toNat + 1), buf := s.fld R.TOILE_XBUF_buf }
      if !xAligned x ∨ x.buf % 64 ≠ 0 then s.xDone 5
      else if hbmSize < x.buf + x.len then s.xDone 2
      else s.xStart x)

/-- TOILE_XCMD_READ. -/
def execXcmdRead (p : Port) (len : BitVec 6) (s : State) : Out := .next (s.xcmd p 1 len)
/-- TOILE_XCMD_WRITE. -/
def execXcmdWrite (p : Port) (len : BitVec 6) (s : State) : Out := .next (s.xcmd p 2 len)
/-- TOILE_XCMD_ADD. -/
def execXcmdAdd (p : Port) (len : BitVec 6) (s : State) : Out := .next (s.xcmd p 3 len)
/-- TOILE_XCMD_CAS. -/
def execXcmdCas (p : Port) (len : BitVec 6) (s : State) : Out := .next (s.xcmd p 4 len)
/-- TOILE_XCMD_MAX. -/
def execXcmdMax (p : Port) (len : BitVec 6) (s : State) : Out := .next (s.xcmd p 5 len)
/-- TAKE_READ_LEASE. -/
def execTakeReadLease (p : Port) (len : BitVec 6) (s : State) : Out := .next (s.xcmd p 6 len)
/-- RELEASE_READ_LEASE. -/
def execReleaseReadLease (p : Port) (len : BitVec 6) (s : State) : Out := .next (s.xcmd p 7 len)

end Sys2Proof.Machine
end

