-- ==== Sys2Proof/Machine/Power.lean ====
section
/-! DEFINITION. Rails, clocks, DVFS, hoop sleep and wake, temperature and the power cap (R366 to R381). -/
namespace Sys2Proof.Machine

/-- Device power states (Table 15-2). -/
def State.pwrState (s : State) : Nat := s.fld R.PWR_STAT_state

/-- PWR_STAT.state changes. -/
def State.setPwr (s : State) (v : Nat) : State := (s.put R.PWR_STAT_state v).alertStat

/-! ### VDD_CORE and telemetry (R368, R369) -/

/-- A voltage target goes to the regulator while its rail is enabled; the one before it is kept until it is reached. -/
def State.setAvs (s : State) (mv : Nat) : State :=
  if s.pwr.enables.getLsbD 0 then
    { s with pwr := { s.pwr with avsMv := mv, avsPrev := some (s.pwr.avsPrev.getD s.pwr.avsMv) } }
  else s

/-- The power-cap duty (R381). -/
def State.capDuty (s : State) : Nat := s.pwr.capDuty

/-- Keep PWR_STAT.duty in step: the lesser of the power-cap duty and the thermal duty (R377). -/
def State.dutyStat (s : State) : State := s.put R.PWR_STAT_duty (min s.capDuty s.pwr.thermDuty)

/-- The device power P in µW: VDD_CORE by AVSBus, the other rails by their telemetry (R381). -/
def State.power (s : State) : Nat :=
  s.pwr.avsMv * s.pwr.coreMa + ((List.range 9).map (fun k =>
    if s.bit R.PWR_RAIL_TEL_valid (k + 1) then s.fld R.PWR_RAIL_TEL_mv (k + 1) * s.fld R.PWR_RAIL_TEL_current (k + 1) * 100 else 0)).sum

/-- POWER_CAP (R381). -/
def State.capEvent (s : State) (inst since : Nat) : State :=
  let d := s.capDuty
  s.event 0x10 7 inst 0xFFFFF (d + (if d = 1 then 2 ^ 5 else 0) + min ((s.now - since) / ms) (2 ^ 18 - 1) * 2 ^ 6)

/-- An episode of a loop: it begins when the limit is exceeded, and ends once what the loop took from the duty is given back;
an event at its start and every second (R381). Answers the episode and whether an event is due. -/
def episode (now : Nat) (ep : Option (Nat × Nat)) (exceeded back : Bool) : Option (Nat × Nat) × Bool :=
  match ep with
  | none => if exceeded then (some (now, now), true) else (none, false)
  | some (t, l) =>
    if !exceeded ∧ back then (none, false)
    else if l + 1000 * ms ≤ now then (some (t, now), true) else (some (t, l), false)

/-- The fused voltage V(f) in mV: it rises with f, from at least 650 at 4 to at most 800 at 13 (R376). -/
def vOf (f : Nat) : Nat :=
  min (787 + f) (((List.range f).drop 4).foldl (fun v k => v + 1 + Config.vStep (k + 1)) (650 + Config.vStep 4))

/-- cap_w, peak_w and window_ms with values out of range taken as the nearer end. -/
def State.capW (s : State) : Nat := max 200 (min 950 (s.fld R.PWR_CAP_cap_w))
def State.peakW (s : State) : Nat := max s.capW (min 950 (s.fld R.PWR_CAP_peak_w))
def State.windowMs (s : State) : Nat := max 1 (min 100 (s.fld R.PWR_CAP_window_ms))

/-- The fast loop moves the cap duty; it gives back only what it took, so that the slow loop's falls last (R381; DEDUCED, log
entry 87). -/
def State.fastLoop (s : State) (p : Nat) : State :=
  let peak := s.peakW * 1000000
  let d := s.pwr.capDuty
  let high := decide (peak < p)
  let rise := decide (100 * p < 97 * peak) && decide (d < s.pwr.slowTop) && decide (s.pwr.fastMoved + 100 * us ≤ s.now)
  let d' := if high then max 1 (min (d - 1) (Config.capFall d p)) else if rise then d + 1 else d
  let (ep, due) := episode s.now s.pwr.fastEp high (d' == s.pwr.slowTop)
  let s : State := { s with pwr := { s.pwr with
    capDuty := d', fastEp := ep, fastMoved := if high ∨ rise then s.now else s.pwr.fastMoved } }
  let s := s.dutyStat
  if due then s.capEvent 0 (match ep with | some (t, _) => t | none => s.now) else s

/-- A VDD_CORE current is read: it enters the power sample, and the fast loop runs on it; a target that the regulator reports
reached is no longer awaited (R368, R381). -/
def State.powerSample (s : State) (r : AvsReading) : State :=
  let s : State := { s with pwr := { s.pwr with
    coreMa := r.ma, avsPrev := if r.reached then none else s.pwr.avsPrev } }
  let p := s.power
  let s := s.put R.PWR_POWER_present_w (min (p / 1000000) 65535)
  let s : State := { s with pwr := { s.pwr with samples := s.pwr.samples ++ [(s.now, p)] } }
  s.fastLoop p

/-- AVS_READ: the VDD_CORE current, for the power loops (R368, R381). -/
def execAvsRead (ma : AvsReading) (s : State) : Out :=
  .next (s.aonEv (fun s => if s.pwr.enables.getLsbD 0 then s.powerSample ma else s))

/-- One turn of the slow loop on the mean power of its window: it moves the cap duty, and with it the duty that the fast loop
may raise it to (R381). -/
def State.slowLoop (s : State) : State :=
  let l := s.pwr.samples.filter (fun (x : Nat × Nat) => decide (s.now ≤ x.1 + s.windowMs * ms))
  let mean := if l = [] then 0 else (l.map (·.2)).sum / l.length
  let cap := s.capW * 1000000
  let top := s.pwr.slowTop
  let d := s.pwr.capDuty
  let high := decide (cap < mean)
  let rise := decide (100 * mean < 95 * cap) && decide (top < 16) && decide (s.pwr.slowMoved + 10 * ms ≤ s.now)
  let move (x : Nat) : Nat := if high then max 1 (x - 1) else if rise then x + 1 else x
  let e := episode s.now s.pwr.slowEp high (move top == 16)
  let s : State := { s with pwr := { s.pwr with
    samples := l, capDuty := move d, slowTop := move top, slowEp := e.1, slowMoved := if high ∨ rise then s.now else s.pwr.slowMoved } }
  let s := (s.put R.PWR_POWER_avg_w (min (mean / 1000000) 65535)).dutyStat
  let s := if e.2 then s.capEvent 1 (match e.1 with | some (t, _) => t | none => s.now) else s
  let s := if s.capDuty < 16 then s.count R.PWR_CAP_MS_count else s
  (if s.pwr.thermDuty < 16 then s.count R.PWR_THROTTLE_MS_count else s).alertStat

/-- POWER_CAP_TICK: the slow loop, every 1 ms (R381). -/
def execPowerCapTick (s : State) : Out :=
  .next (s.aonEv (fun s => if s.pwr.enables.getLsbD 0 then s.slowLoop else s))

/-- The previous target is restored, and the change is abandoned (R368). The first target of a power-up has none before it, and
stands (DESIGN CHOICE, log entry 88). -/
def State.avsAbandon (s : State) (mv : Nat) : State :=
  (({ s with pwr := { s.pwr with avsMv := if mv = 0 then s.pwr.avsMv else mv, avsPrev := none } } : State).put R.PWR_STAT_avs_err 1).put R.PWR_ARITH_busy 0

/-- AVS_TIMEOUT: a target not reached in 50 µs; the previous one is restored and the change abandoned (R368). -/
def execAvsTimeout (s : State) : Out :=
  .next (s.aonEv (fun s => match s.pwr.avsPrev with
    | none => s
    | some mv => s.avsAbandon mv))

/-- A mapped rail's telemetry, with or without an answer (R369). -/
def State.railPolled (s : State) (r : Nat) (v : Option RailReading) : State :=
  if !s.bit R.PWR_RAIL_MAP_enable r then s
  else match v with
    | some x => ((s.put R.PWR_RAIL_TEL_mv x.mv.toNat r).put R.PWR_RAIL_TEL_current x.current.toNat r).put R.PWR_RAIL_TEL_valid 1 r
    | none => s.put R.PWR_RAIL_TEL_valid 0 r

/-- PMBUS_POLL: each mapped rail that answers gives its telemetry; one that does not clears valid (R369). -/
def execPmbusPoll (vals : List RailReading) (s : State) : Out :=
  .next (s.aonEv (fun s => (List.range 10).foldl (fun (s : State) r => s.railPolled r (vals.find? (fun x => x.rail.val == r))) s))

/-- A mapped regulator's non-zero status is recorded (R369). -/
def State.railAlert (s : State) (x : RailStatus) : State :=
  if s.bit R.PWR_RAIL_MAP_enable x.rail ∧ x.status ≠ 0 then
    s.errLog { cls := 7, inst := x.rail, level := 1, kind := 0x82, detail := x.rail.val + x.status.toNat * 2 ^ 16 }
  else s

/-- PMB_ALERT: each non-zero status of a mapped regulator is recorded at level 1 (R369). -/
def execPmbAlert (vals : List RailStatus) (s : State) : Out :=
  .next (s.aonEv (fun s => vals.foldl (fun (s : State) x => s.railAlert x) s))

/-! ### The arithmetic clock (R375, R376) -/

/-- The target that a change heads for: out of range it acts as the nearer end. -/
def State.arithTarget (s : State) : Nat := max 4 (min 13 (s.fld R.PWR_ARITH_target))

/-- The fields that a write of PWR_ARITH stores. -/
def State.arithSet (s : State) (v : Nat) : State :=
  (s.put R.PWR_ARITH_target (bits v 0 4)).put R.PWR_ARITH_pll_auto (bits v 9 1)

/-- A change of the arithmetic clock to its target begins: upwards the voltage goes first (R376). -/
def State.arithGo (s : State) : State :=
  let up := decide (s.fld R.PWR_ARITH_present < s.arithTarget)
  let v := vOf s.arithTarget
  if up then (s.put R.PWR_ARITH_busy 1).setAvs v else s.put R.PWR_ARITH_busy 1

/-- PWR_ARITH_WRITE. -/
def execPwrArithWrite (p : Port) (v : BitVec 64) (s : State) : Out :=
  .next (s.regCmd p (R.PWR_ARITH_target.addr 0 0) (fun s =>
    let s := s.arithSet v.toNat
    if s.fld R.PWR_ARITH_present = s.arithTarget ∧ !s.bit R.PWR_ARITH_busy then s else s.arithGo))

/-- The frequency has arrived at its target. -/
def State.dvfsDone (s : State) : State := (s.put R.PWR_ARITH_busy 0).count R.PWR_DVFS_count

/-- One step of 100 MHz towards the target: upwards once the regulator has reported the voltage reached; after the last step
down the voltage follows (R376). A target raised while the clock is on its way down is given its voltage first. -/
def State.dvfsMove (s : State) : State :=
  let t := s.arithTarget
  let f := s.fld R.PWR_ARITH_present
  if f < t then
    if s.pwr.avsPrev.isSome then s
    else
    let s := s.put R.PWR_ARITH_present (f + 1)
    if f + 1 = t then s.dvfsDone else s
  else
    let s := s.put R.PWR_ARITH_present (max t (f - 1))
    if f - 1 ≤ t then (s.setAvs (vOf t)).dvfsDone else s

/-- DVFS_STEP: the PLL steps by 100 MHz (R376). -/
def execDvfsStep (s : State) : Out :=
  .next (s.aonEv (fun s => if s.bit R.PWR_ARITH_busy then s.dvfsMove else s))

/-- No hoop is powered or starting. -/
def State.hoopsOff (s : State) : Bool :=
  s.fld R.PWR_HOOP_STAT_on == 0 && (List.range 16).all (fun h => (s.hoop h).waking.isNone)

/-- ARITH_PLL_STOP: 100 ms after the last hoop powered off (Table 15-5). -/
def execArithPllStop (s : State) : Out :=
  .next (s.aonEv (fun s => match s.pwr.arithIdle with
    | some t =>
      if s.bit R.PWR_ARITH_pll_auto ∧ s.hoopsOff ∧ t + 100 * ms ≤ s.now then
        { s with pwr := { s.pwr with arithPll := false, arithIdle := none } }
      else s
    | none => s))

/-- OSCILLATOR_TRIM: whether the crystal gave an edge to trim against (Table 15-5, R392). -/
def execOscillatorTrim (edge : Bool) (s : State) : Out := .next (s.aonEv (fun s => { s with pwr := { s.pwr with edges := edge } }))

/-- PWR_RTC_WRITE: only in STANDBY (R373). -/
def execPwrRtcWrite (p : Port) (v : BitVec 64) (s : State) : Out :=
  .next (s.regCmd p (R.PWR_RTC_ticks.addr 0 0) (fun s => if s.pwrState = 1 then s.put R.PWR_RTC_ticks v.toNat else s))

/-! ### Hoop sleep and wake (R19, R378, R379) -/

/-- A core whose clock is gated: it waits in ST.NEXT with no section, or runs nothing (R378). -/
def State.coreGated (s : State) (c : Nat) : Bool :=
  let k := s.core c
  (k.wait == .stNext && k.sect.isNone && k.nextSect.isNone) || s.fld R.CORE_STATUS_run_state c == 0

/-- A hoop is idle (R378). -/
def State.hoopIdle (s : State) (h : Nat) : Bool :=
  let k := s.hoop h
  k.sections.isEmpty && s.readyCount h == 0 && (List.range 8).all (fun j => s.coreGated (8 * h + j))
    && k.tiles.all (fun t => t.valid || t.corrupt || t.gone) && !k.ucode && k.dtLoad.isNone && k.dtQueue.isEmpty
    && !s.bit R.HOOP_AT_FREE_STAT_busy h

/-- Cells outside a window of memory. -/
def outside (a n : Nat) (l : List Host.Cell) : List Host.Cell := l.filter (fun p => decide (p.1 < a) || decide (a + n ≤ p.1))

/-- What is left of a core while its hoop is off: what lies in the main domain of it, the recovery that runs and the times of
its alarms (R19, R332). -/
def Core.lose (k : Core) : Core :=
  { masked := k.masked, lastRecovery := k.lastRecovery, recovering := k.recovering, recoverAgain := k.recoverAgain }

/-- What a powered-off hoop loses: tile cache, operand buffers, accumulators, registers (R19). -/
def State.loseHoop (s : State) (h : Nat) : State :=
  let s := s.updHoop h (fun k => { k with tiles := [], left := [], reserve := none })
  let s := (List.range 8).foldl (fun (s : State) j =>
    let c := 8 * h + j
    let s := ((s.updCore c Core.lose).sramDrop (accAddr c 0) (2 ^ 18)).sramDrop (vrfAddr c 0 0) (2 ^ 13)
    (s.put R.CORE_STATUS_powered 0 c).put R.CORE_STATUS_clock_gated 1 c) s
  let a := opbufAddr (8 * h) 0
  let s : State := { s with mem := outside a (8 * 0x100000) s.mem }
  (s.sramDrop a (8 * 0x100000)).tcStat h

/-- A hoop may power off: it has been idle for idle_ms, nothing keeps it on and no wake is asked for (R378). -/
def State.hoopMayOff (s : State) (h : HoopId) : Bool :=
  let d := s.fld R.PWR_HOOP_CFG_idle_ms
  s.hoopOn h && d != 0 && !(s.fld R.PWR_HOOP_CFG_keep_on).testBit h && s.hoopIdle h && (s.hoop h).wakeReq.isNone
    && decide ((s.hoop h).idleSince + d * ms ≤ s.now)

/-- A hoop powers off; the last one starts the time after which the arithmetic PLL stops (R378, Table 15-5). -/
def State.hoopDown (s : State) (h : HoopId) : State :=
  let s := (s.loseHoop h).setBit R.PWR_HOOP_STAT_on h false
  if s.hoopsOff then { s with pwr := { s.pwr with arithIdle := some s.now } } else s

/-- HOOP_POWER_OFF (R378). -/
def execHoopPowerOff (h : HoopId) (s : State) : Out :=
  .next (s.mainEv (fun s => if s.hoopMayOff h then s.hoopDown h else s))

/-- Hoops that wait for a grant, by request time and then number (R379). -/
def State.wakeQueue (s : State) : List Nat :=
  let l := (List.range 16).filterMap (fun h => (s.hoop h).wakeReq.map (fun t => (t, h)))
  (l.mergeSort (fun a b => decide (a.1 < b.1) || (a.1 == b.1 && decide (a.2 ≤ b.2)))).map (·.2)

/-- A hoop's start is granted; the arithmetic PLL starts if it is stopped (R379, Table 15-6). -/
def State.grantHoop (s : State) (h : Nat) : State :=
  let s := s.updHoop h (fun k => { k with wakeReq := none, waking := some s.now })
  let s : State := { s with pwr := { s.pwr with grants := s.pwr.grants ++ [s.now], arithPll := true, arithIdle := none } }
  (s.setBit R.PWR_HOOP_STAT_queued h false).count R.PWR_HOOP_WAKES_count

/-- A hoop is left waiting for a grant. -/
def State.queueHoop (s : State) (h : Nat) : State :=
  if (s.fld R.PWR_HOOP_STAT_queued).testBit h then s
  else (s.setBit R.PWR_HOOP_STAT_queued h true).count R.PWR_WAKE_QUEUED_count

/-- Grants to the hoops at the head of the queue, at most 2 in any 20 µs; the others are left waiting (R379). -/
def State.grantWakes (s : State) : State :=
  let recent := s.pwr.grants.filter (fun t => decide (s.now < t + 20 * us))
  let s : State := { s with pwr := { s.pwr with grants := recent } }
  let q := s.wakeQueue
  let n := 2 - recent.length
  (q.drop n).foldl (fun (s : State) h => s.queueHoop h) ((q.take n).foldl (fun (s : State) h => s.grantHoop h) s)

/-- HOOP_WAKE_GRANT: at most 2 starts in any 20 µs (R379). -/
def execHoopWakeGrant (s : State) : Out := .next (s.mainEv (fun s => s.grantWakes))

/-- A core of a hoop that has powered up restarts at its binder's entry, or is off; its state is reset, and its memories are not
cleared (Table 15-6, R96, R364). -/
def State.coreUp (s : State) (h c : Nat) : State :=
  let s := (s.updCore c (fun k => { k.lose with acc := k.acc, v := k.v })).put R.CORE_STATUS_powered 1 c
  let b : BitVec 12 := BitVec.ofNat 12 (s.fld R.CORE_STATUS_binder c)
  let l := (s.hoop h).loaded
  match (if l.contains b then some b else l.head?) with
  | some b => s.startCore c b (((s.binder b).map Binder.entry).getD 0)
  | none => s.stopCore c

/-- A hoop is powered: tags, maps and core state are reset (Table 15-6). -/
def State.hoopUp (s : State) (h : HoopId) : State :=
  let s := s.setBit R.PWR_HOOP_STAT_on h true
  let s := s.updHoop h (fun k => { k with waking := none, tiles := [], left := k.tiles ++ k.left, reserve := none, idleSince := s.now })
  let s := (List.range 8).foldl (fun (s : State) j => s.coreUp h (8 * h.val + j)) s
  let s := if s.colo.images.any (fun i => i.kind == 3 && i.index == h.val) then s.setBit R.COLO_READY0_ready (24 + h) true else s
  (s.tcStat h).schedStat h

/-- HOOP_WAKE_DONE: 40 µs after the grant the hoop is powered; tags, maps and core state are reset, and each core with a
binder restarts at its entry (Table 15-6, R96). -/
def execHoopWakeDone (h : HoopId) (s : State) : Out :=
  .next (s.mainEv (fun s =>
    match (s.hoop h).waking with
    | none => s
    | some t => if s.now < t + 40 * us then s else s.hoopUp h))

/-! ### Temperature (R380) -/

/-- A threshold outside 60 to 104 °C acts as the nearer end. -/
def thermClamp (v : Nat) : Nat := max 60 (min 104 v)

/-- Levels at or above which a sensor's reading lies: bit 0 warning, 1 throttle, 2 trip (Table 15-7). -/
def State.thermMask (s : State) (n : Nat) (t : Int) : Nat :=
  if 40 ≤ n ∧ n < 48 then (if 85 ≤ t then 4 else 0)
  else
    let w := if n = 48 then s.fld R.PWR_THERM_hbm_warn else s.fld R.PWR_THERM_warn
    let h := if n = 48 then s.fld R.PWR_THERM_hbm_throttle else s.fld R.PWR_THERM_throttle
    (if (thermClamp w : Int) ≤ t then 1 else 0) + (if (thermClamp h : Int) ≤ t then 2 else 0) + (if 105 ≤ t then 4 else 0)

/-- A level is crossed upwards: THERMAL at most once per second for each sensor and level (R380). -/
def State.thermEvent (s : State) (n lvl : Nat) (t : BitVec 8) : State :=
  let k := 4 * n + lvl
  let free := match s.pwr.thermEv.find? (fun p => p.1 == k) with
    | some (_, at') => decide (at' + 1000 * ms ≤ s.now)
    | none => true
  if free then
    let s : State := { s with pwr := { s.pwr with thermEv := s.pwr.thermEv.filter (fun p => p.1 ≠ k) ++ [(k, s.now)] } }
    s.event 0x0F 7 n 0xFFFFF (t.toNat + lvl * 2 ^ 8)
  else s

/-- The trip of a sensor: an engine is switched off; any other retires the device and stops it (Table 15-7). -/
def State.thermTrip (s : State) (n : Nat) (t : BitVec 8) : State :=
  if 40 ≤ n ∧ n < 48 then
    let e := n - 40
    let s := (linksOf e).foldl (fun (s : State) l => if s.linkOn l then (s.setEnable l false).put R.FLNK_STAT_reason 8 l else s) s
    s.updEngine e (fun _ => {})
  else
    let s := s.errLog { cls := 7, inst := n, level := 4, kind := 0x86, detail := t.toNat + 2 ^ 9 }
    let s := s.retireNow true
    if s.pwrState = 2 ∨ s.pwrState = 3 then
      ({ s with pwr := { s.pwr with awaits := none, downAt := none } } : State).setPwr 4
    else s

/-- One sensor's reading: its register, and the levels it crosses upwards. -/
def State.sense (s : State) (n : Nat) (t : BitVec 8) : State :=
  let old := SMap.get 0 s.pwr.thermLvl n
  let new := s.thermMask n t.toInt
  let s := (s.put R.PWR_TEMP_temp t.toNat n).put R.PWR_TEMP_valid 1 n
  let s : State := { s with pwr := { s.pwr with thermLvl := SMap.put 0 s.pwr.thermLvl n new } }
  let s := (List.range 3).foldl (fun (s : State) l => if new.testBit l ∧ !old.testBit l then s.thermEvent n l t else s) s
  if new.testBit 2 ∧ !old.testBit 2 then s.thermTrip n t else s

/-- Every die and HBM reading lies below its throttle threshold less 2 °C. -/
def State.cool (s : State) (temps : List (BitVec 8)) : Bool :=
  temps.zipIdx.all (fun p =>
    let h := if p.2 = 48 then s.fld R.PWR_THERM_hbm_throttle else s.fld R.PWR_THERM_throttle
    (decide (40 ≤ p.2) && decide (p.2 < 48)) || decide (p.1.toInt < (thermClamp h : Int) - 2))

/-- The highest die reading and its sensor, the lowest on a tie. -/
def hottest (temps : List (BitVec 8)) : Nat × Nat :=
  (temps.take 40).zipIdx.foldl (fun (best : Nat × Nat) p =>
    if p.2 = 0 ∨ (BitVec.ofNat 8 best.1).toInt < p.1.toInt then (p.1.toNat, p.2) else best) (0, 0)

/-- The readings of the sensors in order from 0: events, the hottest junction, and the thermal duty (R380). -/
def State.thermals (s : State) (l : List (BitVec 8)) : State :=
  let s := l.zipIdx.foldl (fun (s : State) p => s.sense p.2 p.1) s
  let s := (List.range 49).foldl (fun (s : State) n => if n < l.length then s else s.put R.PWR_TEMP_valid 0 n) s
  let s := (s.put R.PWR_TJ_max (hottest l).1).put R.PWR_TJ_sensor (hottest l).2
  let hot := s.pwr.thermLvl.any (fun (p : Nat × Nat) => p.2.testBit 1)
  let d := s.pwr.thermDuty
  let rise := s.cool l && decide (d < 16) && decide (s.pwr.thermMoved + ms ≤ s.now)
  let s : State := { s with pwr := { s.pwr with
    thermDuty := if hot then max 1 (d - 1) else if rise then d + 1 else d
    thermMoved := if hot ∨ rise then s.now else s.pwr.thermMoved } }
  s.dutyStat.alertStat

/-- THERMAL_SAMPLE: the sensors in order from 0; one without a reading shows none (R380). -/
def execThermalSample (temps : List (BitVec 8)) (s : State) : Out := .next (s.mainEv (fun s => s.thermals (temps.take 49)))

/-! ### Clock and rail faults (R337, R367) -/

/-- Step 5 of a power-up has passed, and the rails are up since (Table 15-3): REFCLK is required, and the PLLs of the crossbar
and of HBM run, in reset too. -/
def State.pllsOn (s : State) : Bool := s.pwr.enables.getLsbD 7 || s.pwrState == 3

/-- The clock runs, so that its loss is a fault (Table 15-5); the audio PLL is excepted. -/
def State.clockRuns (s : State) (k : ClockSource) : Bool :=
  match k with
  | .refclk => s.pllsOn
  | .xbar => s.pllsOn
  | .hbm => s.pllsOn
  | .ethSerdes e => s.mainOn && s.bit R.ETH_CTRL_enable e
  | .arith => s.pwr.arithPll
  | .spine => s.spine.phase != .off
  | .mgmt => true

/-- CLOCK_FAULT (R328, R337, R375). -/
def execClockFault (k : ClockSource) (s : State) : Out :=
  .next (s.aonEv (fun s => if s.clockRuns k then (s.errLog { cls := 7, inst := 0, level := 4, kind := 0x81 }).retireNow true else s))

/-- A fault of a rail that the device switches (R367): logged, the device retires fatally and stops, where it does not yet. -/
def State.railFault (s : State) (r : Nat) : State :=
  let s := s.errLog { cls := 7, inst := r, level := 4, kind := 0x82, detail := r }
  let s := (s.put R.PWR_STAT_fault 1).put R.PWR_STAT_fault_rail r
  let s := s.retireNow true
  if s.pwrState = 4 then s.alertStat
  else ({ s with pwr := { s.pwr with awaits := none, downAt := some (s.now + 5 * ms) } } : State).setPwr 4

/-! ### Sequencing (R370, R371) -/

/-- Rails in the order in which they switch on (Table 15-3). -/
def railOrder : List Nat := [0, 1, 2, 5, 3, 4, 7, 6]

/-- The rail after one in that order. -/
def railAfter (r : Nat) : Option Nat := ((railOrder.dropWhile (· ≠ r)).drop 1).head?

/-- The enable of a rail rises, and its power-good is awaited. -/
def State.enableRail (s : State) (r : Nat) : State :=
  { s with pwr := { s.pwr with enables := s.pwr.enables ||| (1#8 <<< r), awaits := some r } }

/-- The entry to STARTING (Table 15-3, step 1): the regulator has yet to report its first target reached (R368). -/
def State.startUp (s : State) : State :=
  (({ s with pwr := { s.pwr with avsMv := 750, avsPrev := some 0, downAt := none, fellAt := none } } : State).enableRail 0).setPwr 2

/-- The order in which the enables fall (Table 15-4). -/
def downOrder : List Nat := [6, 7, 4, 3, 5, 2, 1, 0]

/-- The next enable of a power-down falls; after the last one the state is STANDBY (R372, Table 15-4). -/
def State.enableFall (s : State) : State :=
  let e := match downOrder.find? (fun r => s.pwr.enables.getLsbD r) with
    | some r => s.pwr.enables &&& ~~~(1#8 <<< r)
    | none => 0
  if e = 0 then
    ({ s with pwr := { s.pwr with enables := 0, fellAt := none, avsMv := 0, avsPrev := none } } : State).setPwr 1
  else { s with pwr := { s.pwr with enables := e, fellAt := some s.pwr.up } }

/-- The frame of a PWR_CMD: refused with BUSY while the rails switch (R370). -/
def State.pwrCmd (s : State) (p : Port) (eff : State → State) : State :=
  s.regCmd p (R.PWR_CMD_op.addr 0 0) (fun s =>
    if s.pwrState = 2 ∨ s.pwrState = 4 then s.put R.PWR_STAT_cmd_result 2 else eff s)

/-- A STANDBY command is accepted in RUN: the rails are to switch off (R370). -/
def State.stopping (s : State) : State :=
  let s := s.put R.PWR_STAT_cmd_result 0
  ({ s with pwr := { s.pwr with downAt := none } } : State).setPwr 4

/-- STANDBY: only once the device is retired or every folio is FREE (R370). -/
def execStandby (p : Port) (s : State) : Out :=
  .next (s.pwrCmd p (fun s =>
    if s.fld R.COLO_SERVICE_state = 2 ∨ s.dir.all (fun d => d.2.st == .free) then
      if s.pwrState = 3 then s.stopping else s.put R.PWR_STAT_cmd_result 0
    else s.put R.PWR_STAT_cmd_result 1))

/-- RUN: only in STANDBY with RST_N high (R370). -/
def execRun (p : Port) (s : State) : Out :=
  .next (s.pwrCmd p (fun s =>
    if s.pwrState = 1 ∧ s.pwr.rstHigh then (s.put R.PWR_STAT_cmd_result 0).startUp
    else s.put R.PWR_STAT_cmd_result 1))

/-- A power-good that does not arrive: a rail fault, after which the rails switch off at once (R371). -/
def State.railMissing (s : State) (r : Nat) : State :=
  let s := s.railFault r
  { s with pwr := { s.pwr with downAt := none } }

/-- PG_TIMEOUT: a power-good that does not arrive is a rail fault; the rails already on switch off (R371). -/
def execPgTimeout (r : Fin 8) (s : State) : Out :=
  .next (s.aonEv (fun s => if s.pwrState = 2 ∧ s.pwr.awaits = some r.val then s.railMissing r else s))

end Sys2Proof.Machine
end

