-- ==== Sys2Proof/Machine/Boot.lean ====
section
/-! DEFINITION. Resets, the boot flashes and the boot, power-up and power-down (R319, R323, R327, R343, R347 to R349, R355
to R357, R365, R367, R371 to R373, R388, R393). -/
namespace Sys2Proof.Machine

/-! ### Boot flashes (R319, R355) -/

/-- A flash that passes the probe: a usable SFDP table and 256 MiB (R319). -/
def Flash.present (f : Flash) : Bool := f.answers && decide (256 ≤ f.sizeMib)

/-- n bytes of a flash. -/
def Flash.read (f : Flash) (o n : Nat) : List Byte := (List.range n).map (fun k => SMap.get 0xFF f.bytes (o + k))

/-- Program bytes: a program only clears bits (R355). -/
def Flash.program (f : Flash) (o : Nat) (bs : List Byte) : Flash :=
  { f with bytes := bs.zipIdx.foldl (fun m p => SMap.upd 0xFF m (o + p.2) (fun b => b &&& p.1)) f.bytes }

/-- The flash of a slot: 0 slot A, 1 slot B. -/
def State.flash (s : State) (k : Nat) : Flash := if k = 0 then s.flashA else s.flashB

/-- The state with the flash of a slot changed. -/
def State.updFlash (s : State) (k : Nat) (f : Flash → Flash) : State :=
  if k = 0 then { s with flashA := f s.flashA } else { s with flashB := f s.flashB }

/-- The Colophon uses a flash; one that no longer answers is not ready (R365, Table 14-11). -/
def State.flashUsed (s : State) (k : Nat) : State :=
  let s := s.updFlash k (fun f => match f.lasts with
    | some 0 => { f with answers := false, lasts := none }
    | some (n + 1) => { f with lasts := some n }
    | none => f)
  if (s.flash k).answers then s else s.setBit R.COLO_READY0_ready (2 + k) false

/-- Offset and largest image of a component, by manifest kind (Table 14-7). -/
def component : Nat → Nat × Nat
  | 1 => (0x1000, 4092 * 1024)
  | 2 => (0x401000, 196604 * 1024)
  | 3 => (0xC401000, 1020 * 1024)
  | _ => (0xC501000, 1020 * 1024)

/-- The manifest and the image of a component that a slot holds and R351 accepts. -/
def State.accepted (s : State) (k kind : Nat) : Option (List Byte × List Byte) :=
  let f := s.flash k
  let (o, most) := component kind
  let m := f.read o 320
  let len := mfield m 16 8
  if f.present ∧ len ≤ most ∧ s.manifestSigned m kind then
    let img := f.read (o + 4096) len
    if digestOk m img then some (m, img) else none
  else none

/-- Header fields of a slot (Table 14-7): seq and state. -/
def State.slotSeq (s : State) (k : Nat) : Nat := leNat ((s.flash k).read 4 4)
def State.slotState (s : State) (k : Nat) : Nat := leNat ((s.flash k).read 8 1)

/-- A slot that R356 counts as valid. -/
def State.slotValid (s : State) (k : Nat) : Bool :=
  (s.flash k).present && leNat ((s.flash k).read 0 4) == 0x4C534D47 && s.slotState k != 0 && (s.accepted k 1).isSome

/-- Advance the state byte of a slot (R355). -/
def State.slotMark (s : State) (k : Nat) (v : Byte) : State := s.updFlash k (fun f => f.program 8 [v])

/-- An accepted image runs: it replaces what ran under its kind and index. -/
def State.runs (s : State) (kind index : Nat) (m : List Byte) : State :=
  { s with colo := { s.colo with images := s.colo.images.filter (fun i => !(i.kind == kind && i.index == index))
      ++ [{ kind := kind, index := index, svn := mfield m 8 4, meas := measure m }] } }

/-- The Colophon starts on a slot. -/
def State.bootSlot (s : State) (k : Nat) (trying fallback : Bool) : State :=
  let s := ((s.put R.COLO_BOOT_slot k).put R.COLO_BOOT_fallback fallback.toNat).put R.COLO_BOOT_mixed 0
  let s := s.put R.COLO_BOOT_seq (s.slotSeq k)
  let s : State := { s with colo := { s.colo with phase := .starting, trying := trying, age := 0 } }
  match s.accepted k 1 with
  | some (m, _) => s.runs 1 0 m
  | none => s

/-- The boot ROM's choice of slot (R356). Of two good slots with one seq it takes A. -/
def State.chooseSlot (s : State) : State :=
  let s := (s.flashUsed 0).flashUsed 1
  let v := [0, 1].filter (fun k => s.slotValid k)
  let tried := v.filter (fun k => s.slotState k == 0x7F)
  let s := tried.foldl (fun (s : State) k => s.slotMark k 0x00) s
  let v := v.filter (fun k => !tried.contains k)
  let fallback := !tried.isEmpty
  match v.find? (fun k => s.slotState k == 0xFF && v.all (fun j => j == k || decide (s.slotSeq j < s.slotSeq k))) with
  | some k => (s.slotMark k 0x7F).bootSlot k true fallback
  | none =>
    match v.filter (fun k => s.slotState k == 0x3F) with
    | [] => { (s.put R.COLO_BOOT_fallback fallback.toNat) with colo := { s.colo with phase := .recovery, trying := false } }
    | [k] => s.bootSlot k false fallback
    | k :: j :: _ => s.bootSlot (if s.slotSeq k < s.slotSeq j then j else k) false fallback

/-- Start of the identity region of a flash (Table 14-7). -/
def identityAt : Nat := 0x0FF00000

/-- A transition of the lifecycle blows fuses at once and waits for device reset (R349). -/
def State.transition (s : State) (next : Nat) : State :=
  let s : State := { s with fuses := { s.fuses with lifecycle := max s.fuses.lifecycle next } }
  (s.put R.SEC_LIFECYCLE_pending 1).put R.SEC_LIFECYCLE_next next

/-! ### Resets (R373) -/

/-- A register that power-up alone resets. -/
def powerUpReg (a : Nat) : Bool := match famAt a with | some (f, _, _) => f.powerUp | none => false

/-- Everything but the always-on domain is reset; memory, accumulators, vector registers and the tile cache's memory keep their
content, and its tags do not (R364). `keep` chooses the control registers that stay. -/
def State.clearMain (s : State) (keep : Nat → Bool) : State :=
  { State.reset with
    pending := s.pending, mem := s.mem, hbmErr := s.hbmErr, sramErr := s.sramErr, sent := s.sent, irqs := s.irqs,
    clk := { rtcAcc := s.clk.rtcAcc },
    ctl := s.ctl.filter (fun p => keep p.1),
    cores := s.cores.filterMap (fun p => if p.2.acc = [] ∧ p.2.v = [] then none else some (p.1, { acc := p.2.acc, v := p.2.v })),
    hoops := s.hoops.filterMap (fun p => if p.2.tiles = [] ∧ p.2.left = [] then none else some (p.1, { left := p.2.tiles ++ p.2.left })),
    eccSrc := s.eccSrc, fuses := s.fuses, linkFw := s.linkFw, optRecs := s.optRecs,
    pwr := { s.pwr with mainOn := false, arithPll := false, arithIdle := none, grants := [] },
    colo := s.colo, flashA := s.flashA, flashB := s.flashB, jtag := s.jtag, free := s.free }

/-- COLO_READY0 keeps the bits of a mask, and COLO_READY1 to COLO_READY3 read zero (R365). -/
def State.keepReady (s : State) (mask : Nat) : State :=
  let s := s.put R.COLO_READY0_ready (s.fld R.COLO_READY0_ready &&& mask)
  ((s.put R.COLO_READY1_links 0).put R.COLO_READY2_cores 0).put R.COLO_READY3_cores 0

/-- The hoops are off. -/
def State.hoopsLost (s : State) : State := (s.put R.PWR_HOOP_STAT_on 0).put R.PWR_HOOP_STAT_queued 0

/-- Device reset (R373): every register so marked, and every domain but the always-on one. -/
def State.deviceReset (s : State) : State :=
  let s := (s.clearMain powerUpReg).keepReady 0xE
  let s := ((s.put R.COLO_SERVICE_state 0).put R.SEC_DEBUG_unlocked 0).put R.SEC_DEBUG_since_reset 0
  let s := s.put R.SEC_ATT_STAT_busy 0
  let s : State := { s with jtag := { s.jtag with expiry := none, drive := false } }
  s.hoopsLost.alertStat

/-- What survives the loss of the always-on domain: fuses, flashes and parts; memory has lost its power (R364, R373). -/
def State.aonReset (s : State) : State :=
  { State.reset with
    pending := s.pending, sent := s.sent, irqs := s.irqs, fuses := s.fuses, optRecs := s.optRecs,
    flashA := s.flashA, flashB := s.flashB, free := s.free, pwr := { aon := s.pwr.aon, rstHigh := s.pwr.rstHigh, edges := s.pwr.edges },
    colo := { phyad := s.colo.phyad } }

/-! ### Boot (Table 14-4) -/

/-- A new challenge from the random generator (R362). -/
def State.drawChal (s : State) : State :=
  let (a, s) := s.freeVal
  let (b, s) := s.freeVal
  { s with colo := { s.colo with chal := a ++ b, chalAt := s.pwr.up } }

/-- The registers that show fuses (R347, chapter 14). -/
def State.fuseRegs (s : State) : State :=
  let f := s.fuses
  let s := (List.range 8).foldl (fun (s : State) k =>
    (s.put R.SEC_ROOT_DIGEST_bytes (bits f.rootDigest.toNat (64 * k) 64) k).put R.SEC_OWNER_DIGEST_bytes
      (bits f.ownerDigest.toNat (64 * k) 64) k) s
  let s := (s.put R.COLO_SERIAL0_bytes (bits f.serial.toNat 0 64)).put R.COLO_SERIAL1_bytes (bits f.serial.toNat 64 64)
  (s.put R.SEC_SVN_floor f.svnFloor).put R.SEC_LIFECYCLE_owned (decide (f.ownerDigest ≠ 0)).toNat

/-- Step 2 of the boot: a lifecycle state that was pending takes effect (R349); in MANUFACTURE the test port is unlocked
(R348). -/
def State.lifecycleRegs (s : State) : State :=
  let l := s.fuses.lifecycle
  let s := ((s.put R.SEC_LIFECYCLE_state l).put R.SEC_LIFECYCLE_pending 0).put R.SEC_LIFECYCLE_next 0
  if l = 0 then (s.put R.SEC_DEBUG_unlocked 1).put R.SEC_DEBUG_since_reset 1 else s

/-- Step 3: a flash is probed (R319, R327). -/
def State.probe (s : State) (k : Nat) : State :=
  let f := s.flash k
  let on := f.present
  let v (n : Nat) : Nat := if on then n else 0
  let s := ((s.put R.MISC_QSPI_STAT_present on.toNat k).put R.MISC_QSPI_STAT_quad (v f.quad.toNat) k).put R.MISC_QSPI_STAT_read_mhz (v f.mhz) k
  let s := (s.put R.MISC_QSPI_STAT_sample (v f.sample) k).put R.MISC_QSPI_STAT_size_mib (v f.sizeMib) k
  s.setBit R.COLO_READY0_ready (2 + k) on

/-- Boot from step 2 (Table 14-4). A fuse error stops it (R347). -/
def State.bootRun (s : State) : State :=
  let s : State := { s with colo := { s.colo with shown := none, trying := false, images := [] } }
  if s.fuses.parityBad then
    { (s.put R.COLO_READY0_ready 0) with colo := { s.colo with phase := .stopped } }
  else (((s.fuseRegs.lifecycleRegs.deriveIdentity).probe 0).probe 1).drawChal.chooseSlot

/-- The status of an optical engine's record (R322, R323): one with N = 1 and a channel entry of zeros is good. -/
def engineStatus (ack : Bool) (l : List Byte) : Nat :=
  let st := recStatus ack l
  if st ≠ 1 ∧ ((l.getD 40 0).toNat ≠ 1 ∨ !allZero ((l.drop 64).take 8)) then 2 else st

/-- The record of an optical engine is read (R323). -/
def State.engineRecord (s : State) (e : Nat) : State :=
  let r := s.optRecs.find? (fun p => p.1 == e)
  let l := (r.map (·.2)).getD []
  let st := engineStatus r.isSome l
  let s := ((s.put R.MISC_OPT_STAT_valid (decide (st = 0)).toNat e).put R.MISC_OPT_STAT_status st e).put R.MISC_OPT_STAT_class
    (recClass r.isSome l) e
  if st = 0 then (List.range 64).foldl (fun (s : State) w => s.put R.MISC_OPT_REC_bytes (recWord l w) e w) s else s

/-- MODULE_ATTACH of every optical engine (R323), once the main domain, whose ring takes the events, runs (DEDUCED, log entry
83). -/
def State.enginesAttach (s : State) : State :=
  if s.colo.attachOwed then
    (List.range 8).foldl (fun (s : State) e =>
      s.event 0x14 4 (0x80 + e) 0xFFFFF (s.fld R.MISC_OPT_STAT_status e + s.fld R.MISC_OPT_STAT_class e * 2 ^ 8))
      { s with colo := { s.colo with attachOwed := false } }
  else s

/-- The ns that a character of 10 bits takes at the UART's rate (R320, R326). -/
def State.charNs (s : State) : Nat := 10 * 1000000000 / max 9600 (min 3000000 (s.fld R.MISC_UART_CFG_baud))

/-- Characters to be sent on the UART, in order (R320). -/
def State.uartSend (s : State) (l : List Byte) : State :=
  let idle := s.colo.uartTx.isEmpty
  let s : State := { s with colo := { s.colo with uartTx := s.colo.uartTx ++ l, txLeft := if idle then s.charNs else s.colo.txLeft } }
  s.put R.MISC_UART_STAT_tx_busy (!s.colo.uartTx.isEmpty).toNat

/-- The Colophon prints its boot record (R320), whose content the spec does not give (a free value, log entry 82). -/
def State.printBoot (s : State) : State := ({ s with free := s.free + 1 } : State).uartSend (Config.bootRecord s.free)

/-- Boot from power-up: the strap is held from the rise of AON_POR_N on (R393), and the engines are read (R323). -/
def State.powerUpBoot (s : State) : State :=
  let s := s.bootRun
  if s.colo.phase = .stopped then s
  else (List.range 8).foldl (fun (s : State) e => s.engineRecord e) { s with colo := { s.colo with attachOwed := true } }

/-- The always-on domain loses its power (R373). -/
def State.aonDown (s : State) : State :=
  let s := s.aonReset
  { s with pwr := { s.pwr with aon := false } }

/-- The always-on domain gains its power: the strap is taken and the boot begins (R373, R393). -/
def State.aonUp (s : State) (phyad : BitVec 5) : State :=
  let s := s.aonReset
  ({ s with pwr := { s.pwr with aon := true }, colo := { phyad := phyad } } : State).powerUpBoot

/-- AON_POR: low resets every register; the rise begins the boot (R373). -/
def execAonPor (high : Bool) (phyad : BitVec 5) (s : State) : Out :=
  .next (s.pinEv (fun s => if !high then s.aonDown else if s.pwr.aon then s else s.aonUp phyad))

/-! ### Images loaded from a slot (R356) -/

/-- A component from the slot booted, or from the other one, which sets COLO_BOOT.mixed. -/
def State.loadPart (s : State) (kind : Nat) : State × Option (List Byte × List Byte) :=
  let k := s.fld R.COLO_BOOT_slot
  let s := s.flashUsed k
  match s.accepted k kind with
  | some x => (s, some x)
  | none =>
    let s := s.flashUsed (1 - k)
    match s.accepted (1 - k) kind with
    | some x => (s.put R.COLO_BOOT_mixed 1, some x)
    | none => (s, none)

/-- Hoop microcode and link firmware from the flash; the spec gives no source for their versions. -/
def State.loadFirmware (s : State) : State :=
  let s := match s.loadPart 3 with
    | (s, some (m, _)) =>
      let (v, s) := s.freeVal
      (List.range 16).foldl (fun (s : State) h => (s.runs 3 h m).put R.HOOP_UCODE_VER_version (v.toNat % 2 ^ 32) h) s
    | (s, none) => s
  match s.loadPart 4 with
  | (s, some (m, _)) =>
    let (v, s) := s.freeVal
    (List.range 64).foldl (fun (s : State) l => s.runs 4 l m) { s with linkFw := BitVec.ofNat 32 v.toNat }
  | (s, none) => s

/-- The firmware of one link from the flash, where a slot holds one that is accepted (R345). -/
def State.loadLink (s : State) (l : Nat) : State :=
  match s.loadPart 4 with
  | (s, some (m, _)) =>
    let (v, s) := s.freeVal
    (s.runs 4 l m).updLink l (fun k => { k with fw := some (BitVec.ofNat 32 v.toNat) })
  | (s, none) => s

/-! ### Power-up, power-down -/

/-- The main domain leaves reset: device time starts from PWR_RTC (R373), the device is fenced until it holds a lease
(R272, R276), and as a quorum member it is quiet for 60 ms (R277). -/
def State.mainUp (s : State) : State :=
  let s : State := { s with ctl := s.ctl.filter (fun p => alwaysOn p.1 || powerUpReg p.1), pwr := { s.pwr with mainOn := true },
                            clk := { s.clk with time := s.fld R.PWR_RTC_ticks * 1000000000 / 32768 } }
  let s := s.setFenced true
  (({ s with lease := { s.lease with quietUntil := s.now + 60 * ms } } : State).loadFirmware).enginesAttach

/-- The main domain may leave reset: RST_N is high, the Colophon runs, and the rails up to VDDQ are on. -/
def State.mainMay (s : State) : Bool :=
  !s.mainOn && s.pwr.rstHigh && s.colo.phase == .running
    && (s.pwrState == 3 || (s.pwrState == 2 && (s.pwr.awaits == some 7 || s.pwr.awaits == some 6)))

/-- The main domain leaves reset when it may. -/
def State.tryMain (s : State) : State := if s.mainMay then s.mainUp else s

/-- The last rail is good: the state is RUN (Table 15-3). -/
def State.railsUp (s : State) : State :=
  let s : State := { s with pwr := { s.pwr with awaits := none } }
  (s.put R.PWR_STAT_fault 0).setPwr 3

/-- POWER_GOOD: the next enable rises; after VDDQ the main domain leaves reset, after the last rail the state is RUN
(Table 15-3). -/
def execPowerGood (r : Fin 8) (s : State) : Out :=
  .next (s.aonEv (fun s => if s.pwrState ≠ 2 ∨ s.pwr.awaits ≠ some r.val then s
    else match railAfter r with
      | some n => if r.val = 4 then (s.enableRail n).tryMain else s.enableRail n
      | none => s.railsUp))

/-- HBM is trained: each pseudo-channel counts as recalibrated now (R218, Table 14-11). -/
def State.hbmCalibrated (s : State) : State :=
  let t := s.fld R.HBM_STAT_temp
  let s : State := { s with hbm := { s.hbm with
    recals := (List.range 32).foldl (fun m pc => SMap.put (0, 0) m pc (s.now, t)) s.hbm.recals, asked := none } }
  s.setBit R.COLO_READY0_ready 5 true

/-- HBM is ready; a recalibration asked for before starts (R27). -/
def State.hbmReady (s : State) : State :=
  match s.hbm.asked with
  | some pc => s.hbmCalibrated.recalStart pc
  | none => s.hbmCalibrated

/-- HBM_TRAINED: every pseudo-channel is calibrated from now on (R214, R218, Table 14-11). -/
def execHbmTrained (s : State) : Out :=
  .next (s.mainEv (fun s => if s.hbmUp then s else s.hbmReady))

/-- A power-down in STOPPING may run: at once, or after a rail fault once the retire's step 4 has passed or 5 ms have
(R367, R372). -/
def State.downMay (s : State) : Bool :=
  s.pwrState == 4 && (s.pwr.fellAt.isSome || match s.pwr.downAt with
    | none => true
    | some t => !s.mainOn || s.retire.silent || s.fld R.COLO_SERVICE_state == 2 || decide (t ≤ s.now))

/-- A power-down begins: hoops, engines and Ethernet ports are off, and every domain but the always-on one loses its content,
memory and loaded microcode and firmware too (R364, R372). An attestation that runs ends, as its buffer is gone (R359). -/
def State.mainLost (s : State) : State :=
  let s := if s.att.isSome then s.attEnd 2 else s
  let ret := s.retire
  let s := (s.clearMain (fun a => alwaysOn a || powerUpReg a)).keepReady 0xF
  let s : State := { s with
    mem := [], hbmErr := [], sramErr := s.sramErr.filter (fun p => decide (coloAddr 0 ≤ p.1)), cores := [], hoops := [], retire := ret,
    linkFw := 0, colo := { s.colo with images := s.colo.images.filter (fun i => i.kind == 1) }
    pwr := { s.pwr with awaits := none, downAt := none, coreMa := 0, thermLvl := [] } }
  s.hoopsLost

/-- One turn of a power-down: it begins, and an enable falls; or the power-good of the enable that fell last has fallen, and the
next one falls (R372). -/
def State.railsDown (s : State) : State := (if s.pwr.fellAt.isSome then s else s.mainLost).enableFall

/-- POWER_DOWN: the rails switch off in turn, and every domain but the always-on one loses its content (R372). -/
def execPowerDown (s : State) : Out :=
  .next (s.aonEv (fun s => if s.downMay then s.railsDown else s))

/-- RAIL_FAULT: a rail whose enable is high, or an always-on rail, whose fault acts as a power-up (R367). -/
def execRailFault (r : Fin 10) (s : State) : Out :=
  .next (s.aonEv (fun s => if 8 ≤ r.val then (if s.pwr.aon then s.aonReset.powerUpBoot else s)
    else if s.pwr.enables.getLsbD r then s.railFault r
    else s))

/-- DEVICE_RESET: PWR_CMD op 3; boot runs again from step 2 (R373). -/
def execDeviceReset (p : Port) (s : State) : Out :=
  .next (s.pwrCmd p (fun s => (s.put R.PWR_STAT_cmd_result 0).deviceReset.bootRun))

/-- An edge of RST_N; while AON_POR_N is low it has no further effect (R373, R387). -/
def State.rstEdge (s : State) (high : Bool) : State :=
  let s : State := { s with pwr := { s.pwr with rstHigh := high } }
  if !s.pwr.aon then s else if high then s.bootRun else s.deviceReset

/-- RST_N: low holds the main domain in reset; the rise runs the boot from step 2 (R373, R387). -/
def execRstN (high : Bool) (s : State) : Out :=
  .next (s.pinEv (fun s => if high = s.pwr.rstHigh then s else s.rstEdge high))

/-! ### The Colophon and the Spine start (R343, R356, R357) -/

/-- The time within which the firmware of a slot that is tried must be ready, in ns (R343, R356). -/
def tryNs : Nat := 3000 * ms

/-- The Colophon waits for firmware that may still come ready. -/
def State.mayStart (s : State) : Bool := s.colo.phase == .starting && (!s.colo.trying || decide (s.colo.age ≤ tryNs))

/-- The UART takes up what waited for the Colophon's restart (R342): a setting, characters, and errors of reception. -/
def State.uartResume (s : State) : State :=
  let c := s.colo
  let s := match c.cfgWait with | some v => s.put R.MISC_UART_CFG_baud v | none => s
  let s := if c.framingWait then s.put R.MISC_UART_STAT_framing_err 1 else s
  let s := if c.overrunWait then s.put R.MISC_UART_STAT_rx_overrun 1 else s
  { s with colo := { c with
    uartRx := c.uartRx ++ c.rxWait, rxWait := [], cfgWait := none, framingWait := false, overrunWait := false } }

/-- The Colophon's firmware is ready: a slot that was tried is marked good, and the readiness bits are its own again
(Table 14-4, step 5). After a boot it prints its record (R320). -/
def State.coloRunning (s : State) : State :=
  let boot := s.colo.shown.isNone
  let s := if s.colo.trying then s.slotMark (s.fld R.COLO_BOOT_slot) 0x3F else s
  let s : State := { s with colo := { s.colo with phase := .running, trying := false, shown := none } }
  let s := if boot then s.printBoot else s
  ((s.uartResume.setBit R.COLO_READY0_ready 0 true).setBit R.COLO_READY0_ready 1 s.colo.phyUp).alertStat

/-- The vendor's step to PROVISIONED may be taken: in MANUFACTURE, with no transition pending, once the identity certificate
stands in both flashes (R349, R354). -/
def State.mayProvision (s : State) : Bool :=
  s.lifecycle == 0 && !s.bit R.SEC_LIFECYCLE_pending
    && [0, 1].all (fun k => (s.flash k).present && leNat ((s.flash k).read identityAt 4) == 0x54434D47)

/-- The Colophon's firmware comes ready; at P0 it takes the vendor's step to PROVISIONED where it is told to (R349; DESIGN
CHOICE, log entry 64). -/
def State.coloStart (s : State) (provision : Bool) : State :=
  let t := s.coloRunning
  let t := if provision && t.mayProvision then t.transition 1 else t
  if s.colo.shown.isNone ∧ t.pwrState = 1 ∧ t.pwr.rstHigh then t.startUp else t.tryMain

/-- COLOPHON_READY: a slot that was tried is good, unless 3 s have passed; after a boot the main domain powers up (Table 14-4,
steps 5 and 6; R343, R356). -/
def execColophonReady (provision : Bool) (s : State) : Out :=
  .next (s.secEv (fun s => if s.mayStart then s.coloStart provision else s))

/-- COLOPHON_BOOT_WATCHDOG: the firmware of a slot that is tried is not ready after 3 s, and the next choice falls back
(R343, R356). -/
def execColophonBootWatchdog (s : State) : Out :=
  .next (s.aonEv (fun s => if s.colo.phase = .starting ∧ s.colo.trying ∧ tryNs ≤ s.colo.age then s.chooseSlot else s))

/-- The Colophon restarts (R343): the readiness registers hold their values until the new firmware is ready (R365). -/
def State.coloRestart (s : State) : State :=
  let hold := [s.fld R.COLO_READY0_ready, s.fld R.COLO_READY1_links, s.fld R.COLO_READY2_cores, s.fld R.COLO_READY3_cores]
  ({ s with colo := { s.colo with
      shown := some (s.colo.shown.getD (hold.map (BitVec.ofNat 64))) } } : State).chooseSlot

/-- An image of n bytes goes to HBM at a place the spec does not give: any 4 KiB boundary where it fits. -/
def State.placeImage (s : State) (img : List Byte) : State :=
  let (v, s) := s.freeVal
  let room := (hbmSize - img.length) / 4096
  s.hbmWrite (v.toNat % (room + 1) * 4096) img

/-- The Spine starts on an accepted Spine OS image (Table 14-4, step 7). -/
def State.spineBoot (s : State) (m img : List Byte) : State :=
  let s := (s.placeImage img).runs 2 0 m
  { s with spine := { s.spine with phase := .starting } }

/-- SPINE_OS_LOADED: Spine OS is read into HBM once that is trained, and the Spine starts (Table 14-4, step 7). -/
def execSpineOsLoaded (s : State) : Out :=
  .next (s.mainEv (fun s =>
    if s.colo.phase ≠ .running ∨ !s.hbmUp ∨ s.spine.phase ≠ .off then s
    else match s.loadPart 2 with
      | (s, some (m, img)) => s.spineBoot m img
      | (s, none) => s))

end Sys2Proof.Machine
end

