-- ==== Sys2Proof/Machine/Live.lean ====
section
/-! DEFINITION. Spine restart, retiring by command, hoop drain and microcode, the links of the board and the UART (R318,
R320, R326, R335 to R337, R340, R344). -/
namespace Sys2Proof.Machine

/-! ### The Spine (R335, R336) -/

/-- The Spine stops: logged, and not ready (R328, R335). -/
def State.spineStop (s : State) (pair : Nat) : State :=
  let s := s.errLog { cls := 8, inst := pair, level := 3, kind := 0x80 }
  ({ s with spine := { s.spine with phase := .stopped } } : State).setBit R.COLO_READY0_ready 4 false

/-- LOCKSTEP_MISMATCH: all 16 cores stop; it is logged at level 3 (R328, R335). -/
def execLockstepMismatch (pair : Fin 8) (s : State) : Out :=
  .next (s.mainEv (fun s => if s.spine.phase = .off ∨ s.spine.phase = .stopped then s else s.spineStop pair))

/-- The Spine's SRAM is checked; an uncorrectable word is reported, and a restart begins anew with sound words (R331, R336). -/
def State.spineSram (s : State) : State := (s.sramCheck (spineAddr 0) (2 ^ 57)).sramDrop (spineAddr 0) (2 ^ 57)

/-- A Spine restart begins (R336). Frames handed to the old Spine OS are gone with it. -/
def State.spineAgain (s : State) : State :=
  ({ s with spine := { phase := .restarting, since := s.now } } : State).setBit R.COLO_READY0_ready 4 false

/-- SPINE_RESTART: the rest of the device goes on (R336). -/
def execSpineRestart (s : State) : Out :=
  .next (s.mainEv (fun s => if s.spine.phase = .off then s else s.spineSram.spineAgain))

/-- SPINE_READY (R336, R365). -/
def execSpineReady (s : State) : Out :=
  .next (s.mainEv (fun s =>
    if s.spine.phase = .starting ∨ s.spine.phase = .restarting then
      ({ s with spine := { s.spine with phase := .running } } : State).setBit R.COLO_READY0_ready 4 true
    else s))

/-- carry_s in ns: 0 acts as 1, above 10 as 10. -/
def State.carryNs (s : State) : Nat := max 1 (min 10 (s.fld R.COLO_SPINE_CFG_carry_s)) * 1000 * ms

/-- SPINE_CARRY_TIMEOUT: the device retires with fatal set (R336). -/
def execSpineCarryTimeout (s : State) : Out :=
  .next (s.mainEv (fun s =>
    if s.spine.phase = .restarting ∧ s.spine.since + s.carryNs ≤ s.now then
      (s.errLog { cls := 8, inst := 0, level := 4, kind := 0x84 }).retireNow true
    else s))

/-! ### Retiring (R340, Table 13-5) -/

/-- RETIRE: a write of retire to COLO_SERVICE. -/
def execRetire (p : Port) (s : State) : Out :=
  .next (s.regCmd p (R.COLO_SERVICE_retire.addr 0 0) (fun s => s.retireNow false))

/-- No section is in flight and none of their gatherings waits for release. -/
def State.drainedAll (s : State) : Bool :=
  (List.range 16).all (fun h => (s.hoop h).sections.isEmpty) && s.dir.all (fun d => d.2.st != .active)

/-- RETIRE_FENCE: a planned retire's step 2, once what was in flight is released, at most 5 ms after it began. -/
def execRetireFence (s : State) : Out :=
  .next (s.mainEv (fun s =>
    if s.fld R.COLO_SERVICE_state = 1 ∧ s.retire.resignAt.isNone ∧ (s.drainedAll ∨ s.retire.since + 5 * ms ≤ s.now) then
      s.retireFence
    else s))

/-- A member has acknowledged the RESIGN; at a majority the device falls silent (R340). -/
def State.resignHeard (s : State) (m : DevNum) : State :=
  let s : State := { s with retire := { s.retire with acks := m :: s.retire.acks } }
  if s.majority ≤ s.retire.acks.length ∧ !s.retire.silent then s.retireSilent else s

/-- RESIGN_TIMEOUT: 1 ms after the RESIGN. -/
def execResignTimeout (s : State) : Out :=
  .next (s.mainEv (fun s =>
    match s.retire.resignAt with
    | some t => if t + ms ≤ s.now ∧ !s.retire.silent ∧ !s.standalone then s.retireSilent else s
    | none => s))

/-! ### Hoop drain and microcode (R344) -/

/-- A drain begins: the hoop wakes and its IDLE and READY folios move (R344, R378). -/
def State.drainOn (s : State) (h : HoopId) : State :=
  let s := s.wakeHoop h
  let l := (s.dir.filter (fun d => d.2.hoop.toNat = h.val)).map (fun d => BitVec.ofNat 20 d.1)
  ((l.foldl (fun (s : State) n => s.drainFolio n) s).drainStat h).schedStat h

/-- HOOP_DRAIN: folios that are IDLE or READY move at once; a drain wakes the hoop (R344, R378). -/
def execHoopDrain (p : Port) (h : HoopId) (on : Bool) (s : State) : Out :=
  .next (s.regCmd p (R.HOOP_MAINT_drain.addr h 0) (fun s =>
    let s := s.put R.HOOP_MAINT_drain on.toNat h
    if on then s.drainOn h else s.drainStat h))

/-- A microcode load begins (R344). -/
def State.ucodeStart (s : State) (h : HoopId) : State :=
  let s := (s.put R.HOOP_MAINT_busy 1 h).setBit R.COLO_READY0_ready (24 + h) false
  (s.updHoop h (fun k => { k with ucode := true })).wakeHoop h

/-- UCODE_LOAD: discarded while a load runs; only on a drained hoop (R344). -/
def execUcodeLoad (p : Port) (h : HoopId) (s : State) : Out :=
  .next (s.regCmd p (R.HOOP_MAINT_drain.addr h 0) (fun s =>
    if s.bit R.HOOP_MAINT_busy h then s
    else if !s.bit R.HOOP_MAINT_drained h then s.put R.HOOP_MAINT_result 1 h
    else s.ucodeStart h))

/-- A microcode load ends; the scheduler runs, with the new microcode or the one it had. -/
def State.ucodeEnd (s : State) (h : Nat) (result : Nat) : State :=
  let s := ((s.put R.HOOP_MAINT_busy 0 h).put R.HOOP_MAINT_result result h).dropRx (256 + h)
  (s.updHoop h (fun k => { k with ucode := false, idleSince := s.now })).setBit R.COLO_READY0_ready (24 + h) true

/-- Read n bytes of a microcode image; remote lines are asked for first. -/
def State.ucodeRead (s : State) (h : HoopId) (a n : Nat) : Option (List Byte) × State × Bool :=
  match s.readToile (256 + h.val) a n with
  | .bytes l => (some l, s.touched a n, false)
  | .need ls => (none, s.askLines (.hoop h) ls, true)
  | _ => (none, s.touched a n, false)

/-- UCODE_LOAD_DONE: the manifest at HOOPh_UCODE and the image 4,096 bytes on are verified (R344, R351, R355). While remote
lines are on their way nothing more happens. -/
def execUcodeLoadDone (h : HoopId) (s : State) : Out :=
  .next (s.mainEv (fun s =>
    let a := s.fld R.HOOP_UCODE_addr h
    if !s.bit R.HOOP_MAINT_busy h then s
    else if a % 4096 ≠ 0 then s.ucodeEnd h 2
    else match s.ucodeRead h a 320 with
      | (none, s, wait) => if wait then s else s.ucodeEnd h 2
      | (some m, s, _) =>
        let len := mfield m 16 8
        if !s.manifestSigned m 3 ∨ hbmSize < len then s.ucodeEnd h 2
        else match s.ucodeRead h (a + 4096) len with
          | (none, s, wait) => if wait then s else s.ucodeEnd h 2
          | (some img, s, _) =>
            if !digestOk m img then s.ucodeEnd h 2
            else
              let (v, s) := s.freeVal
              ((s.runs 3 h m).put R.HOOP_UCODE_VER_version (v.toNat % 2 ^ 32) h).ucodeEnd h 0))

/-! ### Management PHY and UART (R318, R320, R326) -/

/-- PHY_LINK_CHANGE: the management bit sets while the service runs (R318, R365). -/
def execPhyLinkChange (up : Bool) (s : State) : Out :=
  .next (s.aonEv (fun s => let s : State := { s with colo := { s.colo with phyUp := up } }
    s.setBit R.COLO_READY0_ready 1 (up && (s.colo.phase == .running || s.colo.shown.isSome))))

/-- The UART's settings; during a Colophon restart they wait for its end (R326, R342). -/
def State.uartSet (s : State) (baud : Nat) : State :=
  if s.colo.shown.isSome then { s with colo := { s.colo with cfgWait := some baud } } else s.put R.MISC_UART_CFG_baud baud

/-- UART_CFG_WRITE (R326). -/
def execUartCfgWrite (p : Port) (v : BitVec 64) (s : State) : Out :=
  .next (s.regCmd p (R.MISC_UART_CFG_baud.addr 0 0) (fun s => s.uartSet (bits v.toNat 0 22)))

/-- A character received whole; during a Colophon restart it waits (R320, R342). -/
def State.uartTake (s : State) (b : Byte) : State :=
  if s.colo.shown.isSome then { s with colo := { s.colo with rxWait := s.colo.rxWait ++ [b] } }
  else { s with colo := { s.colo with uartRx := s.colo.uartRx ++ [b] } }

/-- A character without a stop bit, and one that nothing takes: the bit sets, after a Colophon restart that runs (R320, R342). -/
def State.uartFraming (s : State) : State :=
  if s.colo.shown.isSome then { s with colo := { s.colo with framingWait := true } } else s.put R.MISC_UART_STAT_framing_err 1
def State.uartOverrun (s : State) : State :=
  if s.colo.shown.isSome then { s with colo := { s.colo with overrunWait := true } } else s.put R.MISC_UART_STAT_rx_overrun 1

/-- UART_RECEIVE: a character without a stop bit is a framing error; one that nothing takes is lost (R320). -/
def execUartReceive (b : Byte) (stop taken : Bool) (s : State) : Out :=
  .next (s.aonEv (fun s => if !stop then s.uartFraming
    else if taken then s.uartTake b
    else s.uartOverrun))

/-! ### Links (R345) -/

/-- LINK_ENABLE (R252): a link that is enabled anew first has its firmware loaded by the Colophon (R345; when it loads is
DEDUCED, log entry 81). -/
def execLinkEnable (p : Port) (l : LinkId) (on : Bool) (s : State) : Out :=
  .next (s.regCmd p (R.FLNK_CTRL_enable.addr l 0) (fun s => (if on && !s.linkOn l then s.loadLink l else s).setEnable l on))

end Sys2Proof.Machine
end

