-- ==== Sys2Proof/Machine/Mgmt.lean ====
section
/-! DEFINITION. The management service, attestation and the test port (R349, R354, R358, R359, R361 to R363). REG_WRITE and
the debug access stand in Control.lean. -/
namespace Sys2Proof.Machine

/-! ### Requests (R362) -/

/-- The management service runs; in recovery the ROM answers only some commands (R361). -/
def State.mgmtOn (s : State) (rom : Bool) : Bool := s.colo.phase == .running || (rom && s.colo.phase == .recovery)

/-- The signer of P1 owner commands (Table 14-2). -/
def State.ownerSigner (s : State) : Nat := if s.lifecycle = 2 then 1 else 0

/-- What a signed request's signature covers: command, challenge, arguments, public key. -/
def reqBytes (code : Nat) (args : List Byte) (q : SignedReq) : List Byte :=
  toLE 2 code ++ toLE 16 q.chal.toNat ++ args ++ toLE 57 q.key.toNat

/-- The key and the signature of a signed request hold (R351, R362). -/
def State.reqSigned (s : State) (code : Nat) (args : List Byte) (q : SignedReq) : Bool :=
  let key := toLE 57 q.key.toNat
  digest key == s.signerDigest s.ownerSigner && edVerify key (reqBytes code args q) (toLE 114 q.sig.toNat)

/-- An unsigned request: answered while the service runs, refused when its challenge is not current. -/
def State.request (s : State) (rom : Bool) (chal : BitVec 128) (eff : State → State × MgmtStatus × List Byte) : State :=
  if !s.mgmtOn rom then s
  else if chal ≠ s.colo.chal then s.coloCheck.respond .stale
  else let (s, st, res) := eff s.coloCheck; s.respond st res

/-- A signed request: its signature is checked too, and once it is accepted a new challenge is drawn. -/
def State.signed (s : State) (rom : Bool) (code : Nat) (args : List Byte) (q : SignedReq)
    (eff : State → State × MgmtStatus × List Byte) : State :=
  if !s.mgmtOn rom then s
  else if q.chal ≠ s.colo.chal then s.coloCheck.respond .stale
  else if !s.reqSigned code args q then s.coloCheck.respond .sig
  else let (s, st, res) := eff s.coloCheck; s.drawChal.respond st res

/-- GET_CHALLENGE. -/
def execGetChallenge (chal : BitVec 128) (s : State) : Out :=
  .next (s.aonEv (fun s => s.request true chal (fun s => (s, .ok, toLE 16 s.colo.chal.toNat))))

/-- The identity certificate, from the slot booted or else from the other flash (R354). -/
def State.certificate (s : State) : List Byte :=
  let k := s.fld R.COLO_BOOT_slot
  (s.flash (if (s.flash k).present then k else 1 - k)).read identityAt 256

/-- GET_CERT. -/
def execGetCert (chal : BitVec 128) (s : State) : Out :=
  .next (s.aonEv (fun s => s.request true chal (fun s =>
    let s := s.flashUsed (s.fld R.COLO_BOOT_slot)
    (s, .ok, s.certificate))))

/-- CHALLENGE_REFRESH: 60 s after the present challenge was drawn (R362). -/
def execChallengeRefresh (s : State) : Out :=
  .next (s.aonEv (fun s => if s.mgmtOn true ∧ s.colo.chalAt + 60000 * ms ≤ s.pwr.up then s.drawChal else s))

/-- REG_READ: up to 64 registers from one address. -/
def execRegRead (q : SignedReq) (addr : BitVec 64) (cnt : Nat) (s : State) : Out :=
  .next (s.aonEv (fun s => s.signed false 0x10 (toLE 8 addr.toNat ++ toLE 2 cnt) q (fun s =>
    if addr.toNat % 8 ≠ 0 ∨ 64 < cnt ∨ !s.mayRead .p1 addr.toNat then (s, .args, [])
    else (s, .ok, (List.range cnt).flatMap (fun k => toLE 8 (s.regRead (addr.toNat + 8 * k)).toNat)))))

/-! ### Slots (Table 14-9) -/

/-- The slot that is not booted. -/
def State.otherSlot (s : State) : Nat := 1 - s.fld R.COLO_BOOT_slot

/-- Write bytes of a flash. -/
def Flash.write (f : Flash) (o : Nat) (bs : List Byte) : Flash :=
  { f with bytes := bs.zipIdx.foldl (fun m p => SMap.put 0xFF m (o + p.2) p.1) f.bytes }

/-- SLOT_ERASE: everything below the identity region. -/
def execSlotErase (q : SignedReq) (s : State) : Out :=
  .next (s.aonEv (fun s => s.signed true 0x20 [] q (fun s =>
    let k := s.otherSlot
    let s := s.flashUsed k
    if !(s.flash k).present then (s, .args, [])
    else (s.updFlash k (fun f => { f with bytes := f.bytes.filter (fun p => decide (identityAt ≤ p.1)) }), .ok, []))))

/-- SLOT_WRITE: refused for the booted slot and for the identity region. -/
def execSlotWrite (q : SignedReq) (off : SlotPlace) (dat : List Byte) (s : State) : Out :=
  .next (s.aonEv (fun s => s.signed true 0x21 (toLE 1 off.slot ++ toLE 4 off.off ++ dat) q (fun s =>
    let k := s.otherSlot
    if off.slot.val ≠ k ∨ identityAt < off.off + dat.length then (s, .slot, [])
    else
      let s := s.flashUsed k
      if !(s.flash k).present ∨ 1024 < dat.length then (s, .args, [])
      else (s.updFlash k (fun f => f.write off.off dat), .ok, []))))

/-- SLOT_COMMIT. -/
def execSlotCommit (q : SignedReq) (s : State) : Out :=
  .next (s.aonEv (fun s => s.signed true 0x22 [] q (fun s =>
    let k := s.otherSlot
    let s := s.flashUsed k
    if !(s.flash k).present then (s, .args, [])
    else (s.updFlash k (fun f => f.write 0 (toLE 4 0x4C534D47 ++ toLE 4 (s.fld R.COLO_BOOT_seq + 1) ++ [0xFF])), .ok, []))))

/-- COLO_RESTART (R343, R356). In recovery the ROM makes its choice anew as a boot does. -/
def execColoRestart (q : SignedReq) (s : State) : Out :=
  .next (s.aonEv (fun s => s.signed true 0x23 [] q (fun s =>
    (if s.colo.phase = .running then s.coloRestart else s.chooseSlot, .ok, []))))

/-! ### Lifecycle and fuses (R347, R349) -/

/-- A ticket or token: a manifest of its kind bound to one device, accepted under R351. -/
def State.ticketOk (s : State) (m : List Byte) (kind : Nat) : Bool :=
  m.length == 320 && s.manifestSigned m kind && !allZero ((m.drop 88).take 16)

/-- CLAIM: PROVISIONED only, with no transition pending. -/
def execClaim (chal : BitVec 128) (ticket : List Byte) (s : State) : Out :=
  .next (s.secEv (fun s => s.request false chal (fun s =>
    if s.lifecycle ≠ 1 ∨ s.bit R.SEC_LIFECYCLE_pending then (s, .state, [])
    else if !s.ticketOk ticket 6 then (s, .sig, [])
    else
      let d := s.fuses.ownerDigest ||| BitVec.ofNat 512 (mfield ticket 24 64)
      (({ s with fuses := { s.fuses with ownerDigest := d } } : State).fuseRegs.transition 2, .ok, []))))

/-- SVN_ADVANCE: up to the svn of the Colophon firmware that runs. -/
def execSvnAdvance (q : SignedReq) (s : State) : Out :=
  .next (s.secEv (fun s => s.signed false 0x31 [] q (fun s =>
    let v := ((s.colo.images.find? (fun i => i.kind == 1)).map (·.svn)).getD 0
    (({ s with fuses := { s.fuses with svnFloor := max s.fuses.svnFloor (min v 64) } } : State).fuseRegs, .ok, []))))

/-- RETURN: from PROVISIONED or DEPLOYED, with no transition pending. -/
def execReturnCmd (q : SignedReq) (s : State) : Out :=
  .next (s.secEv (fun s => s.signed false 0x32 [] q (fun s =>
    if (s.lifecycle ≠ 1 ∧ s.lifecycle ≠ 2) ∨ s.bit R.SEC_LIFECYCLE_pending then (s, .state, [])
    else (s.transition 3, .ok, []))))

/-! ### Attestation (R358, R359) -/

/-- ATTEST: answered at once, or after the request of SEC_ATT_CMD that runs (R359). -/
def execAttest (chal : BitVec 128) (nonce : List Byte) (s : State) : Out :=
  .next (s.aonEv (fun s => if !s.mgmtOn false then s
    else if chal ≠ s.colo.chal then s.respond .stale
    else if nonce.length ≠ 32 then s.respond .args
    else if s.att.isSome then { s with attWait := s.attWait ++ [nonce] }
    else s.respond .ok (s.attReport nonce)))

/-- What a SEC_ATT_CMD request writes: made of the nonce in the buffer, or of nothing in it. -/
inductive AttMake where
  | nonce (f : List Byte → List Byte)
  | fixed (l : List Byte)

/-- SEC_ATT_CMD: discarded while a request runs (R359). -/
def State.attCmd (s : State) (p : Port) (size : Nat) (make : AttMake) : State :=
  s.regCmd p (R.SEC_ATT_CMD_op.addr 0 0) (fun s =>
    if s.bit R.SEC_ATT_STAT_busy then s
    else
      let a := s.fld R.SEC_ATT_BUF_buf
      let s := s.put R.SEC_ATT_STAT_busy 1
      if a % 64 ≠ 0 ∨ hbmSize < a + size then { s with att := some { buf := a, dat := [], result := 1 } }
      else if !s.mainOn then { s with att := some { buf := a, dat := [], result := 2 } }
      else match make with
        | .fixed l => { s with att := some { buf := a, dat := l, result := 0 } }
        | .nonce f => match s.hbmRead a 32 with
          | (s, some nonce) => { s with att := some { buf := a, dat := f nonce, result := 0 } }
          | (s, none) => { s with att := some { buf := a, dat := [], result := 2 } })

/-- ATT_REPORT: the list is taken now. -/
def execAttReport (p : Port) (s : State) : Out :=
  .next (s.attCmd p (256 + 96 * s.attEntries.length) (.nonce (fun nonce => s.attReport nonce)))

/-- ATT_CERT. -/
def execAttCert (p : Port) (s : State) : Out := .next (s.attCmd p 256 (.fixed s.certificate))

/-- ATT_DONE: the bytes go to the buffer, and busy clears (R359). -/
def execAttDone (s : State) : Out :=
  .next (s.aonEv (fun s => match s.att with
    | none => s
    | some r =>
      if r.result ≠ 0 then s.attEnd r.result
      else if s.mainOn then (s.hwWrite r.buf r.dat).attEnd 0
      else s.attEnd 2))

/-! ### The test port (R363) -/

/-- The port is unlocked. -/
def State.unlocked (s : State) : Bool := s.bit R.SEC_DEBUG_unlocked

/-- The port is unlocked until an expiry, and that is logged (R363). -/
def State.unlock (s : State) (expiry : Nat) : State :=
  let s := (s.put R.SEC_DEBUG_unlocked 1).put R.SEC_DEBUG_since_reset 1
  ({ s with jtag := { s.jtag with expiry := some expiry } } : State).errLog { cls := 8, inst := 0, level := 0, kind := 0x85 }

/-- JTAG_UNLOCK: the token is accepted, carries the present challenge and an expiry in the future. -/
def execJtagUnlock (q : SignedReq) (token : List Byte) (s : State) : Out :=
  .next (s.aonEv (fun s => s.signed false 0x40 token q (fun s =>
    let expiry := mfield token 40 8
    if !s.ticketOk token 7 ∨ mfield token 24 16 ≠ s.colo.chal.toNat ∨ expiry ≤ s.now ∨ !allZero ((token.drop 48).take 40) then
      (s, .sig, [])
    else (s.unlock expiry, .ok, []))))

/-- JTAG_EXPIRY: device time has passed the expiry. -/
def execJtagExpiry (s : State) : Out :=
  .next (s.aonEv (fun s => match s.jtag.expiry with
    | some t =>
      if t < s.now then ({ s with jtag := { s.jtag with expiry := none, drive := false } } : State).put R.SEC_DEBUG_unlocked 0 else s
    | none => s))

/-- Bits of a number, the lowest first. -/
def natBits (n v : Nat) : List Bool := (List.range n).map (fun k => v.testBit k)

/-- Bits shifted through the bypass register, which captures 0 (IEEE 1149.1). -/
def State.shiftBypass (s : State) (l : List Bool) : State :=
  { s with jtag := { s.jtag with bypass := l.getLastD false, drive := false, out := (false :: l).take l.length } }

/-- IDCODE: works in every state (R363). -/
def execIdcode (s : State) : Out := .next (s.aonEv (fun s => { s with jtag := { s.jtag with drive := false, out := natBits 32 0x14620B67 } }))

/-- BYPASS. -/
def execBypass (tdi : Bool) (s : State) : Out := .next (s.aonEv (fun s => s.shiftBypass [tdi]))

/-- SAMPLE/PRELOAD: the lands are captured and shifted out while the boundary register is loaded. -/
def execSamplePreload (pins pre : List Bool) (s : State) : Out :=
  .next (s.aonEv (fun s => if !s.unlocked then s.shiftBypass pre
    else { s with jtag := { s.jtag with preload := pre, drive := false, out := pins } }))

/-- EXTEST: the boundary register drives the lands. -/
def execExtest (pins : List Bool) (s : State) : Out :=
  .next (s.aonEv (fun s => if !s.unlocked then s.shiftBypass []
    else { s with jtag := { s.jtag with drive := true, out := pins } }))

end Sys2Proof.Machine
end

