-- ==== Sys2Proof/Machine/Net.lean ====
section
/-! DEFINITION. The Ethernet ports, the ingress classifier and its flows, and pushes by Spine software (R308 to R317). -/
namespace Sys2Proof.Machine

/-! ### Frames (Table 12-1) -/

/-- Bytes as one number, the first byte most significant (R4). -/
def beNat (l : List Byte) : Nat := l.foldl (fun n b => n * 256 + b.toNat) 0

/-- n bytes of a number, the first most significant. -/
def toBE (n v : Nat) : List Byte := (toLE n v).reverse

/-- Sum of the 16-bit words of bytes; an odd last byte counts as the upper half of a word. -/
def sum16 : List Byte → Nat
  | a :: b :: l => a.toNat * 256 + b.toNat + sum16 l
  | [a] => a.toNat * 256
  | [] => 0

/-- A one's complement sum that a right checksum leaves: all ones. -/
def sumOk (n : Nat) : Bool := n != 0 && n % 65535 == 0

/-- What lies above the link layer: EtherType and payload, behind at most one 802.1Q tag. -/
def etherOf (l : List Byte) : Nat × List Byte :=
  let t := beNat ((l.drop 12).take 2)
  if t = 0x8100 then (beNat ((l.drop 16).take 2), l.drop 18) else (t, l.drop 14)

/-- A frame seen as UDP: of no classified form, with a checksum that fails, or a datagram with its destination port. -/
inductive UdpRes where
  | other
  | badSum
  | udp (dport : Nat) (dat : List Byte)
deriving DecidableEq, Repr

/-- The UDP datagram of an IP payload, with the sum of its pseudo-header; a zero checksum passes where it may. -/
def udpOf (pay : List Byte) (pseudo : Nat) (mayZero : Bool) : UdpRes :=
  let n := beNat ((pay.drop 4).take 2)
  if pay.length < 8 ∨ n < 8 ∨ pay.length < n then .badSum
  else if (mayZero && beNat ((pay.drop 6).take 2) == 0)
      || (beNat ((pay.drop 6).take 2) != 0 && sumOk (sum16 (pay.take n) + pseudo + 17 + n)) then
    .udp (beNat ((pay.drop 2).take 2)) ((pay.take n).drop 8)
  else .badSum

/-- An IPv4 packet with options, or an IPv6 packet without extension headers (Table 12-1). -/
def ipOf (t : Nat) (l : List Byte) : UdpRes :=
  let b0 := (l.headD 0).toNat
  if t = 0x0800 ∧ b0 / 16 = 4 ∧ 5 ≤ b0 % 16 ∧ 20 ≤ l.length then
    let h := b0 % 16 * 4
    let total := beNat ((l.drop 2).take 2)
    if beNat ((l.drop 6).take 2) % 0x4000 ≠ 0 ∨ (l.getD 9 0).toNat ≠ 17 then .other
    else if l.length < h ∨ !sumOk (sum16 (l.take h)) then .badSum
    else udpOf ((l.take total).drop h) (sum16 ((l.drop 12).take 8)) true
  else if t = 0x86DD ∧ b0 / 16 = 6 ∧ 40 ≤ l.length then
    if (l.getD 6 0).toNat ≠ 17 then .other
    else udpOf ((l.drop 40).take (beNat ((l.drop 4).take 2))) (sum16 ((l.drop 8).take 32)) false
  else .other

/-- An RTP packet: payload type, timestamp, SSRC and payload without CSRC list, header extension and padding (R311). -/
structure Rtp where
  pt : Nat
  ts : Nat
  ssrc : Nat
  pay : List Byte
deriving DecidableEq, Repr

/-- Read an RTP packet; none when its version is not 2 or it is shorter than its header. -/
def rtpOf (l : List Byte) : Option Rtp :=
  let b0 := (l.headD 0).toNat
  if l.length < 12 ∨ b0 / 64 ≠ 2 then none
  else
    let h := 12 + 4 * (b0 % 16)
    let h := if b0.testBit 4 then h + 4 + 4 * beNat ((l.drop (h + 2)).take 2) else h
    let p := l.drop h
    let pad := if b0.testBit 5 then (p.getLastD 0).toNat else 0
    some { pt := (l.getD 1 0).toNat % 128, ts := beNat ((l.drop 4).take 4), ssrc := beNat ((l.drop 8).take 4),
           pay := p.take (p.length - pad) }

/-- UDP ports of IEEE 1588. -/
def ptpPort (d : Nat) : Bool := d == 319 || d == 320

/-- A frame is an IEEE 1588 event message (R308, R309): message types 0 to 3. -/
def ptpEvent (l : List Byte) : Bool :=
  let (t, p) := etherOf l
  let ev (m : List Byte) : Bool := decide ((m.headD 0xFF).toNat % 16 < 4)
  if t = 0x88F7 then ev p
  else match ipOf t p with
    | .udp d m => ptpPort d && ev m
    | _ => false

/-! ### Receiving (R308, R309, R311) -/

/-- The port accepts the frame's address: its own, or a group address (R308). -/
def State.macOk (s : State) (e : Nat) (l : List Byte) : Bool :=
  (l.headD 0).getLsbD 0 || beNat (l.take 6) == s.fld R.ETH_MAC_addr e

/-- A pause or priority flow control frame (R308). -/
def isPause (l : List Byte) : Bool :=
  let (t, p) := etherOf l
  t == 0x8808 && (beNat (p.take 2) == 0x0001 || beNat (p.take 2) == 0x0101)

/-- A frame goes to Spine OS; the receive stamp of a PTP event message carries rx_ns (R309). -/
def State.toSpine (s : State) (e : Fin 2) (l : List Byte) (flow : Option Nat) : State :=
  let stamp := if ptpEvent l then some (s.now + s.fld R.ETH_PTP_LAT_rx_ns e) else none
  { s with spine := { s.spine with frames := s.spine.frames ++ [{ port := e, bytes := l, stamp := stamp, flow := flow }] } }

/-- The entry that takes a packet: by SSRC first, then one for any SSRC (R311). -/
def State.matchFlow (s : State) (e dport ssrc : Nat) : Option Nat :=
  let on (f : Flow) : Bool := f.valid && f.dport.toNat == dport && f.eth.getLsbD e
  match s.flows.find? (fun p => on p.2 && !p.2.anySsrc && p.2.ssrc.toNat == ssrc) with
  | some p => some p.1
  | none => (s.flows.find? (fun p => on p.2 && p.2.anySsrc)).map (·.1)

/-- Bytes of one sample of a payload (Table 12-3). -/
def payBytes (p : Nat) : Nat := if p = 0 then 2 else if p = 1 then 3 else 1

/-- The sample rate of a bound flow: its binder's, or its shadow's (R315). -/
def State.flowFs (s : State) (f : Flow) : Nat :=
  if f.shadow then match s.reservedFolio f.folio with | some i => (s.sh i).fs | none => 0
  else (s.par f.folio).fs

/-- The home sends a base update to a lined folio's partner (R316). -/
def State.sendBase (s : State) (n : Folio) (f : Flow) (idx : BitVec 32) (t : BitVec 64) : State :=
  let e := s.ent n
  if e.lined then
    s.post e.partner.toNat 2 (.lineAudio n
      { time := t, first := idx, count := 0, invalid := false, resetMark := true, slip := false, gap := false }
      f.curSsrc f.baseTs [])
  else s

/-- A folio takes samples: IDLE, READY or ACTIVE (R39). -/
def State.takes (s : State) (n : Folio) : Bool :=
  (s.ent n).st == .idle || (s.ent n).st == .ready || (s.ent n).st == .active

/-- A packet of a flow enters its jitter buffer, or is discarded (R311, R312, R315, R316). -/
def State.toJitter (s : State) (k : Nat) (r : Rtp) : State :=
  let f := s.flow k
  let n := f.folio
  let fb := payBytes f.payload.toNat * (f.channels.toNat + 1)
  let cnt := r.pay.length / fb
  let p : HeldPkt := { idx := 0, ssrc := BitVec.ofNat 32 r.ssrc, ts := BitVec.ofNat 32 r.ts, recv := s.now, count := cnt,
                       dat := r.pay.take (cnt * fb), mark := false }
  let fs := s.flowFs f
  if cnt = 0 then s
  else if f.shadow then
    if (s.reservedFolio n).isNone then s.count R.INGRESS_DISCARD_count
    else s.updFlow k (fun f => f.arriveShadow fs (s.flowPos n) s.now p)
  else if !s.takes n then s.count R.INGRESS_DISCARD_count
  else
    let (g, based) := f.arrive fs (s.flowPos n) s.now p
    let s := s.updFlow k (fun _ => g)
    if based then (s.count R.INGRESS_REBASE_count).sendBase n g g.anchorI g.anchorT else s

/-- The classifier's steps for a UDP datagram that passed its checksums (R311). A PTP message, which is no RTP packet, is for
Spine OS, where its protocol runs (R309, log entry 46). -/
def State.classify (s : State) (e : Fin 2) (l : List Byte) (dport : Nat) (dat : List Byte) : State :=
  let pass (s : State) : State := (s.count R.INGRESS_NOMATCH_count).toSpine e l none
  match rtpOf dat with
  | none => if ptpPort dport then pass s else s
  | some r => match s.matchFlow e dport r.ssrc with
    | none => pass s
    | some k =>
      let f := s.flow k
      if r.pt ≠ f.pt.toNat ∨ !f.bound then pass s
      else if f.payload = 4 then s.toSpine e l (some k)
      else s.toJitter k r

/-- A port that is enabled and ready: its link is up (R27, R365). -/
def State.ethReady (s : State) (e : Nat) : Bool := s.bit R.ETH_CTRL_enable e && (s.fld R.COLO_READY0_ready).testBit (6 + e)

/-- A frame that the port takes: it is enabled and ready, the FCS is good, the length is in its range and the address is its
own or a group's (R27, R308). -/
def State.frameTaken (s : State) (e : Fin 2) (f : EthFrame) : Bool :=
  s.ethReady e && f.fcsOk && decide (64 ≤ f.bytes.length + 4)
    && decide (f.bytes.length + 4 ≤ min (s.fld R.ETH_CTRL_mtu e) 9216) && s.macOk e f.bytes

/-- What becomes of a frame taken: a pause frame is dropped, UDP goes to the classifier, all else to the Spine (R308, R309,
R311). -/
def State.frameIn (s : State) (e : Fin 2) (l : List Byte) : State :=
  if isPause l then s.count R.ETH_RX_DROP_count 1 e
  else match ipOf (etherOf l).1 (etherOf l).2 with
    | .other => s.toSpine e l none
    | .badSum => s.count R.INGRESS_CSUM_count
    | .udp d dat => s.classify e l d dat

/-- The codewords of a received frame that the port's FEC corrected, and those it could not, count (R308, Table 12-1). -/
def State.fecSeen (s : State) (e : Fin 2) : State :=
  let c := SMap.get {} s.eths e
  (({ s with eths := SMap.upd {} s.eths e (fun x => { x with corr := 0, uncorr := 0 }) } : State).count R.ETH_FEC_CORR_count
    c.corr e).count R.ETH_FEC_UNCORR_count c.uncorr e

/-- FRAME_RECEIVED (R308, R309, R311): the bytes run from the destination address to the last byte before the FCS. -/
def execFrameReceived (e : Fin 2) (f : EthFrame) (s : State) : Out :=
  .next (s.mainEv (fun s =>
    if s.frameTaken e f then ((s.fecSeen e).count R.ETH_RX_PKTS_count 1 e).frameIn e f.bytes
    else if s.ethReady e then (if f.fcsOk then s.fecSeen e else (s.fecSeen e).count R.ETH_RX_FCS_count 1 e)
    else s))

/-! ### Writing the ring (R313, R314) -/

/-- G.711 mu-law, 14-bit linear left-justified in 16 bits (Table 12-3). -/
def muLaw (b : Nat) : Int :=
  let u := 255 - b
  let v : Int := ((2 * (u % 16) + 33) * 2 ^ (u / 16 % 8) - 33 : Nat)
  4 * (if 128 ≤ u then -v else v)

/-- G.711 A-law, 13-bit linear left-justified in 16 bits. -/
def aLaw (b : Nat) : Int :=
  let u := b ^^^ 0x55
  let m := 2 * (u % 16)
  let e := u / 16 % 8
  let v : Int := if e = 0 then (m + 1 : Nat) else ((m + 33) * 2 ^ (e - 1) : Nat)
  8 * (if 128 ≤ u then v else -v)

/-- A packet sample as a fraction of full scale (Table 12-3). -/
def paySample (p : Nat) (l : List Byte) : Dy :=
  match p with
  | 0 => (Dy.ofInt (BitVec.ofNat 16 (beNat l)).toInt).scale (-15)
  | 1 => (Dy.ofInt (BitVec.ofNat 24 (beNat l)).toInt).scale (-23)
  | 2 => (Dy.ofInt (muLaw (beNat l))).scale (-15)
  | _ => (Dy.ofInt (aLaw (beNat l))).scale (-15)

/-- Bytes in pieces of n. -/
def pieces (n : Nat) (l : List Byte) : List (List Byte) :=
  (List.range (l.length / n)).map (fun k => (l.drop (n * k)).take n)

/-- A payload in a ring's format, and the samples that saturated (R314). -/
def convertPay (p fmt : Nat) (l : List Byte) : List Byte × Nat :=
  (pieces (payBytes p) l).foldl (fun (acc : List Byte × Nat) x =>
    let (b, c) := ringSample fmt (paySample p x)
    (acc.1 ++ b, acc.2 + c)) ([], 0)

/-- A block of a flow enters its folio's ring: a shadow's takes every block (R32, R33, R267, R316). -/
def State.flowBlock (s : State) (f : Flow) (b : Blk) : State :=
  let n := f.folio
  if f.shadow then
    match s.reservedFolio n, s.mergeNext n b with
    | some i, (s, some b) =>
      let w := (s.ring n).wr
      let t : StampEntry := { time := BitVec.ofNat 64 b.time, first := BitVec.ofNat 32 w, count := BitVec.ofNat 16 b.count,
                              invalid := b.invalid, resetMark := b.resetMark, slip := b.slip, gap := b.gap }
      let (s, stale) := s.shadowBlock n (s.sh i).lookback b t
      if stale then s.markStale i else s
    | _, (s, _) => s
  else s.ingestBlock n b

/-- Something of a block was kept: the write position or a held merge moved. -/
def State.tookBlock (s t : State) (n : Folio) : Bool := s.flowPos n != t.flowPos n

/-- Marks of base updates whose index lies in a block, and those that are left (R316). -/
def Flow.takeMarks (f : Flow) (w n : Nat) : Bool × Flow :=
  let here (m : BitVec 32) : Bool := decide (0 ≤ sdiff m.toNat w) && decide (sdiff m.toNat w < n)
  (f.marks.any here, { f with marks := f.marks.filter (fun m => decide ((n : Int) ≤ sdiff m.toNat w)) })

/-- The concealment since the last written packet has lasted longer than gap_ms: a talk burst (R313). -/
def Flow.burst (f : Flow) (fs : Nat) : Bool :=
  !f.shadow && f.gapMs != 0 && decide (f.gapMs.toNat * fs < f.conceal * 1000)

/-- A held packet is written as one block: its marks, its samples in the ring's format, the clipped ones counted; a talk
burst that it begins names a new base to the partner (R313, R314, R316). -/
def State.writePacket (s : State) (k : Nat) (f : Flow) (p : HeldPkt) : State :=
  let n := f.folio
  let w := s.flowPos n
  let fs := s.flowFs f
  let burst := f.burst fs
  let m := f.takeMarks w p.count
  let c := convertPay f.payload.toNat (s.ring n).fmt p.dat
  let s := s.updFlow k (fun _ => { m.2 with held := m.2.held.filter (fun q => q ≠ p), conceal := 0 })
  let t := s.flowBlock m.2 { time := p.recv, dat := c.1, count := p.count, resetMark := (p.mark && !f.shadow) || burst || m.1 }
  let t := if c.2 = 0 then t else t.count R.INGRESS_CLIP_count c.2
  let t := if s.tookBlock t n then t.updFlow k (fun f => { f with rx := bump f.rx 1 }) else t
  if burst ∧ !p.mark then t.sendBase n m.2 (BitVec.ofNat 32 w) (BitVec.ofNat 64 (f.play fs w).toNat) else t

/-- PACKET_WRITE: at its playout time the packet held at the write position is written as one block (R313, R316). -/
def execPacketWrite (fl : BitVec 16) (s : State) : Out :=
  .next (s.mainEv (fun s =>
    let w := s.flowPos (s.flow fl.toNat).folio
    let f := (s.flow fl.toNat).purge w
    if !f.bound ∨ !f.started then s
    else match f.heldAt w with
      | none => s
      | some p => if (s.now : Int) < f.play (s.flowFs f) w then s
        else s.reading [f.folio] (fun s => s.writePacket fl.toNat f p)))

/-- c invalid zero samples are written where no packet is at the write position (R313). -/
def State.writeHole (s : State) (k : Nat) (f : Flow) (c : Nat) : State :=
  let n := f.folio
  let w := s.flowPos n
  let m := f.takeMarks w c
  let e := s.ring n
  let s := s.updFlow k (fun _ => { m.2 with conceal := m.2.conceal + c })
  let t := s.flowBlock m.2 { time := (m.2.play (s.flowFs f) w - m.2.jit).toNat,
                             dat := List.replicate (c * e.ch * fmtBytes e.fmt) 0, count := c, invalid := true, resetMark := m.1 }
  if s.tookBlock t n then t.updFlow k (fun f => { f with lost := bump f.lost c }) else t

/-- CONCEALMENT_WRITE: with no packet at the write position, n invalid zero samples are written at P(w + n) (R313). -/
def execConcealmentWrite (fl : BitVec 16) (s : State) : Out :=
  .next (s.mainEv (fun s =>
    let w := s.flowPos (s.flow fl.toNat).folio
    let f := (s.flow fl.toNat).purge w
    let c := f.hole w
    if !f.bound ∨ !f.started ∨ c = 0 then s
    else if (s.now : Int) < f.play (s.flowFs f) (w + c) then s
    else s.reading [f.folio] (fun s => s.writeHole fl.toNat f c)))

/-! ### Commands of the classifier (R315) -/

/-- Address of INGRESS_CMD. -/
def ingressCmdAddr : Nat := 0xF006100008

/-- The frame of an INGRESS command. -/
def State.ingressOp (s : State) (p : Port) (f : Nat) (eff : State → State × Nat) : State :=
  s.regCmd p ingressCmdAddr (fun s =>
    if s.bit R.INGRESS_STATUS_busy then s
    else
      ((eff s).1.put R.INGRESS_STATUS_result (eff s).2).put R.INGRESS_STATUS_flow f)

/-- Two entries that would match the same packets (R315, KEY). -/
def sameKey (a b : Flow) : Bool :=
  b.valid && a.dport == b.dport && a.anySsrc == b.anySsrc && (a.anySsrc || a.ssrc == b.ssrc) && (a.eth &&& b.eth) != 0

/-- The entry that INGRESS_ARG0 and INGRESS_ARG1 describe (R315, Table 12-2). -/
def State.argFlow (s : State) : Flow :=
  let v := s.fld R.INGRESS_ARG0_entry_lo + s.fld R.INGRESS_ARG1_entry_hi * 2 ^ 64
  { valid := true, dport := BitVec.ofNat 16 v, ssrc := BitVec.ofNat 32 (bits v 16 32), anySsrc := v.testBit 48,
    eth := BitVec.ofNat 2 (bits v 49 2), shadow := v.testBit 52, payload := BitVec.ofNat 3 (bits v 53 3),
    pt := BitVec.ofNat 7 (bits v 56 7), channels := BitVec.ofNat 4 (bits v 84 4), jitter := BitVec.ofNat 9 (bits v 88 9),
    gapMs := BitVec.ofNat 16 (bits v 97 16) }

/-- The checks of ADD in order (R315): the result code. -/
def State.addCheck (s : State) (k : Nat) : Nat :=
  let v := s.fld R.INGRESS_ARG0_entry_lo + s.fld R.INGRESS_ARG1_entry_hi * 2 ^ 64
  let g := s.argFlow
  if (s.flow k).valid then 1
  else if 5 ≤ g.payload.toNat ∨ g.jitter.toNat < 20 ∨ 500 < g.jitter.toNat ∨ v.testBit 63 ∨ bits v 114 14 ≠ 0 then 2
  else if s.flows.any (fun q => sameKey g q.2) then 3
  else 0

/-- INGRESS_ADD: the folio field stays as it is (R315). -/
def execIngressAdd (p : Port) (f : BitVec 16) (s : State) : Out :=
  .next (s.ingressOp p f.toNat (fun s =>
    if s.addCheck f.toNat = 0 then (s.updFlow f.toNat (fun g => { s.argFlow with folio := g.folio }), 0) else (s, s.addCheck f.toNat)))

/-- INGRESS_DELETE. -/
def execIngressDelete (p : Port) (f : BitVec 16) (s : State) : Out :=
  .next (s.ingressOp p f.toNat (fun s =>
    let g := s.flow f.toNat
    if !g.valid ∨ g.bound then (s, 1) else (s.updFlow f.toNat (fun g => { g with valid := false }), 0)))

/-- The folio is one that the entry may bind (R39, R315). -/
def State.mayBind (s : State) (g : Flow) (n : Folio) : Bool :=
  !(s.ent n).sourceBound &&
    (if g.shadow then (s.reservedFolio n).isSome else (s.reservedFolio n).isNone && s.takes n)

/-- The checks of BIND in order (R315): the result code. -/
def State.flowBindCheck (s : State) (k : Nat) (n : Folio) : Nat :=
  let g := s.flow k
  if !g.valid ∨ !s.mayBind g n then 1
  else if g.bound then 4
  else if g.channels.toNat + 1 ≠ (s.ring n).ch then 5
  else if (g.payload = 2 ∨ g.payload = 3) ∧ s.flowFs { g with folio := n } ≠ 8000 then 6
  else 0

/-- A flow bound to a folio; one of a shadow takes the source base kept for it, and the marks of the base updates that came
before (R315, R316). -/
def State.boundFlow (s : State) (g : Flow) (n : Folio) : Flow :=
  let h : Flow := { g with folio := n, bound := true, started := false, held := [], waiting := [], stray := 0,
                           conceal := 0, marks := [] }
  match g.shadow, s.shBase.find? (fun q => q.1 == n.toNat) with
  | true, some (_, b, m) => h.takeBase (s.flowPos n) b m
  | _, _ => h

/-- Flow k is bound to a folio: the marks kept for a shadow are the flow's from here on (R315, R316). -/
def State.bindFlow (s : State) (k : Nat) (n : Folio) : State :=
  let s := (s.updFlow k (fun _ => s.boundFlow (s.flow k) n)).updEnt n (fun e => { e with sourceBound := true })
  if (s.flow k).shadow then
    { s with shBase := s.shBase.map (fun q => if q.1 = n.toNat then (q.1, q.2.1, []) else q) }
  else s

/-- INGRESS_BIND. -/
def execIngressBind (p : Port) (f : BitVec 16) (n : Folio) (s : State) : Out :=
  .next (s.ingressOp p f.toNat (fun s =>
    if s.flowBindCheck f.toNat n = 0 then (s.bindFlow f.toNat n, 0)
    else (s, s.flowBindCheck f.toNat n)))

/-- A flow lets its folio go: held packets, and a short block held to be merged, are discarded (R315). -/
def State.letGo (s : State) (k : Nat) : State :=
  let n := (s.flow k).folio
  ((s.updFlow k (fun g => { g with bound := false, started := false, held := [], waiting := [], marks := [] })).updEnt n
    (fun e => { e with sourceBound := false })).updFol n (fun x => { x with merge := none })

/-- INGRESS_UNBIND: held packets, and a short block held to be merged, are discarded. -/
def execIngressUnbind (p : Port) (f : BitVec 16) (s : State) : Out :=
  .next (s.ingressOp p f.toNat (fun s =>
    if !(s.flow f.toNat).valid ∨ !(s.flow f.toNat).bound then (s, 1) else (s.letGo f.toNat, 0)))

/-- The block that a write of INGRESS_PUSH0 describes (R317). -/
def State.pushBlock (s : State) (w : Nat) : Blk :=
  { time := s.fld R.INGRESS_PUSH1_time, dat := [], count := bits w 20 13, invalid := w.testBit 33, resetMark := w.testBit 34,
    gap := w.testBit 35 }

/-- PUSH: a write of INGRESS_PUSH0 (R317). -/
def execPush (p : Port) (v : BitVec 64) (s : State) : Out :=
  .next (s.regCmd p (R.INGRESS_PUSH0_folio.addr 0 0) (fun s =>
    let w := v.toNat
    let n : Folio := BitVec.ofNat 20 w
    let c := bits w 20 13
    if !(s.ent n).sourceBound ∨ c = 0 ∨ 4096 < c then s.put R.INGRESS_STATUS_push_err 1
    else if !s.takes n then s.count R.INGRESS_DISCARD_count
    else s.reading [n] (fun s => s.writeBlock n (s.pushBlock v.toNat))))

/-! ### Sending, links and time (R308, R309) -/

/-- The checksum of a changed word sum, in one's complement: HC' = ~(~HC + ~m + m'), a zero result as all ones. -/
def sumPatch (hc old new : Nat) : Nat :=
  let n := (65535 - hc) + (65535 - old % 65535) + new
  let r := 65535 - n % 65535
  if r = 0 then 65535 else r

/-- Where the PTP message of a frame begins and where its UDP checksum lies, if it has one. -/
def ptpAt (l : List Byte) : Nat × Option Nat :=
  let (t, p) := etherOf l
  let o := l.length - p.length
  if t = 0x0800 then let h := ((p.headD 0).toNat % 16) * 4; (o + h + 8, some (o + h + 6))
  else if t = 0x86DD then (o + 48, some (o + 46))
  else (o, none)

/-- Replace bytes at an offset. -/
def spliceAt (l : List Byte) (o : Nat) (new : List Byte) : List Byte := l.take o ++ new ++ l.drop (o + new.length)

/-- A Sync with its transmit stamp in originTimestamp, and its UDP checksum updated (R309). -/
def stampSync (l : List Byte) (t : Nat) : List Byte :=
  let (m, c) := ptpAt l
  let new := toBE 6 (t / 1000000000) ++ toBE 4 (t % 1000000000)
  let out := spliceAt l (m + 34) new
  match c with
  | none => out
  | some o =>
    let hc := beNat ((l.drop o).take 2)
    if hc = 0 then out
    else spliceAt out o (toBE 2 (sumPatch hc (sum16 ((l.drop (m + 34)).take 10)) (sum16 new)))

/-- A frame goes out with its transmit stamp: an event message is stamped, a one-step Sync carries it (R309). -/
def State.frameOut (s : State) (e : Fin 2) (f : TxFrame) : State :=
  let t := s.now + s.fld R.ETH_PTP_LAT_tx_ns e
  let ev := ptpEvent f.bytes
  (s.send (.eth e (if f.oneStepSync ∧ ev then stampSync f.bytes t else f.bytes) (if ev then some t else none))).count
    R.ETH_TX_PKTS_count 1 e

/-- FRAME_TRANSMIT: a port that is disabled or not ready sends nothing, and no frame is sent during a Spine restart (R27,
R308, R309, R336). -/
def execFrameTransmit (e : Fin 2) (f : TxFrame) (s : State) : Out :=
  .next (s.mainEv (fun s =>
    if !s.ethReady e ∨ s.spineDown ∨ f.bytes.length + 4 < 64 ∨ min (s.fld R.ETH_CTRL_mtu e) 9216 < f.bytes.length + 4 then s
    else s.frameOut e f))

/-- The device is the fabric's time root or has no path to one (R309). -/
def State.timeOwn (s : State) : Bool := s.parentLink.isNone

/-- Device time behind by more than 1 µs steps; any other offset is slewed (R262, R309). -/
def State.removeOffset (s : State) (off : Int) : State :=
  if 1000 < off then { s with clk := { s.clk with time := s.clk.time + off.toNat, slew := 0, slewAcc := 0 } }
  else { s with clk := { s.clk with slew := off } }

/-- PTP acts on device time: at the time root while Spine OS reports PTP lock on either port, else it runs from REFCLK; and at
a device with no path to a root (R261, R309; log entry 89). -/
def State.ptpActs (s : State) : Bool :=
  s.timeOwn && (!s.bit R.TOILE_TIME_CFG_root_ok || s.bit R.ETH_PTP_STAT_lock 0 || s.bit R.ETH_PTP_STAT_lock 1)

/-- ETH_TIME_ADJ: the offset is removed under R262. -/
def execEthTimeAdj (p : Port) (v : BitVec 64) (s : State) : Out :=
  .next (s.regCmd p (R.ETH_TIME_ADJ_offset_ns.addr 0 0) (fun s =>
    if s.ptpActs then s.removeOffset (BitVec.ofNat 32 v.toNat).toInt else s))

/-- ETH_TIME_FREQ. -/
def execEthTimeFreq (p : Port) (v : BitVec 64) (s : State) : Out :=
  .next (s.regCmd p (R.ETH_TIME_FREQ_ppb.addr 0 0) (fun s =>
    if s.timeOwn then s.put R.ETH_TIME_FREQ_ppb (v.toNat % 2 ^ 24) else s))

/-- The link of an Ethernet port falls: lock and fault bits take whatever the lanes show (R308). -/
def State.ethDown (s : State) (e : Nat) : State :=
  let (w, s) := s.freeVal
  let s := ((s.put R.ETH_STAT_link 0 e).put R.ETH_STAT_lane_lock (bits w.toNat 0 4) e).put R.ETH_STAT_local_fault (bits w.toNat 4 1) e
  (s.put R.ETH_STAT_remote_fault (bits w.toNat 5 1) e).setBit R.COLO_READY0_ready (6 + e) false

/-- The PCS of a port aligns: its link is up (R308, R365). -/
def State.ethUp (s : State) (e : Nat) : State :=
  let s := ((s.put R.ETH_STAT_link 1 e).put R.ETH_STAT_lane_lock 15 e).put R.ETH_STAT_local_fault 0 e
  (s.put R.ETH_STAT_remote_fault 0 e).setBit R.COLO_READY0_ready (6 + e) true

/-- An enabled port's domain has had its 200 µs to power up (R366). -/
def State.ethPowered (s : State) (e : Nat) : Bool :=
  s.bit R.ETH_CTRL_enable e && decide ((SMap.get {} s.eths e).onAt + 200 * us ≤ s.now)

/-- ETH_LINK_CHANGE: the PCS of an enabled port aligns or loses alignment (R308, R365, R366). -/
def execEthLinkChange (e : Fin 2) (up : Bool) (s : State) : Out :=
  .next (s.mainEv (fun s =>
    if !s.ethPowered e then s
    else if up then s.ethUp e
    else s.ethDown e))

/-- ETHe_CTRL.enable is cleared: the port shows no link (R308). -/
def State.ethOff (s : State) (e : Nat) : State :=
  let s := ((s.put R.ETH_STAT_link 0 e).put R.ETH_STAT_lane_lock 0 e).put R.ETH_STAT_local_fault 0 e
  (s.put R.ETH_STAT_remote_fault 0 e).setBit R.COLO_READY0_ready (6 + e) false

end Sys2Proof.Machine
end

