-- ==== Sys2Proof/Machine/Control.lean ====
section
/-! DEFINITION. A write of any control register by its address, and of local memory, from the ports that may write them
(R5 to R8, R21, R22, R30, R360, R361, R363). -/
namespace Sys2Proof.Machine

/-! ### One register write -/

/-- The state that a meaning leaves; the present one where it stops. -/
def State.ran (s : State) (f : State → Out) : State :=
  match f s with
  | .next t => t
  | .fault _ => s
  | .refused _ => s

/-- A write to a command register of the folio and binder blocks. -/
def State.folWrite (s : State) (p : Port) (v : BitVec 64) : State :=
  let n : Folio := BitVec.ofNat 20 (bits v.toNat 4 20)
  match bits v.toNat 0 4 with
  | 1 => s.ran (execFolOpen p n)
  | 2 => s.ran (execFolClose p n)
  | 3 => s.ran (execFolReset p n)
  | 4 => s.ran (execFolMove p n)
  | _ => s

/-- A write of TOILE_CMD. -/
def State.toileWrite (s : State) (p : Port) (v : BitVec 64) : State :=
  match bits v.toNat 0 4 with
  | 1 => s.ran (execRejoin p)
  | 2 => s.ran (execRepartner p (BitVec.ofNat 20 (bits v.toNat 4 20)) (BitVec.ofNat 12 (bits v.toNat 24 12)))
  | _ => s

/-- A write of INGRESS_CMD. -/
def State.ingressWrite (s : State) (p : Port) (v : BitVec 64) : State :=
  let f : BitVec 16 := BitVec.ofNat 16 (bits v.toNat 4 16)
  match bits v.toNat 0 4 with
  | 1 => s.ran (execIngressAdd p f)
  | 2 => s.ran (execIngressDelete p f)
  | 3 => s.ran (execIngressBind p f (BitVec.ofNat 20 (bits v.toNat 20 20)))
  | 4 => s.ran (execIngressUnbind p f)
  | _ => s

/-- A write of AUD_BIND_CMD. -/
def State.audBindWrite (s : State) (p : Port) (v : BitVec 64) : State :=
  let n : Folio := BitVec.ofNat 20 (bits v.toNat 4 20)
  match bits v.toNat 0 4 with
  | 1 => s.ran (execAudBind p n)
  | 2 => s.ran (execAudUnbind p n)
  | _ => s

/-- A write of SAPp_CTRL: the stored fields, then start, stop and restart as their bits say. -/
def State.sapCtrlWrite (s : State) (p : Port) (a : SapId) (v : BitVec 64) : State :=
  let s := s.sapCtrl a v
  let s := if v.getLsbD 0 then s.ran (execSapStart p a v) else s
  let s := if v.getLsbD 1 then s.ran (execSapStop p a v) else s
  if v.getLsbD 2 then s.ran (execSapRestart p a v) else s

/-- A write of HOOPh_MAINT: drain, then load. -/
def State.maintWrite (s : State) (p : Port) (h : HoopId) (v : BitVec 64) : State :=
  let s := if v.getLsbD 0 == s.bit R.HOOP_MAINT_drain h then s else s.ran (execHoopDrain p h (v.getLsbD 0))
  if v.getLsbD 1 then s.ran (execUcodeLoad p h) else s

/-- A write of FLNKl_CTRL: enable, then retrain. -/
def State.flnkWrite (s : State) (p : Port) (l : LinkId) (v : BitVec 64) : State :=
  let s := if v.getLsbD 0 == s.bit R.FLNK_CTRL_enable l then s else s.ran (execLinkEnable p l (v.getLsbD 0))
  if v.getLsbD 1 then s.ran (execLinkRetrain p l) else s

/-- A write of AUD_PLL_CFG: with enable cleared the locks and the readiness of the ports go (R375, Table 11-14). -/
def State.pllWrite (s : State) (a : Nat) (v : BitVec 64) : State :=
  let s := s.regStore a v
  if s.bit R.AUD_PLL_CFG_enable then s
  else (((s.put R.AUD_PLL_STAT_lock48 0).put R.AUD_PLL_STAT_lock44 0).put R.AUD_PLL_STAT_holdover 0).sapReady false

/-- A write of PWR_HOOP_CFG: a hoop whose keep_on bit is newly set wakes (R378). -/
def State.hoopCfgWrite (s : State) (a : Nat) (v : BitVec 64) : State :=
  let was := s.fld R.PWR_HOOP_CFG_keep_on
  let s := s.regStore a v
  let on := s.fld R.PWR_HOOP_CFG_keep_on
  (List.range 16).foldl (fun (s : State) h => if on.testBit h && !was.testBit h && s.mainOn then s.wakeHoop h else s) s

/-- A write of SAP_FMT, SAP_CLK or SAP_LEAD is ignored unless the port is OFF (R298); the port may become a master (R307). -/
def State.sapCfgWrite (s : State) (sap a : Nat) (v : BitVec 64) : State :=
  if s.sapState sap = 0 then
    let s := s.regStore a v
    s.updSap sap (fun x => { x with master := x.master || s.bit R.SAP_CLK_master sap })
  else s

/-- A write of ETHe_CTRL. -/
def State.ethCtrlWrite (s : State) (e a : Nat) (v : BitVec 64) : State :=
  let was := s.bit R.ETH_CTRL_enable e
  let s := s.regStore a v
  if was && !s.bit R.ETH_CTRL_enable e then s.ethOff e
  else if !was && s.bit R.ETH_CTRL_enable e then { s with eths := SMap.upd {} s.eths e (fun x => { x with onAt := s.now }) }
  else s

/-- Registers of the FOL, HOOP, CORE, HBM and FLNK blocks whose write does more than set fields. -/
def State.writeA (s : State) (p : Port) (f : Fam) (i : Nat) (a : Nat) (v : BitVec 64) : State :=
  let w := v.toNat
  if f = R.FOL_CMD then s.folWrite p v
  else if f = R.FOL_BND_CMD then
    if 1 ≤ bits w 0 4 ∧ bits w 0 4 ≤ 5 then s.ran (fun s => .next (s.bndOp p (bits w 0 4) (BitVec.ofNat 12 (bits w 4 12)))) else s
  else if f = R.CORE_CTRL then
    let s := s.regStore a v
    if v.getLsbD 1 then s.ran (execCoreResumeWrite p (Fin.ofNat 128 i)) else s
  else if f = R.HOOP_AT_FREE then s.ran (execAtFree p (Fin.ofNat 16 i) (BitVec.ofNat 44 w))
  else if f = R.HBM_RECAL then s.ran (execHbmRecal p (Fin.ofNat 32 (bits w 0 5)) (v.getLsbD 5))
  else if f = R.HOOP_TC_INVAL then s.ran (execTcInval p (Fin.ofNat 16 i) (v.getLsbD 0))
  else if f = R.HOOP_DT_LOAD then s.ran (execDtLoad p (Fin.ofNat 16 i) (BitVec.ofNat 45 w) (Fin.ofNat 4 (bits w 45 2)))
  else if f = R.HOOP_MAINT then s.maintWrite p (Fin.ofNat 16 i) v
  else if f = R.FLNK_CTRL then s.flnkWrite p (Fin.ofNat 64 i) v
  else s.regStore a v

/-- Registers of the TOILE block whose write does more than set fields. -/
def State.writeB (s : State) (p : Port) (f : Fam) (a : Nat) (v : BitVec 64) : State :=
  let w := v.toNat
  if f = R.TOILE_DEVNUM then s.ran (execToileDevnumWrite p v)
  else if f = R.TOILE_QUORUM then s.ran (execToileQuorumWrite p v)
  else if f = R.TOILE_RT_CONFIRM then s.ran (execToileRtConfirm p (BitVec.ofNat 12 w) (v.getLsbD 12))
  else if f = R.TOILE_CMD then s.toileWrite p v
  else if f = R.TOILE_XCMD then
    if 1 ≤ bits w 0 4 ∧ bits w 0 4 ≤ 7 then s.xcmd p (bits w 0 4) (BitVec.ofNat 6 (bits w 4 6)) else s
  else if f = R.TOILE_RT then (s.regStore a v).pendingStat
  else if f = R.TOILE_TIME_CFG then (s.regStore a v).followRoot
  else s.regStore a v

/-- Registers of the SAP and AUD blocks whose write does more than set fields. -/
def State.writeC (s : State) (p : Port) (f : Fam) (i : Nat) (a : Nat) (v : BitVec 64) : State :=
  if f = R.SAP_CTRL then s.sapCtrlWrite p (Fin.ofNat 16 i) v
  else if f = R.SAP_FMT ∨ f = R.SAP_CLK ∨ f = R.SAP_LEAD then s.sapCfgWrite i a v
  else if f = R.AUD_PLL_CFG then s.pllWrite a v
  else if f = R.AUD_GRP_CFG then if s.grpState i = 0 then s.regStore a v else s
  else if f = R.AUD_GRP_START then s.ran (execAudGrpStart p (Fin.ofNat 8 i) v)
  else if f = R.AUD_GRP_CTRL then if v.getLsbD 0 then s.ran (execAudGrpStop p (Fin.ofNat 8 i)) else s
  else if f = R.AUD_BIND_CMD then s.audBindWrite p v
  else if f = R.AUD_CH_SRC then s.ran (execAudChSrcWrite p (Fin.ofNat 384 i) v)
  else if f = R.AUD_CH_GAIN then s.ran (execAudChGainWrite p (Fin.ofNat 384 i) v)
  else if f = R.AUD_OUT_BASE then s.ran (execAudOutEnable p (Fin.ofNat 16 i) v)
  else s.regStore a v

/-- Registers of the ETH, INGRESS and MISC blocks whose write does more than set fields. -/
def State.writeD (s : State) (p : Port) (f : Fam) (i : Nat) (a : Nat) (v : BitVec 64) : State :=
  if f = R.ETH_CTRL then s.ethCtrlWrite i a v
  else if f = R.ETH_TIME_ADJ then s.ran (execEthTimeAdj p v)
  else if f = R.ETH_TIME_FREQ then s.ran (execEthTimeFreq p v)
  else if f = R.INGRESS_CMD then s.ingressWrite p v
  else if f = R.INGRESS_PUSH0 then s.ran (execPush p v)
  else if f = R.MISC_UART_CFG then s.ran (execUartCfgWrite p v)
  else if f = R.MISC_I2C_CMD then
    if 1 ≤ bits v.toNat 0 3 ∧ bits v.toNat 0 3 ≤ 5 then s.i2cCmd p i (bits v.toNat 0 3) v else s
  else s.regStore a v

/-- Registers of the COLO, SEC and PWR blocks whose write does more than set fields. -/
def State.writeE (s : State) (p : Port) (f : Fam) (a : Nat) (v : BitVec 64) : State :=
  if f = R.COLO_SERVICE then
    let s := s.regStore a v
    if bits v.toNat R.COLO_SERVICE_retire.lo R.COLO_SERVICE_retire.width = 1 then s.ran (execRetire p) else s
  else if f = R.SEC_ATT_CMD then
    match bits v.toNat 0 2 with
    | 1 => s.ran (execAttReport p)
    | 2 => s.ran (execAttCert p)
    | _ => s
  else if f = R.PWR_CMD then
    match bits v.toNat 0 2 with
    | 1 => s.ran (execStandby p)
    | 2 => s.ran (execRun p)
    | 3 => s.ran (execDeviceReset p)
    | _ => s
  else if f = R.PWR_ARITH then s.ran (execPwrArithWrite p v)
  else if f = R.PWR_HOOP_CFG then s.hoopCfgWrite a v
  else if f = R.PWR_RTC then s.ran (execPwrRtcWrite p v)
  else if f = R.PWR_ALERT_MASK then (s.regStore a v).alertStat
  else s.regStore a v

/-- What the write of the register at an address does. -/
def State.writeReg (s : State) (p : Port) (a : Nat) (v : BitVec 64) : State :=
  match famAt a with
  | none => s
  | some (f, i, _) =>
    match blockOf a with
    | .toile => s.writeB p f a v
    | .sap => s.writeC p f i a v
    | .aud => s.writeC p f i a v
    | .eth => s.writeD p f i a v
    | .ingress => s.writeD p f i a v
    | .misc => s.writeD p f i a v
    | .colo => s.writeE p f a v
    | .sec => s.writeE p f a v
    | .pwr => s.writeE p f a v
    | _ => s.writeA p f i a v

/-- An address of the control space. -/
def inControl (a : Nat) : Bool := decide (0xF000000000 ≤ a ∧ a < 0xF100000000)

/-- A control-space write (R7, R8, R21, R360, R361): the level of its port first, then a width other than 64 bits or an
address that is not aligned changes no register; an address outside every block is ignored. -/
def State.ctlWrite (s : State) (p : Port) (a width : Nat) (v : BitVec 64) : State :=
  if s.portQuiet p then s
  else if !inControl a then s.send (.busError p)
  else if !s.mayWrite p (a / 8 * 8) then s.denied p
  else if width ≠ 64 ∨ a % 8 ≠ 0 then s.send (.busError p)
  else s.regCmd p a (fun s => s.writeReg p a v)

/-- REGISTER_WRITE. -/
def execRegWrite (p : Port) (addr : BitVec 64) (width : Nat) (v : BitVec 64) (s : State) : Out :=
  .next (s.ctlWrite p addr.toNat width v)

/-- REG_WRITE: up to 64 control registers from one address, at P1 (R362, Table 14-9). -/
def execMgmtRegWrite (q : SignedReq) (addr : BitVec 64) (vals : List (BitVec 64)) (s : State) : Out :=
  .next (s.aonEv (fun s => s.signed false 0x11 (toLE 8 addr.toNat ++ vals.flatMap (fun v => toLE 8 v.toNat)) q (fun s =>
    if 64 < vals.length ∨ !inControl addr.toNat then (s, .args, [])
    else
      let l := vals.zipIdx.map (fun x => (addr.toNat + 8 * x.2, x.1))
      let ok := l.all (fun x => s.mayWrite .p1 (x.1 / 8 * 8))
      (l.foldl (fun (s : State) x => s.ctlWrite .p1 x.1 64 x.2) s,
        if !ok then .denied else if addr.toNat % 8 ≠ 0 then .args else .ok, []))))

/-! ### Local memory (R20 to R23, R30) -/

/-- The core of a byte of the operand-buffer window. -/
def bufCore (a : Nat) : Nat := (a - 0xE200000000) / 0x100000

/-- The cores whose operand buffers n bytes from a touch. -/
def bufCores (a n : Nat) : List Nat := (List.range (bufCore (a + (n - 1)) - bufCore a + 1)).map (· + bufCore a)

/-- Some of n bytes lie in the operand buffer of a core of a powered-off hoop (R22). -/
def State.bufOff (s : State) (a n : Nat) : Bool :=
  match areaOf a with
  | .opbuf _ => (bufCores a n).any (fun c => !s.hoopOn (c / 8))
  | _ => false

/-- A write through the operand-buffer window: the bytes of a core of a powered-off hoop stay as they are (R22). -/
def State.bufStore (s : State) (a : Nat) (dat : List Byte) : State :=
  (bufCores a dat.length).foldl (fun (s : State) c =>
    let lo := max a (opbufAddr c 0)
    let hi := min (a + dat.length) (opbufAddr (c + 1) 0)
    if s.hoopOn (c / 8) then s.writeLocal lo ((dat.drop (lo - a)).take (hi - lo)) else s) s

/-- A write to memory by a port that reaches it. -/
def State.memStore (s : State) (p : Port) (a : Nat) (dat : List Byte) : State :=
  if !s.mainOn ∧ areaOf a ≠ .ctl then s
  else if !oneArea a dat.length then s.send (.busError p)
  else match areaOf a with
    | .hole => s.send (.busError p)
    | .dir => s.send (.busError p)
    | .ctl => s.ctlWrite p a (8 * dat.length) (BitVec.ofNat 64 (leNat dat))
    | .opbuf _ => s.bufStore a dat
    | _ => s.writeLocal a dat

/-- A port that reaches n bytes of local memory from a (Table 14-10): a user process of the Spine reaches what Spine OS has
mapped for it. -/
def State.mayMemory (s : State) (p : Port) (a n : Nat) : Bool :=
  match p with
  | .p0 => true
  | .p1 => false
  | .p2 => true
  | .p3 => s.spine.userMap.any (fun m => decide (m.1 ≤ a) && decide (a + n ≤ m.1 + m.2))
  | .p6 => s.unlocked

/-- MEMORY_WRITE. -/
def execMemoryWrite (p : Port) (addr : BitVec 40) (dat : List Byte) (s : State) : Out :=
  .next (s.aonEv (fun s => if s.portQuiet p then s
    else if !s.mayMemory p addr.toNat dat.length then s.denied p
    else if dat = [] then s
    else s.memStore p addr.toNat dat))

/-! ### Debug access (R363) -/

/-- The test port shifts out the bits of some bytes. -/
def State.shiftOut (s : State) (l : List Byte) : State :=
  { s with jtag := { s.jtag with drive := false, out := l.flatMap (fun b => natBits 8 b.toNat) } }

/-- A read of local memory through the test port. -/
def State.debugRead (s : State) (a n : Nat) : State :=
  if !s.mainOn ∨ !oneArea a n ∨ s.bufOff a n then s.send (.busError .p6)
  else match areaOf a with
    | .hole => s.send (.busError .p6)
    | .ctl => if n = 8 ∧ a % 8 = 0 then s.shiftOut (toLE 8 (s.regRead a).toNat) else s.send (.busError .p6)
    | _ => match s.readLocal a n with
      | .bytes l => (s.checked (localAddr a) n).shiftOut l
      | _ => (s.checked (localAddr a) n).send (.busError .p6)

/-- DEBUG_ACCESS: BYPASS while the port is locked. -/
def execDebugAccess (a : DebugOp) (s : State) : Out :=
  .next (s.aonEv (fun s => if !s.unlocked then s.shiftBypass []
    else match a with
      | .readReg r =>
        if r.toNat % 8 ≠ 0 ∨ !inControl r.toNat ∨ !s.mayRead .p6 r.toNat then s.send (.busError .p6) else s.shiftOut (toLE 8 (s.regRead r.toNat).toNat)
      | .writeReg r v => s.ctlWrite .p6 r.toNat 64 v
      | .readMem m n => s.debugRead m.toNat n
      | .writeMem m dat => if dat = [] then s else s.memStore .p6 m.toNat dat))

end Sys2Proof.Machine
end

