-- ==== Sys2Proof/Machine/Fabric.lean ====
section
/-! DEFINITION. Transactions that peers send: each flow in its order and once (R259), and what each transaction does and is
answered by (R241 to R243, R257 to R277, R339). -/
namespace Sys2Proof.Machine

/-! ### What a transaction does (R241 to R243, R257) -/

/-- An answer to a LEASE request, where there is one now. -/
def leaseAns (tag : BitVec 16) : Option LeaseReply → PeerAns
  | some r => .say 3 (.leaseReply tag r)
  | none => .silent

/-- Read leases have ended: the images of pages without one go, and a TOILE_XCMD that waited goes on (R243). -/
def State.leasesEnd (s : State) : State :=
  ({ s with images := s.images.filter (fun p => !(s.leasesOn (p.1 * 4096) 4096).isEmpty) } : State).xRetry

/-- A request for a read lease, or its release, and its answer (R243). -/
def State.readLeaseAsked (s : State) (d : Nat) (tag : BitVec 16) (addr : BitVec 40) (take : Bool) : State × PeerAns :=
  let src : DevNum := BitVec.ofNat 12 d
  if !take then
    (({ s with leases := s.otherLeases src (addr.toNat / 4096) } : State).leasesEnd, .say 3 (.leaseAns tag true))
  else match s.leaseEntry src addr with
    | some r => (s.giveLease src (addr.toNat / 4096) r, .say 3 (.leaseAns tag true))
    | none => (s.count R.TOILE_REFUSED_count, .say 3 (.leaseAns tag false))

/-- A RECALL: the holder gives its lease up and says so (R243). -/
def State.recalled (s : State) (d : Nat) (addr : BitVec 52) : State :=
  let a := d * 2 ^ 40 + addr.toNat % 2 ^ 40 / 4096 * 4096
  ({ s with myLeases := s.myLeases.filter (fun (l : Nat × Nat) => l.1 ≠ a) } : State).post d 3
    (.readLease (BitVec.ofNat 40 (a % 2 ^ 40)) false)

/-- A member acknowledges the device's RESIGN (R340). -/
def State.resignTaken (s : State) (d : Nat) : State :=
  let m : DevNum := BitVec.ofNat 12 d
  if s.retire.resignAt.isNone ∨ !s.quorum.contains d ∨ s.retire.acks.contains m then s else s.resignHeard m

/-- What a LINE transaction of peer d does, and how it is answered (Table 10-8). -/
def State.execLine (s : State) (d : Nat) (tag : BitVec 16) : Note → State × PeerAns
  | .lineOpen n p => let a := s.lineOpened d n p; (a.1, .say 2 (.lineAck tag n 0 a.2))
  | .lineDelta n seq next crc dat =>
    let a := s.lineApply d n seq.toNat next.toNat crc false dat; (a.1, .say 2 (.lineAck tag n seq a.2))
  | .lineFull n seq next crc dat =>
    let a := s.lineApply d n seq.toNat next.toNat crc true dat; (a.1, .say 2 (.lineAck tag n seq a.2))
  | .lineAck rtag n seq r => ((s.answered d rtag (.done [] 0)).lineAnswer d n seq r, .ack)
  | .lineRel n seq => (s.lineReleased d n seq, .ack)
  | .lineClose n _ => (s.lineClosed d n, .ack)
  | .lineAudio n st ssrc ts dat => (s.lineAudioIn d n st ssrc ts dat, .ack)
  | _ => (s, .ack)

/-- What a LEASE transaction of peer d does, and how it is answered: a member that does not serve now answers nothing (R271,
R273, R276, R277, R339). -/
def State.execLease (s : State) (d : Nat) (tag : BitVec 16) : Note → State × PeerAns
  | .leaseRenew e t =>
    if !s.serves then (s, .silent) else let a := s.renewed d e.toNat t.toNat; (a.1, leaseAns tag (some a.2))
  | .leasePromote x e =>
    if !s.serves then (s, .silent) else let a := s.memberPromote d tag x e; (a.1, leaseAns tag a.2)
  | .leaseJoin e => if !s.serves then (s, .silent) else let a := s.memberJoins d tag e.toNat; (a.1, leaseAns tag a.2)
  | .leaseResign e =>
    if !s.serves then (s, .silent)
    else
      let a := s.memberResigns d e.toNat
      (a.1, if a.2 then .say 3 (.resignAck tag)
            else leaseAns tag (some (.renewRefused (BitVec.ofNat 32 (a.1.qrec d).epoch))))
  | .leaseReply rtag r => ((s.answered d rtag (.done [] 0)).leaseHeard d r, .ack)
  | .resignAck rtag => ((s.answered d rtag (.done [] 0)).resignTaken d, .ack)
  | _ => (s, .ack)

/-- What a transaction of peer d that is no memory request does, and how it is answered (Table 10-7). -/
def State.execNote (s : State) (d : Nat) (tag : BitVec 16) (m : Note) : State × PeerAns :=
  match m with
  | .reply rtag r => (s.answered d rtag r, .ack)
  | .beat e => (s.beatHeard d e, .ack)
  | .recall a => (s.recalled d a, .ack)
  | .readLease a take => s.readLeaseAsked d tag a take
  | .leaseAns rtag ok => (s.answered d rtag (if ok then .done [] 0 else .refused), .ack)
  | .lineOpen _ _ => s.execLine d tag m
  | .lineDelta _ _ _ _ _ => s.execLine d tag m
  | .lineFull _ _ _ _ _ => s.execLine d tag m
  | .lineAck _ _ _ _ => s.execLine d tag m
  | .lineRel _ _ => s.execLine d tag m
  | .lineClose _ _ => s.execLine d tag m
  | .lineAudio _ _ _ _ _ => s.execLine d tag m
  | .leaseRenew _ _ => s.execLease d tag m
  | .leasePromote _ _ => s.execLease d tag m
  | .leaseJoin _ => s.execLease d tag m
  | .leaseResign _ => s.execLease d tag m
  | .leaseReply _ _ => s.execLease d tag m
  | .resignAck _ => s.execLease d tag m

/-- Execute a transaction of peer d (R241, R257, R260). -/
def State.serve (s : State) (d : Nat) (tag : BitVec 16) : PeerOp → State × PeerAns
  | .read off len => let a := s.serveRead d off len; (a.1, .say 1 (.reply tag a.2))
  | .write off dat => let a := s.serveWrite d off dat; (a.1, .say 1 (.reply tag a.2))
  | .atomic sub off opa opb => let a := s.serveAtomic d sub off opa opb; (a.1, .say 1 (.reply tag a.2))
  | .note m => s.execNote d tag m

/-! ### Flows (R259) -/

/-- Answer a transaction of peer d. -/
def State.giveAns (s : State) (d cls : Nat) (seq : BitVec 16) : PeerAns → State
  | .say c m => s.post d c m
  | .ack => s.flowAck d cls seq
  | .silent => s

/-- The refusal of a transaction that comes late (R259): a completion, a LINE.ACK or a lease answer with a refusal; the types
without one get none (DESIGN CHOICE, log entry 77). -/
def lateAns (tag : BitVec 16) : PeerOp → PeerAns
  | .note (.lineOpen n _) => .say 2 (.lineAck tag n 0 .noRoom)
  | .note (.lineDelta n seq _ _ _) => .say 2 (.lineAck tag n seq .seq)
  | .note (.lineFull n seq _ _ _) => .say 2 (.lineAck tag n seq .seq)
  | .note (.readLease _ _) => .say 3 (.leaseAns tag false)
  | .note _ => .silent
  | _ => .say 1 (.reply tag .refused)

/-- A transaction of a flow has left p.1 and the answer p.2: the answer goes out and is kept for duplicates, and the flow
goes on to the next sequence (R259). -/
def State.turnEnd (d cls : Nat) (r : PeerReq) (p : State × PeerAns) : State :=
  (p.1.updRxFlow d cls (fun f => { f with
    next := f.next + 1, recalled := false, gapAt := none,
    held := f.held.filter (fun x => x.seq != r.seq),
    kept := ((r.seq, p.2) :: f.kept).take 256,
    skipped := f.skipped.filter (fun q => decide ((f.next - q).toNat ≤ 256)) })).giveAns d cls r.seq p.2

/-- The transaction whose turn it is: it is executed, and the flow goes on (R259). -/
def State.serveTurn (s : State) (d cls : Nat) (r : PeerReq) : State := State.turnEnd d cls r (s.serve d r.tag r.op)

/-- Execute what a flow holds, in sequence order, until a sequence is missing or a write waits for leases; `fuel` bounds
the transactions. -/
def State.runFlow (s : State) (d cls : Nat) : Nat → State
  | 0 => s
  | fuel + 1 =>
    let f := s.rxFlow d cls
    match f.held.find? (fun r => r.seq == f.next) with
    | none => s.updRxFlow d cls (fun f => { f with gapAt := if f.held.isEmpty then none else some (f.gapAt.getD s.now) })
    | some r =>
      let ls := s.holdsBack d r.op
      if !ls.isEmpty then
        if f.recalled then s else (s.recallAll ls).updRxFlow d cls (fun f => { f with recalled := true })
      else
        (s.serveTurn d cls r).runFlow d cls fuel

/-- It is a transaction's turn in its flow, and nothing holds it back: it is new, the next, and no other waits (R243, R259). -/
def State.turnOf (s : State) (d cls : Nat) (r : PeerReq) : Bool :=
  let f := s.rxFlow d cls
  !f.kept.any (fun k => k.1 == r.seq) && !f.skipped.contains r.seq && r.seq == f.next && f.held.isEmpty
    && (s.holdsBack d r.op).isEmpty

/-- A peer's transaction arrives (R259): in its turn it is executed; a duplicate gets the kept answer, a skipped sequence a
refusal, others wait for their turn. -/
def State.arrive (s : State) (d cls : Nat) (r : PeerReq) : State :=
  if s.turnOf d cls r then s.serveTurn d cls r
  else
    let f := s.rxFlow d cls
    match f.kept.find? (fun k => k.1 == r.seq) with
    | some k => (s.count R.TOILE_DUP_count).giveAns d cls r.seq k.2
    | none =>
      if f.skipped.contains r.seq then
        (s.updRxFlow d cls (fun f => { f with skipped := f.skipped.erase r.seq })).giveAns d cls r.seq (lateAns r.tag r.op)
      else if 0x8000 ≤ (r.seq - f.next).toNat ∨ f.held.any (fun x => x.seq == r.seq) then s
      else (s.updRxFlow d cls (fun f => { f with held := f.held ++ [r] })).runFlow d cls (f.held.length + 2)

/-- Every flow whose write waited for leases goes on. -/
def State.wakeFlows (s : State) : State :=
  (s.rxFlows.filter (fun p => p.1 % 4 = 0 ∧ !p.2.held.isEmpty)).foldl
    (fun (s : State) p => s.runFlow (p.1 / 4) 0 (p.2.held.length + 1)) s

/-- A transaction of a class that is no memory request arrives from a peer. -/
def State.comes (s : State) (src : DevNum) (cls : Nat) (h : FlowPos) (m : Note) : State :=
  s.arrive src.toNat cls { seq := h.seq, tag := h.tag, op := .note m }

/-- n missing sequences are skipped and counted, and the flow goes on (R259). -/
def State.skipGap (s : State) (d cls n : Nat) : State :=
  ((s.updRxFlow d cls (fun f => { f with
    next := f.next + BitVec.ofNat 16 n, gapAt := none,
    skipped := f.skipped ++ (List.range n).map (fun k => f.next + BitVec.ofNat 16 k) })).count R.TOILE_GAP_count n).runFlow d cls
      ((s.rxFlow d cls).held.length + 1)

/-- SEQ_GAP_TIMEOUT: the missing sequences are skipped and counted (R259). -/
def execSeqGapTimeout (src : DevNum) (cls : Fin 4) (s : State) : Out :=
  .next (s.mainEv (fun s =>
    let f := s.rxFlow src.toNat cls.val
    match f.gapAt with
    | none => s
    | some t =>
      if s.now < t + s.timeout then s
      else s.skipGap src.toNat cls.val f.gap))

/-! ### Memory requests and their answers (R241 to R243, R257 to R260) -/

/-- PEER_READ (R241, R259). -/
def execPeerRead (src : DevNum) (seq tag : BitVec 16) (off : BitVec 40) (len : Nat) (s : State) : Out :=
  .next (s.mainEv (fun s => s.arrive src.toNat 0 { seq := seq, tag := tag, op := .read off.toNat len }))

/-- PEER_WRITE (R241, R243, R259). -/
def execPeerWrite (src : DevNum) (seq tag : BitVec 16) (off : BitVec 40) (dat : List Byte) (s : State) : Out :=
  .next (s.mainEv (fun s => s.arrive src.toNat 0 { seq := seq, tag := tag, op := .write off.toNat dat }))

/-- PEER_ATOMIC (R259, R260). -/
def execPeerAtomic (src : DevNum) (seq tag : BitVec 16) (sub : BitVec 8) (off : BitVec 40) (opa opb : BitVec 64) (s : State) :
    Out :=
  .next (s.mainEv (fun s => s.arrive src.toNat 0 { seq := seq, tag := tag, op := .atomic sub.toNat off.toNat opa opb }))

/-- COMPLETION: a completion, the answer to a request for a read lease, or a flow's acknowledgement (R243, R259). -/
def execCompletion (src : DevNum) (r : Ended) (s : State) : Out :=
  .next (s.mainEv (fun s => match r with
    | .reply h r => s.comes src 1 h (.reply h.tag r)
    | .lease h ok => s.comes src 3 h (.leaseAns h.tag ok)
    | .flow cls seq => s.flowAcked src.toNat cls.val seq))

/-- READ_LEASE_REQUEST: a peer takes or releases a read lease on an aligned 4 KiB range; at most 16 for an entry (R243). -/
def execReadLeaseRequest (src : DevNum) (h : FlowPos) (addr : BitVec 40) (take : Bool) (s : State) : Out :=
  .next (s.mainEv (fun s => (s.comes src 3 h (.readLease addr take)).wakeFlows))

/-- READ_LEASE_EXPIRY: waiting writes proceed (R243). -/
def execReadLeaseExpiry (e : Fin 256) (holder : DevNum) (page : Nat) (s : State) : Out :=
  .next (s.mainEv (fun s =>
    ({ s with leases := s.leases.filter (fun l =>
        !(l.entry == e.val && l.holder == holder && l.page == page && decide (l.expiry ≤ s.now))) } : State).leasesEnd.wakeFlows))

/-- RECALL: the holder gives its lease up and says so (R243). -/
def execRecall (src : DevNum) (h : FlowPos) (addr : BitVec 52) (s : State) : Out :=
  .next (s.mainEv (fun s => s.comes src 3 h (.recall addr)))

/-! ### Lining (R264 to R269) -/

/-- LINE_OPEN (R266, R278). -/
def execLineOpen (src : DevNum) (h : FlowPos) (n : Folio) (m : LineParams) (s : State) : Out :=
  .next (s.mainEv (fun s => s.comes src 2 h (.lineOpen n m)))

/-- LINE_DELTA (R265, R267). -/
def execLineDelta (src : DevNum) (h : FlowPos) (n : Folio) (seq next crc : BitVec 32) (dat : List Byte) (s : State) : Out :=
  .next (s.mainEv (fun s => s.comes src 2 h (.lineDelta n seq next crc dat)))

/-- LINE_FULL (R265, R267). -/
def execLineFull (src : DevNum) (h : FlowPos) (n : Folio) (seq next crc : BitVec 32) (dat : List Byte) (s : State) : Out :=
  .next (s.mainEv (fun s => s.comes src 2 h (.lineFull n seq next crc dat)))

/-- LINE_ACK (R14, R265, R268): it answers the OPEN, DELTA or FULL whose tag it returns. -/
def execLineAck (src : DevNum) (h : FlowPos) (n : Folio) (seq : BitVec 32) (r : LineResult) (s : State) : Out :=
  .next (s.mainEv (fun s => s.comes src 2 h (.lineAck h.tag n seq r)))

/-- LINE_REL (R268). -/
def execLineRel (src : DevNum) (h : FlowPos) (n : Folio) (seq : BitVec 32) (s : State) : Out :=
  .next (s.mainEv (fun s => s.comes src 2 h (.lineRel n seq)))

/-- LINE_CLOSE (R269). -/
def execLineClose (src : DevNum) (h : FlowPos) (n : Folio) (seq : BitVec 32) (s : State) : Out :=
  .next (s.mainEv (fun s => s.comes src 2 h (.lineClose n seq)))

/-- LINE_AUDIO (R266, R267, R316). -/
def execLineAudio (src : DevNum) (h : FlowPos) (n : Folio) (st : StampEntry) (ssrc ts : BitVec 32) (dat : List Byte) (s : State) :
    Out :=
  .next (s.mainEv (fun s => s.comes src 2 h (.lineAudio n st ssrc ts dat)))

/-! ### Watch and leases (R263, R271 to R277, R339, R340) -/

/-- BEAT (R263). -/
def execBeat (dev : DevNum) (h : FlowPos) (epoch : BitVec 32) (s : State) : Out :=
  .next (s.mainEv (fun s => s.comes dev 3 h (.beat epoch)))

/-- LEASE_RENEW (R271, R273). -/
def execLeaseRenew (src : DevNum) (h : FlowPos) (epoch : BitVec 32) (t : BitVec 64) (s : State) : Out :=
  .next (s.mainEv (fun s => s.comes src 3 h (.leaseRenew epoch t)))

/-- LEASE_GRANT: a member's answer (R271, R273, R276). -/
def execLeaseGrant (m : DevNum) (h : FlowPos) (r : LeaseReply) (s : State) : Out :=
  .next (s.mainEv (fun s => s.comes m 3 h (.leaseReply h.tag r)))

/-- LEASE_PROMOTE (R273). -/
def execLeasePromote (src : DevNum) (h : FlowPos) (x : DevNum) (e : BitVec 32) (s : State) : Out :=
  .next (s.mainEv (fun s => s.comes src 3 h (.leasePromote x e)))

/-- LEASE_JOIN (R276, R277). -/
def execLeaseJoin (src : DevNum) (h : FlowPos) (epoch : BitVec 32) (s : State) : Out :=
  .next (s.mainEv (fun s => s.comes src 3 h (.leaseJoin epoch)))

/-- LEASE_RESIGN (R339). -/
def execLeaseResign (src : DevNum) (h : FlowPos) (e : BitVec 32) (s : State) : Out :=
  .next (s.mainEv (fun s => s.comes src 3 h (.leaseResign e)))

/-- RESIGN_ACK: at a majority the device falls silent (R340). -/
def execResignAck (m : DevNum) (h : FlowPos) (s : State) : Out :=
  .next (s.mainEv (fun s => s.comes m 3 h (.resignAck h.tag)))

end Sys2Proof.Machine
end

