-- ==== Sys2Proof/Machine/Sched.lean ====
section
/-! DEFINITION. The hoop scheduler's steps: picking and forming sections, loading states, hand-over and commit (R47,
R48, R54 to R56, R58, R61, R85, R86, R265, R272, R334, R396, R397). -/
namespace Sys2Proof.Machine

/-! ### Picking (R47) -/

/-- A local core of a hoop is free: it waits in ST.NEXT (DESIGN CHOICE, log entry 69), is not stopped or under recovery, and
no section has it. -/
def State.coreFree (s : State) (h j : Nat) : Bool :=
  let k := s.core (8 * h + j)
  s.hoopOn h && k.wait == .stNext && k.sect.isNone && k.nextSect.isNone && !k.resuming && !k.recovering
    && !(s.hoop h).sections.any (fun x => decide (x.core0 ≤ j) && decide (j < x.core0 + x.g))

/-- The READY folios of a hoop. -/
def State.readyOn (s : State) (h : Nat) : List Folio :=
  (s.dir.filter (fun p => p.2.st = .ready ∧ p.2.hoop.toNat = h)).map (fun p => (BitVec.ofNat 20 p.1 : Folio))

/-- The READY folios of a hoop that a section can take in deadline order, ties to the lower folio. -/
def State.readyList (s : State) (h : Nat) : List Folio :=
  let l := (s.readyOn h).filter s.takable
  l.foldl (fun acc n =>
    let d := (s.nextTimes n).2
    acc.takeWhile (fun m => decide ((s.nextTimes m).2 ≤ d)) ++ [n] ++ acc.dropWhile (fun m => decide ((s.nextTimes m).2 ≤ d))) []

/-- The binders with READY folios on a hoop, in deadline order. -/
def State.readyBinders (s : State) (h : Nat) : List (BitVec 12) :=
  ((s.readyList h).map (fun n => s.target (s.ent n).binder)).foldl (fun acc b =>
    if acc.contains b ∨ !(s.hoop h).loaded.contains b then acc else acc ++ [b]) []

/-- The aligned groups of g local cores, as first cores. -/
def groupsOf (g : Nat) : List Nat := if g = 0 then [] else (List.range (8 / g)).map (· * g)

/-- The free aligned group with the lowest first core that avoids the reserved cores. -/
def State.freeGroup (s : State) (h g : Nat) (avoid : List Nat) : Option Nat :=
  (groupsOf g).find? (fun c0 => (List.range g).all (fun j => s.coreFree h (c0 + j) && !avoid.contains (c0 + j)))

/-- The aligned group with the most free cores, the lowest on a tie. -/
def State.bestGroup (s : State) (h g : Nat) : Nat :=
  let nfree (c0 : Nat) : Nat := ((List.range g).filter (fun j => s.coreFree h (c0 + j))).length
  (groupsOf g).foldl (fun best c0 => if nfree best < nfree c0 then c0 else best) 0

/-- Open a section of a binder on a group; it takes READY folios in deadline order. A section that can take no member
is not opened (R48); one that starts on the group reserved for its binder ends the reservation (R47). Answers whether one is
opened. -/
def State.openSection (s : State) (h : Nat) (b : BitVec 12) (c0 : Nat) : State × Bool :=
  let ser := ((s.hoop h).serial + 1) % 2 ^ 24
  let k : Section := { serial := ser, binder := b, core0 := c0, g := (s.bpar b).g, members := [] }
  let folios := (s.readyList h).filter (fun n => s.target (s.ent n).binder == b)
  let s := s.updHoop h (fun x => { x with serial := ser, sections := x.sections ++ [k] })
  let s := folios.foldl (fun s n =>
    match s.sect h ser with
    | some k => if k.phase = .forming then s.joinOrClose h ser n else s
    | none => s) s
  match s.sect h ser with
  | some k =>
    if k.members = [] then
      (s.updHoop h (fun x => { x with sections := x.sections.filter (fun y => y.serial ≠ ser), idleSince := s.now }), false)
    else (s.updHoop h (fun x => { x with reserve := if x.reserve.any (fun r => r.1 = b ∧ r.2.1 = c0) then none else x.reserve }), true)
  | none => (s, false)

/-- Serve the binders of a hoop in deadline order: the first that fits and finds room for a member opens its section; the
earliest, when no group is free for it, reserves one (R47, R48). -/
def State.pick (s : State) (h : Nat) : List (BitVec 12) → Bool → State
  | [], _ => s
  | b :: bs, first =>
    let g := (s.bpar b).g
    let avoid := match (s.hoop h).reserve with
      | some (rb, c0, n) => if rb = b then [] else (List.range n).map (· + c0)
      | none => []
    match s.freeGroup h g avoid with
    | some c0 => match s.openSection h b c0 with
      | (s, true) => s
      | (s, false) => s.pick h bs false
    | none =>
      let s := if first ∧ (s.hoop h).reserve.isNone then
          s.updHoop h (fun x => { x with reserve := some (b, s.bestGroup h g, g) }) else s
      s.pick h bs false

/-- The scheduler of a hoop serves its READY folios; a reservation ends when its binder is no longer the earliest (R47). -/
def State.pickNow (s : State) (h : Nat) : State :=
  let s := ((s.readyOn h).filter (fun n => !s.retries n)).foldl (fun s n => s.ringRead n) s
  let bs := s.readyBinders h
  let s := s.updHoop h (fun x => { x with reserve := if x.reserve.map (·.1) = bs.head? then x.reserve else none })
  (s.pick h bs true).schedStat h

/-- SCHEDULER_PICK (R47, R51, R344). -/
def execSchedulerPick (h : HoopId) (s : State) : Out :=
  .next (s.mainEv (fun s =>
    if !s.forming ∨ !s.hoopOn h ∨ s.bit R.HOOP_MAINT_drain h ∨ (s.hoop h).ucode then s
    else s.reading (s.readyOn h) (fun s => s.pickNow h)))

/-- SECTION_FILL_TIMEOUT: w_B has passed since the ready time of the earliest member (R47). -/
def execSectionFillTimeout (h : HoopId) (ser : Nat) (s : State) : Out :=
  .next (s.mainEv (fun s => match s.sect h ser with
    | some k =>
      if k.phase = .forming ∧ s.forming ∧ s.fillOver k then s.closeSection h ser
      else s
    | none => s))

/-- SECTION_DEADLINE_CLOSE: the earliest deadline less the section time is no later than now (R47). -/
def execSectionDeadlineClose (h : HoopId) (ser : Nat) (s : State) : Out :=
  .next (s.mainEv (fun s => match s.sect h ser with
    | some k =>
      if k.phase = .forming ∧ s.forming ∧ s.deadlineNear k then s.closeSection h ser
      else s
    | none => s))

/-! ### Loading (R54, R55, R85, R396, R397) -/

/-- Put bytes into a list at an offset. -/
def splice (l : List Byte) (o : Nat) (b : List Byte) : List Byte := l.take o ++ b ++ l.drop (o + b.length)

/-- The Toile address of a folio's committed bytes: the resident copy, or the committed copy of the state page. -/
def State.committedAt (s : State) (n : Folio) : Nat :=
  let e := s.ent n
  if e.resident then localAddr (storeAddr e.hoop.toNat (e.storeSlot.toNat * 256)) else s.pageAddr n

/-- A folio's committed bytes. -/
def State.committed (s : State) (h : Nat) (n : Folio) : RdRes := s.readToile (256 + h) (s.committedAt n) (s.par n).copy

/-- The checks that a read of n committed bytes makes. -/
def State.committedCheck (s : State) (n : Folio) (len : Nat) : State := s.touched (s.committedAt n) len

/-- A member's working copy and record are built from its committed copy `d`; `restarted` when R397 replaced it. -/
def State.placeMember (s : State) (h ser : Nat) (k : Section) (m : Member) (d : List Byte) (restarted : Bool) : State :=
  let n := m.folio
  let p := s.bpar k.binder
  let next := leNat ((d.drop 8).take 8)
  let last := leNat (d.take 4)
  let pos0 := next + p.frames * since m.seq.toNat (last + 1)
  let s := match m.slot with
    | some o =>
      let s := s.writeLocal (storeAddr h o) d
      if p.external then s
      else (s.updEnt n (fun e => { e with resident := true, storeSlot := BitVec.ofNat 14 (o / 256) })).updFol n
        (fun f => { f with dirty := restarted })
    | none => if restarted then
        (s.writeLocal (storeAddr h ((s.ent n).storeSlot.toNat * 256)) d).updFol n (fun f => { f with dirty := true })
      else s
  let s := s.writeLocal (storeAddr h m.work) d
  let s := if restarted then s.updFol n (fun f => { f with
      line := { f.line with needFull := true },
      flight := f.flight.map (fun g => { g with resetWord := g.resetWord ||| 1, restart := true }) }) else s
  let ext := if p.external then
      (s.ent n).statePage.toNat * 4096 + (if (s.ent n).extCopy then 0 else p.size) else 0
  s.updSect h ser (fun k => { k with members := k.members.map (fun x => if x.folio = n then
    { x with
      loaded := true, slot := (if p.external then x.slot else none), pos0 := BitVec.ofNat 64 pos0,
      resetWord := (if restarted then x.resetWord ||| 1 else x.resetWord), seed := x.seed || restarted,
      restart := x.restart || restarted, extWork := BitVec.ofNat 52 ext } else x) })

/-- Load one member's state, or ask for what is still to come from a peer. -/
def State.loadMember (s : State) (h ser : Nat) (m : Member) : State :=
  match s.sect h ser with
  | none => s
  | some k =>
    if m.loaded then s
    else
      let n := m.folio
      match s.committed h n with
      | .bytes d =>
        (((s.committedCheck n d.length).dropRemote (256 + h) (s.pageAddr n) d.length).placeMember h ser k m d false)
      | .need ls => s.askLines (.hoop ⟨h % 16, Nat.mod_lt _ (by decide)⟩) ls
      | _ =>
        match s.binder k.binder with
        | none => s
        | some b =>
          let hd := match s.readToile (256 + h) (s.committedAt n) 64 with | .bytes x => some x | _ => none
          let d := restartCopy b hd m.seq.toNat
          let s := (s.committedCheck n (s.par n).copy).dropRemote (256 + h) (s.pageAddr n) (s.par n).copy
          let s := if (s.ent n).resident then s else s.writeToile (.fol n) (s.pageAddr n) d
          s.placeMember h ser k m (d.take (s.par n).copy) true

/-- A member record (Table 2-9). -/
def Member.record (m : Member) (external : Bool) : List Byte :=
  toLE 4 m.folio.toNat ++ toLE 4 m.seq.toNat ++ toLE 4 m.work ++ toLE 2 m.firstRow
    ++ toLE 2 (m.seed.toNat + 2 * m.retried.toNat + 4 * external.toNat) ++ toLE 8 m.resetWord.toNat
    ++ toLE 8 m.pos0.toNat ++ toLE 8 m.extWork.toNat ++ List.replicate 24 0

/-- The member table of a section whose members are all loaded is written, and the section is formed (R55). -/
def State.formTable (s : State) (h ser : Nat) : State :=
  match s.sect h ser with
  | none => s
  | some k =>
    if k.members.all (·.loaded) then
      let s := s.writeLocal (storeAddr h (k.table.getD 0)) (k.members.flatMap (·.record (s.bpar k.binder).external))
      s.updSect h ser (fun k => { k with phase := .formed })
    else s

/-- The states of a section's members are loaded, as far as they have arrived. -/
def State.loadMembers (s : State) (h ser : Nat) (k : Section) : State :=
  k.members.foldl (fun s m => s.loadMember h ser m) s

/-- STATE_LOAD: the states of a closed section's members reach the state store; when all have, the member table is
written and the section is formed (R54, R55, R397). -/
def execStateLoad (h : HoopId) (ser : Nat) (s : State) : Out :=
  .next (s.mainEv (fun s => match s.sect h ser with
    | none => s
    | some k => if k.phase ≠ .loading ∨ k.table.isNone then s
      else s.reading k.folios (fun s => (s.loadMembers h ser k).formTable h ser)))

/-! ### Hand-over (R58, R239) -/

/-- Hand a formed section to one core of its group: to its ST.NEXT, or by a restart at the section's binder's entry. -/
def State.handTo (s : State) (ser : Nat) (k : Section) (c : Nat) : State :=
  if s.fld R.CORE_STATUS_binder c = k.binder.toNat then s.giveSection c ser
  else
    let s := s.startCore c k.binder (((s.binder k.binder).map Binder.entry).getD 0)
    s.updCore c (fun x => { x with nextSect := some ser })

/-- A formed section runs on its group. -/
def State.handOver (s : State) (h ser : Nat) (k : Section) : State :=
  let s := s.updSect h ser (fun k => { k with phase := .running })
  let s := (k.cores h).foldl (fun s c => s.handTo ser k c) s
  s.schedStat h

/-- SECTION_HANDOVER: a formed section goes to its group, whose cores wait in ST.NEXT (R58, R239, R378). -/
def execSectionHandover (h : HoopId) (ser : Nat) (s : State) : Out :=
  .next (s.mainEv (fun s => match s.sect h ser with
    | none => s
    | some k =>
      if k.phase ≠ .formed ∨ !s.hoopOn h ∨ !((k.cores h).all (fun c => (s.core c).wait == .stNext)) then s
      else s.handOver h ser k))

/-! ### Commit (R56, R61, R86) -/

/-- The smoothing of one scale entry at commit (R86): the new entry. Both values are read under R73, and counted, before
the rule is applied, whether or not the running maximum turns out to be 0 or the entry is valid (DEDUCED, log entry 71). -/
def smoothEntry (entry maxBits : Nat) (seed : Bool) (k : Nat) : NM Nat := do
  let a ← fp16.read (maxBits % 2 ^ 16)
  let e ← fp16.read (entry % 2 ^ 16)
  if a.m = 0 then pure entry
  else
    let m := if seed ∨ !entry.testBit 16 ∨ e.le a then a else e.sub ((e.sub a).scale (-(k : Int)))
    let b ← roundUp16 m
    pure (b + 2 ^ 16)

/-- Scale entries of a working copy at commit, site by site. -/
def smoothSites (w : List Byte) (seed : Bool) (qo : Nat) : Nat → List W64 → NM (List Byte)
  | _, [] => pure []
  | q, site :: rest => do
    let old := leNat ((w.drop (64 + 4 * q)).take 4)
    let mx := leNat ((w.drop (qo + 2 * q)).take 2)
    let new ← if site.getLsbD 36 then pure old else smoothEntry old mx seed (bits site.toNat 16 4)
    let tl ← smoothSites w seed qo (q + 1) rest
    pure (toLE 4 new ++ tl)

/-- The highest set bit of a reset word below G. -/
def lastReset (w : W64) (G : Nat) : Option Nat := ((List.range G).filter (fun f => w.getLsbD f)).getLast?

/-- The committed form of a working copy: the header of Table 2-7 and the scale entries (R46, R56, R86, R396). -/
def commitState (p : Params) (sites : List W64) (m : Member) (w : List Byte) : NM (List Byte) := do
  let frames := leNat ((w.drop 4).take 4)
  let old := leNat ((w.drop 16).take 8)
  let (fr, rp) := match lastReset m.resetWord p.frames with
    | some r => (p.frames - r, m.pos0.toNat + r)
    | none => (min (frames + p.frames) 0xFFFFFFFF, old)
  let sc ← smoothSites w m.seed (maxArea p).1 0 sites
  pure (splice w 0 (headerBytes m.seq.toNat fr (m.pos0.toNat + p.frames) rp ++ sc))

/-- Records of a member with the flags common to its gathering (Tables 2-10, 2-11). -/
def Member.flags (m : Member) : BitVec 22 :=
  (if m.restart then 2 else 0) ||| (if m.invalidAudio then 0x20 else 0) ||| (if m.resetWord ≠ 0 then 0x40 else 0)
    ||| (if m.retried then 0x80 else 0) ||| (if m.seed then 0x100 else 0)

/-- What stage 9 needs to read of a member's two copies: old committed bytes and the new state. -/
def State.commitBytes (s : State) (h : Nat) (p : Params) (m : Member) : RdRes × RdRes :=
  let w := s.readLocal (storeAddr h m.work) p.copy
  if p.external then
    match w, s.readToile (256 + h) m.extWork.toNat p.size with
    | .bytes r, .bytes x => (s.readToile (256 + h) (s.pageAddr m.folio) p.size, .bytes (splice x 0 r))
    | .bytes _, x => (.bytes [], x)
    | x, _ => (.bytes [], x)
  else (s.committed h m.folio, w)

/-- Where the new state of a member cannot be read (R331): the first place, if any, in its working copy or in the copy of its
page that the program wrote. -/
def State.commitBad (s : State) (h : Nat) (p : Params) (m : Member) : Option Nat :=
  match s.readLocal (storeAddr h m.work) p.copy, (s.commitBytes h p m).2 with
  | .bytes _, .bytes _ => none
  | .bytes _, .need _ => none
  | .bytes _, _ => some (match s.locate m.extWork.toNat with
      | .here o => localAddr ((s.badWords o p.size).headD o)
      | .there _ _ => m.extWork.toNat)
  | _, _ => some (localAddr ((s.sramBad (storeAddr h m.work) p.copy).headD (storeAddr h m.work)))

/-- The checks that stage 9's reads of a member's copies make; an old committed copy that is lost restarts the folio with its
next gathering, and the delta is sent FULL (R331, R397). -/
def State.commitCheck (s : State) (h : Nat) (p : Params) (m : Member) : State :=
  let bad := match (s.commitBytes h p m).1 with | .ecc => true | _ => false
  let s := s.sramCheck (storeAddr h m.work) p.copy
  let s := if p.external then (s.touched m.extWork.toNat p.size).touched (s.pageAddr m.folio) p.size
           else s.committedCheck m.folio p.copy
  if bad then s.restartNext m.folio else s

/-- Stage 9 for one member (R55, R61): header, committed copy, delta, directory fields. -/
def State.commitMember (s : State) (h : Nat) (k : Section) (b : Binder) (m : Member) : State :=
  let p := b.par
  let n := m.folio
  if (s.ent n).st ≠ .active then s
  else match s.commitBytes h p m with
  | (oldR, .bytes w) =>
    let s := s.commitCheck h p m
    let old := match oldR with | .bytes x => x | _ => []
    let (new, c) := (commitState p b.sites m w).run {}
    let c0 := 8 * h + k.core0
    let s := (s.count R.CORE_NUM_SAT_count c.sat c0).count R.CORE_NUM_NAN_count c.nan c0
    let s := if p.external then
        let s := (s.dropRemote (256 + h) m.extWork.toNat p.size).dropRemote (256 + h) (s.pageAddr n) p.size
        let s := s.writeToile (.fol n) m.extWork.toNat (new.take p.resSize)
        s.updEnt n (fun e => { e with extCopy := !e.extCopy })
      else
        let s := s.writeLocal (storeAddr h m.work) new
        (s.updEnt n (fun e => { e with resident := true, storeSlot := BitVec.ofNat 14 (m.work / 256) })).updFol n
          (fun f => { f with dirty := f.dirty || decide (new ≠ old) })
    let s := m.commitWrites.foldl (fun s x => s.writeToile (.fol n) x.1 x.2) s
    let s := if m.resetReq then s.updEnt n (fun e => { e with resetPending := true }) else s
    let next := BitVec.ofNat 32 (m.first.toNat + p.gh)
    let full := (s.fol n).line.needFull || decide (old.length ≠ new.length)
    let msg := (m.seq, next, full, crc32c new, if full then new else encodeDelta old new)
    s.updFol n (fun f => { f with
      lastUsed := s.now,
      line := if (s.ent n).lined ∨ f.line.setLined then { f.line with unacked := some msg, needFull := false } else f.line,
      flight := f.flight.map (fun g => { g with recs := m.recs, flags := m.flags }) })
  | _ => s

/-- Remote bytes that stage 9 still needs. -/
def State.commitNeeds (s : State) (h : Nat) (p : Params) (k : Section) : List Nat :=
  k.members.flatMap (fun m => match s.commitBytes h p m with
    | (.need a, .need b) => a ++ b
    | (.need a, _) => a
    | (_, .need b) => b
    | _ => [])

/-- Stage 9 may start: every core has issued ST.COMMIT, its dispatched work is done, its shadow checks have ended, and
at least 2 ms of lease remain (R61, R272, R334). -/
def State.commitReady (s : State) (h : Nat) (k : Section) : Bool :=
  k.phase == .commitWait
    && (k.cores h).all (fun c => let x := s.core c
        x.mm.isEmpty && x.rc.isEmpty && x.vx.isEmpty && x.at'.isEmpty && x.dm.isEmpty && x.shadowRun.isNone
          && x.deferred.isNone && s.settled c)
    && (s.bit R.TOILE_QUORUM_standalone || decide (s.now + 2000000 ≤ s.fld R.TOILE_LEASE_EXP_expiry))

/-- A new state that stage 9 cannot read: every word that it reads is checked, ST.COMMIT of the group's lowest core raises
ECC_UNCORR, and the section is abandoned (R50, R329 to R331). -/
def State.commitFault (s : State) (h : Nat) (k : Section) (p : Params) (a : Nat) : State :=
  let c := 8 * h + k.core0
  let s := k.members.foldl (fun s m => s.commitCheck h p m) s
  s.takeFault c (s.core c).pc (s.core c).waitWord { code := fEcc, info := a, atIssue := false }

/-- Stage 9 of a section starts once the bytes it needs are there (R61). -/
def State.commitStart (s : State) (h : HoopId) (ser : Nat) (k : Section) (b : Binder) : State :=
  let need := s.commitNeeds h b.par k
  if need ≠ [] then s.askLines (.hoop h) need
  else
    match k.members.findSome? (s.commitBad h b.par) with
    | some a => s.commitFault h k b.par a
    | none =>
      let s := k.members.foldl (fun s m => s.commitMember h k b m) s
      s.updSect h ser (fun k => { k with phase := .committing })

/-- SECTION_COMMIT: stage 9 starts (R61); on a device that has fenced, the section is abandoned without a retry (R51). -/
def execSectionCommit (h : HoopId) (ser : Nat) (s : State) : Out :=
  .next (s.mainEv (fun s => match s.sect h ser with
    | none => s
    | some k =>
      if k.phase = .commitWait ∧ s.fenced then s.abandonFenced h k
      else if !s.commitReady h k then s
      else match s.binder k.binder with
        | none => s
        | some b => s.reading k.folios (fun s => s.commitStart h ser k b)))

/-- A member's gathering after stage 9: its delta goes to lining, or it is eligible for release (R14, R61, R268). -/
def State.commitDone (s : State) (m : Member) : State :=
  let n := m.folio
  let e := s.ent n
  if e.st ≠ .active then s
  else
    let s := match (s.fol n).line.unacked with
      | some (seq, next, full, c, dat) =>
        if s.fenced then s else
        let msg : Note := if full then .lineFull n seq next c dat else .lineDelta n seq next c dat
        (s.post e.partner.toNat 2 msg).updFol n (fun f => { f with line := { f.line with sentAt := s.now } })
      | none => s
    let waits := e.lined || (s.fol n).line.setLined
    let s := s.updFol n (fun f => { f with flight := f.flight.map (fun g => { g with committed := true, waitLine := waits }) })
    if waits then s else { s with releases := s.releases ++ [n] }

/-- A core's ST.COMMIT retires: it leaves the section and goes on, with no fault streak (R61, R127). -/
def State.commitCore (s : State) (c : Nat) : State :=
  ((s.leaveSection c).updCore c (fun x => { x with wait := .none, pc := x.pc + 8 })).put R.CORE_FAULT_streak 0 c

/-- Stage 9 of a section has ended. -/
def State.commitEnd (s : State) (h ser : Nat) (k : Section) : State :=
  let s := (k.cores h).foldl (fun s c => s.commitCore c) s
  let s := (s.stallEvent h k).updHoop h (fun x => { x with sections := x.sections.filter (fun y => y.serial ≠ ser), idleSince := s.now })
  let s := s.count R.HOOP_SECTIONS_count 1 h
  let s := k.members.foldl (fun s m => s.commitDone m) s
  (s.schedStat h).drainStat h

/-- COMMIT_COMPLETE: stage 9 ends and ST.COMMIT retires on every core (R61, R127, R231). -/
def execCommitComplete (h : HoopId) (ser : Nat) (s : State) : Out :=
  .next (s.mainEv (fun s => match s.sect h ser with
    | none => s
    | some k => if k.phase ≠ .committing then s else s.reading k.folios (fun s => s.commitEnd h ser k)))

end Sys2Proof.Machine
end

