-- ==== Sys2Proof/Machine/Flags.lean ====
section
/-! DEFINITION. The flags register of a core: its bits and the computations that set them (R95, Table 4-2). An instruction
only sets a flag; SC.CLF, ST.NEXT and a resume clear them. -/
namespace Sys2Proof.Machine

/-- Bits of the flags register (Table 4-2). -/
def flagEmpty : Nat := 0
def flagPermRange : Nat := 1
def flagEmitOver : Nat := 2
def flagCommitRefused : Nat := 3

/-- Set flags.empty when a condition holds: a zero bound, or a reduction or compression of no lane (R103, R180, R182). -/
def emptyIf (c : CoreId) (b : Bool) : M Unit := if b then setFlag c flagEmpty else pure ()

/-- n lanes of a permutation named an index out of range: flags.perm_range and COREc_VX_PERM_RANGE (R181). -/
def permRange (c : CoreId) (n : Nat) : M Unit := do
  if n ≠ 0 then setFlag c flagPermRange
  modify (fun s => s.count R.CORE_VX_PERM_RANGE_count n c)

end Sys2Proof.Machine
end

