-- ==== Sys2Proof/Machine/Vector.lean ====
section
/-! DEFINITION. The VX instructions: lanes, masks, transcendentals, reductions, row maps, quantisation and the Hadamard
transform (R173 to R190). -/
namespace Sys2Proof.Machine

/-- Class of the VX instructions (Table 4-3). -/
def clsVX : Nat := 3

/-! ### Fields (R174, R175, Tables 7-1 and 7-3) -/

def vxMask (o : BitVec 52) : Nat := mOf (bits o.toNat 24 5)
def vxMasked (o : BitVec 52) : Bool := o.getLsbD 23
def vxFmt (o : BitVec 52) : Nat := bits o.toNat 19 4
def vxF (o : BitVec 52) : Nat := bits o.toNat 14 5

/-- Bits zero in every VX instruction: [13:0], and the low bits of an m register's field. -/
def zVX : Nat := zbits 13 0
def zMaskReg : Nat := zbits 25 24
/-- Fields that an instruction does not use. -/
def zFldC : Nat := zbits 41 37
def zFldD : Nat := zbits 36 29
def zFldF : Nat := zbits 18 14
/-- mask, masked and format of a tensor instruction (R174). -/
def zLane : Nat := zbits 28 19

/-- Lane formats of Table 7-3. -/
def fmtFloat (f : Nat) : Bool := f == 8 || f == 7 || f == 6
def fmtInt (f : Nat) : Bool := f == 0xA || f == 9 || f == 3 || f == 4
def fmtLane (f : Nat) : Bool := fmtFloat f || fmtInt f

/-! ### Lanes and masks (R94, R176, R177) -/

/-- Lanes of a width. -/
def lanesOf (w : Nat) : Nat := 2048 / w

/-- The lanes of a register at a width. -/
def lanes (w : Nat) (v : BitVec 2048) : Array Nat := ((List.range (lanesOf w)).map (fun i => bits v.toNat (w * i) w)).toArray

/-- A register of lanes at a width. -/
def ofLanes (w : Nat) (l : List Nat) : BitVec 2048 := BitVec.ofNat 2048 (l.foldr (fun x v => x % 2 ^ w + 2 ^ w * v) 0)

/-- The governing bit of lane i at width w (R94). -/
def governs (m : BitVec 256) (w i : Nat) : Bool := m.getLsbD (w / 8 * i)

/-- The lanes that are active under an instruction's mask (R177). -/
def activeLanes (c : CoreId) (ops : BitVec 52) (w : Nat) : M (Nat → Bool) := do
  let m ← getM c (vxMask ops)
  pure (if vxMasked ops then governs m w else fun _ => true)

/-- An element's result: rounded, or clamped, to a format (R71, R72, R176). -/
def toElem (f : Nat) (d : Dy) : NM Nat :=
  match floatFmt f with
  | some F => F.round d
  | none => do
    let (lo, hi) := intRange f
    let x ← clampNM lo hi d.rne
    pure (code (elemBits f) x)

/-- Issue a VX instruction that works on lanes: a room in the queue, the work, the dispatch (R104, R173). -/
def vxGo (c : CoreId) (w : W64) (m : M Unit) : M Unit := do
  queueRoom c .vx
  m
  dispatchWork c .vx w {}

/-- The work of a lane instruction at issue: its formats are those it takes, then its lanes (R176). -/
def laneWork (c : CoreId) (w : W64) (ok : Bool) (m : M Unit) : M Unit := do
  fltIf (!ok) fIllegal
  vxGo c w m

/-- A lane instruction: the encoding's zero bits `z` beside those of every lane instruction, its formats, its work. -/
def laneOp (c : CoreId) (op : Nat) (ops : BitVec 52) (z : Nat) (ok : Nat → Bool) (m : M Unit) (s : State) : Out :=
  let w := word clsVX op ops
  .next (s.issue c w (zVX ||| zMaskReg ||| z) (thenNext c (laneWork c w (ok (vxFmt ops)) m)))

/-- The destination of a lane instruction, read where lanes of it stay as they are (R177, R190). -/
def oldLanes (c : CoreId) (ops : BitVec 52) : M (BitVec 2048) := if vxMasked ops then getV c (fldA ops) else peekV c (fldA ops)

/-- Write lanes of vd: the active ones take f, the others keep their value (R177). -/
def mapLanes (c : CoreId) (ops : BitVec 52) (f : Nat → Nat → NM Nat) : M Unit := do
  let w := elemBits (vxFmt ops)
  let act ← activeLanes c ops w
  let old ← oldLanes c ops
  let o := lanes w old
  let l ← nm c ((List.range (lanesOf w)).mapM (fun i => if act i then f i (o.getD i 0) else pure (o.getD i 0)))
  setV c (fldA ops) (ofLanes w l)

/-- A lane's result: in BF16 and FP16 lanes the operation is performed in FP32, and what it gives is rounded to the lane
format; a lane counts one saturation (R70, R74, R176; log entry 74). -/
def laneOut (f : Nat) (d : Dy) : NM Nat := toElem f (if f = 7 ∨ f = 6 then ((fl32 d).run {}).1 else d)

/-- Arithmetic on numbers: each active lane reads its operands under R73, operates once and rounds (R176). -/
def arith (f : Nat) (g : Dy → Dy → NM Dy) (a b : Nat) : NM Nat := do
  let x ← readElem f a
  let y ← readElem f b
  laneOut f (← g x y)

/-- The work of a two-operand lane instruction of Table 7-2. -/
def workBin (c : CoreId) (ops : BitVec 52) (g : Dy → Dy → NM Dy) : M Unit := do
  let w := elemBits (vxFmt ops)
  let a ← getV c (fldB ops)
  let b ← getV c (fldC ops)
  let la := lanes w a
  let lb := lanes w b
  mapLanes c ops (fun i _ => arith (vxFmt ops) g (la.getD i 0) (lb.getD i 0))

/-- A two-operand lane instruction of Table 7-2. -/
def binOp (c : CoreId) (op : Nat) (ops : BitVec 52) (g : Dy → Dy → NM Dy) (s : State) : Out :=
  laneOp c op ops (zFldD ||| zFldF) fmtLane (workBin c ops g) s

/-- The difference (R73). -/
def subNM (a b : Dy) : NM Dy := addNM a b.negate
/-- The larger, the first when equal (Table 7-2). -/
def larger (a b : Dy) : NM Dy := pure (if a.lt b then b else a)
/-- The smaller, the first when equal. -/
def smaller (a b : Dy) : NM Dy := pure (if b.lt a then b else a)

/-- VX.ADD (R176). -/
def execVxAdd (c : CoreId) (ops : BitVec 52) (s : State) : Out := binOp c 0x01 ops addNM s
/-- VX.SUB (R176). -/
def execVxSub (c : CoreId) (ops : BitVec 52) (s : State) : Out := binOp c 0x02 ops subNM s
/-- VX.MUL (R176). -/
def execVxMul (c : CoreId) (ops : BitVec 52) (s : State) : Out := binOp c 0x03 ops mulNM s
/-- VX.MAX (R176). -/
def execVxMax (c : CoreId) (ops : BitVec 52) (s : State) : Out := binOp c 0x05 ops larger s
/-- VX.MIN (R176). -/
def execVxMin (c : CoreId) (ops : BitVec 52) (s : State) : Out := binOp c 0x06 ops smaller s

/-- The work of VX.FMA at issue. -/
def workVxFma (c : CoreId) (ops : BitVec 52) : M Unit := do
    let f := vxFmt ops
    let w := elemBits f
    let a ← getV c (fldB ops)
    let b ← getV c (fldC ops)
    let d ← getV c (fldA ops)
    let la := lanes w a
    let lb := lanes w b
    let ld := lanes w d
    mapLanes c ops (fun i _ => do
      let x ← readElem f (la.getD i 0)
      let y ← readElem f (lb.getD i 0)
      let z ← readElem f (ld.getD i 0)
      laneOut f (← addNM (← mulNM x y) z))

/-- VX.FMA: the product is not rounded (R176, Table 7-2). -/
def execVxFma (c : CoreId) (ops : BitVec 52) (s : State) : Out :=
  laneOp c 0x04 ops (zFldD ||| zFldF) fmtFloat (workVxFma c ops) s

/-- The work of VX.ABS at issue. -/
def workVxAbs (c : CoreId) (ops : BitVec 52) : M Unit := do
    let f := vxFmt ops
    let a ← getV c (fldB ops)
    let la := lanes (elemBits f) a
    mapLanes c ops (fun i _ => do let x ← readElem f (la.getD i 0); laneOut f x.abs)

/-- VX.ABS (R176). -/
def execVxAbs (c : CoreId) (ops : BitVec 52) (s : State) : Out :=
  laneOp c 0x07 ops (zFldC ||| zFldD ||| zFldF) fmtLane (workVxAbs c ops) s

/-- A bitwise function of two lanes (Table 7-2). -/
def logOp (op a b : Nat) : Nat :=
  match op with
  | 0 => a &&& b
  | 1 => a ||| b
  | 2 => a ^^^ b
  | _ => a ^^^ (a &&& b)

/-- The work of VX.LOG at issue. -/
def workVxLog (c : CoreId) (ops : BitVec 52) : M Unit := do
    let w := elemBits (vxFmt ops)
    let a ← getV c (fldB ops)
    let b ← getV c (fldC ops)
    let la := lanes w a
    let lb := lanes w b
    mapLanes c ops (fun i _ => pure (logOp (fldD ops) (la.getD i 0) (lb.getD i 0)))

/-- VX.LOG (R175, R176). -/
def execVxLog (c : CoreId) (ops : BitVec 52) (s : State) : Out :=
  laneOp c 0x08 ops (zbits 36 31 ||| zFldF) fmtInt (workVxLog c ops) s

/-- A shift of a w-bit lane (Table 7-2). -/
def shfOp (op w a n : Nat) : Nat :=
  match op with
  | 0 => a * 2 ^ n % 2 ^ w
  | 1 => a / 2 ^ n
  | _ => code w (sext w a / 2 ^ n)

/-- The work of VX.SHF at issue. -/
def workVxShf (c : CoreId) (ops : BitVec 52) : M Unit := do
    let w := elemBits (vxFmt ops)
    let a ← getV c (fldB ops)
    let b ← getV c (fldC ops)
    let la := lanes w a
    let lb := lanes w b
    mapLanes c ops (fun i _ => pure (shfOp (fldD ops) w (la.getD i 0) (lb.getD i 0 % w)))

/-- VX.SHF (R175, R176). -/
def execVxShf (c : CoreId) (ops : BitVec 52) (s : State) : Out :=
  laneOp c 0x09 ops (zbits 36 31 ||| zFldF) (fun f => fmtInt f && fldD ops != 3) (workVxShf c ops) s

/-- A comparison (Table 7-2). -/
def cmpOp (cc : Nat) (a b : Dy) : Bool :=
  match cc with
  | 0 => !a.lt b && !b.lt a
  | 1 => a.lt b || b.lt a
  | 2 => a.lt b
  | 3 => !b.lt a
  | 4 => b.lt a
  | _ => !a.lt b

/-- A mask register from results by lane; every other bit is 0 (R177). -/
def ofGoverning (w : Nat) (l : List Bool) : BitVec 256 :=
  BitVec.ofNat 256 (l.foldr (fun b v => b.toNat + 2 ^ (w / 8) * v) 0)

/-- The work of VX.CMP at issue. -/
def workVxCmp (c : CoreId) (ops : BitVec 52) : M Unit := do
    let f := vxFmt ops
    let w := elemBits f
    let act ← activeLanes c ops w
    let a ← getV c (fldB ops)
    let b ← getV c (fldC ops)
    let la := lanes w a
    let lb := lanes w b
    let l ← nm c ((List.range (lanesOf w)).mapM (fun i =>
      if act i then do
        let x ← readElem f (la.getD i 0)
        let y ← readElem f (lb.getD i 0)
        pure (cmpOp (fldD ops) x y)
      else pure false))
    setM c (mOf (fldA ops)) (ofGoverning w l)

/-- VX.CMP (R176, R177). -/
def execVxCmp (c : CoreId) (ops : BitVec 52) (s : State) : Out :=
  laneOp c 0x0A ops (zbits 48 47 ||| zbits 36 32 ||| zFldF) (fun f => fmtLane f && decide (fldD ops < 6)) (workVxCmp c ops) s

/-- The work of VX.SEL at issue. -/
def workVxSel (c : CoreId) (ops : BitVec 52) : M Unit := do
    let w := elemBits (vxFmt ops)
    let m ← getM c (vxMask ops)
    let a ← getV c (fldB ops)
    let b ← getV c (fldC ops)
    let la := lanes w a
    let lb := lanes w b
    setV c (fldA ops) (ofLanes w ((List.range (lanesOf w)).map (fun i => if governs m w i then la.getD i 0 else lb.getD i 0)))

/-- VX.SEL: the mask is the selector (R175, Table 7-2). -/
def execVxSel (c : CoreId) (ops : BitVec 52) (s : State) : Out :=
  laneOp c 0x0B ops (zFldD ||| zFldF) (fun f => fmtLane f && vxMasked ops) (workVxSel c ops) s

/-- The work of VX.SPLAT at issue. -/
def workVxSplat (c : CoreId) (ops : BitVec 52) : M Unit := do
    let a ← getS c (fldB ops)
    mapLanes c ops (fun _ _ => pure (a.toNat % 2 ^ elemBits (vxFmt ops)))

/-- VX.SPLAT (R175). -/
def execVxSplat (c : CoreId) (ops : BitVec 52) (s : State) : Out :=
  laneOp c 0x0C ops (zFldC ||| zFldD ||| zFldF) fmtLane (workVxSplat c ops) s

/-- The work of VX.IOTA at issue. -/
def workVxIota (c : CoreId) (ops : BitVec 52) : M Unit := do
    let a ← getS c (fldB ops)
    mapLanes c ops (fun i _ => pure ((a.toNat + i) % 2 ^ elemBits (vxFmt ops)))

/-- VX.IOTA (R175). -/
def execVxIota (c : CoreId) (ops : BitVec 52) (s : State) : Out :=
  laneOp c 0x0D ops (zFldC ||| zFldD ||| zFldF) fmtInt (workVxIota c ops) s

/-- Formats that VX.CVT converts between (Table 7-3). -/
def fmtCvt (f : Nat) : Bool := fmtLane f || f == 5

/-- The part of VX.CVT is in its range (R178). -/
def vxPartOk (ws wd p : Nat) : Bool :=
  if wd < ws then decide (p < ws / wd) else if ws < wd then decide (p < wd / ws) else p == 0

/-- The work of VX.CVT at issue. -/
def workVxCvt (c : CoreId) (ops : BitVec 52) : M Unit :=
  let fs := vxFmt ops
  let fd := fldD ops % 16
  let p := bits (fldD ops) 4 2
  let ws := elemBits fs
  let wd := elemBits fd
  do
    let act ← activeLanes c ops wd
    let a ← getV c (fldB ops)
    let old ← if ws ≤ wd then oldLanes c ops else getV c (fldA ops)
    let la := lanes ws a
    let lo := lanes wd old
    let first := if wd < ws then p * lanesOf ws else 0
    let skip := if ws < wd then p * lanesOf wd else 0
    let n := min (lanesOf ws) (lanesOf wd)
    let l ← nm c ((List.range (lanesOf wd)).mapM (fun i =>
      if act i && decide (first ≤ i) && decide (i < first + n) then do
        let x ← readElem fs (la.getD (i - first + skip) 0)
        toElem fd x
      else pure (lo.getD i 0)))
    setV c (fldA ops) (ofLanes wd l)

/-- VX.CVT (R178). -/
def execVxCvt (c : CoreId) (ops : BitVec 52) (s : State) : Out :=
  let fs := vxFmt ops
  let fd := fldD ops % 16
  let p := bits (fldD ops) 4 2
  let ws := elemBits fs
  let wd := elemBits fd
  laneOp c 0x0E ops (zFldC ||| zbits 36 35 ||| zFldF) (fun f => fmtCvt f && fmtCvt fd && vxPartOk ws wd p) (workVxCvt c ops) s

/-! ### VX.FN (R179, Table 7-4) -/

/-- The largest finite value of a lane format, with one saturation. -/
def satLane (F : Fmt) (neg : Bool) : NM Nat := do
  satTick
  pure (F.maxBits + (if neg then 2 ^ (F.eb + F.fb) else 0))

/-- A NaN result: +0, with one NaN (R73). -/
def nanLane : NM Nat := do
  nanTick
  pure 0

/-- -126 ln 2, below which e^x lies below the normal range of FP32. -/
def expLow : Dy := { neg := true, m := 96027546483012, e := -40 }

/-- One lane of VX.FN: the special operands of Table 7-4, else the device's value rounded once to the lane format. x σ(x)
and x Φ(x) of a negative x that round to zero give the negative zero (R70). -/
def fnLane (fn : Nat) (F : Fmt) (x : Dy) : NM Nat :=
  let dev : NM Nat := F.round (devFn fn x)
  let z0 : Nat := if x.neg then 2 ^ (F.eb + F.fb) else 0
  let neg := x.neg && x.m != 0
  match fn with
  | 0 =>
    if (Dy.ofInt 8872).lt (x.mul (Dy.ofInt 100)) then satLane F false
    else if x.lt expLow then pure 0
    else dev
  | 1 => if x.m = 0 then satLane F true else if neg then nanLane else dev
  | 2 =>
    if x.m = 0 then satLane F x.neg
    else if (fp32.val fp32.maxBits).lt ((Dy.ofInt 1).quot x.abs) then satLane F x.neg
    else dev
  | 3 => if x.m = 0 then satLane F false else if neg then nanLane else dev
  | 4 => if neg then nanLane else if x.m = 0 then pure z0 else dev
  | 5 => dev
  | 6 => if x.m = 0 then pure z0 else dev
  | _ => if x.m = 0 then pure z0 else do let r ← dev; pure (if r = 0 then z0 else r)

/-- The work of VX.FN at issue. -/
def workVxFn (c : CoreId) (ops : BitVec 52) : M Unit := do
    let f := vxFmt ops
    let a ← getV c (fldB ops)
    let la := lanes (elemBits f) a
    mapLanes c ops (fun i o => match floatFmt f with
      | some F => do let x ← readElem f (la.getD i 0); fnLane (fldD ops) F x
      | none => pure o)

/-- VX.FN (R179). -/
def execVxFn (c : CoreId) (ops : BitVec 52) (s : State) : Out :=
  laneOp c 0x10 ops (zFldC ||| zbits 36 33 ||| zFldF) (fun f => fmtFloat f && decide (fldD ops < 9)) (workVxFn c ops) s

/-! ### Compress, expand, permute (R180, R181) -/

/-- The work of VX.CMPR at issue. -/
def workVxCmpr (c : CoreId) (ops : BitVec 52) : M Unit := do
    let w := elemBits (vxFmt ops)
    let act ← activeLanes c ops w
    let a ← getV c (fldB ops)
    let la := lanes w a
    let l := ((List.range (lanesOf w)).filter act).map (fun i => la.getD i 0)
    setV c (fldA ops) (ofLanes w l)
    setS c (vxF ops) (BitVec.ofNat 64 l.length)
    emptyIf c (l.length == 0)

/-- VX.CMPR (R180). -/
def execVxCmpr (c : CoreId) (ops : BitVec 52) (s : State) : Out :=
  laneOp c 0x11 ops (zFldC ||| zFldD) (fun f => fmtLane f && vxMasked ops) (workVxCmpr c ops) s

/-- The number of active lanes below lane i. -/
def rank (act : Nat → Bool) (i : Nat) : Nat := ((List.range i).filter act).length

/-- The work of VX.EXPD at issue. -/
def workVxExpd (c : CoreId) (ops : BitVec 52) : M Unit := do
    let w := elemBits (vxFmt ops)
    let act ← activeLanes c ops w
    let a ← getV c (fldB ops)
    let la := lanes w a
    mapLanes c ops (fun i _ => pure (la.getD (rank act i) 0))

/-- VX.EXPD (R180). -/
def execVxExpd (c : CoreId) (ops : BitVec 52) (s : State) : Out :=
  laneOp c 0x12 ops (zFldC ||| zFldD ||| zFldF) (fun f => fmtLane f && vxMasked ops) (workVxExpd c ops) s

/-- The work of VX.PERM at issue. -/
def workVxPerm (c : CoreId) (ops : BitVec 52) : M Unit := do
    let w := elemBits (vxFmt ops)
    let n := lanesOf w
    let act ← activeLanes c ops w
    let a ← getV c (fldB ops)
    let b ← getV c (fldC ops)
    let la := lanes w a
    let lb := lanes w b
    mapLanes c ops (fun i _ => pure (if lb.getD i 0 < n then la.getD (lb.getD i 0) 0 else 0))
    permRange c ((List.range n).filter (fun i => act i && decide (n ≤ lb.getD i 0))).length

/-- VX.PERM (R181). -/
def execVxPerm (c : CoreId) (ops : BitVec 52) (s : State) : Out :=
  laneOp c 0x13 ops (zFldD ||| zFldF) fmtLane (workVxPerm c ops) s

/-! ### VX.RED (R182, R183) -/

/-- One level of the reduction tree: adjacent results combined, the left one first. -/
def treeLevel {α : Type} (f : α → α → NM α) : List α → NM (List α)
  | a :: b :: l => do
    let x ← f a b
    let r ← treeLevel f l
    pure (x :: r)
  | l => pure l

/-- The reduction tree over its levels. -/
def tree {α : Type} (f : α → α → NM α) : Nat → List α → NM (List α)
  | 0, l => pure l
  | n + 1, l => do
    let r ← treeLevel f l
    tree f n r

/-- Choose of two optional lanes, the first when neither is better. -/
def pickLane (better : Dy → Dy → Bool) (a b : Option (Nat × Dy)) : Option (Nat × Dy) :=
  match a, b with
  | some x, some y => if better y.2 x.2 then some y else some x
  | some x, none => some x
  | none, y => y

/-- The 32-bit result of a reduction of lanes; `none` marks an inactive lane. -/
def reduce (op : Nat) (float : Bool) (l : List (Option (Nat × Dy))) (pad : Nat) : NM Nat := do
  let out (d : Dy) : NM Nat := if float then fp32.round d else toElem 0xA d
  match op with
  | 0 =>
    if float then do
      let r ← tree (fun a b => fl32 (a.add b)) 8 (l.map (fun x => (x.map (·.2)).getD Dy.zero))
      out (r.headD Dy.zero)
    else out (l.foldl (fun a x => a.add ((x.map (·.2)).getD Dy.zero)) Dy.zero)
  | _ =>
    let better (y x : Dy) : Bool := if op = 2 then y.lt x else x.lt y
    let r ← tree (fun a b => pure (pickLane better a b)) 8 l
    match r.headD none with
    | some (i, d) => if op = 3 then pure i else out d
    | none =>
      if op = 3 then pure 0xFFFF
      else if float then do let d ← bf16.read pad; fp32.round d
      else pure (code 32 (sext 16 pad))

/-- The work of VX.RED at issue. -/
def workVxRed (c : CoreId) (ops : BitVec 52) : M Unit :=
  let op := fldD ops % 4
  do
    let f := vxFmt ops
    let w := elemBits f
    let N := lanesOf w
    let cnt ← getS c (fldC ops)
    let n := if fldC ops = 0 then N else cnt.toNat
    fltIf (decide (N < n)) fBound n (operand := 2)
    let act ← activeLanes c ops w
    let a ← getV c (fldB ops)
    let la := lanes w a
    let tp ← getT c (tOf (vxF ops))
    let on (i : Nat) : Bool := act i && decide (i < n)
    let r ← nm c (do
      let l ← (List.range N).mapM (fun i => if on i then do let d ← readElem f (la.getD i 0); pure (some (i, d)) else pure none)
      reduce op (fmtFloat f) l (descOf tp).pad)
    let old ← getV c (fldA ops)
    let lo := lanes 32 old
    setV c (fldA ops) (ofLanes 32 ((List.range 64).map (fun i => if i = fldD ops / 4 then r else lo.getD i 0)))
    emptyIf c (!(List.range N).any on)

/-- VX.RED (R182, R183). -/
def execVxRed (c : CoreId) (ops : BitVec 52) (s : State) : Out :=
  let op := fldD ops % 4
  laneOp c 0x14 ops (if op = 0 ∨ op = 3 then zFldF else zbits 14 14) fmtLane (workVxRed c ops) s

/-! ### Row maps, gather and scatter (R184, R185) -/

/-- Row of a map that lies outside row0 and U, or the section (R184). -/
def badRow (row0 U : Nat) (rows : Option Nat) (v : Nat) : Bool :=
  decide (v < row0) || decide (U ≤ v - row0) || (match rows with | some r => decide (r ≤ v) | none => false)

/-- Read a row map's first entries at issue and check them (R184). A map with a zero bound has made the instruction a no-op before
(R103, log entry 74). -/
def readMap (c : CoreId) (tr : Tens) (nr row0 U : Nat) (rows : Option Nat) : M (List Nat) := do
  fltIf (decide (tr.n 0 < nr)) fBound (tr.n 0) true 0 2
  let (l, bad) ← readRanges c tr.d [(tr.d.base, 2 * nr)]
  match bad with
  | some f => fun _ => .error (.flt { f with atIssue := true, operand := lateOp })
  | none => pure ()
  let vs := unpack 16 (l.headD []) nr
  match vs.find? (badRow row0 U rows) with
  | some v => flt fBound v (operand := 2)
  | none => pure vs

/-- The map's entries where the map and the bounds are sound (R122, R184). -/
def mapK (c : CoreId) (tr : Tens) (nr row0 U : Nat) (rows : Option Nat) : K (List Nat) := do
  if tr.known && (← soundAt 2) then gather 2 (readMap c tr nr row0 U rows) (fun _ => []) else pure []

/-- The map operand: kind 2, INT16 (R184). -/
def mapKind (t : Tens) : M Unit := do
  fltIf (t.d.kind ≠ 2) fDesc 52 (operand := 2)
  fltIf (t.d.fmt ≠ 9) fDesc 55 (operand := 2)

/-- The operands of VX.ROWG and VX.ROWS, with the map's rows less row0. -/
structure RowOps where
  td : Tens
  ta : Tens
  rows : List Nat
  /-- an operand has a zero bound, and the instruction retires as a no-op (R103) -/
  noop : Bool
deriving DecidableEq, Repr

/-- The issue checks of VX.ROWG and, with `scatter`, of VX.ROWS (R185). -/
def rowCheck (c : CoreId) (ops : BitVec 52) (scatter : Bool) : M RowOps := ranked do
  let td ← evalK c (tOf (fldA ops)) 0 true
  let ta ← evalK c (tOf (fldB ops)) 1 false
  let tr ← evalK c (tOf (fldC ops)) 2 false
  chkIf (td.d.kind ≠ 2 ∧ td.d.kind ≠ 3) fDesc 52 (operand := 0)
  chkIf (ta.d.kind ≠ 2 ∧ ta.d.kind ≠ 3) fDesc 52 (operand := 1)
  chkIf (td.d.fmt ≠ ta.d.fmt) fDesc 55 (operand := 1)
  chkIf (td.d.capAt 3 ≠ 1) fDesc 203 (operand := 0)
  chkIf (ta.d.capAt 3 ≠ 1) fDesc 203 (operand := 1)
  chk 2 (mapKind tr)
  let s ← getThe State
  chkIf (overlaps s c td.d ta.d) fDesc td.d.base (operand := 0)
  let v ← getS c (vxF ops)
  chk 3 (fltIf (decide (2 ^ 10 ≤ v.toNat)) fBound v.toNat)
  unlessNoop [td, ta, tr] (chkBIf [td, ta] (td.elems ≠ ta.elems) ta.elems 0 1)
  allocK c td 0
  let (nr, U) := if scatter then (ta.n 1, td.n 1) else (td.n 1, ta.n 1)
  let noop := [td, ta, tr].any (·.empty)
  let vs ← if noop || !td.known || !ta.known then pure [] else mapK c tr nr v.toNat U none
  pure { td := td, ta := ta, rows := vs.map (· - v.toNat), noop := noop }

/-- Elements of row i of an operand whose rows have been read. -/
def rowOf (f : Nat → Nat → Nat) (n i : Nat) : List Nat := (List.range n).map (f i)

/-- Row i of the destination takes the row of the source that the map's entry i names. -/
def rowgWork (c : CoreId) (w : W64) (o : RowOps) : M Work := do
  let (src, bad) ← readRowsAt c o.ta o.rows
  (List.zip (List.range o.rows.length) o.rows).forM (fun p => writeElems c w o.td p.1 (rowOf src o.td.elems p.2))
  pure { fault := bad, defer := true }

/-- The work of VX.ROWG at issue. -/
def workVxRowg (c : CoreId) (ops : BitVec 52) : M Unit :=
  let w := word clsVX 0x23 ops
  do
    let o ← rowCheck c ops false
    rcGo c .vx w o.noop (rowgWork c w o)

/-- VX.ROWG (R184, R185). -/
def execVxRowg (c : CoreId) (ops : BitVec 52) (s : State) : Out :=
  let w := word clsVX 0x23 ops
  .next (s.issue c w (zVX ||| zT ||| zTB ||| zTC ||| zFldD ||| zLane) (thenNext c (workVxRowg c ops)))

/-- The destination row that the map's entry i names takes row i of the source; with `pad` the rows that none names take
the padding. -/
def rowsWork (c : CoreId) (w : W64) (o : RowOps) (pad : Bool) : M Work := do
  let (src, bad) ← readRows c o.ta (o.ta.n 1)
  let fill := if pad then (List.range (o.td.n 1)).filter (fun u => !o.rows.contains u) else []
  fill.forM (fun u => do
    let l ← (List.range o.td.elems).mapM (fun _ => nm c (padElem o.td.d.fmt o.td.d.pad))
    writeElems c w o.td u l)
  (List.zip (List.range o.rows.length) o.rows).forM (fun p => writeElems c w o.td p.2 (rowOf src o.td.elems p.1))
  pure { fault := bad, defer := true }

/-- The work of VX.ROWS at issue. -/
def workVxRows (c : CoreId) (ops : BitVec 52) : M Unit :=
  let w := word clsVX 0x24 ops
  do
    let o ← rowCheck c ops true
    rcGo c .vx w o.noop (rowsWork c w o ((fldD ops).testBit 0))

/-- VX.ROWS (R184, R185). -/
def execVxRows (c : CoreId) (ops : BitVec 52) (s : State) : Out :=
  let w := word clsVX 0x24 ops
  .next (s.issue c w (zVX ||| zT ||| zTB ||| zTC ||| zbits 36 30 ||| zLane) (thenNext c (workVxRows c ops)))

/-! ### VX.QNT (R84 to R89, R186, R187) -/

/-- A quantise site's record (Table 3-5). -/
structure Site where
  seedMax : Nat
  floor : Nat
  fmt : Nat
  z : Nat
  fixed : Bool
deriving DecidableEq, Repr

/-- The fields of a site record. -/
def siteOf (w : W64) : Site :=
  { seedMax := bits w.toNat 0 16, floor := bits w.toNat 20 4, fmt := bits w.toNat 24 4, z := bits w.toNat 28 8,
    fixed := w.getLsbD 36 }

/-- qmax of R84. -/
def Site.qmax (q : Site) : Dy := Dy.ofInt (if q.fmt = 3 then 127 else if q.fmt = 4 then 255 - q.z else 448)

/-- The scale that R84 chooses from a member's scale entry and seed flag: its FP16 pattern. -/
def Site.scale (q : Site) (entry : Nat) (seed : Bool) : NM Nat := do
  let sm ← fp16.read q.seedMax
  let m ← if q.fixed || seed || !entry.testBit 16 then pure sm
    else do
      let e ← fp16.read (entry % 2 ^ 16)
      pure (e.max (sm.scale (-(q.floor : Int))))
  scaleFor m q.qmax
where
  scaleFor (m qm : Dy) : NM Nat := do
    let r ← divNM fp16 m qm
    if r.m = 0 then pure 0 else roundUp16 r

/-- The code of one element at a reciprocal scale, and whether it saturated (R84). -/
def Site.code (q : Site) (rs x : Dy) : NM (Nat × Bool) := do
  let k0 ← get
  let y ← fl32 (← mulNM x rs)
  let v ← if q.fmt = 5 then fp8.round y
    else do
      let (lo, hi) : Int × Int := if q.fmt = 3 then (-127, 127) else (0, 255)
      let v ← clampNM lo hi (y.rne + q.z)
      pure (Machine.code 8 v)
  let k1 ← get
  pure (v, k0.sat != k1.sat)

/-- A row's codes and which of them saturated. -/
def Site.row (q : Site) (s16 : Nat) (xs : List Dy) : NM (List (Nat × Bool)) := do
  let s ← fp16.read s16
  let r ← divNM fp32 (Dy.ofInt 1) s
  let rs ← fl32 r
  xs.mapM (q.code rs)

/-- The code is near zero for a monitor slot (R88). -/
def Site.low (q : Site) (lowCode v : Nat) : Bool :=
  if q.fmt = 5 then decide (v % 128 ≤ lowCode)
  else if q.fmt = 3 then decide ((sext 8 v).natAbs ≤ lowCode)
  else decide (((v : Int) - q.z).natAbs ≤ lowCode)

/-- The running-maximum entry that elements give: the larger of the entry, read under R73, and the largest of them, 65,504
for a larger one, which counts (R85). -/
def runMax (old : Nat) (xs : List Dy) : NM Nat := do
  let l ← xs.mapM (fun x => roundUp16 (x.abs.max { neg := false, m := 1, e := -24 }))
  match l with
  | [] => pure old
  | x :: l => do
    let e ← fp16.read (old % 2 ^ 16)
    let new := l.foldl max x
    if e.lt (fp16.val new) then pure new else roundUp16 e

/-- The operands of VX.QNT; `rows` are section rows. -/
structure QntOps where
  td : Tens
  ta : Tens
  ts : Tens
  q : Nat
  site : Site
  slot : Nat
  again : Bool
  row0 : Nat
  rows : List Nat
  nr : Nat
  W : Nat
  /-- an operand has a zero bound, and the instruction retires as a no-op (R103) -/
  noop : Bool
deriving DecidableEq, Repr

/-- Rows of the section a core holds. -/
def State.sectionRows (s : State) (c : CoreId) : Nat :=
  match s.held c with
  | some k => k.members.length * (s.bpar k.binder).frames
  | none => 0

/-- The issue checks of VX.QNT (R184, R186). -/
def qntCheck (c : CoreId) (ops : BitVec 52) : M QntOps := ranked do
  let sq ← getS c (vxF ops)
  let v := sq.toNat
  let map := v.testBit 13
  let row0 := bits v 16 10
  let s ← getThe State
  let sites := ((s.coreBinder c).map (·.sites)).getD []
  let q := bits v 0 8
  let td ← evalK c (tOf (fldA ops)) 0 true
  let ta ← evalK c (tOf (fldB ops)) 1 false
  let tr ← if map then do let t ← evalK c (tOf (fldC ops)) 2 false; pure (some t) else pure none
  chkIf (td.d.kind ≠ 2) fDesc 52 (operand := 0)
  chkIf (decide (q < sites.length) && td.d.fmt != (siteOf (sites.getD q 0)).fmt) fDesc 55 (operand := 0)
  chkIf (!td.d.scaleOn) fDesc 63 (operand := 0)
  let ts ← if td.d.scaleOn then evalK c td.d.scaleDesc 0 true else pure td
  chkIf (ts.d.kind ≠ 2) fDesc 52 (operand := 0)
  chkIf (ta.d.kind ≠ 2 ∧ ta.d.kind ≠ 3) fDesc 52 (operand := 1)
  chkIf (ta.d.fmt ≠ 7 ∧ ta.d.fmt ≠ 8) fDesc 55 (operand := 1)
  chkIf (ta.d.capAt 3 ≠ 1) fDesc 203 (operand := 1)
  match tr with
  | some t => chk 2 (mapKind t)
  | none => pure ()
  let nr := td.n 1
  let W := ta.elems
  chk 3 (fltIf (decide (2 ^ 26 ≤ v) || decide (sites.length ≤ q)) fBound v)
  let total := s.sectionRows c
  let ops := [td, ta, ts] ++ tr.toList
  let noop := ops.any (·.empty)
  unlessNoop ops do
    chkBIf [td, ta] (decide (td.n 0 < W)) (td.n 0) 0 0
    chkBIf [ts, td] (decide (ts.n 0 < nr)) (ts.n 0) 0 0
    if tr.isNone then
      chkBIf [td] (decide (total < row0 + nr)) (row0 + nr) 1 0
      chkBIf [ta, td] (decide (ta.n 1 < nr)) (ta.n 1) 1 1
  let rows ← match tr with
    | some t => if noop || !td.known || !ta.known then pure [] else mapK c t nr row0 (ta.n 1) (some total)
    | none => do if ← soundAll then pure ((List.range nr).map (· + row0)) else pure []
  pure { td := td, ta := ta, ts := ts, q := q, site := siteOf (sites.getD q 0), slot := bits v 8 4, again := v.testBit 12,
         row0 := row0, rows := rows, nr := nr, W := W, noop := noop }

/-- A row scale entry (Table 3-4). -/
def scaleEntry (s16 z : Nat) (rescaled : Bool) : Nat := s16 + z * 2 ^ 16 + rescaled.toNat * 2 ^ 24

/-- A word of a member's scale history: an uncorrectable one is raised in execution (R190). -/
def readCopy (c : CoreId) (o n : Nat) : M Nat := do
  let s ← get
  let a := storeAddr (c.val / 8) o
  match s.sramBad a n with
  | [] => modify (fun s => s.sramCheck a n); pure (leNat (s.peek a n))
  | p :: l => fltEcc (faultLoc p) (l.map faultLoc)

/-- A running-maximum word of a working copy as stored, and the fault that an uncorrectable one leaves deferred (R190). -/
def readLate (c : CoreId) (o n : Nat) : M (Nat × Option CFlt) := do
  let s ← get
  let a := storeAddr (c.val / 8) o
  set (s.sramCheck a n)
  pure (leNat (s.peek a n), badFault (s.sramBad a n))

/-- What the first pass leaves of one row: its index and member, how many elements saturated, how many codes lie near zero,
and the fault that its running-maximum word leaves. -/
structure QRow where
  i : Nat
  member : Nat
  xs : List Dy
  sats : Nat
  lows : Nat
  bad : Option CFlt
deriving DecidableEq, Repr

/-- The running-maximum entry of site q in a working copy (R85). -/
def maxEntryAt (work sites q : Nat) : Nat := work + 64 + 4 * sites + 2 * q

/-- The first pass over row i: codes, scale entry and running maximum (R84, R85, R187). -/
def qntRow (c : CoreId) (w : W64) (o : QntOps) (k : Section) (G sites lowCode : Nat) (src : Nat → Nat → Nat) (i : Nat) : M QRow := do
  let r := o.rows.getD i 0
  let j := r / max G 1
  let m := k.members[j]?
  let work := (m.map (·.work)).getD 0
  let seed := (m.map (·.seed)).getD false
  let entry ← readCopy c (work + 64 + 4 * o.q) 4
  let (old, bad) ← readLate c (maxEntryAt work sites o.q) 2
  let (xs, codes, s16, mx) ← nm c (do
    let s16 ← o.site.scale entry seed
    let xs ← (List.range o.W).mapM (fun e => readElem o.ta.d.fmt (src (r - o.row0) e))
    let codes ← o.site.row s16 xs
    let mx ← runMax old xs
    pure (xs, codes, s16, mx))
  writeRow c w o.td.d i 0 0 (codes.map (·.1))
  writeAt c w o.ts.d (o.ts.d.rowAt 0 0 0 + 4 * i) (toLE 4 (scaleEntry s16 o.site.z false))
  modify (fun s => s.writeLocal (storeAddr (c.val / 8) (maxEntryAt work sites o.q)) (toLE 2 mx))
  pure { i := i, member := j, xs := xs, sats := (codes.filter (·.2)).length,
         lows := (codes.filter (fun p => o.site.low lowCode p.1)).length, bad := bad }

/-- The second pass over a row that saturated (R87). -/
def qntAgain (c : CoreId) (w : W64) (o : QntOps) (k : Section) (sites : Nat) (r : QRow) : M Unit := do
  let work := ((k.members[r.member]?).map (·.work)).getD 0
  let s ← get
  let a := leNat (s.peek (storeAddr (c.val / 8) (maxEntryAt work sites o.q)) 2)
  let (codes, s16) ← nm c (do
    let m ← fp16.read a
    let s16 ← Site.scale.scaleFor m o.site.qmax
    let codes ← o.site.row s16 r.xs
    pure (codes, s16))
  writeRow c w o.td.d r.i 0 0 (codes.map (·.1))
  writeAt c w o.ts.d (o.ts.d.rowAt 0 0 0 + 4 * r.i) (toLE 4 (scaleEntry s16 o.site.z true))
  modify (fun s => s.count R.CORE_VX_RESCALE_ROWS_count 1 c)

/-- The quantisation monitor at the end of an operation (R88, R89). -/
def State.monitor (s : State) (c : CoreId) (o : QntOps) (k : Section) (rows : List QRow) : State :=
  if !s.bit R.CORE_QMON_CFG_enable c o.slot then s
  else
    let sat := (rows.map (·.sats)).sum
    let low := (rows.map (·.lows)).sum
    let n := o.W * rows.length
    let fol (r : Option QRow) : Nat := ((r.bind (fun r => k.members[r.member]?)).map (fun m => m.folio.toNat)).getD 0xFFFFF
    let s := s.count R.CORE_QMON_SAT_count sat c o.slot
    let s := s.count R.CORE_QMON_LOW_count low c o.slot
    let s := s.count R.CORE_QMON_OPS_count 1 c o.slot
    let thr := s.fld R.CORE_QMON_CFG_sat_thr c o.slot
    let frac := s.fld R.CORE_QMON_CFG_low_frac c o.slot
    let detail (v : Nat) : Nat := o.slot * 2 ^ 20 + min v 0xFFFFF
    let s := if thr ≠ 0 ∧ thr ≤ sat then s.event 0x01 2 c (fol (rows.find? (fun r => decide (0 < r.sats)))) (detail sat) else s
    if frac ≠ 0 ∧ 256 ≤ n ∧ frac * n ≤ low * 256 then s.event 0x02 2 c (fol rows.head?) (detail low) else s

/-- The work of VX.QNT (R187). -/
def qntWork (c : CoreId) (w : W64) (o : QntOps) : M Work := do
  let s ← get
  match s.held c with
  | none => pure {}
  | some k =>
    let G := (s.bpar k.binder).frames
    let sites := (((s.coreBinder c).map (·.sites)).getD []).length
    let lowCode := s.fld R.CORE_QMON_CFG_low_code c o.slot
    let (src, bad) ← readRowsAt c o.ta (o.rows.map (· - o.row0))
    let rows ← (List.range o.nr).mapM (qntRow c w o k G sites lowCode src)
    modify (fun s => s.monitor c o k rows)
    if o.again then (rows.filter (fun r => decide (0 < r.sats))).forM (qntAgain c w o k sites)
    pure { fault := bad <|> rows.findSome? (·.bad), defer := true }

/-- The work of VX.QNT at issue. -/
def workVxQnt (c : CoreId) (ops : BitVec 52) : M Unit :=
  let w := word clsVX 0x20 ops
  do
    let o ← qntCheck c ops
    rcGo c .vx w o.noop (qntWork c w o)

/-- VX.QNT (R186, R187). C is ignored when the site word sets no map. -/
def execVxQnt (c : CoreId) (ops : BitVec 52) (s : State) : Out :=
  let w := word clsVX 0x20 ops
  .next (s.issue c w (zVX ||| zT ||| zTB ||| zTC ||| zFldD ||| zLane) (thenNext c (workVxQnt c ops)))

/-! ### VX.DQ (R188) -/

/-- The operands of VX.DQ. -/
structure DqOps where
  td : Tens
  ta : Tens
  ts : Tens
deriving DecidableEq, Repr

/-- An operand has a zero bound, and the instruction retires as a no-op (R103). -/
def DqOps.noop (o : DqOps) : Bool := [o.td, o.ta, o.ts].any (·.empty)

/-- The issue checks of VX.DQ (R188). -/
def dqCheck (c : CoreId) (ops : BitVec 52) : M DqOps := ranked do
  let td ← evalK c (tOf (fldA ops)) 0 true
  let ta ← evalK c (tOf (fldB ops)) 1 false
  chkIf (td.d.kind ≠ 2 ∧ td.d.kind ≠ 3) fDesc 52 (operand := 0)
  chkIf (td.d.fmt ≠ 7 ∧ td.d.fmt ≠ 8) fDesc 55 (operand := 0)
  chkIf (ta.d.kind ≠ 2) fDesc 52 (operand := 1)
  chkIf (ta.d.fmt ≠ 3 ∧ ta.d.fmt ≠ 4 ∧ ta.d.fmt ≠ 5) fDesc 55 (operand := 1)
  chkIf (!ta.d.scaleOn) fDesc 63 (operand := 1)
  let ts ← if ta.d.scaleOn then evalK c ta.d.scaleDesc 1 false else pure ta
  unlessNoop [td, ta, ts] do
    chkBIf [ta, td] (decide (ta.n 1 < td.n 1)) (ta.n 1) 1 1
    chkBIf [ta, td] (decide (ta.n 0 < td.elems)) (ta.n 0) 0 1
    chkBIf [ts, td] (decide (ts.n 0 < td.n 1)) (ts.n 0) 0 1
  allocK c td 0
  pure { td := td, ta := ta, ts := ts }

/-- Each element is (code - Z) times its row's scale (R188). -/
def dqWork (c : CoreId) (w : W64) (o : DqOps) : M Work := do
  let nr := o.td.n 1
  let W := o.td.elems
  let (v, b0) ← readSub c o.ta.d W nr 1 1
  let (e, b1) ← readSub c o.ts.d nr 1 1 1
  (List.range nr).forM (fun i => do
    let l ← nm c (do
      let en := e.at i 0 0 0
      -- an infinite or NaN scale counts once for its row (DESIGN CHOICE, log entry 75)
      let sc ← fp16.read (en % 2 ^ 16)
      let z : Int := if o.ta.d.fmt = 4 then (bits en 16 8 : Nat) else 0
      (List.range W).mapM (fun x => do
        let d ← readElem o.ta.d.fmt (v.at x i 0 0)
        toElem o.td.d.fmt (← mulNM { d.sub (Dy.ofInt z) with inf := d.inf } sc)))
    writeElems c w o.td i l)
  pure { fault := (b0 <|> b1), defer := true }

/-- The work of VX.DQ at issue. -/
def workVxDq (c : CoreId) (ops : BitVec 52) : M Unit :=
  let w := word clsVX 0x21 ops
  do
    let o ← dqCheck c ops
    rcGo c .vx w o.noop (dqWork c w o)

/-- VX.DQ (R188). -/
def execVxDq (c : CoreId) (ops : BitVec 52) (s : State) : Out :=
  let w := word clsVX 0x21 ops
  .next (s.issue c w (zVX ||| zT ||| zTB ||| zFldC ||| zFldD ||| zFldF ||| zLane) (thenNext c (workVxDq c ops)))

/-! ### VX.HAD (R189) -/

/-- One stage of the transform: the sum where bit s of the index is 0, the difference where it is 1. -/
def hadStage (x : Array Dy) (s : Nat) : NM (Array Dy) := do
  let l ← (List.range x.size).mapM (fun e =>
    if e.testBit s then fsub (x.getD (e - 2 ^ s) Dy.zero) (x.getD e Dy.zero)
    else fadd (x.getD e Dy.zero) (x.getD (e + 2 ^ s) Dy.zero))
  pure l.toArray

/-- The transform of a row. -/
def hadRow (k : Nat) (norm : Bool) (xs : List Dy) : NM (List Nat) := do
  let y ← (List.range k).foldlM hadStage xs.toArray
  let y ← if norm then do
      let sc ← fl32 (Dy.sqrt { neg := false, m := 1, e := -(k : Int) })
      y.toList.mapM (fun v => fmul v sc)
    else pure y.toList
  y.mapM fp32.round

/-- The issue checks of VX.HAD: destination and source (R189). -/
def hadCheck (c : CoreId) (ops : BitVec 52) : M (Tens × Tens) := ranked do
  let k := fldD ops % 16
  chkIf (decide (k < 4 ∨ 12 < k)) fIllegal
  let td ← evalK c (tOf (fldA ops)) 0 true
  let ta ← evalK c (tOf (fldB ops)) 1 false
  chkIf (td.d.kind ≠ 2 ∧ td.d.kind ≠ 3) fDesc 52 (operand := 0)
  chkIf (td.d.fmt ≠ 8) fDesc 55 (operand := 0)
  chkIf (ta.d.kind ≠ 2 ∧ ta.d.kind ≠ 3) fDesc 52 (operand := 1)
  chkIf (ta.d.fmt ≠ 8) fDesc 55 (operand := 1)
  overK c td ta 0 1
  unlessNoop [td, ta] do
    chkBIf [ta] (ta.elems != 2 ^ k) ta.elems 0 1
    chkBIf [td] (td.elems != 2 ^ k) td.elems 0 0
    chkBIf [ta, td] (decide (ta.n 1 < td.n 1)) (td.n 1) 1 0
  allocK c td 0
  pure (td, ta)

/-- Each row is transformed. -/
def hadWork (c : CoreId) (w : W64) (td ta : Tens) (k : Nat) (norm : Bool) : M Work := do
  let (src, bad) ← readRows c ta (td.n 1)
  (List.range (td.n 1)).forM (fun i => do
    let l ← nm c (do
      let xs ← (List.range (2 ^ k)).mapM (fun e => fp32.read (src i e))
      hadRow k norm xs)
    writeElems c w td i l)
  pure { fault := bad, defer := true }

/-- The work of VX.HAD at issue. -/
def workVxHad (c : CoreId) (ops : BitVec 52) : M Unit :=
  let w := word clsVX 0x22 ops
  do
    let (td, ta) ← hadCheck c ops
    rcGo c .vx w (td.empty || ta.empty) (hadWork c w td ta (fldD ops % 16) ((fldD ops).testBit 4))

/-- VX.HAD (R189). -/
def execVxHad (c : CoreId) (ops : BitVec 52) (s : State) : Out :=
  let w := word clsVX 0x22 ops
  .next (s.issue c w (zVX ||| zT ||| zTB ||| zFldC ||| zbits 36 34 ||| zFldF ||| zLane) (thenNext c (workVxHad c ops)))

end Sys2Proof.Machine
end

