-- ==== Sys2Proof/Machine/Dispatch.lean ====
section
/-! DEFINITION. What each command does: one arm per constructor of Instr, one call of its meaning. -/
namespace Sys2Proof.Machine

def exec (i : Instr) (s : State) : Host.Outcome State Fault Refusal :=
  match i with
  | .regWrite p addr width v => Sys2Proof.Machine.execRegWrite p addr width v s
  | .folOpen p n => Sys2Proof.Machine.execFolOpen p n s
  | .openComplete => Sys2Proof.Machine.execOpenComplete s
  | .folClose p n => Sys2Proof.Machine.execFolClose p n s
  | .folioCloseComplete n => Sys2Proof.Machine.execFolioCloseComplete n s
  | .folReset p n => Sys2Proof.Machine.execFolReset p n s
  | .folMove p n => Sys2Proof.Machine.execFolMove p n s
  | .stateSwapOut n => Sys2Proof.Machine.execStateSwapOut n s
  | .stateLoad h ser => Sys2Proof.Machine.execStateLoad h ser s
  | .schedulerPick h => Sys2Proof.Machine.execSchedulerPick h s
  | .sectionFillTimeout h ser => Sys2Proof.Machine.execSectionFillTimeout h ser s
  | .sectionDeadlineClose h ser => Sys2Proof.Machine.execSectionDeadlineClose h ser s
  | .sectionHandover h ser => Sys2Proof.Machine.execSectionHandover h ser s
  | .sectionCommit h ser => Sys2Proof.Machine.execSectionCommit h ser s
  | .commitComplete h ser => Sys2Proof.Machine.execCommitComplete h ser s
  | .gatheringRelease n => Sys2Proof.Machine.execGatheringRelease n s
  | .stNext c ops => Sys2Proof.Machine.execStNext c ops s
  | .stEmit c ops => Sys2Proof.Machine.execStEmit c ops s
  | .stReset c ops => Sys2Proof.Machine.execStReset c ops s
  | .stCommit c ops => Sys2Proof.Machine.execStCommit c ops s
  | .illegalInstruction c w => Sys2Proof.Machine.execIllegalInstruction c w s
  | .coreResumeWrite p c => Sys2Proof.Machine.execCoreResumeWrite p c s
  | .coreResume c => Sys2Proof.Machine.execCoreResume c s
  | .watchdog c => Sys2Proof.Machine.execWatchdog c s
  | .scAdd c ops => Sys2Proof.Machine.execScAdd c ops s
  | .scSub c ops => Sys2Proof.Machine.execScSub c ops s
  | .scMul c ops => Sys2Proof.Machine.execScMul c ops s
  | .scAnd c ops => Sys2Proof.Machine.execScAnd c ops s
  | .scOr c ops => Sys2Proof.Machine.execScOr c ops s
  | .scXor c ops => Sys2Proof.Machine.execScXor c ops s
  | .scShl c ops => Sys2Proof.Machine.execScShl c ops s
  | .scShr c ops => Sys2Proof.Machine.execScShr c ops s
  | .scSra c ops => Sys2Proof.Machine.execScSra c ops s
  | .scMin c ops => Sys2Proof.Machine.execScMin c ops s
  | .scMax c ops => Sys2Proof.Machine.execScMax c ops s
  | .scMinu c ops => Sys2Proof.Machine.execScMinu c ops s
  | .scMaxu c ops => Sys2Proof.Machine.execScMaxu c ops s
  | .scSlt c ops => Sys2Proof.Machine.execScSlt c ops s
  | .scSltu c ops => Sys2Proof.Machine.execScSltu c ops s
  | .scAddi c ops => Sys2Proof.Machine.execScAddi c ops s
  | .scAndi c ops => Sys2Proof.Machine.execScAndi c ops s
  | .scOri c ops => Sys2Proof.Machine.execScOri c ops s
  | .scShli c ops => Sys2Proof.Machine.execScShli c ops s
  | .scShri c ops => Sys2Proof.Machine.execScShri c ops s
  | .scSrai c ops => Sys2Proof.Machine.execScSrai c ops s
  | .scSlti c ops => Sys2Proof.Machine.execScSlti c ops s
  | .scLi c ops => Sys2Proof.Machine.execScLi c ops s
  | .scLih c ops => Sys2Proof.Machine.execScLih c ops s
  | .scLd c ops => Sys2Proof.Machine.execScLd c ops s
  | .scLdw c ops => Sys2Proof.Machine.execScLdw c ops s
  | .scSt c ops => Sys2Proof.Machine.execScSt c ops s
  | .scStw c ops => Sys2Proof.Machine.execScStw c ops s
  | .scB c ops => Sys2Proof.Machine.execScB c ops s
  | .scBeq c ops => Sys2Proof.Machine.execScBeq c ops s
  | .scBne c ops => Sys2Proof.Machine.execScBne c ops s
  | .scBlt c ops => Sys2Proof.Machine.execScBlt c ops s
  | .scBge c ops => Sys2Proof.Machine.execScBge c ops s
  | .scBltu c ops => Sys2Proof.Machine.execScBltu c ops s
  | .scBgeu c ops => Sys2Proof.Machine.execScBgeu c ops s
  | .scBf c ops => Sys2Proof.Machine.execScBf c ops s
  | .scCall c ops => Sys2Proof.Machine.execScCall c ops s
  | .scJr c ops => Sys2Proof.Machine.execScJr c ops s
  | .scRdf c ops => Sys2Proof.Machine.execScRdf c ops s
  | .scClf c ops => Sys2Proof.Machine.execScClf c ops s
  | .scCrr c ops => Sys2Proof.Machine.execScCrr c ops s
  | .scCrw c ops => Sys2Proof.Machine.execScCrw c ops s
  | .scTime c ops => Sys2Proof.Machine.execScTime c ops s
  | .scId c ops => Sys2Proof.Machine.execScId c ops s
  | .scNop c ops => Sys2Proof.Machine.execScNop c ops s
  | .dmCopy c ops => Sys2Proof.Machine.execDmCopy c ops s
  | .dmPref c ops => Sys2Proof.Machine.execDmPref c ops s
  | .dmPack c ops => Sys2Proof.Machine.execDmPack c ops s
  | .dmTld c ops => Sys2Proof.Machine.execDmTld c ops s
  | .dmTst c ops => Sys2Proof.Machine.execDmTst c ops s
  | .dmTbase c ops => Sys2Proof.Machine.execDmTbase c ops s
  | .dmTcap c ops => Sys2Proof.Machine.execDmTcap c ops s
  | .dmRdw c ops => Sys2Proof.Machine.execDmRdw c ops s
  | .dmWrw c ops => Sys2Proof.Machine.execDmWrw c ops s
  | .dmVld c ops => Sys2Proof.Machine.execDmVld c ops s
  | .dmVst c ops => Sys2Proof.Machine.execDmVst c ops s
  | .syFence c ops => Sys2Proof.Machine.execSyFence c ops s
  | .syBar c ops => Sys2Proof.Machine.execSyBar c ops s
  | .mmGrp c ops => Sys2Proof.Machine.execMmGrp c ops s
  | .mmLut c ops => Sys2Proof.Machine.execMmLut c ops s
  | .mmCombine c ops => Sys2Proof.Machine.execMmCombine c ops s
  | .combineRendezvous c => Sys2Proof.Machine.execCombineRendezvous c s
  | .mmTalloc c ops => Sys2Proof.Machine.execMmTalloc c ops s
  | .mmTfree c ops => Sys2Proof.Machine.execMmTfree c ops s
  | .tileStaging c => Sys2Proof.Machine.execTileStaging c s
  | .tileExpanded h k => Sys2Proof.Machine.execTileExpanded h k s
  | .tileUnpin h k => Sys2Proof.Machine.execTileUnpin h k s
  | .coreSelfTest c pass => Sys2Proof.Machine.execCoreSelfTest c pass s
  | .shadowArm c => Sys2Proof.Machine.execShadowArm c s
  | .shadowCheck c => Sys2Proof.Machine.execShadowCheck c s
  | .residueRecovery c pass => Sys2Proof.Machine.execResidueRecovery c pass s
  | .rcGate c ops => Sys2Proof.Machine.execRcGate c ops s
  | .rcScan c ops => Sys2Proof.Machine.execRcScan c ops s
  | .rcLconv c ops => Sys2Proof.Machine.execRcLconv c ops s
  | .rcAnchor c ops => Sys2Proof.Machine.execRcAnchor c ops s
  | .vxAdd c ops => Sys2Proof.Machine.execVxAdd c ops s
  | .vxSub c ops => Sys2Proof.Machine.execVxSub c ops s
  | .vxMul c ops => Sys2Proof.Machine.execVxMul c ops s
  | .vxFma c ops => Sys2Proof.Machine.execVxFma c ops s
  | .vxMax c ops => Sys2Proof.Machine.execVxMax c ops s
  | .vxMin c ops => Sys2Proof.Machine.execVxMin c ops s
  | .vxAbs c ops => Sys2Proof.Machine.execVxAbs c ops s
  | .vxLog c ops => Sys2Proof.Machine.execVxLog c ops s
  | .vxShf c ops => Sys2Proof.Machine.execVxShf c ops s
  | .vxCmp c ops => Sys2Proof.Machine.execVxCmp c ops s
  | .vxSel c ops => Sys2Proof.Machine.execVxSel c ops s
  | .vxSplat c ops => Sys2Proof.Machine.execVxSplat c ops s
  | .vxIota c ops => Sys2Proof.Machine.execVxIota c ops s
  | .vxCvt c ops => Sys2Proof.Machine.execVxCvt c ops s
  | .vxFn c ops => Sys2Proof.Machine.execVxFn c ops s
  | .vxCmpr c ops => Sys2Proof.Machine.execVxCmpr c ops s
  | .vxExpd c ops => Sys2Proof.Machine.execVxExpd c ops s
  | .vxPerm c ops => Sys2Proof.Machine.execVxPerm c ops s
  | .vxRed c ops => Sys2Proof.Machine.execVxRed c ops s
  | .vxQnt c ops => Sys2Proof.Machine.execVxQnt c ops s
  | .vxDq c ops => Sys2Proof.Machine.execVxDq c ops s
  | .vxHad c ops => Sys2Proof.Machine.execVxHad c ops s
  | .vxRowg c ops => Sys2Proof.Machine.execVxRowg c ops s
  | .vxRows c ops => Sys2Proof.Machine.execVxRows c ops s
  | .atWin c ops => Sys2Proof.Machine.execAtWin c ops s
  | .atAppend c ops => Sys2Proof.Machine.execAtAppend c ops s
  | .atFree p h leaf => Sys2Proof.Machine.execAtFree p h leaf s
  | .atFreeDone h => Sys2Proof.Machine.execAtFreeDone h s
  | .patrolScrub => Sys2Proof.Machine.execPatrolScrub s
  | .recalAuto pc => Sys2Proof.Machine.execRecalAuto pc s
  | .hbmRecal p pc go => Sys2Proof.Machine.execHbmRecal p pc go s
  | .recalDone conv => Sys2Proof.Machine.execRecalDone conv s
  | .hbmTempReadout temp => Sys2Proof.Machine.execHbmTempReadout temp s
  | .tcInval p h all => Sys2Proof.Machine.execTcInval p h all s
  | .dtLoad p h addr slot => Sys2Proof.Machine.execDtLoad p h addr slot s
  | .dtLoadComplete h => Sys2Proof.Machine.execDtLoadComplete h s
  | .bndRegister p b => Sys2Proof.Machine.execBndRegister p b s
  | .bndDeregister p b => Sys2Proof.Machine.execBndDeregister p b s
  | .bndLoad p b => Sys2Proof.Machine.execBndLoad p b s
  | .bndUnload p b => Sys2Proof.Machine.execBndUnload p b s
  | .bndSwap p b => Sys2Proof.Machine.execBndSwap p b s
  | .peerRead src seq tag off len => Sys2Proof.Machine.execPeerRead src seq tag off len s
  | .peerWrite src seq tag off dat => Sys2Proof.Machine.execPeerWrite src seq tag off dat s
  | .peerAtomic src seq tag sub off opa opb => Sys2Proof.Machine.execPeerAtomic src seq tag sub off opa opb s
  | .completion src r => Sys2Proof.Machine.execCompletion src r s
  | .recall src h addr => Sys2Proof.Machine.execRecall src h addr s
  | .readLeaseExpiry e holder page => Sys2Proof.Machine.execReadLeaseExpiry e holder page s
  | .transactionForward hd => Sys2Proof.Machine.execTransactionForward hd s
  | .resendTimeout tag => Sys2Proof.Machine.execResendTimeout tag s
  | .transactionTimeout tag => Sys2Proof.Machine.execTransactionTimeout tag s
  | .seqGapTimeout src cls => Sys2Proof.Machine.execSeqGapTimeout src cls s
  | .laserLoss e lane => Sys2Proof.Machine.execLaserLoss e lane s
  | .laserRestore e => Sys2Proof.Machine.execLaserRestore e s
  | .flitReceived l content crc sym uncorr => Sys2Proof.Machine.execFlitReceived l content crc sym uncorr s
  | .ackReceived l seq c => Sys2Proof.Machine.execAckReceived l seq c s
  | .nakReceived l seq => Sys2Proof.Machine.execNakReceived l seq s
  | .replayTimeout l => Sys2Proof.Machine.execReplayTimeout l s
  | .replayLimit l => Sys2Proof.Machine.execReplayLimit l s
  | .lossOfSignal l => Sys2Proof.Machine.execLossOfSignal l s
  | .fecErrorLimit l => Sys2Proof.Machine.execFecErrorLimit l s
  | .linkEnable p l on => Sys2Proof.Machine.execLinkEnable p l on s
  | .linkRetrain p l => Sys2Proof.Machine.execLinkRetrain p l s
  | .trainTimeout l => Sys2Proof.Machine.execTrainTimeout l s
  | .retrainDelayEnd l => Sys2Proof.Machine.execRetrainDelayEnd l s
  | .hello l m => Sys2Proof.Machine.execHello l m s
  | .toileDevnumWrite p v => Sys2Proof.Machine.execToileDevnumWrite p v s
  | .toileRtConfirm p dev accept => Sys2Proof.Machine.execToileRtConfirm p dev accept s
  | .timeExchange l => Sys2Proof.Machine.execTimeExchange l s
  | .timeMsg l m => Sys2Proof.Machine.execTimeMsg l m s
  | .beatSend => Sys2Proof.Machine.execBeatSend s
  | .beat dev h epoch => Sys2Proof.Machine.execBeat dev h epoch s
  | .beatTimeout dev => Sys2Proof.Machine.execBeatTimeout dev s
  | .lineOpen src h n m => Sys2Proof.Machine.execLineOpen src h n m s
  | .lineOpenTimeout n => Sys2Proof.Machine.execLineOpenTimeout n s
  | .lineDelta src h n seq next crc dat => Sys2Proof.Machine.execLineDelta src h n seq next crc dat s
  | .lineFull src h n seq next crc dat => Sys2Proof.Machine.execLineFull src h n seq next crc dat s
  | .lineAck src h n seq r => Sys2Proof.Machine.execLineAck src h n seq r s
  | .deltaResend n => Sys2Proof.Machine.execDeltaResend n s
  | .lineRel src h n seq => Sys2Proof.Machine.execLineRel src h n seq s
  | .lineClose src h n seq => Sys2Proof.Machine.execLineClose src h n seq s
  | .lineAudio src h n st ssrc ts dat => Sys2Proof.Machine.execLineAudio src h n st ssrc ts dat s
  | .repartner p n dev => Sys2Proof.Machine.execRepartner p n dev s
  | .rejoin p => Sys2Proof.Machine.execRejoin p s
  | .leaseRenewSend => Sys2Proof.Machine.execLeaseRenewSend s
  | .leaseRenew src h epoch t => Sys2Proof.Machine.execLeaseRenew src h epoch t s
  | .leaseGrant m h r => Sys2Proof.Machine.execLeaseGrant m h r s
  | .grantExpiry m => Sys2Proof.Machine.execGrantExpiry m s
  | .leaseExpiry => Sys2Proof.Machine.execLeaseExpiry s
  | .promoteResend x => Sys2Proof.Machine.execPromoteResend x s
  | .leasePromote src h x e => Sys2Proof.Machine.execLeasePromote src h x e s
  | .promoteHoldExpiry x => Sys2Proof.Machine.execPromoteHoldExpiry x s
  | .leaseJoin src h epoch => Sys2Proof.Machine.execLeaseJoin src h epoch s
  | .joinAnswerDue x => Sys2Proof.Machine.execJoinAnswerDue x s
  | .quorumQuietEnd => Sys2Proof.Machine.execQuorumQuietEnd s
  | .toileQuorumWrite p v => Sys2Proof.Machine.execToileQuorumWrite p v s
  | .leaseResign src h e => Sys2Proof.Machine.execLeaseResign src h e s
  | .xcmdRead p len => Sys2Proof.Machine.execXcmdRead p len s
  | .xcmdWrite p len => Sys2Proof.Machine.execXcmdWrite p len s
  | .xcmdAdd p len => Sys2Proof.Machine.execXcmdAdd p len s
  | .xcmdCas p len => Sys2Proof.Machine.execXcmdCas p len s
  | .xcmdMax p len => Sys2Proof.Machine.execXcmdMax p len s
  | .takeReadLease p len => Sys2Proof.Machine.execTakeReadLease p len s
  | .releaseReadLease p len => Sys2Proof.Machine.execReleaseReadLease p len s
  | .sapStart p a v => Sys2Proof.Machine.execSapStart p a v s
  | .sapStop p a v => Sys2Proof.Machine.execSapStop p a v s
  | .sapRestart p a v => Sys2Proof.Machine.execSapRestart p a v s
  | .audGrpStart p k t => Sys2Proof.Machine.execAudGrpStart p k t s
  | .groupFrameZero k => Sys2Proof.Machine.execGroupFrameZero k s
  | .audGrpStop p k => Sys2Proof.Machine.execAudGrpStop p k s
  | .groupFrame k fr => Sys2Proof.Machine.execGroupFrame k fr s
  | .blockComplete k => Sys2Proof.Machine.execBlockComplete k s
  | .portBlockWrite k => Sys2Proof.Machine.execPortBlockWrite k s
  | .leadEnd a heard => Sys2Proof.Machine.execLeadEnd a heard s
  | .tailEnd a => Sys2Proof.Machine.execTailEnd a s
  | .fsyncLoss a => Sys2Proof.Machine.execFsyncLoss a s
  | .relockDone a => Sys2Proof.Machine.execRelockDone a s
  | .rateWindow a ns => Sys2Proof.Machine.execRateWindow a ns s
  | .mclkInLoss => Sys2Proof.Machine.execMclkInLoss s
  | .audioPllRelock => Sys2Proof.Machine.execAudioPllRelock s
  | .csBlockEnd a => Sys2Proof.Machine.execCsBlockEnd a s
  | .audBind p n => Sys2Proof.Machine.execAudBind p n s
  | .audUnbind p n => Sys2Proof.Machine.execAudUnbind p n s
  | .audChGainWrite p ch v => Sys2Proof.Machine.execAudChGainWrite p ch v s
  | .audChSrcWrite p ch v => Sys2Proof.Machine.execAudChSrcWrite p ch v s
  | .zcTimeout ch => Sys2Proof.Machine.execZcTimeout ch s
  | .rampEnd ch => Sys2Proof.Machine.execRampEnd ch s
  | .audOutEnable p o v => Sys2Proof.Machine.execAudOutEnable p o v s
  | .prsntChange a present => Sys2Proof.Machine.execPrsntChange a present s
  | .moduleIdentityRead a ack rec => Sys2Proof.Machine.execModuleIdentityRead a ack rec s
  | .frameReceived e f => Sys2Proof.Machine.execFrameReceived e f s
  | .packetWrite f => Sys2Proof.Machine.execPacketWrite f s
  | .concealmentWrite f => Sys2Proof.Machine.execConcealmentWrite f s
  | .frameTransmit e f => Sys2Proof.Machine.execFrameTransmit e f s
  | .ethTimeAdj p v => Sys2Proof.Machine.execEthTimeAdj p v s
  | .ingressAdd p f => Sys2Proof.Machine.execIngressAdd p f s
  | .ingressDelete p f => Sys2Proof.Machine.execIngressDelete p f s
  | .ingressBind p f n => Sys2Proof.Machine.execIngressBind p f n s
  | .ingressUnbind p f => Sys2Proof.Machine.execIngressUnbind p f s
  | .push p v => Sys2Proof.Machine.execPush p v s
  | .i2cWrite p g v => Sys2Proof.Machine.execI2cWrite p g v s
  | .i2cRead p g v => Sys2Proof.Machine.execI2cRead p g v s
  | .i2cWriteRead p g v => Sys2Proof.Machine.execI2cWriteRead p g v s
  | .entdaa p g v => Sys2Proof.Machine.execEntdaa p g v s
  | .broadcastCcc p g v => Sys2Proof.Machine.execBroadcastCcc p g v s
  | .i2cTransferEnd g r dat => Sys2Proof.Machine.execI2cTransferEnd g r dat s
  | .sclTimeout g => Sys2Proof.Machine.execSclTimeout g s
  | .uartCfgWrite p v => Sys2Proof.Machine.execUartCfgWrite p v s
  | .getChallenge chal => Sys2Proof.Machine.execGetChallenge chal s
  | .getCert chal => Sys2Proof.Machine.execGetCert chal s
  | .attest chal nonce => Sys2Proof.Machine.execAttest chal nonce s
  | .regRead q addr cnt => Sys2Proof.Machine.execRegRead q addr cnt s
  | .mgmtRegWrite q addr vals => Sys2Proof.Machine.execMgmtRegWrite q addr vals s
  | .slotErase q => Sys2Proof.Machine.execSlotErase q s
  | .slotWrite q off dat => Sys2Proof.Machine.execSlotWrite q off dat s
  | .slotCommit q => Sys2Proof.Machine.execSlotCommit q s
  | .coloRestart q => Sys2Proof.Machine.execColoRestart q s
  | .claim chal ticket => Sys2Proof.Machine.execClaim chal ticket s
  | .svnAdvance q => Sys2Proof.Machine.execSvnAdvance q s
  | .returnCmd q => Sys2Proof.Machine.execReturnCmd q s
  | .jtagUnlock q token => Sys2Proof.Machine.execJtagUnlock q token s
  | .challengeRefresh => Sys2Proof.Machine.execChallengeRefresh s
  | .jtagExpiry => Sys2Proof.Machine.execJtagExpiry s
  | .idcode => Sys2Proof.Machine.execIdcode s
  | .bypass tdi => Sys2Proof.Machine.execBypass tdi s
  | .samplePreload pins pre => Sys2Proof.Machine.execSamplePreload pins pre s
  | .extest pins => Sys2Proof.Machine.execExtest pins s
  | .debugAccess a => Sys2Proof.Machine.execDebugAccess a s
  | .attReport p => Sys2Proof.Machine.execAttReport p s
  | .attCert p => Sys2Proof.Machine.execAttCert p s
  | .attDone => Sys2Proof.Machine.execAttDone s
  | .lockstepMismatch pair => Sys2Proof.Machine.execLockstepMismatch pair s
  | .spineRestart => Sys2Proof.Machine.execSpineRestart s
  | .spineReady => Sys2Proof.Machine.execSpineReady s
  | .spineCarryTimeout => Sys2Proof.Machine.execSpineCarryTimeout s
  | .clockFault k => Sys2Proof.Machine.execClockFault k s
  | .railFault r => Sys2Proof.Machine.execRailFault r s
  | .retire p => Sys2Proof.Machine.execRetire p s
  | .retireFence => Sys2Proof.Machine.execRetireFence s
  | .resignAck m h => Sys2Proof.Machine.execResignAck m h s
  | .resignTimeout => Sys2Proof.Machine.execResignTimeout s
  | .hoopDrain p h on => Sys2Proof.Machine.execHoopDrain p h on s
  | .ucodeLoad p h => Sys2Proof.Machine.execUcodeLoad p h s
  | .ucodeLoadDone h => Sys2Proof.Machine.execUcodeLoadDone h s
  | .colophonReady provision => Sys2Proof.Machine.execColophonReady provision s
  | .colophonBootWatchdog => Sys2Proof.Machine.execColophonBootWatchdog s
  | .spineOsLoaded => Sys2Proof.Machine.execSpineOsLoaded s
  | .standby p => Sys2Proof.Machine.execStandby p s
  | .run p => Sys2Proof.Machine.execRun p s
  | .deviceReset p => Sys2Proof.Machine.execDeviceReset p s
  | .powerDown => Sys2Proof.Machine.execPowerDown s
  | .powerGood r => Sys2Proof.Machine.execPowerGood r s
  | .pgTimeout r => Sys2Proof.Machine.execPgTimeout r s
  | .hbmTrained => Sys2Proof.Machine.execHbmTrained s
  | .aonPor high phyad => Sys2Proof.Machine.execAonPor high phyad s
  | .rstN high => Sys2Proof.Machine.execRstN high s
  | .avsRead ma => Sys2Proof.Machine.execAvsRead ma s
  | .avsTimeout => Sys2Proof.Machine.execAvsTimeout s
  | .pmbusPoll vals => Sys2Proof.Machine.execPmbusPoll vals s
  | .pmbAlert vals => Sys2Proof.Machine.execPmbAlert vals s
  | .pwrArithWrite p v => Sys2Proof.Machine.execPwrArithWrite p v s
  | .dvfsStep => Sys2Proof.Machine.execDvfsStep s
  | .hoopPowerOff h => Sys2Proof.Machine.execHoopPowerOff h s
  | .hoopWakeGrant => Sys2Proof.Machine.execHoopWakeGrant s
  | .hoopWakeDone h => Sys2Proof.Machine.execHoopWakeDone h s
  | .arithPllStop => Sys2Proof.Machine.execArithPllStop s
  | .thermalSample temps => Sys2Proof.Machine.execThermalSample temps s
  | .powerCapTick => Sys2Proof.Machine.execPowerCapTick s
  | .oscillatorTrim edge => Sys2Proof.Machine.execOscillatorTrim edge s
  | .pwrRtcWrite p v => Sys2Proof.Machine.execPwrRtcWrite p v s
  | .laneLock l => Sys2Proof.Machine.execLaneLock l s
  | .linkStart l => Sys2Proof.Machine.execLinkStart l s
  | .slaveFrame a fr ps => Sys2Proof.Machine.execSlaveFrame a fr ps s
  | .audioPllLock => Sys2Proof.Machine.execAudioPllLock s
  | .ethLinkChange e up => Sys2Proof.Machine.execEthLinkChange e up s
  | .phyLinkChange up => Sys2Proof.Machine.execPhyLinkChange up s
  | .uartReceive b stop taken => Sys2Proof.Machine.execUartReceive b stop taken s
  | .engineInstructionComplete c e => Sys2Proof.Machine.execEngineInstructionComplete c e s
  | .readLeaseRequest src h addr take => Sys2Proof.Machine.execReadLeaseRequest src h addr take s
  | .memoryWrite p addr dat => Sys2Proof.Machine.execMemoryWrite p addr dat s
  | .engineSwitchOff e => Sys2Proof.Machine.execEngineSwitchOff e s
  | .leadStart a => Sys2Proof.Machine.execLeadStart a s
  | .ethTimeFreq p v => Sys2Proof.Machine.execEthTimeFreq p v s

end Sys2Proof.Machine
end

