-- ==== Sys2Proof/Machine/Busy.lean ====
section
/-! DEFINITION. The counters of arithmetic clocks: what the engines and the expander of a hoop do while a nanosecond passes
(R140, R153, R230, R231, R377, R379; log entry 60). -/
namespace Sys2Proof.Machine

/-- Units of 1,024 clocks that n more clocks complete, and the clocks left. -/
def clkUnits (k n : Nat) : Nat × Nat := ((k + n) / 1024, (k + n) % 1024)

/-- The duty of a hoop: the lesser of the device duty and that of its activity limiter (R377, R379). -/
def State.hoopDuty (s : State) (h : Nat) : Nat :=
  min (min s.capDuty s.pwr.thermDuty) (16 - Config.limiter s.now h % 16)

/-- Arithmetic clocks delivered to a hoop in one nanosecond, and the 160ths of a clock left (R376, R377). -/
def State.hoopClocks (s : State) (h : Nat) : Nat × Nat :=
  let n := (s.hoop h).phase + s.fld R.PWR_ARITH_present * s.hoopDuty h
  (n / 160, n % 160)

/-- Whether an instruction of the matrix queue runs on the LUT path: lut_mode is set, and its weights are integers. RC.LCONV
always runs on the array (R147, R153). -/
def State.onLutPath (s : State) (c : Nat) (q : InFlight) : Bool :=
  s.bit R.CORE_MM_CTRL_lut_mode c && !q.tiles.isEmpty &&
    !((s.hoop (c / 8)).tiles.any (fun t => q.tiles.contains (t.addr, t.blk) &&
      t.dat.cells.any (fun l => l.any (fun x => match x with
        | .flt _ => true
        | _ => false))))

/-- The instruction in flight is one of the recurrence class. -/
def InFlight.isRc (q : InFlight) : Bool := q.word.toNat / 2 ^ 60 == clsRC

/-- A hoop's engines hold work, or its expander does. -/
def State.engaged (s : State) (h : Nat) : Bool :=
  (s.hoop h).tiles.any (fun t => !t.valid && !t.corrupt) ||
    (List.range 8).any (fun j =>
      let k := s.core (8 * h + j)
      !(k.mm.isEmpty && k.rc.isEmpty && k.vx.isEmpty && k.at'.isEmpty))

/-- n arithmetic clocks of one core's engines: the instruction at the head of each queue works, or waits for its tiles
(COREc_MM_BUSY, COREc_MM_STAGE_WAIT, COREc_RC_BUSY, COREc_VX_BUSY, COREc_AT_BUSY). -/
def State.coreClocks (s : State) (c n : Nat) : State :=
  let k := s.core c
  let mm := k.mm.head?
  let ready (q : InFlight) : Bool := s.staged (c / 8) q
  let works := mm.any ready
  let lut := mm.any (fun q => ready q && s.onLutPath c q)
  let add (b : Bool) (x : Nat) : Nat × Nat := clkUnits x (if b then n else 0)
  let a := add (works && !lut) k.mmClk
  let w := add (mm.any (fun q => !ready q)) k.stageClk
  let r := add (!k.rc.isEmpty || mm.any (fun q => ready q && q.isRc)) k.rcClk
  let v := add (k.vx.head?.any ready || lut) k.vxClk
  let t := add (!k.at'.isEmpty) k.atClk
  if k.mm.isEmpty && k.rc.isEmpty && k.vx.isEmpty && k.at'.isEmpty then s
  else
    let s := s.updCore c (fun x => { x with mmClk := a.2, stageClk := w.2, rcClk := r.2, vxClk := v.2, atClk := t.2 })
    ((((s.count R.CORE_MM_BUSY_count a.1 c).count R.CORE_MM_STAGE_WAIT_count w.1 c).count R.CORE_RC_BUSY_count r.1 c).count
      R.CORE_VX_BUSY_count v.1 c).count R.CORE_AT_BUSY_count t.1 c

/-- An instruction at the head of a matrix or vector queue of the hoop waits for a tile that is in the expander. -/
def State.awaitsTile (s : State) (h : Nat) : Bool :=
  (List.range 8).any (fun j =>
    let k := s.core (8 * h + j)
    (k.mm.head?.toList ++ k.vx.head?.toList).any (fun q => q.want.isEmpty &&
      (s.hoop h).tiles.any (fun t => !t.valid && !t.corrupt && q.tiles.contains (t.addr, t.blk))))

/-- n arithmetic clocks of a hoop's expander: it waits for input, or it produces, and a clock in which an instruction waits
for what it produces is a stall clock of the hoop and of the sections that run (R230, R231). -/
def State.expanderClocks (s : State) (h n : Nat) : State :=
  let k := s.hoop h
  if !(k.tiles.any (fun t => !t.valid && !t.corrupt)) then s
  else if Config.inputLate s.now h then
    let u := clkUnits k.inwaitClk n
    (s.updHoop h (fun x => { x with inwaitClk := u.2 })).count R.HOOP_EXP_INWAIT_count u.1 h
  else if s.awaitsTile h then
    let u := clkUnits k.stallClk n
    (s.updHoop h (fun x => { x with
      stallClk := u.2
      sections := x.sections.map (fun y => if y.phase = .running ∨ y.phase = .commitWait then { y with stall := y.stall + n } else y)
      })).count R.HOOP_EXP_STALL_count u.1 h
  else s

/-- The arithmetic clocks that one nanosecond delivers to a hoop. -/
def State.hoopRun (s : State) (h : Nat) : State :=
  let p := s.hoopClocks h
  let s := s.updHoop h (fun k => { k with phase := p.2 })
  if p.1 = 0 then s
  else (List.range 8).foldl (fun (s : State) j => s.coreClocks (8 * h + j) p.1) (s.expanderClocks h p.1)

/-- The arithmetic clocks of one nanosecond in every powered hoop whose engines or expander work. -/
def State.clockRun (s : State) : State :=
  let t := (List.range 16).foldl (fun (s : State) h => if s.hoopOn h && s.engaged h then s.hoopRun h else s) s
  { t with pending := s.pending, fuses := s.fuses, clk := s.clk }

end Sys2Proof.Machine
end

