-- ==== Sys2Proof/Machine/Time.lean ====
section
/-! DEFINITION. One nanosecond of the clocks: device time with its trim and slew (R17, R262, R309), the RTC (R373), the
idle time of powered hoops (R378), and the clocks that their engines work (R377). -/
namespace Sys2Proof.Machine

/-- The frequency trim in parts per 10^9: signed, within 200,000; it disciplines device time while PTP acts on it (R261, R309,
ETH_TIME_FREQ). -/
def State.trim (s : State) : Int :=
  if s.ptpActs then max (-200000) (min 200000 (BitVec.ofNat 24 (s.fld R.ETH_TIME_FREQ_ppb)).toInt) else 0

/-- ns that the collected trim adds or takes now, and what is left of it. -/
def trimStep (acc : Int) : Int × Int :=
  if 1000000000 ≤ acc then (1, acc - 1000000000)
  else if acc ≤ -1000000000 then (-1, acc + 1000000000)
  else (0, acc)

/-- ns that slewing adds or takes now: one in 5,000 at most, which is 200 ppm, and never beside one the trim takes. -/
def slewStep (k : Clk) (trim : Int) : Int :=
  if k.slew = 0 ∨ k.slewAcc + 1 < 5000 ∨ trim < 0 then 0 else if 0 < k.slew then 1 else -1

/-- Device time runs on by one nanosecond of REFCLK; it never moves backwards (R262). -/
def Clk.run (k : Clk) (ppb : Int) : Clk :=
  let (a, rest) := trimStep (k.freqAcc + ppb)
  let b := slewStep k a
  { k with
    time := k.time + (1 + a + b).toNat
    freqAcc := rest
    slew := k.slew - b
    slewAcc := if k.slew = 0 ∨ b ≠ 0 then 0 else k.slewAcc + 1 }

/-- The RTC counts 32,768 ticks a second while the crystal gives edges (R373, R392). -/
def State.rtcRun (s : State) : State :=
  if !s.pwr.edges then s else
  let n := s.clk.rtcAcc + 32768
  let s : State := { s with clk := { s.clk with rtcAcc := n % 1000000000 } }
  if 1000000000 ≤ n then s.put R.PWR_RTC_ticks (s.fld R.PWR_RTC_ticks + 1) else s

/-- A powered hoop that is not idle starts its idle time anew (R378). -/
def State.idleRun (s : State) : State :=
  (List.range 16).foldl (fun (s : State) h =>
    if s.hoopOn h && !s.hoopIdle h then s.updHoop h (fun k => { k with idleSince := s.now }) else s) s

/-- The UART sends: a character ends, and the next one takes the rate set by then; it waits while the Colophon restarts (R320,
R326, R342). -/
def State.uartRun (s : State) : State :=
  if s.colo.shown.isSome then s else
  match s.colo.uartTx with
  | [] => s
  | b :: l =>
    if 1 < s.colo.txLeft then { s with colo := { s.colo with txLeft := s.colo.txLeft - 1 } }
    else
      let s : State := { s with colo := { s.colo with uartTx := l, txLeft := s.charNs } }
      (s.put R.MISC_UART_STAT_tx_busy (!l.isEmpty).toNat).send (.uart b)

/-- Once the Spine runs, the Colophon relays the Spine OS console over the UART: its characters, which are software's, are free
values (R320, log entry 82). -/
def State.consoleRun (s : State) : State :=
  if s.spine.phase = .running then s.uartSend (Config.console s.now) else s

/-- In a power-down the next enable falls 1 ms after the last one (R372). -/
def State.downRun (s : State) : State :=
  match s.pwr.fellAt with
  | some t => if t + ms ≤ s.pwr.up then s.enableFall else s
  | none => s

/-- One nanosecond of the always-on domain: the RTC, the UART, a power-down, and the time that the Colophon's firmware takes to
start. -/
def State.aonRun (s : State) : State :=
  if !s.pwr.aon then s
  else
    let s : State := { s with pwr := { s.pwr with up := s.pwr.up + 1 } }
    let s := s.rtcRun.uartRun.downRun
    if s.colo.phase = .starting then { s with colo := { s.colo with age := s.colo.age + 1 } } else s

/-- What a nanosecond does in the main domain. -/
def State.mainRun (s : State) : State :=
  if !s.mainOn then s else ({ s with clk := s.clk.run s.trim } : State).retireRun.idleRun.clockRun.trainRun.consoleRun

/-- One nanosecond passes with no command (log entry 6). -/
def State.tick (s : State) : State := s.within s.aonRun.mainRun

end Sys2Proof.Machine
end

