-- ==== Sys2Proof/Machine/Lands.lean ====
section
/-! DEFINITION. What every output land shows outside parties in each state of the device (R2, R307, R324, Tables 11-6, 12-6
and 16-7). -/
namespace Sys2Proof.Machine

/-- The output lands, and the optical transmitter of each link. -/
inductive Land where
  | bclk (a : SapId)
  | fsync (a : SapId)
  | mclkOut (a : SapId)
  | line (a : SapId) (l : Fin 4)
  | sapg (g : Fin 4)
  | ethTx (e : Fin 2)
  | rgmii
  | mdc
  | mdio
  | uartTx
  | qspi (slotB : Bool)
  | qspiCs (slotB : Bool)
  | tdo
  | en (r : Fin 8)
  | alertN
  | avs
  | pmb
  | optic (l : LinkId)
deriving DecidableEq, Repr

/-- What a land shows: nothing (high-impedance, or an open-drain bus released), a level, the audio PLL's output of a family
over a divider in 65,536ths, its function's signals, no signal at a transmitter, or its boundary cell (R363). -/
inductive Drive where
  | highZ
  | released
  | low
  | high
  | clock (family div : Nat)
  | active
  | dark
  | boundary
deriving DecidableEq, Repr

/-- A level. -/
def Drive.level (b : Bool) : Drive := if b then .high else .low

/-- BCLK and FSYNC of a port (Tables 11-1 and 11-6): a master drives them low while OFF once it has been configured as one,
and FSYNC low in mode PDM; IEC modes use neither. -/
def State.clockLand (s : State) (a : SapId) (sync : Bool) : Drive :=
  if s.sapState a = 0 then (if (s.sap a).master then .low else .highZ)
  else if s.slave a ∨ 5 ≤ s.mode a then .highZ
  else if s.mode a = 4 ∧ sync then .low
  else if sync then .active
  else .clock (s.fld R.SAP_CLK_family a) (s.sapDiv a)

/-- MCLK_OUT: the PLL's output over mclk_div while mclk_en is 1, else low; a port that is OFF and was never a master drives
nothing. -/
def State.mclkLand (s : State) (a : SapId) : Drive :=
  if s.sapState a = 0 ∧ !(s.sap a).master then .highZ
  else if s.bit R.SAP_CLK_mclk_en a ∧ s.fld R.SAP_CLK_mclk_div a ≠ 0 ∧ s.bit R.AUD_PLL_STAT_lock48 then
    .clock (s.fld R.SAP_CLK_family a) (s.fld R.SAP_CLK_mclk_div a * 65536)
  else .low

/-- A data line: an output drives data in RUN, zero audio of an IEC port in LEAD and TAIL, and low otherwise. -/
def State.lineLand (s : State) (a : SapId) (l : Fin 4) : Drive :=
  if !(s.outLines a).testBit l ∨ (s.sapState a = 0 ∧ !(s.sap a).master) then .highZ
  else if s.sapState a = 2 ∨ (s.mode a = 6 ∧ (s.sapState a = 1 ∨ s.sapState a = 3)) then .active
  else .low

/-- A module bus carries a Spine transfer or the read of a module's identity (R322, R325, Table 12-6). -/
def State.busHeld (s : State) (g : Nat) : Bool := s.bit R.MISC_I2C_STAT_busy g || !(s.i2c g).ident.isEmpty

/-- A land in the main domain, which drives it only while it runs. -/
def State.mainLand (s : State) (off on : Drive) : Drive := if s.mainOn then on else off

/-- A land in the always-on domain, held only while AON_POR_N is low. -/
def State.aonLand (s : State) (off on : Drive) : Drive := if s.pwr.aon then on else off

/-- What a land shows in the device's present state. TDO drives only while an access shifts, and no access is left unfinished
between two commands. -/
def State.land (s : State) : Land → Drive
  | .bclk a => s.mainLand .highZ (s.clockLand a false)
  | .fsync a => s.mainLand .highZ (s.clockLand a true)
  | .mclkOut a => s.mainLand .highZ (s.mclkLand a)
  | .line a l => s.mainLand .highZ (s.lineLand a l)
  | .sapg g => s.mainLand .released (if s.busHeld g then .active else .released)
  | .ethTx e => s.mainLand .dark (if s.bit R.ETH_CTRL_enable e then .active else .dark)
  | .rgmii => s.aonLand .highZ .active
  | .mdc => s.aonLand .highZ .active
  | .mdio => s.aonLand .highZ .active
  | .uartTx => s.aonLand .highZ (if s.bit R.MISC_UART_STAT_tx_busy then .active else .high)
  | .qspi _ => s.aonLand .highZ .active
  | .qspiCs _ => s.aonLand .highZ .high
  | .tdo => .highZ
  | .en r => s.aonLand .highZ (Drive.level (s.pwr.enables.getLsbD r))
  | .alertN => s.aonLand .highZ (Drive.level (!s.bit R.PWR_STAT_alert))
  | .avs => s.aonLand .highZ (if s.pwr.enables.getLsbD 0 then .active else .low)
  | .pmb => s.aonLand .released .active
  | .optic l => s.mainLand .dark (if s.linkOn l ∧ s.bit R.FLNK_STAT_laser_ok l then .active else .dark)

/-- The land has a boundary cell, and its domain has power: VDD_IO for the serial audio ports and Ethernet, the always-on rails
for the others (Table 1-6, Table 16-7). TDO shifts, and an optical transmitter is no land. -/
def State.cellOn (s : State) : Land → Bool
  | .bclk _ => s.pwr.enables.getLsbD 2
  | .fsync _ => s.pwr.enables.getLsbD 2
  | .mclkOut _ => s.pwr.enables.getLsbD 2
  | .line _ _ => s.pwr.enables.getLsbD 2
  | .sapg _ => s.pwr.enables.getLsbD 2
  | .ethTx _ => s.pwr.enables.getLsbD 2
  | .tdo => false
  | .optic _ => false
  | _ => true

/-- The land under boundary scan: while the port is unlocked, EXTEST drives every land that has power from its boundary cell
(R363). -/
def State.landShown (s : State) (l : Land) : Drive :=
  if s.pwr.aon ∧ s.bit R.SEC_DEBUG_unlocked ∧ s.jtag.drive ∧ s.cellOn l then .boundary else s.land l

end Sys2Proof.Machine
end

