-- ==== Sys2Proof/Safety.lean ====
section
/-! DEFINITION. The terms that statements about the machine use: a command that its port may give, a core that takes up an
instruction, what a scalar instruction leaves, what a fuse array keeps, and the canonical form of memory. -/
namespace Sys2Proof.Machine

/-- Local memory is in canonical form: addresses strictly rising, no byte listed that reads as an unlisted one. -/
def Memory.wf (m : List Host.Cell) : Bool := SMap.wf 0 m

/-- A register command reaches its register: its port gives commands, the port's level permits the write, the register is
none that a Spine restart pauses, and its domain has power (R2, R12, R336, R360, R387). -/
abbrev Permit (s : State) (p : Port) (a : Nat) : Prop :=
  s.portQuiet p = false ∧ s.mayWrite p a = true ∧ (s.spineDown = true → pausedReg a = false)
    ∧ (alwaysOn a = true ∨ s.mainOn = true)

/-- A core takes up an instruction: it executes, no fault of an earlier one waits, the fetch succeeds, and the bits that
the encoding marks zero are zero (R97, R99, R105, R107, R108). -/
abbrev Takes (s : State) (c : CoreId) (w : W64) (zeros : Nat) : Prop :=
  s.executing c = true ∧ (s.core c).remoteFault = none ∧ (s.core c).deferred = none ∧ (s.core c).faulting = false
    ∧ s.fetchAt c = .ok ∧ (s.core c).icBad.contains (s.core c).pc = false ∧ w.toNat &&& zeros = 0

/-- The register s[r] of a core; s0 reads as zero. -/
def State.sreg (s : State) (c r : Nat) : W64 := (s.core c).getS r

/-- The pc of a core. -/
def State.pcOf (s : State) (c : Nat) : BitVec 52 := (s.core c).pc

/-- An instruction retires: the core drops the remote lines delivered for it and goes on at pc. -/
def State.goOn (s : State) (c : CoreId) (pc : BitVec 52) : State := (s.dropRx c.val).updCore c (fun k => { k with pc := pc })

/-- A fault of an instruction's work: the core drops the remote lines delivered for it and takes the fault. -/
def State.faulted (s : State) (c : CoreId) (w : W64) (f : CFlt) : State := (s.dropRx c.val).raise c w f

/-- What a scalar instruction leaves that writes v to s[r] and goes on at pc: that core's registers and the delivered
remote lines apart, everything stays. -/
def State.scalarDone (s : State) (c : CoreId) (r : Nat) (v : W64) (pc : BitVec 52) : State :=
  (s.updCore c (fun k => k.setS r v)).goOn c pc

/-- The command's outcome is the next state t, with the queue and the fuse array as they were. -/
abbrev Leads (i : Instr) (s t : State) : Prop := exec i s = .next (s.within t)

/-- The command's outcome where an instruction's work leaves t: the next state is t with the instruction retired and the pc
at the next word. -/
def Retires (i : Instr) (c : CoreId) (s t : State) : Prop := exec i s = .next (s.within (t.goOn c (t.pcOf c + 8)))

/-- A transaction of peer src that is no memory request, in its turn in its flow and held back by nothing, leaves p.1 and is
answered by p.2 (R259). -/
def Comes (i : Instr) (src : DevNum) (cls : Nat) (h : FlowPos) (m : Note) (s : State) (p : State × PeerAns) : Prop :=
  let r : PeerReq := { seq := h.seq, tag := h.tag, op := .note m }
  s.turnOf src.toNat cls r = true → Leads i s (State.turnEnd src.toNat cls r p)

/-- The vector register v[r], mask m[r] and descriptor t[r] of a core. -/
def State.vreg (s : State) (c r : Nat) : BitVec 2048 := SMap.get 0 (s.core c).v r
def State.mreg (s : State) (c r : Nat) : BitVec 256 := SMap.get 0 (s.core c).m r
def State.treg (s : State) (c r : Nat) : BitVec 256 := SMap.get 0 (s.core c).t r

/-- One vector register, or one descriptor, written; the words of a vector register written are sound (R211). -/
def State.withV (s : State) (c r : Nat) (x : BitVec 2048) : State :=
  (s.updCore c (fun k => { k with v := SMap.put 0 k.v r x })).sramClear (vrfAddr c r 0) 256
def State.withT (s : State) (c r : Nat) (x : BitVec 256) : State := s.updCore c (fun k => { k with t := SMap.put 0 k.t r x })

/-- Saturations, NaNs and clamps counted in a core's counters (R74, R160). -/
def State.counted (s : State) (c : Nat) (k : Cnt) : State :=
  ((s.count R.CORE_NUM_SAT_count k.sat c).count R.CORE_NUM_NAN_count k.nan c).count R.CORE_RC_CLAMP_count k.clamp c

/-- The words of the vector registers that a lane instruction names are sound (R211). -/
abbrev LanesSound (s : State) (c : Nat) (ops : BitVec 52) : Prop :=
  ∀ r ∈ [fldA ops, fldB ops, fldC ops], s.sramWords (vrfAddr c r 0) 256 = []

/-- The flag that an operand with a zero bound leaves (R103). -/
def State.emptied (s : State) (c : CoreId) : State := s.updCore c (fun k => { k with flags := k.flags ||| (1#32 <<< 0) })

/-- An instruction's work has at hand what it needs: it asks for no remote line and no recall, and waits for nothing. -/
def AtHand {α : Type} (m : M α) (s : State) : Bool :=
  match m s with
  | .ok _ => true
  | .error (.flt _) => true
  | .error _ => false

/-- An engine instruction i of core c, from its issue checks on: a failed check is raised; a full queue makes it wait; with
an empty operand it sets the flag and retires; else, with its bytes at hand, its work is done, a fault of the work goes
with its queue entry, and it retires (R103, R104, R122, R123). -/
def Carried {α : Type} (i : Instr) (c : CoreId) (w : W64) (s : State) (check : M α) (eng : α → State → Engine)
    (empty : α → Bool) (work : α → State → M Work) (shad : α → State → Option Shad := fun _ _ => none)
    (leaves : α → List Nat := fun _ => []) (ready : State → Prop := fun _ => True) : Prop :=
  (∀ f, check s = .error (.flt f) → Leads i s (s.faulted c w f)) ∧
  (∀ o u, check s = .ok (o, u) → ready u →
    (16 ≤ ((u.core c).queue (eng o u)).length → Leads i s s) ∧
    (((u.core c).queue (eng o u)).length < 16 →
      (empty o = true → Retires i c s (u.emptied c)) ∧
      (empty o = false → AtHand (work o u) u = true →
        ∃ r t, execPart (work o u) u = .ok (r, t) ∧ Retires i c s (t.dispatched c (eng o u) w r (shad o u) (leaves o)))))

/-- No engine of a core but its data mover has an instruction in flight, and the core's writes to other devices are
acknowledged (R107). -/
abbrev Settled (c : CoreId) (s : State) : Prop :=
  (s.core c).mm = [] ∧ (s.core c).rc = [] ∧ (s.core c).vx = [] ∧ (s.core c).at' = [] ∧ s.settled c = true

/-- n bytes of a tensor's memory that a core reads at an address of it, where no word among them is uncorrectable and no
remote line is missing; and the state that the read leaves. -/
def State.tensorBytes (s : State) (c : CoreId) (t : Desc) (a n : Nat) : Option (List Byte × State) :=
  if 2 ≤ t.kind then
    if s.sramBad (placeOf c t.kind a) n = [] then
      some (s.sramRead c t.kind a n, s.sramCheck (placeOf c t.kind a) n)
    else none
  else
    let b := if t.kind = 0 then localAddr a else a
    match s.readToile c b n with
    | .bytes l => some (l, s.checked b n)
    | _ => none

/-- The lanes of v[r] at the width of an instruction's format. -/
def State.lanesAt (s : State) (c r : Nat) (ops : BitVec 52) : Array Nat := lanes (elemBits (vxFmt ops)) (s.vreg c r)

/-- The lane i is active under an instruction's mask (R177). -/
def State.laneOn (s : State) (c : Nat) (ops : BitVec 52) (i : Nat) : Bool :=
  !vxMasked ops || governs (s.mreg c (vxMask ops)) (elemBits (vxFmt ops)) i

/-- The lanes of v[A] after a lane instruction whose active lanes take f of their index and their old value, the others
keeping theirs; the saturations and NaNs counted (R74, R177). -/
def State.lanesMapped (s : State) (c : Nat) (ops : BitVec 52) (f : Nat → Nat → NM Nat) : State :=
  let n := elemBits (vxFmt ops)
  let old := fun i => (s.lanesAt c (fldA ops) ops).getD i 0
  let r := ((List.range (lanesOf n)).mapM (fun i => if s.laneOn c ops i then f i (old i) else pure (old i)) : NM (List Nat)).run {}
  (s.counted c r.2).withV c (fldA ops) (ofLanes n r.1)

/-- What a lane instruction leaves whose active lanes of v[A] take f: the register, and the instruction in its queue. -/
def State.lanesRun (s : State) (c : CoreId) (ops : BitVec 52) (w : W64) (f : Nat → Nat → NM Nat) : State :=
  (s.lanesMapped c ops f).dispatched c .vx w {}

/-- The same for lane values that nothing is counted with. -/
def State.lanesSet (s : State) (c : CoreId) (ops : BitVec 52) (w : W64) (f : Nat → Nat) : State :=
  let n := elemBits (vxFmt ops)
  (s.withV c (fldA ops) (ofLanes n ((List.range (lanesOf n)).map (fun i =>
    if s.laneOn c ops i then f i else (s.lanesAt c (fldA ops) ops).getD i 0)))).dispatched c .vx w {}

/-- No fuse of the first array is unblown in the second (R347). -/
abbrev Fuses.kept (a b : Fuses) : Prop :=
  a.lifecycle ≤ b.lifecycle ∧ a.svnFloor ≤ b.svnFloor ∧ a.ownerDigest &&& b.ownerDigest = a.ownerDigest
    ∧ { b with lifecycle := a.lifecycle, svnFloor := a.svnFloor, ownerDigest := a.ownerDigest } = a

/-- A fuse array that Table 14-1 has: at most seven lifecycle bits in their order, at most 64 bits of svn_floor. -/
abbrev Fuses.legal (f : Fuses) : Prop := f.lifecycle ≤ 3 ∧ f.svnFloor ≤ 64

/-! ### Commands by the register they write, and events of the main domain -/

/-- The port and the register of a command that a register write gives (R360, Table 14-10). -/
def commandReg (i : Instr) : Option (Port × Nat) :=
  match i with
  | .folOpen p _ => some (p, folCmdAddr)
  | .folClose p _ => some (p, folCmdAddr)
  | .folReset p _ => some (p, folCmdAddr)
  | .folMove p _ => some (p, folCmdAddr)
  | .coreResumeWrite p c => some (p, coreCtrlAddr c)
  | .atFree p h _ => some (p, R.HOOP_AT_FREE_leaf.addr h.val 0)
  | .hbmRecal p _ _ => some (p, R.HBM_RECAL_pc.addr 0 0)
  | .tcInval p h _ => some (p, R.HOOP_TC_INVAL_all.addr h.val 0)
  | .dtLoad p h _ _ => some (p, R.HOOP_DT_LOAD_addr.addr h.val 0)
  | .bndRegister p _ => some (p, R.FOL_BND_CMD_op.addr 0 0)
  | .bndDeregister p _ => some (p, R.FOL_BND_CMD_op.addr 0 0)
  | .bndLoad p _ => some (p, R.FOL_BND_CMD_op.addr 0 0)
  | .bndUnload p _ => some (p, R.FOL_BND_CMD_op.addr 0 0)
  | .bndSwap p _ => some (p, R.FOL_BND_CMD_op.addr 0 0)
  | .linkEnable p l _ => some (p, R.FLNK_CTRL_enable.addr l 0)
  | .linkRetrain p l => some (p, R.FLNK_CTRL_enable.addr l 0)
  | .toileDevnumWrite p _ => some (p, R.TOILE_DEVNUM_devnum.addr 0 0)
  | .toileRtConfirm p _ _ => some (p, R.TOILE_RT_CONFIRM_dev.addr 0 0)
  | .repartner p _ _ => some (p, R.TOILE_CMD_op.addr 0 0)
  | .rejoin p => some (p, R.TOILE_CMD_op.addr 0 0)
  | .toileQuorumWrite p _ => some (p, R.TOILE_QUORUM_members.addr 0 0)
  | .xcmdRead p _ => some (p, R.TOILE_XCMD_op.addr 0 0)
  | .xcmdWrite p _ => some (p, R.TOILE_XCMD_op.addr 0 0)
  | .xcmdAdd p _ => some (p, R.TOILE_XCMD_op.addr 0 0)
  | .xcmdCas p _ => some (p, R.TOILE_XCMD_op.addr 0 0)
  | .xcmdMax p _ => some (p, R.TOILE_XCMD_op.addr 0 0)
  | .takeReadLease p _ => some (p, R.TOILE_XCMD_op.addr 0 0)
  | .releaseReadLease p _ => some (p, R.TOILE_XCMD_op.addr 0 0)
  | .sapStart p a _ => some (p, R.SAP_CTRL_start.addr a 0)
  | .sapStop p a _ => some (p, R.SAP_CTRL_start.addr a 0)
  | .sapRestart p a _ => some (p, R.SAP_CTRL_start.addr a 0)
  | .audGrpStart p k _ => some (p, R.AUD_GRP_START_time.addr k 0)
  | .audGrpStop p k => some (p, R.AUD_GRP_CTRL_stop.addr k 0)
  | .audBind p _ => some (p, R.AUD_BIND_CMD_op.addr 0 0)
  | .audUnbind p _ => some (p, R.AUD_BIND_CMD_op.addr 0 0)
  | .audChGainWrite p ch _ => some (p, R.AUD_CH_GAIN_gain.addr ch 0)
  | .audChSrcWrite p ch _ => some (p, R.AUD_CH_SRC_port.addr ch 0)
  | .audOutEnable p o _ => some (p, R.AUD_OUT_BASE_base.addr o 0)
  | .ethTimeAdj p _ => some (p, R.ETH_TIME_ADJ_offset_ns.addr 0 0)
  | .ingressAdd p _ => some (p, ingressCmdAddr)
  | .ingressDelete p _ => some (p, ingressCmdAddr)
  | .ingressBind p _ _ => some (p, ingressCmdAddr)
  | .ingressUnbind p _ => some (p, ingressCmdAddr)
  | .push p _ => some (p, R.INGRESS_PUSH0_folio.addr 0 0)
  | .i2cWrite p g _ => some (p, R.MISC_I2C_CMD_op.addr g 0)
  | .i2cRead p g _ => some (p, R.MISC_I2C_CMD_op.addr g 0)
  | .i2cWriteRead p g _ => some (p, R.MISC_I2C_CMD_op.addr g 0)
  | .entdaa p g _ => some (p, R.MISC_I2C_CMD_op.addr g 0)
  | .broadcastCcc p g _ => some (p, R.MISC_I2C_CMD_op.addr g 0)
  | .uartCfgWrite p _ => some (p, R.MISC_UART_CFG_baud.addr 0 0)
  | .attReport p => some (p, R.SEC_ATT_CMD_op.addr 0 0)
  | .attCert p => some (p, R.SEC_ATT_CMD_op.addr 0 0)
  | .retire p => some (p, R.COLO_SERVICE_retire.addr 0 0)
  | .hoopDrain p h _ => some (p, R.HOOP_MAINT_drain.addr h 0)
  | .ucodeLoad p h => some (p, R.HOOP_MAINT_drain.addr h 0)
  | .standby p => some (p, R.PWR_CMD_op.addr 0 0)
  | .run p => some (p, R.PWR_CMD_op.addr 0 0)
  | .deviceReset p => some (p, R.PWR_CMD_op.addr 0 0)
  | .pwrArithWrite p _ => some (p, R.PWR_ARITH_target.addr 0 0)
  | .pwrRtcWrite p _ => some (p, R.PWR_RTC_ticks.addr 0 0)
  | .ethTimeFreq p _ => some (p, R.ETH_TIME_FREQ_ppb.addr 0 0)
  | _ => none

/-- The events that happen in the main domain alone (R12, R370). -/
def mainEvent (i : Instr) : Bool :=
  match i with
  | .openComplete => true
  | .folioCloseComplete _ => true
  | .stateSwapOut _ => true
  | .stateLoad _ _ => true
  | .schedulerPick _ => true
  | .sectionFillTimeout _ _ => true
  | .sectionDeadlineClose _ _ => true
  | .sectionHandover _ _ => true
  | .sectionCommit _ _ => true
  | .commitComplete _ _ => true
  | .gatheringRelease _ => true
  | .coreResume _ => true
  | .watchdog _ => true
  | .combineRendezvous _ => true
  | .tileStaging _ => true
  | .tileExpanded _ _ => true
  | .tileUnpin _ _ => true
  | .coreSelfTest _ _ => true
  | .shadowArm _ => true
  | .shadowCheck _ => true
  | .residueRecovery _ _ => true
  | .atFreeDone _ => true
  | .patrolScrub => true
  | .recalAuto _ => true
  | .recalDone _ => true
  | .hbmTempReadout _ => true
  | .dtLoadComplete _ => true
  | .peerRead _ _ _ _ _ => true
  | .peerWrite _ _ _ _ _ => true
  | .peerAtomic _ _ _ _ _ _ _ => true
  | .completion _ _ => true
  | .recall _ _ _ => true
  | .readLeaseExpiry _ _ _ => true
  | .transactionForward _ => true
  | .resendTimeout _ => true
  | .transactionTimeout _ => true
  | .seqGapTimeout _ _ => true
  | .laserLoss _ _ => true
  | .laserRestore _ => true
  | .flitReceived _ _ _ _ _ => true
  | .ackReceived _ _ _ => true
  | .nakReceived _ _ => true
  | .replayTimeout _ => true
  | .replayLimit _ => true
  | .lossOfSignal _ => true
  | .fecErrorLimit _ => true
  | .trainTimeout _ => true
  | .retrainDelayEnd _ => true
  | .hello _ _ => true
  | .timeExchange _ => true
  | .timeMsg _ _ => true
  | .beatSend => true
  | .beat _ _ _ => true
  | .beatTimeout _ => true
  | .lineOpen _ _ _ _ => true
  | .lineOpenTimeout _ => true
  | .lineDelta _ _ _ _ _ _ _ => true
  | .lineFull _ _ _ _ _ _ _ => true
  | .lineAck _ _ _ _ _ => true
  | .deltaResend _ => true
  | .lineRel _ _ _ _ => true
  | .lineClose _ _ _ _ => true
  | .lineAudio _ _ _ _ _ _ _ => true
  | .leaseRenewSend => true
  | .leaseRenew _ _ _ _ => true
  | .leaseGrant _ _ _ => true
  | .grantExpiry _ => true
  | .leaseExpiry => true
  | .promoteResend _ => true
  | .leasePromote _ _ _ _ => true
  | .promoteHoldExpiry _ => true
  | .leaseJoin _ _ _ => true
  | .joinAnswerDue _ => true
  | .quorumQuietEnd => true
  | .leaseResign _ _ _ => true
  | .groupFrameZero _ => true
  | .groupFrame _ _ => true
  | .blockComplete _ => true
  | .portBlockWrite _ => true
  | .leadEnd _ _ => true
  | .tailEnd _ => true
  | .fsyncLoss _ => true
  | .relockDone _ => true
  | .rateWindow _ _ => true
  | .mclkInLoss => true
  | .audioPllRelock => true
  | .csBlockEnd _ => true
  | .zcTimeout _ => true
  | .rampEnd _ => true
  | .prsntChange _ _ => true
  | .moduleIdentityRead _ _ _ => true
  | .frameReceived _ _ => true
  | .packetWrite _ => true
  | .concealmentWrite _ => true
  | .frameTransmit _ _ => true
  | .i2cTransferEnd _ _ _ => true
  | .sclTimeout _ => true
  | .lockstepMismatch _ => true
  | .spineRestart => true
  | .spineReady => true
  | .spineCarryTimeout => true
  | .retireFence => true
  | .resignAck _ _ => true
  | .resignTimeout => true
  | .ucodeLoadDone _ => true
  | .spineOsLoaded => true
  | .hbmTrained => true
  | .hoopPowerOff _ => true
  | .hoopWakeGrant => true
  | .hoopWakeDone _ => true
  | .thermalSample _ => true
  | .laneLock _ => true
  | .linkStart _ => true
  | .slaveFrame _ _ _ => true
  | .audioPllLock => true
  | .ethLinkChange _ _ => true
  | .engineInstructionComplete _ _ => true
  | .readLeaseRequest _ _ _ _ => true
  | .engineSwitchOff _ => true
  | .leadStart _ => true
  | _ => false

/-- The register families whose write does more than set fields. -/
def specialFams : List Fam :=
    [R.AUD_BIND_CMD, R.AUD_CH_GAIN, R.AUD_CH_SRC, R.AUD_GRP_CFG, R.AUD_GRP_CTRL, R.AUD_GRP_START, R.AUD_OUT_BASE,
    R.AUD_PLL_CFG, R.COLO_SERVICE, R.CORE_CTRL, R.ETH_CTRL, R.ETH_TIME_ADJ, R.ETH_TIME_FREQ, R.FLNK_CTRL,
    R.FOL_BND_CMD, R.FOL_CMD, R.HBM_RECAL, R.HOOP_AT_FREE, R.HOOP_DT_LOAD, R.HOOP_MAINT, R.HOOP_TC_INVAL,
    R.INGRESS_CMD, R.INGRESS_PUSH0, R.MISC_I2C_CMD, R.MISC_UART_CFG, R.PWR_ALERT_MASK, R.PWR_ARITH, R.PWR_CMD,
    R.PWR_HOOP_CFG, R.PWR_RTC, R.SAP_CLK, R.SAP_CTRL, R.SAP_FMT, R.SAP_LEAD, R.SEC_ATT_CMD, R.TOILE_CMD,
    R.TOILE_DEVNUM, R.TOILE_QUORUM, R.TOILE_RT, R.TOILE_RT_CONFIRM, R.TOILE_XCMD]

end Sys2Proof.Machine
end

