-- ==== Sys2Proof/WellFormed.lean ====
section
/-! DEFINITION. Which commands are well formed: the sizes and ranges that their carriers give the operands. A meaning is
defined on every command; an ill-formed one is no command that the hardware can receive. -/
namespace Sys2Proof

/-- 1 to 64 lines of 64 bytes: what a READ or WRITE transaction moves (R258, Table 10-5). -/
def lineBytes (n : Nat) : Bool := n % 64 == 0 && decide (64 ≤ n ∧ n ≤ 4096)

/-- The data of a completion: whole lines, or none where it answers an atomic (Table 10-5). -/
def replyOk : Reply → Bool
  | .done d _ => d.isEmpty || lineBytes d.length
  | .refused => true
  | .ecc => true

/-- At most one frame of each audio port. -/
def portsOnce : List PortFrame → Bool
  | [] => true
  | x :: l => l.all (fun y => y.port != x.port) && portsOnce l

/-- At most one entry of each rail. -/
def railsOnce : List (Fin 10) → Bool
  | [] => true
  | x :: l => l.all (fun y => y != x) && railsOnce l

/-- The arguments of a management request: at most 1,024 bytes (R362). -/
def argBytes (n : Nat) : Bool := decide (n ≤ 1024)

/-- n bytes from an address lie in the 40-bit local address space (R20). -/
def inLocal (a : BitVec 40) (n : Nat) : Bool := decide (a.toNat + n ≤ 2 ^ 40)

/-- A debug access within the local address space. -/
def debugOk : DebugOp → Bool
  | .readReg _ => true
  | .writeReg _ _ => true
  | .readMem a n => inLocal a n
  | .writeMem a d => inLocal a d.length

/-- A command that its carrier can deliver. -/
def Instr.wellFormed : Instr → Bool
  | .regWrite _ _ w _ => w == 8 || w == 16 || w == 32 || w == 64
  | .folOpen _ _ => true
  | .openComplete => true
  | .folClose _ _ => true
  | .folioCloseComplete _ => true
  | .folReset _ _ => true
  | .folMove _ _ => true
  | .stateSwapOut _ => true
  | .stateLoad _ _ => true
  | .schedulerPick _ => true
  | .sectionFillTimeout _ _ => true
  | .sectionDeadlineClose _ _ => true
  | .sectionHandover _ _ => true
  | .sectionCommit _ _ => true
  | .commitComplete _ _ => true
  | .gatheringRelease _ => true
  | .stNext _ _ => true
  | .stEmit _ _ => true
  | .stReset _ _ => true
  | .stCommit _ _ => true
  | .illegalInstruction _ _ => true
  | .coreResumeWrite _ _ => true
  | .coreResume _ => true
  | .watchdog _ => true
  | .scAdd _ _ => true
  | .scSub _ _ => true
  | .scMul _ _ => true
  | .scAnd _ _ => true
  | .scOr _ _ => true
  | .scXor _ _ => true
  | .scShl _ _ => true
  | .scShr _ _ => true
  | .scSra _ _ => true
  | .scMin _ _ => true
  | .scMax _ _ => true
  | .scMinu _ _ => true
  | .scMaxu _ _ => true
  | .scSlt _ _ => true
  | .scSltu _ _ => true
  | .scAddi _ _ => true
  | .scAndi _ _ => true
  | .scOri _ _ => true
  | .scShli _ _ => true
  | .scShri _ _ => true
  | .scSrai _ _ => true
  | .scSlti _ _ => true
  | .scLi _ _ => true
  | .scLih _ _ => true
  | .scLd _ _ => true
  | .scLdw _ _ => true
  | .scSt _ _ => true
  | .scStw _ _ => true
  | .scB _ _ => true
  | .scBeq _ _ => true
  | .scBne _ _ => true
  | .scBlt _ _ => true
  | .scBge _ _ => true
  | .scBltu _ _ => true
  | .scBgeu _ _ => true
  | .scBf _ _ => true
  | .scCall _ _ => true
  | .scJr _ _ => true
  | .scRdf _ _ => true
  | .scClf _ _ => true
  | .scCrr _ _ => true
  | .scCrw _ _ => true
  | .scTime _ _ => true
  | .scId _ _ => true
  | .scNop _ _ => true
  | .dmCopy _ _ => true
  | .dmPref _ _ => true
  | .dmPack _ _ => true
  | .dmTld _ _ => true
  | .dmTst _ _ => true
  | .dmTbase _ _ => true
  | .dmTcap _ _ => true
  | .dmRdw _ _ => true
  | .dmWrw _ _ => true
  | .dmVld _ _ => true
  | .dmVst _ _ => true
  | .syFence _ _ => true
  | .syBar _ _ => true
  | .mmGrp _ _ => true
  | .mmLut _ _ => true
  | .mmCombine _ _ => true
  | .combineRendezvous _ => true
  | .mmTalloc _ _ => true
  | .mmTfree _ _ => true
  | .tileStaging _ => true
  | .tileExpanded _ _ => true
  | .tileUnpin _ _ => true
  | .coreSelfTest _ _ => true
  | .shadowArm _ => true
  | .shadowCheck _ => true
  | .residueRecovery _ _ => true
  | .rcGate _ _ => true
  | .rcScan _ _ => true
  | .rcLconv _ _ => true
  | .rcAnchor _ _ => true
  | .vxAdd _ _ => true
  | .vxSub _ _ => true
  | .vxMul _ _ => true
  | .vxFma _ _ => true
  | .vxMax _ _ => true
  | .vxMin _ _ => true
  | .vxAbs _ _ => true
  | .vxLog _ _ => true
  | .vxShf _ _ => true
  | .vxCmp _ _ => true
  | .vxSel _ _ => true
  | .vxSplat _ _ => true
  | .vxIota _ _ => true
  | .vxCvt _ _ => true
  | .vxFn _ _ => true
  | .vxCmpr _ _ => true
  | .vxExpd _ _ => true
  | .vxPerm _ _ => true
  | .vxRed _ _ => true
  | .vxQnt _ _ => true
  | .vxDq _ _ => true
  | .vxHad _ _ => true
  | .vxRowg _ _ => true
  | .vxRows _ _ => true
  | .atWin _ _ => true
  | .atAppend _ _ => true
  | .atFree _ _ _ => true
  | .atFreeDone _ => true
  | .patrolScrub => true
  | .recalAuto _ => true
  | .hbmRecal _ _ _ => true
  | .recalDone _ => true
  | .hbmTempReadout _ => true
  | .tcInval _ _ _ => true
  | .dtLoad _ _ _ _ => true
  | .dtLoadComplete _ => true
  | .bndRegister _ _ => true
  | .bndDeregister _ _ => true
  | .bndLoad _ _ => true
  | .bndUnload _ _ => true
  | .bndSwap _ _ => true
  | .peerRead _ _ _ _ n => lineBytes n
  | .peerWrite _ _ _ _ d => lineBytes d.length
  | .peerAtomic _ _ _ _ _ _ _ => true
  | .completion _ r => match r with | .reply _ x => replyOk x | _ => true
  | .recall _ _ _ => true
  | .readLeaseExpiry _ _ n => decide (n < 2 ^ 28)
  | .transactionForward _ => true
  | .resendTimeout _ => true
  | .transactionTimeout _ => true
  | .seqGapTimeout _ _ => true
  | .laserLoss _ _ => true
  | .laserRestore _ => true
  | .flitReceived _ _ _ m _ => decide (m ≤ 15)
  | .ackReceived _ _ _ => true
  | .nakReceived _ _ => true
  | .replayTimeout _ => true
  | .replayLimit _ => true
  | .lossOfSignal _ => true
  | .fecErrorLimit _ => true
  | .linkEnable _ _ _ => true
  | .linkRetrain _ _ => true
  | .trainTimeout _ => true
  | .retrainDelayEnd _ => true
  | .hello _ _ => true
  | .toileDevnumWrite _ _ => true
  | .toileRtConfirm _ _ _ => true
  | .timeExchange _ => true
  | .timeMsg _ _ => true
  | .beatSend => true
  | .beat _ _ _ => true
  | .beatTimeout _ => true
  | .lineOpen _ _ _ _ => true
  | .lineOpenTimeout _ => true
  | .lineDelta _ _ _ _ _ _ _ => true
  | .lineFull _ _ _ _ _ _ _ => true
  | .lineAck _ _ _ _ _ => true
  | .deltaResend _ => true
  | .lineRel _ _ _ _ => true
  | .lineClose _ _ _ _ => true
  | .lineAudio _ _ _ _ _ _ _ => true
  | .repartner _ _ _ => true
  | .rejoin _ => true
  | .leaseRenewSend => true
  | .leaseRenew _ _ _ _ => true
  | .leaseGrant _ _ _ => true
  | .grantExpiry _ => true
  | .leaseExpiry => true
  | .promoteResend _ => true
  | .leasePromote _ _ _ _ => true
  | .promoteHoldExpiry _ => true
  | .leaseJoin _ _ _ => true
  | .joinAnswerDue _ => true
  | .quorumQuietEnd => true
  | .toileQuorumWrite _ _ => true
  | .leaseResign _ _ _ => true
  | .xcmdRead _ _ => true
  | .xcmdWrite _ _ => true
  | .xcmdAdd _ _ => true
  | .xcmdCas _ _ => true
  | .xcmdMax _ _ => true
  | .takeReadLease _ _ => true
  | .releaseReadLease _ _ => true
  | .sapStart _ _ _ => true
  | .sapStop _ _ _ => true
  | .sapRestart _ _ _ => true
  | .audGrpStart _ _ _ => true
  | .groupFrameZero _ => true
  | .audGrpStop _ _ => true
  | .groupFrame _ l => portsOnce l
  | .blockComplete _ => true
  | .portBlockWrite _ => true
  | .leadEnd _ _ => true
  | .tailEnd _ => true
  | .fsyncLoss _ => true
  | .relockDone _ => true
  | .rateWindow _ _ => true
  | .mclkInLoss => true
  | .audioPllRelock => true
  | .csBlockEnd _ => true
  | .audBind _ _ => true
  | .audUnbind _ _ => true
  | .audChGainWrite _ _ _ => true
  | .audChSrcWrite _ _ _ => true
  | .zcTimeout _ => true
  | .rampEnd _ => true
  | .audOutEnable _ _ _ => true
  | .prsntChange _ _ => true
  | .moduleIdentityRead _ _ l => decide (l.length ≤ 512)
  | .frameReceived _ f => decide (f.bytes.length ≤ 16384)
  | .packetWrite _ => true
  | .concealmentWrite _ => true
  | .frameTransmit _ f => decide (f.bytes.length ≤ 16384)
  | .ethTimeAdj _ _ => true
  | .ingressAdd _ _ => true
  | .ingressDelete _ _ => true
  | .ingressBind _ _ _ => true
  | .ingressUnbind _ _ => true
  | .push _ _ => true
  | .i2cWrite _ _ _ => true
  | .i2cRead _ _ _ => true
  | .i2cWriteRead _ _ _ => true
  | .entdaa _ _ _ => true
  | .broadcastCcc _ _ _ => true
  | .i2cTransferEnd _ _ d => decide (d.length ≤ 63)
  | .sclTimeout _ => true
  | .uartCfgWrite _ _ => true
  | .getChallenge _ => true
  | .getCert _ => true
  | .attest _ l => argBytes l.length
  | .regRead _ _ n => decide (n < 2 ^ 16)
  | .mgmtRegWrite _ _ l => argBytes (8 + 8 * l.length)
  | .slotErase _ => true
  | .slotWrite _ o _ => decide (o.off < 2 ^ 32)
  | .slotCommit _ => true
  | .coloRestart _ => true
  | .claim _ l => argBytes l.length
  | .svnAdvance _ => true
  | .returnCmd _ => true
  | .jtagUnlock _ l => argBytes l.length
  | .challengeRefresh => true
  | .jtagExpiry => true
  | .idcode => true
  | .bypass _ => true
  | .samplePreload _ _ => true
  | .extest _ => true
  | .debugAccess a => debugOk a
  | .attReport _ => true
  | .attCert _ => true
  | .attDone => true
  | .lockstepMismatch _ => true
  | .spineRestart => true
  | .spineReady => true
  | .spineCarryTimeout => true
  | .clockFault _ => true
  | .railFault _ => true
  | .retire _ => true
  | .retireFence => true
  | .resignAck _ _ => true
  | .resignTimeout => true
  | .hoopDrain _ _ _ => true
  | .ucodeLoad _ _ => true
  | .ucodeLoadDone _ => true
  | .colophonReady _ => true
  | .colophonBootWatchdog => true
  | .spineOsLoaded => true
  | .standby _ => true
  | .run _ => true
  | .deviceReset _ => true
  | .powerDown => true
  | .powerGood _ => true
  | .pgTimeout _ => true
  | .hbmTrained => true
  | .aonPor _ _ => true
  | .rstN _ => true
  | .avsRead _ => true
  | .avsTimeout => true
  | .pmbusPoll l => railsOnce (l.map (fun x => x.rail))
  | .pmbAlert l => railsOnce (l.map (fun x => x.rail))
  | .pwrArithWrite _ _ => true
  | .dvfsStep => true
  | .hoopPowerOff _ => true
  | .hoopWakeGrant => true
  | .hoopWakeDone _ => true
  | .arithPllStop => true
  | .thermalSample l => l.length == 49
  | .powerCapTick => true
  | .oscillatorTrim _ => true
  | .pwrRtcWrite _ _ => true
  | .laneLock _ => true
  | .linkStart _ => true
  | .slaveFrame _ _ _ => true
  | .audioPllLock => true
  | .ethLinkChange _ _ => true
  | .phyLinkChange _ => true
  | .uartReceive _ _ _ => true
  | .engineInstructionComplete _ _ => true
  | .readLeaseRequest _ _ _ _ => true
  | .memoryWrite _ a d => inLocal a d.length
  | .engineSwitchOff _ => true
  | .leadStart _ => true
  | .ethTimeFreq _ _ => true

end Sys2Proof
end

