-- ==== Sys2Proof/Certificates/Slice0/Obligations.lean ====
section
/-! DEFINITION. The statements about the model, for the provers. -/

open Sys2Proof Sys2Proof.Machine

/-! ### The step -/

/-- A step with a command at the front of the queue is that command's meaning on the queue's rest. -/
def Obligations.StepRunsFrontCommand : Prop :=
  ∀ (c : Instr) (rest : List Instr) (s : State), s.pending = c :: rest → step s = exec c { s with pending := rest }

/-- With no command waiting a step lets one nanosecond pass (the model's choice, log entry 6). With neither domain
powered nothing changes; with the main domain on and no trim or slew, device time advances by one. -/
def Obligations.EmptyQueueTicks : Prop :=
  ∀ s : State, s.pending = [] →
    step s = .next s.tick ∧
    (s.pwr.aon = false → s.mainOn = false → step s = .next s) ∧
    (s.pwr.aon = false → s.mainOn = true → s.trim = 0 → s.clk.freqAcc = 0 → s.clk.slew = 0 →
      ∃ t, step s = .next t ∧ t.clk.time = s.clk.time + 1)

/-- Two invariants of every step, from every state. A command leaves the queue's rest as it is: the queue is first in, first
out, and no command is lost or made (the model's reading, log entry 65). Memory stays in its canonical form, whatever the
command: addresses strictly rising, and no byte listed that reads as an unlisted one. -/
def Obligations.QueueAndMemoryForm : Prop :=
  ∀ s t : State, step s = .next t →
    t.pending = s.pending.tail ∧ (Memory.wf s.mem = true → Memory.wf t.mem = true)

/-- The fuse array as an invariant of every step: a fuse bit that is blown stays blown, and the lifecycle and the lowest
accepted svn stay values that Table 14-1 has (R347, R349). -/
def Obligations.FuseArrayInvariant : Prop :=
  ∀ (f : Fuses) (s t : State), f.kept s.fuses → s.fuses.legal → step s = .next t → f.kept t.fuses ∧ t.fuses.legal

/-- Only the SEC commands that the spec lets blow fuses, and the vendor's provisioning as the Colophon's firmware comes
ready, change the fuse array (R347, R349, Table 14-9; that COLOPHON_READY takes the provisioning and that no other command
reaches the fuses is the model's choice, log entries 64 and 65). -/
def Obligations.OnlyFuseCommandsBlowFuses : Prop :=
  ∀ (s t : State), step s = .next t → t.fuses ≠ s.fuses →
    ∃ i l, s.pending = i :: l ∧
      ((∃ chal ticket, i = .claim chal ticket) ∨ (∃ q, i = .svnAdvance q) ∨ (∃ q, i = .returnCmd q)
        ∨ (∃ b, i = .colophonReady b))

/-- No event of the main domain happens while its power is off (R12, R370): a command for one leaves the state as it was (the
model's choice, log entry 7). -/
def Obligations.EventsNeedMainDomain : Prop :=
  ∀ (i : Instr) (s : State), mainEvent i = true → s.mainOn = false → exec i s = .next s

/-- An access that its level does not permit changes nothing but the counter of refusals, and its sender receives an
error response (R361); the Spine gives no command while it is down, and no port gives one while AON_POR_N is low; a command of
a block that a Spine restart pauses, or of a domain without power, changes nothing (R12, R27, R336, R387; the model's reading:
log entries 14, 58 and 80, with the list of paused registers). -/
def Obligations.RefusedCommands : Prop :=
  ∀ (i : Instr) (p : Port) (a : Nat) (s : State), commandReg i = some (p, a) →
    (s.portQuiet p = false → s.mayWrite p a = false →
      exec i s = .next ((s.count R.SEC_DENIED_count).send (.busError p))) ∧
    (s.portQuiet p = true → exec i s = .next s) ∧
    (s.mayWrite p a = true → s.spineDown = true → pausedReg a = true → exec i s = .next s) ∧
    (s.mayWrite p a = true → alwaysOn a = false → s.mainOn = false → exec i s = .next s)

/-- Reset: the state in which the always-on power has not come: standby, the main domain off, no command waiting, memory
in canonical form, no folio open, no fault, every register at the reset value of its fields (R5, R370, R373; the state
of the cores and of memory is the model's choice, log entries 1 to 3). -/
def Obligations.ResetState : Prop :=
  let s := State.reset
  s.pending = [] ∧ s.mainOn = false ∧ Memory.wf s.mem = true ∧ s.dir = [] ∧ s.releases = [] ∧ s.irqs = [] ∧
    (∀ n, (s.ent n).st = .free) ∧ (∀ c r, (s.core c).getS r = 0) ∧
    (∀ a i j f, famAt a = some (f, i, j) → ∀ x ∈ f.flds, s.fld x i j = x.rst)

/-! ### Registers and memory -/

/-- A register write: an address outside the control space receives an error response; a write below its register's
level is refused and counted; of those permitted only an aligned 64-bit access changes a register, any other width or
alignment receives an error response; a register without effects of its own stores its fields; an unlisted address
ignores the write (R7, R8, R12, R361). -/
def Obligations.RegisterWrites : Prop :=
  ∀ (p : Port) (addr : BitVec 64) (width : Nat) (v : W64) (s : State),
    let i := Instr.regWrite p addr width v
    let a := addr.toNat
    (s.portQuiet p = true → exec i s = .next s) ∧
    (s.portQuiet p = false → inControl a = false → exec i s = .next (s.send (.busError p))) ∧
    (s.portQuiet p = false → inControl a = true →
      (s.mayWrite p (a / 8 * 8) = false → exec i s = .next ((s.count R.SEC_DENIED_count).send (.busError p))) ∧
      (s.mayWrite p (a / 8 * 8) = true → width ≠ 64 ∨ a % 8 ≠ 0 → exec i s = .next (s.send (.busError p)))) ∧
    (inControl a = true → width = 64 → a % 8 = 0 → Permit s p a →
      (famAt a = none → Leads i s s) ∧
      (∀ x, famAt a = some x → specialFams.contains x.1 = false → Leads i s (s.regStore a v)))

/-- The fields of a register written: each takes what its type gives of its old and its written value, and reads back
so, a wo field as zero; bits outside every field read as zero; no other register changes (R5, R7). -/
def Obligations.RegisterFieldsByType : Prop :=
  ∀ (a i j : Nat) (f : Fam) (v : W64) (s : State), famAt a = some (f, i, j) →
    let t := s.regStore a v
    (∀ x ∈ f.flds, t.fld x i j = x.written (s.fld x i j) (bits v.toNat x.lo x.width)) ∧
    (∀ b, b ≠ a → SMap.get 0 t.ctl b = SMap.get 0 s.ctl b) ∧
    t = { s with ctl := t.ctl } ∧
    (s.colo.shown = none →
      (∀ x ∈ f.flds, bits (s.regRead a).toNat x.lo x.width = if x.kind = .wo then 0 else s.fld x i j) ∧
      (∀ k, (∀ x ∈ f.flds, k < x.lo ∨ x.lo + x.width ≤ k) → (s.regRead a).getLsbD k = false))

/-- A write of a command register is the command that its bits spell; an operation that the register's table does not list
is ignored (R5, R37). -/
def Obligations.CommandRegisters : Prop :=
  ∀ (p : Port) (v : W64) (s : State),
    let w := fun (f : Fld) (i : Nat) => exec (.regWrite p (BitVec.ofNat 64 (f.addr i 0)) 64 v) s
    let b := fun lo n => bits v.toNat lo n
    let fol := BitVec.ofNat 20 (b 4 20)
    let bnd := BitVec.ofNat 12 (b 4 12)
    let flow := BitVec.ofNat 16 (b 4 16)
    let len := BitVec.ofNat 6 (b 4 6)
    (b 0 4 = 1 → w R.FOL_CMD_op 0 = exec (.folOpen p fol) s) ∧
    (b 0 4 = 2 → w R.FOL_CMD_op 0 = exec (.folClose p fol) s) ∧
    (b 0 4 = 3 → w R.FOL_CMD_op 0 = exec (.folReset p fol) s) ∧
    (b 0 4 = 4 → w R.FOL_CMD_op 0 = exec (.folMove p fol) s) ∧
    (b 0 4 = 1 → w R.FOL_BND_CMD_op 0 = exec (.bndRegister p bnd) s) ∧
    (b 0 4 = 2 → w R.FOL_BND_CMD_op 0 = exec (.bndDeregister p bnd) s) ∧
    (b 0 4 = 3 → w R.FOL_BND_CMD_op 0 = exec (.bndLoad p bnd) s) ∧
    (b 0 4 = 4 → w R.FOL_BND_CMD_op 0 = exec (.bndUnload p bnd) s) ∧
    (b 0 4 = 5 → w R.FOL_BND_CMD_op 0 = exec (.bndSwap p bnd) s) ∧
    (b 0 4 = 1 → w R.TOILE_CMD_op 0 = exec (.rejoin p) s) ∧
    (b 0 4 = 2 → w R.TOILE_CMD_op 0 = exec (.repartner p fol (BitVec.ofNat 12 (b 24 12))) s) ∧
    (b 0 4 = 1 → w R.TOILE_XCMD_op 0 = exec (.xcmdRead p len) s) ∧
    (b 0 4 = 2 → w R.TOILE_XCMD_op 0 = exec (.xcmdWrite p len) s) ∧
    (b 0 4 = 3 → w R.TOILE_XCMD_op 0 = exec (.xcmdAdd p len) s) ∧
    (b 0 4 = 4 → w R.TOILE_XCMD_op 0 = exec (.xcmdCas p len) s) ∧
    (b 0 4 = 5 → w R.TOILE_XCMD_op 0 = exec (.xcmdMax p len) s) ∧
    (b 0 4 = 6 → w R.TOILE_XCMD_op 0 = exec (.takeReadLease p len) s) ∧
    (b 0 4 = 7 → w R.TOILE_XCMD_op 0 = exec (.releaseReadLease p len) s) ∧
    (b 0 4 = 1 → w R.INGRESS_CMD_op 0 = exec (.ingressAdd p flow) s) ∧
    (b 0 4 = 2 → w R.INGRESS_CMD_op 0 = exec (.ingressDelete p flow) s) ∧
    (b 0 4 = 3 → w R.INGRESS_CMD_op 0 = exec (.ingressBind p flow (BitVec.ofNat 20 (b 20 20))) s) ∧
    (b 0 4 = 4 → w R.INGRESS_CMD_op 0 = exec (.ingressUnbind p flow) s) ∧
    (b 0 4 = 1 → w R.AUD_BIND_CMD_op 0 = exec (.audBind p fol) s) ∧
    (b 0 4 = 2 → w R.AUD_BIND_CMD_op 0 = exec (.audUnbind p fol) s) ∧
    (∀ x ∈ [(R.FOL_CMD_op, 4), (R.FOL_BND_CMD_op, 5), (R.TOILE_CMD_op, 2), (R.INGRESS_CMD_op, 4), (R.AUD_BIND_CMD_op, 2)],
      b 0 4 = 0 ∨ x.2 < b 0 4 → Permit s p (x.1.addr 0 0) → w x.1 0 = .next s) ∧
    (b 0 2 = 1 → w R.SEC_ATT_CMD_op 0 = exec (.attReport p) s) ∧
    (b 0 2 = 2 → w R.SEC_ATT_CMD_op 0 = exec (.attCert p) s) ∧
    (b 0 2 = 1 → w R.PWR_CMD_op 0 = exec (.standby p) s) ∧
    (b 0 2 = 2 → w R.PWR_CMD_op 0 = exec (.run p) s) ∧
    (b 0 2 = 3 → w R.PWR_CMD_op 0 = exec (.deviceReset p) s) ∧
    w R.HBM_RECAL_pc 0 = exec (.hbmRecal p (Fin.ofNat 32 (b 0 5)) (v.getLsbD 5)) s ∧
    w R.INGRESS_PUSH0_folio 0 = exec (.push p v) s ∧
    w R.ETH_TIME_ADJ_offset_ns 0 = exec (.ethTimeAdj p v) s ∧
    w R.ETH_TIME_FREQ_ppb 0 = exec (.ethTimeFreq p v) s ∧
    w R.MISC_UART_CFG_baud 0 = exec (.uartCfgWrite p v) s ∧
    w R.PWR_ARITH_target 0 = exec (.pwrArithWrite p v) s ∧
    w R.PWR_RTC_ticks 0 = exec (.pwrRtcWrite p v) s ∧
    (∀ h : Fin 16,
      w R.HOOP_AT_FREE_leaf h = exec (.atFree p h (BitVec.ofNat 44 v.toNat)) s ∧
      w R.HOOP_TC_INVAL_all h = exec (.tcInval p h (v.getLsbD 0)) s ∧
      w R.HOOP_DT_LOAD_addr h = exec (.dtLoad p h (BitVec.ofNat 45 v.toNat) (Fin.ofNat 4 (b 45 2))) s)

/-- A memory write: refused at a level that does not reach memory (R361); an error response for a hole or the folio directory
(R21, R30); the bytes written elsewhere, but for an operand buffer of a powered-off hoop (R20, R22). That bytes of two windows
receive an error response, and that those of two operand buffers are written buffer by buffer, is the model's choice (log
entry 9). -/
def Obligations.MemoryWrites : Prop :=
  ∀ (p : Port) (addr : BitVec 40) (dat : List Byte) (s : State), s.pwr.aon = true → s.portQuiet p = false →
    let i := Instr.memoryWrite p addr dat
    let a := addr.toNat
    let one := ∀ c, areaOf a = .opbuf c → areaOf (a + (dat.length - 1)) = .opbuf c
    (s.mayMemory p a dat.length = false → Leads i s (s.denied p)) ∧
    (s.mayMemory p a dat.length = true → s.mainOn = true → dat ≠ [] →
      (oneArea a dat.length = false → Leads i s (s.send (.busError p))) ∧
      (oneArea a dat.length = true →
        (areaOf a = .hole ∨ areaOf a = .dir → Leads i s (s.send (.busError p))) ∧
        (areaOf a = .ctl → dat.length = 8 → exec i s = exec (.regWrite p (addr.setWidth 64) 64 (BitVec.ofNat 64 (leNat dat))) s) ∧
        (∀ c, areaOf a = .opbuf c → one → s.hoopOn (c / 8) = false → Leads i s s) ∧
        (∀ c, areaOf a = .opbuf c → one → s.hoopOn (c / 8) = true → Leads i s (s.writeLocal a dat)) ∧
        (∀ c, areaOf a = .opbuf c → areaOf (a + (dat.length - 1)) = .opbuf (c + 1) →
          let cut := opbufAddr (c + 1) 0 - a
          let low := if s.hoopOn (c / 8) then s.writeLocal a (dat.take cut) else s
          Leads i s (if s.hoopOn ((c + 1) / 8) then low.writeLocal (opbufAddr (c + 1) 0) (dat.drop cut) else low)) ∧
        (areaOf a = .hbm ∨ (∃ h, areaOf a = .store h) → Leads i s (s.writeLocal a dat))))

/-- What writing local memory leaves: the canonical form stays; where the lines written in part are sound, or in on-chip
memory, the bytes written read as written and every other byte as before (R20, R215; log entry 1). -/
def Obligations.LocalMemoryFrame : Prop :=
  ∀ (a : Nat) (dat : List Byte) (s : State), areaOf a ≠ .dir → areaOf a ≠ .ctl → areaOf a ≠ .hole →
    (Memory.wf s.mem = true → Memory.wf (s.writeLocal a dat).mem = true) ∧
    ((areaOf a = .hbm → ∀ l ∈ linesOf a dat.length, SMap.get .sound s.hbmErr l = .sound) →
      (∀ k (h : k < dat.length), (s.writeLocal a dat).peek (a + k) 1 = [dat[k]]) ∧
      (∀ x, x < a ∨ a + dat.length ≤ x → (s.writeLocal a dat).peek x 1 = s.peek x 1))

/-- Holes and unlisted addresses: a scalar or descriptor access of a core to a hole raises DESC_BAD and does nothing
else; a memory write or a debug read there receives an error response and changes nothing else; a register of no block
reads as zero and its write is ignored (R21). -/
def Obligations.HolesAndUnlistedAddresses : Prop :=
  (∀ (c : CoreId) (ops : BitVec 52) (o : Nat) (s : State),
    let a := (s.sreg c (fldB ops) + (fldImm ops).signExtend 64).toNat
    a < 2 ^ 52 → s.locate a = .here o → areaOf o = .hole →
      let faults := fun (i : Instr) (w : W64) (z : Nat) => Takes s c w z → Leads i s (s.faulted c w { code := fDesc, info := a, operand := 1 })
      faults (.scLd c ops) (word clsSC 0x20 ops) zRI ∧ faults (.scLdw c ops) (word clsSC 0x21 ops) zRI ∧
      faults (.scSt c ops) (word clsSC 0x22 ops) zRI ∧ faults (.scStw c ops) (word clsSC 0x23 ops) zRI ∧
      faults (.dmTld c ops) (word clsDM 4 ops) (zT ||| zbits 41 32) ∧
      faults (.dmTst c ops) (word clsDM 5 ops) (zT ||| zbits 41 32)) ∧
  (∀ (p : Port) (addr : BitVec 40) (dat : List Byte) (s : State), areaOf addr.toNat = .hole → s.mainOn = true →
    s.pwr.aon = true →
    (dat ≠ [] → s.mayMemory p addr.toNat dat.length = true → s.portQuiet p = false →
      exec (.memoryWrite p addr dat) s = .next (s.send (.busError p))) ∧
    (∀ n, s.unlocked = true → Leads (.debugAccess (.readMem addr n)) s (s.send (.busError .p6)))) ∧
  (∀ (p : Port) (addr v : W64) (s : State), blockOf addr.toNat = .none →
    s.regRead addr.toNat = 0 ∧
    (addr.toNat % 8 = 0 → inControl addr.toNat = true → s.portQuiet p = false → s.mayWrite p addr.toNat = true →
      exec (.regWrite p addr 64 v) s = .next s))

/-! ### Folios, gatherings and sections -/

/-- OPEN, CLOSE, RESET and MOVE with no command running (R35, R38, R40, R41): OPEN whose checks pass starts and is busy;
CLOSE of an IDLE, READY or ACTIVE folio, RESET of one, and MOVE of one to a hoop that holds its binder end with result
0; MOVE of a resident one is busy until its state is swapped out. OPEN whose checks fail ends with their result, CLOSE, RESET
and MOVE of a folio in another state with result 1, and MOVE to a hoop that does not hold the binder with result 3. A write to
FOL_CMD while a command runs is discarded (R37), and one that finds an uncorrectable word in the folio's entry retires the
device (Table 13-3, code 7). -/
def Obligations.FolioCommands : Prop :=
  (∀ (p : Port) (n : Folio) (s : State), Permit s p folCmdAddr → s.bit R.FOL_STATUS_busy = false →
     s.sramWords (dirAddr n) 16 = [] →
     (∀ h, s.openCheck n = (0, h) → exec (.folOpen p n) s = .next (s.within (s.openAccept n h))) ∧
     (∀ r h, s.openCheck n = (r, h) → r ≠ 0 → Leads (.folOpen p n) s (s.folDone n r)) ∧
     ((s.ent n).st ≠ .idle → (s.ent n).st ≠ .ready → (s.ent n).st ≠ .active →
       Leads (.folClose p n) s (s.folDone n 1) ∧ Leads (.folReset p n) s (s.folDone n 1) ∧
         Leads (.folMove p n) s (s.folDone n 1)) ∧
     ((s.ent n).st = .idle ∨ (s.ent n).st = .ready ∨ (s.ent n).st = .active →
       (s.hoopsFor (s.ent n).binder).contains (s.fld R.FOL_ARG0_hoop % 16) = false →
       Leads (.folMove p n) s (s.folDone n 3)) ∧
     ((s.ent n).st = .idle → exec (.folClose p n) s = .next (s.within ((s.enterClosing n).folDone n 0))) ∧
     ((s.ent n).st = .ready →
       exec (.folClose p n) s = .next (s.within (((s.enterClosing n).schedStat (s.ent n).hoop.toNat).folDone n 0))) ∧
     ((s.ent n).st = .active →
       exec (.folClose p n) s = .next (s.within ((s.updEnt n (fun e => { e with closePending := true })).folDone n 0))) ∧
     ((s.ent n).st = .idle ∨ (s.ent n).st = .ready ∨ (s.ent n).st = .active →
       exec (.folReset p n) s = .next (s.within ((s.updEnt n (fun e => { e with resetPending := true })).folDone n 0))) ∧
     ((s.hoopsFor (s.ent n).binder).contains (s.fld R.FOL_ARG0_hoop % 16) = true →
       let h : BitVec 4 := BitVec.ofNat 4 (s.fld R.FOL_ARG0_hoop)
       ((s.ent n).st = .active → Leads (.folMove p n) s ((s.updFol n (fun f => { f with moveTo := some h })).folDone n 0)) ∧
       ((s.ent n).st = .idle ∨ (s.ent n).st = .ready →
         ((s.ent n).resident = false → Leads (.folMove p n) s ((s.rehome n h).folDone n 0)) ∧
         ((s.ent n).resident = true → Leads (.folMove p n) s
           ((({ s with folCmd := some (.moving n h) } : State).put R.FOL_STATUS_busy 1).put R.FOL_STATUS_folio n.toNat))))) ∧
  (∀ (p : Port) (n : Folio) (s : State), Permit s p folCmdAddr → s.bit R.FOL_STATUS_busy = false →
     s.sramBad (dirAddr n) 16 ≠ [] →
     let t := (s.sramCheck (dirAddr n) 16).retireNow true
     Leads (.folOpen p n) s t ∧ Leads (.folClose p n) s t ∧ Leads (.folReset p n) s t ∧ Leads (.folMove p n) s t) ∧
  (∀ (p : Port) (n : Folio) (s : State), Permit s p folCmdAddr → s.bit R.FOL_STATUS_busy = true →
     exec (.folOpen p n) s = .next s ∧ exec (.folClose p n) s = .next s ∧ exec (.folReset p n) s = .next s ∧
       exec (.folMove p n) s = .next s)

/-- The folio block's own events (R14, R35, R38, R40, R54, R63, R64): OPEN completes; a closing folio with room in its
egress ring ends; the committed state of a folio that no section holds is swapped out, and a MOVE that waits for it then changes
the hoop and ends with result 0 (R41, R344); a gathering at the head of its ring with room there is released, and one without
room counts a stall once. Each acts once the folio's directory entry has been read: an uncorrectable word of it retires the
device instead (`State.reading`; R331, Table 13-3, code 7). -/
def Obligations.FolioEventsTakeEffect : Prop :=
  ∀ (n : Folio) (s : State), s.mainOn = true →
    (s.folCmd = some (.opening n) → Leads .openComplete s (s.reading [n] (fun s => s.openFinish n))) ∧
    ((s.ent n).st = .closing → s.egressRoom (s.ent n).egress.toNat 1 = true →
      Leads (.folioCloseComplete n) s (s.reading [n] (fun s => s.closeEnd n))) ∧
    ((s.ent n).st = .idle ∨ (s.ent n).st = .ready → s.sramWords (dirAddr n) 16 = [] →
      ((∀ h, s.folCmd ≠ some (.moving n h)) → Leads (.stateSwapOut n) s (s.swapOut n)) ∧
      (∀ h, s.folCmd = some (.moving n h) → ∃ t, Leads (.stateSwapOut n) s t ∧ t.folCmd = none ∧
        t = { (((s.rehome n h).drainFolio n).drainStat h.toNat).folDone n 0 with folCmd := none })) ∧
    (∀ f, (s.fol n).flight = some f → s.fenced = false → s.nextRelease n = true →
      s.egressRoom (s.ent n).egress.toNat f.recs.length = true →
      Leads (.gatheringRelease n) s (s.reading [n] (fun s => s.release n f))) ∧
    (∀ f, (s.fol n).flight = some f → s.fenced = false → s.nextRelease n = true → f.stalled = false →
      s.egressRoom (s.ent n).egress.toNat f.recs.length = false →
      exec (.gatheringRelease n) s = .next (s.within
        ((s.count R.FOL_EGR_STALL_count 1 (s.ent n).egress.toNat).updFol n
          (fun x => { x with flight := some { f with stalled := true } }))))

/-- Sections form, close, load, run and commit (R47, R54, R55, R58, R61): the scheduler of a powered hoop in service
picks; a forming section closes when its wait is over or its deadline leaves no time; a closed one loads its members; a
formed one runs once its cores wait; one that waits to commit commits; and one that has committed ends. A step that uses the
directory entries of its folios acts once they have been read: an uncorrectable word of one retires the device instead
(`State.reading`; R331, Table 13-3, code 7). -/
def Obligations.SectionsProgress : Prop :=
  (∀ (h : HoopId) (s : State), s.mainOn = true → s.forming = true → s.hoopOn h = true → s.bit R.HOOP_MAINT_drain h = false →
    (s.hoop h).ucode = false →
      Leads (.schedulerPick h) s (s.reading (s.readyOn h) (fun s => s.pickNow h)) ∧
      ((∀ n ∈ s.readyOn h, s.sramWords (dirAddr n) 16 = []) → Leads (.schedulerPick h) s (s.pickNow h))) ∧
  ∀ (h : HoopId) (ser : Nat) (k : Section) (s : State), s.mainOn = true → s.sect h ser = some k →
    (k.phase = .forming → s.forming = true → k.earliest.1 + (s.bpar k.binder).waitUs * 1000 ≤ s.now →
      exec (.sectionFillTimeout h ser) s = .next (s.within (s.closeSection h ser))) ∧
    (k.phase = .forming → s.forming = true →
      (k.earliest.2 - s.now) * 2 ^ 149 * s.fld R.PWR_ARITH_present
        ≤ sectionCost (s.bpar k.binder) (k.members.length * (s.bpar k.binder).frames) →
      exec (.sectionDeadlineClose h ser) s = .next (s.within (s.closeSection h ser))) ∧
    (k.phase = .loading → k.table.isSome = true →
      Leads (.stateLoad h ser) s (s.reading k.folios (fun s => (s.loadMembers h ser k).formTable h ser))) ∧
    (k.phase = .formed → s.hoopOn h = true → (k.cores h).all (fun c => (s.core c).wait == .stNext) = true →
      exec (.sectionHandover h ser) s = .next (s.within (s.handOver h ser k))) ∧
    (∀ b, k.phase = .commitWait → s.fenced = false → s.commitReady h k = true → s.binder k.binder = some b →
      Leads (.sectionCommit h ser) s (s.reading k.folios (fun s => s.commitStart h ser k b))) ∧
    (k.phase = .committing → Leads (.commitComplete h ser) s (s.reading k.folios (fun s => s.commitEnd h ser k)))

/-! ### Core instructions -/

/-- The ST instructions of a core in a section: ST.NEXT of a core that holds none waits, clock-gated, or takes the
section held for it, and raises ILLEGAL_OP in a core that holds one; ST.EMIT adds a token record to a member, or, where 64 are
held, sets emit_full, marks the last as truncated and counts the drop; a member, frame or token out of bounds raises BOUND;
ST.RESET marks a member for reset; ST.COMMIT waits for stage 9 (R58 to R61). SY.FENCE retires once every earlier access of the kinds it names is complete; SY.BAR waits until
every core of the group has issued it, and the last one lets all of them on (R118). -/
def Obligations.SectionInstructions : Prop :=
  (∀ (c : CoreId) (ops : BitVec 52) (s : State),
     let waiting := ((s.updCore c (fun x => { x with
         waitArg := (fldA ops, tOf (fldB ops)), waitWord := word clsST 1 ops, wait := .stNext })).put
           R.CORE_STATUS_run_state 1 c).put R.CORE_STATUS_clock_gated 1 c
     (Takes s c (word clsST 1 ops) (zbits 42 42 ||| zbits 41 0) → (s.core c).sect = none → (s.core c).nextSect = none →
       Leads (.stNext c ops) s (waiting.goOn c (s.pcOf c))) ∧
     (∀ ser, Takes s c (word clsST 1 ops) (zbits 42 42 ||| zbits 41 0) → (s.core c).sect = none →
       (s.core c).nextSect = some ser →
       Leads (.stNext c ops) s ((waiting.giveSection c ser).goOn c ((waiting.giveSection c ser).pcOf c))) ∧
     (Takes s c (word clsST 1 ops) (zbits 42 42 ||| zbits 41 0) → (s.core c).sect.isSome = true →
       Leads (.stNext c ops) s (s.faulted c (word clsST 1 ops) { code := fIllegal })) ∧
     (∀ ser k, (s.core c).sect = some ser → s.sect (c.val / 8) ser = some k → Takes s c (word clsST 2 ops) (zbits 28 0) →
       let m := (s.sreg c (fldA ops)).toNat
       let f := (s.sreg c (fldB ops)).toNat
       let v := (s.sreg c (fldC ops)).toNat
       let G := (s.bpar k.binder).frames
       let bad := fun (info operand : Nat) => Leads (.stEmit c ops) s
         (s.faulted c (word clsST 2 ops) { code := fBound, info := info, operand := operand })
       (k.members.length ≤ m → bad m 0) ∧
       (m < k.members.length → G ≤ f → bad f 1) ∧
       (m < k.members.length → f < G → v % 2 ^ 20 = 0xFFFFF → bad v 2) ∧
       (∀ x, k.members[m]? = some x → f < G → v % 2 ^ 20 ≠ 0xFFFFF → x.recs.length = 64 →
         Retires (.stEmit c ops) c s (((s.updCore c (fun k => { k with flags := k.flags ||| (1#32 <<< 2) })).updSect (c.val / 8) ser
           (fun k => k.updMember m (fun x => { x with recs := flagLast x.recs 0x10 }))).count R.HOOP_EMIT_DROP_count 1 (c.val / 8)))) ∧
     (∀ ser k, (s.core c).sect = some ser → s.sect (c.val / 8) ser = some k → Takes s c (word clsST 3 ops) (zbits 51 47 ||| zbits 41 0) →
       k.members.length ≤ (s.sreg c (fldB ops)).toNat → Leads (.stReset c ops) s (s.faulted c (word clsST 3 ops)
         { code := fBound, info := (s.sreg c (fldB ops)).toNat, operand := 1 })) ∧
     (∀ ser k m x, (s.core c).sect = some ser → s.sect (c.val / 8) ser = some k → k.members[m]? = some x →
       (Takes s c (word clsST 2 ops) (zbits 28 0) → (s.sreg c (fldA ops)).toNat = m → x.recs.length < 64 →
         (s.sreg c (fldB ops)).toNat < (s.bpar k.binder).frames → (s.sreg c (fldC ops)).toNat % 2 ^ 20 ≠ 0xFFFFF →
         Retires (.stEmit c ops) c s (s.updSect (c.val / 8) ser (fun k => k.updMember m (fun x => { x with
           recs := x.recs ++ [tokenRecord (k.members.getD m x).folio.toNat k.binder.toNat (k.members.getD m x).seq.toNat
             (s.sreg c (fldB ops)).toNat (s.sreg c (fldC ops)).toNat (bits (s.sreg c (fldC ops)).toNat 32 16) (fldD ops)] })))) ∧
       (Takes s c (word clsST 3 ops) (zbits 51 47 ||| zbits 41 0) → (s.sreg c (fldB ops)).toNat = m →
         Retires (.stReset c ops) c s
           (s.updSect (c.val / 8) ser (fun k => k.updMember m (fun x => { x with resetReq := true }))))) ∧
     (∀ ser k, (s.core c).sect = some ser → s.sect (c.val / 8) ser = some k →
       Takes s c (word clsST 4 ops) (zbits 51 0) →
       let t := (s.updCore c (fun x => { x with wait := .stCommit, waitWord := word clsST 4 ops })).noteCommit c k
       Leads (.stCommit c ops) s (t.goOn c (t.pcOf c)))) ∧
  (∀ (c : CoreId) (ops : BitVec 52) (s : State),
     (Takes s c (word clsSY 1 ops) (zbits 51 3) → s.fenceOk c (bits ops.toNat 0 3) = true → Retires (.syFence c ops) c s s) ∧
     (∀ ser k, Takes s c (word clsSY 2 ops) (zbits 51 0) → (s.core c).sect = some ser →
       s.sect (c.val / 8) ser = some k → (s.core c).barPass = false →
       let t := (s.updCore c (fun x => { x with wait := .syBar, waitWord := word clsSY 2 ops })).updSect (c.val / 8) ser
         (fun k => { k with barred := (c.val % 8) :: k.barred })
       ∀ k', t.held c = some k' →
         (k'.barred.length < k'.g → Leads (.syBar c ops) s (t.goOn c (t.pcOf c))) ∧
         (k'.g ≤ k'.barred.length → Leads (.syBar c ops) s
           ((t.openBar (c.val / 8) k').goOn c ((t.openBar (c.val / 8) k').pcOf c)))) ∧
     (Takes s c (word clsSY 2 ops) (zbits 51 0) → (s.held c).isSome = true → (s.core c).barPass = true →
       s.fenceOk c 0 = true →
       Leads (.syBar c ops) s ((s.updCore c (fun x => { x with barPass := false })).goOn c (s.pcOf c + 8))))

/-- A word of a reserved class or an unlisted operation raises ILLEGAL_OP at issue and changes nothing else; a held core
resumes by a write; a core whose engines are idle resumes at its entry; a section held too long raises WATCHDOG (R99,
R124 to R126). -/
def Obligations.CoreFaultsAndResume : Prop :=
  ∀ (p : Port) (c : CoreId) (w : BitVec 64) (s : State),
    ((listedOps (bits w.toNat 60 4)).contains (bits w.toNat 52 8) = false → Takes s c w 0 →
      Leads (.illegalInstruction c w) s (s.faulted c w { code := fIllegal })) ∧
    (Permit s p (coreCtrlAddr c) → s.fld R.CORE_STATUS_run_state c = 3 →
      Leads (.coreResumeWrite p c) s
        ((s.updCore c (fun k => { k with resuming := true })).put R.CORE_STATUS_run_state 2 c)) ∧
    (s.mainOn = true → s.mayResume c = true → ∃ t, Leads (.coreResume c) s t ∧ t.core c = (s.resumeAt c).core c ∧
      t.ctl = (s.resumeAt c).ctl ∧ ∀ d, d ≠ c.val → t.core d = if d / 8 = c.val / 8 ∧ (s.core d).stoppedBy = some c.val
        then { s.core d with stoppedBy := none } else s.core d) ∧
    (∀ k, s.mainOn = true → s.held c = some k → k.phase ≠ .committing → (s.core c).wdLimit ≠ 0 →
      (s.core c).wdStart + (s.core c).wdLimit * 1000 ≤ s.now → (s.core c).resuming = false →
      Leads (.watchdog c) s
        (s.takeFault c (s.pcOf c) (if (s.core c).wait = .none ∧ (s.core c).barPass = false then 0 else (s.core c).waitWord)
          { code := fWatchdog, info := s.heldUs c, atIssue := false }))

/-- Taking a fault, in a section or outside one: the core records its code, the address and word of its instruction, its
information and whether it held a section, and counts it; it interrupts the Spine where fault_irq is set; it holds when
hold_on_fault is set or the streak reaches 8, and else resumes at once; its registers and pc stay, and the other cores of the
group that shares its section stop with it. Where it held a section, this is said while no binder is being swapped out, which
could unload from the hoop then (R50, R124, R125, R127, R240). A core has a section too that is held for it until it takes it up
(log entry 92). -/
def Obligations.TakingAFault : Prop :=
  ∀ (c : CoreId) (pc : BitVec 52) (w : W64) (f : CFlt) (s : State),
    let t := s.takeFault c pc w f
    let streak := min (s.fld R.CORE_FAULT_streak c + 1) 15
    let hold := s.bit R.CORE_CTRL_hold_on_fault c || decide (8 ≤ streak)
    ((s.core c).sect.or (s.core c).nextSect = none ∨ (∀ b ∈ s.binders, b.2.swap = none) →
      t.fld R.CORE_FAULT_code c = f.code % 2 ^ 8 ∧ t.fld R.CORE_FAULT_streak c = streak ∧
      t.fld R.CORE_FAULT_at_issue c = f.atIssue.toNat ∧ t.fld R.CORE_FAULT_in_section c = (s.core c).sect.isSome.toNat ∧
      t.fld R.CORE_FAULT_PC_pc c = pc.toNat ∧ t.fld R.CORE_FAULT_WORD_word c = w.toNat ∧
      t.fld R.CORE_FAULT_INFO_info c = f.info % 2 ^ 64 ∧
      t.fld R.CORE_FAULTS_count c = satAdd (s.fld R.CORE_FAULTS_count c) 1 ∧
      t.fld R.CORE_STATUS_run_state c = (if hold then 3 else 2)) ∧
    ((s.core c).sect.or (s.core c).nextSect = none →
      t.irqs = s.irqs ++ (if s.bit R.CORE_CTRL_fault_irq c then [.core c] else []) ∧ t.mem = s.mem) ∧
    ((∀ b ∈ s.binders, b.2.swap = none) →
      (t.core c).s = (s.core c).s ∧ (t.core c).v = (s.core c).v ∧ (t.core c).m = (s.core c).m ∧ (t.core c).t = (s.core c).t ∧
      (t.core c).pc = (s.core c).pc ∧ (t.core c).wait = .none ∧ (t.core c).resuming = !hold) ∧
    (∀ ser k d, (∀ b ∈ s.binders, b.2.swap = none) → (s.core c).sect = some ser → s.sect (c.val / 8) ser = some k →
      k.phase ≠ .committing → d ∈ k.cores (c.val / 8) → d ≠ c.val →
      (t.core d).sect = none ∧ (t.core d).stoppedBy = some c.val ∧ (t.core d).resuming = true ∧ (t.core d).wait = .none ∧
        (t.core d).pc = (s.core d).pc)

/-- The R3 scalar instructions write s[A] := f(s[B], s[C]) modulo 2^64, shifts by s[C][5:0], comparisons and SC.MIN and
SC.MAX signed unless their name ends in U, and go on at pc + 8 (R109, Table 4-8); with A = 0 nothing is written (R94).
-/
def Obligations.ScalarRegisterForms : Prop :=
  ∀ (c : CoreId) (ops : BitVec 52) (s : State),
    let a := s.sreg c (fldB ops)
    let b := s.sreg c (fldC ops)
    let pc := s.pcOf c + 8
    (Takes s c (word clsSC 1 ops) zR3 → exec (.scAdd c ops) s = .next (s.within (s.scalarDone c (fldA ops) (a + b) pc))) ∧
    (Takes s c (word clsSC 2 ops) zR3 → exec (.scSub c ops) s = .next (s.within (s.scalarDone c (fldA ops) (a - b) pc))) ∧
    (Takes s c (word clsSC 3 ops) zR3 → exec (.scMul c ops) s = .next (s.within (s.scalarDone c (fldA ops) (a * b) pc))) ∧
    (Takes s c (word clsSC 4 ops) zR3 → exec (.scAnd c ops) s = .next (s.within (s.scalarDone c (fldA ops) (a &&& b) pc))) ∧
    (Takes s c (word clsSC 5 ops) zR3 → exec (.scOr c ops) s = .next (s.within (s.scalarDone c (fldA ops) (a ||| b) pc))) ∧
    (Takes s c (word clsSC 6 ops) zR3 → exec (.scXor c ops) s = .next (s.within (s.scalarDone c (fldA ops) (a ^^^ b) pc))) ∧
    (Takes s c (word clsSC 7 ops) zR3 → exec (.scShl c ops) s = .next (s.within (s.scalarDone c (fldA ops) (a <<< (b.toNat % 64)) pc))) ∧
    (Takes s c (word clsSC 8 ops) zR3 → exec (.scShr c ops) s = .next (s.within (s.scalarDone c (fldA ops) (a >>> (b.toNat % 64)) pc))) ∧
    (Takes s c (word clsSC 9 ops) zR3 → exec (.scSra c ops) s = .next (s.within (s.scalarDone c (fldA ops) (a.sshiftRight (b.toNat % 64)) pc))) ∧
    (Takes s c (word clsSC 10 ops) zR3 → exec (.scMin c ops) s = .next (s.within (s.scalarDone c (fldA ops) (if a.slt b then a else b) pc))) ∧
    (Takes s c (word clsSC 11 ops) zR3 → exec (.scMax c ops) s = .next (s.within (s.scalarDone c (fldA ops) (if a.slt b then b else a) pc))) ∧
    (Takes s c (word clsSC 12 ops) zR3 → exec (.scMinu c ops) s = .next (s.within (s.scalarDone c (fldA ops) (if a.ult b then a else b) pc))) ∧
    (Takes s c (word clsSC 13 ops) zR3 → exec (.scMaxu c ops) s = .next (s.within (s.scalarDone c (fldA ops) (if a.ult b then b else a) pc))) ∧
    (Takes s c (word clsSC 14 ops) zR3 → exec (.scSlt c ops) s = .next (s.within (s.scalarDone c (fldA ops) (if a.slt b then 1 else 0) pc))) ∧
    (Takes s c (word clsSC 15 ops) zR3 → exec (.scSltu c ops) s = .next (s.within (s.scalarDone c (fldA ops) (if a.ult b then 1 else 0) pc)))

/-- The immediate scalar forms: SC.ADDI and SC.SLTI with imm sign-extended, SC.ANDI and SC.ORI with it zero-extended,
the shifts by imm[5:0]; SC.LI loads sext(imm), SC.LIH replaces bits [63:32] (R109, Table 4-8). -/
def Obligations.ScalarImmediateForms : Prop :=
  ∀ (c : CoreId) (ops : BitVec 52) (s : State),
    let a := s.sreg c (fldB ops)
    let i := fldImm ops
    let pc := s.pcOf c + 8
    (Takes s c (word clsSC 16 ops) zRI → exec (.scAddi c ops) s = .next (s.within (s.scalarDone c (fldA ops) (a + i.signExtend 64) pc))) ∧
    (Takes s c (word clsSC 17 ops) zRI → exec (.scAndi c ops) s = .next (s.within (s.scalarDone c (fldA ops) (a &&& i.setWidth 64) pc))) ∧
    (Takes s c (word clsSC 18 ops) zRI → exec (.scOri c ops) s = .next (s.within (s.scalarDone c (fldA ops) (a ||| i.setWidth 64) pc))) ∧
    (Takes s c (word clsSC 22 ops) zRI → exec (.scSlti c ops) s = .next (s.within (s.scalarDone c (fldA ops) (if a.slt (i.signExtend 64) then 1 else 0) pc))) ∧
    (Takes s c (word clsSC 19 ops) (zRI ||| zbits 31 6) → exec (.scShli c ops) s = .next (s.within (s.scalarDone c (fldA ops) (a <<< (i.toNat % 64)) pc))) ∧
    (Takes s c (word clsSC 20 ops) (zRI ||| zbits 31 6) → exec (.scShri c ops) s = .next (s.within (s.scalarDone c (fldA ops) (a >>> (i.toNat % 64)) pc))) ∧
    (Takes s c (word clsSC 21 ops) (zRI ||| zbits 31 6) → exec (.scSrai c ops) s = .next (s.within (s.scalarDone c (fldA ops) (a.sshiftRight (i.toNat % 64)) pc))) ∧
    (Takes s c (word clsSC 0x18 ops) zI → exec (.scLi c ops) s = .next (s.within (s.scalarDone c (fldA ops) (i.signExtend 64) pc))) ∧
    (Takes s c (word clsSC 0x19 ops) zI → exec (.scLih c ops) s
      = .next (s.within (s.scalarDone c (fldA ops) (i ++ (s.sreg c (fldA ops)).setWidth 32) pc)))

/-- The branches go to pc + 8 * sext(imm) when their condition on s[A] and s[B] holds, else to pc + 8; SC.B always,
SC.BF on flag A; SC.CALL keeps pc + 8 in s[A]; SC.JR goes to s[A] when it is an aligned 52-bit address, and raises DESC_BAD
where it lies beyond 52 bits and else ALIGN where it is not a multiple of 8 (R109, R110, R122, Table 4-8). Nothing else
changes. -/
def Obligations.ScalarBranches : Prop :=
  ∀ (c : CoreId) (ops : BitVec 52) (s : State),
    let a := s.sreg c (fldA ops)
    let b := s.sreg c (fldB ops)
    let pc := s.pcOf c
    let dest := pc + 8 * (fldImm ops).signExtend 52
    (Takes s c (word clsSC 0x29 ops) zRI → a = b → exec (.scBeq c ops) s = .next (s.within (s.goOn c dest))) ∧
    (Takes s c (word clsSC 0x29 ops) zRI → ¬ (a = b) → exec (.scBeq c ops) s = .next (s.within (s.goOn c (pc + 8)))) ∧
    (Takes s c (word clsSC 0x2A ops) zRI → a ≠ b → exec (.scBne c ops) s = .next (s.within (s.goOn c dest))) ∧
    (Takes s c (word clsSC 0x2A ops) zRI → ¬ (a ≠ b) → exec (.scBne c ops) s = .next (s.within (s.goOn c (pc + 8)))) ∧
    (Takes s c (word clsSC 0x2B ops) zRI → a.slt b = true → exec (.scBlt c ops) s = .next (s.within (s.goOn c dest))) ∧
    (Takes s c (word clsSC 0x2B ops) zRI → ¬ (a.slt b = true) → exec (.scBlt c ops) s = .next (s.within (s.goOn c (pc + 8)))) ∧
    (Takes s c (word clsSC 0x2C ops) zRI → a.slt b = false → exec (.scBge c ops) s = .next (s.within (s.goOn c dest))) ∧
    (Takes s c (word clsSC 0x2C ops) zRI → ¬ (a.slt b = false) → exec (.scBge c ops) s = .next (s.within (s.goOn c (pc + 8)))) ∧
    (Takes s c (word clsSC 0x2D ops) zRI → a.ult b = true → exec (.scBltu c ops) s = .next (s.within (s.goOn c dest))) ∧
    (Takes s c (word clsSC 0x2D ops) zRI → ¬ (a.ult b = true) → exec (.scBltu c ops) s = .next (s.within (s.goOn c (pc + 8)))) ∧
    (Takes s c (word clsSC 0x2E ops) zRI → a.ult b = false → exec (.scBgeu c ops) s = .next (s.within (s.goOn c dest))) ∧
    (Takes s c (word clsSC 0x2E ops) zRI → ¬ (a.ult b = false) → exec (.scBgeu c ops) s = .next (s.within (s.goOn c (pc + 8)))) ∧
    (Takes s c (word clsSC 0x28 ops) (zI ||| zA) → exec (.scB c ops) s = .next (s.within (s.goOn c dest))) ∧
    (Takes s c (word clsSC 0x2F ops) zI → exec (.scBf c ops) s
      = .next (s.within (s.goOn c (if (s.core c).flags.getLsbD (fldA ops) then dest else pc + 8)))) ∧
    (Takes s c (word clsSC 0x30 ops) zI → exec (.scCall c ops) s
      = .next (s.within (s.scalarDone c (fldA ops) ((pc + 8).setWidth 64) dest))) ∧
    (Takes s c (word clsSC 0x31 ops) (zI ||| zImm) → a.toNat < 2 ^ 52 → a.toNat % 8 = 0 →
      exec (.scJr c ops) s = .next (s.within (s.goOn c (a.setWidth 52)))) ∧
    (Takes s c (word clsSC 0x31 ops) (zI ||| zImm) →
      (2 ^ 52 ≤ a.toNat → Leads (.scJr c ops) s (s.faulted c (word clsSC 0x31 ops) { code := fDesc, info := a.toNat })) ∧
      (a.toNat < 2 ^ 52 → a.toNat % 8 ≠ 0 →
        Leads (.scJr c ops) s (s.faulted c (word clsSC 0x31 ops) { code := fAlign, info := a.toNat })))

/-- SC.RDF reads the flags, SC.CLF clears those its imm names, SC.TIME reads device time, SC.ID the identity word,
SC.NOP does nothing (R95, R109, R111). SC.CRR reads a register of the core's own block that Table 4-13 opens to it,
SC.CRW writes one of the monitor slots' configurations; any other offset raises PRIV, which the core takes (R111, R121).
-/
def Obligations.ScalarSpecialForms : Prop :=
  (∀ (c : CoreId) (ops : BitVec 52) (s : State),
     let pc := s.pcOf c + 8
     (Takes s c (word clsSC 0x38 ops) (zI ||| zImm) →
       exec (.scRdf c ops) s = .next (s.within (s.scalarDone c (fldA ops) ((s.core c).flags.setWidth 64) pc))) ∧
     (Takes s c (word clsSC 0x39 ops) (zI ||| zA) →
       exec (.scClf c ops) s
         = .next (s.within ((s.updCore c (fun k => { k with flags := k.flags &&& ~~~ fldImm ops })).goOn c pc))) ∧
     (Takes s c (word clsSC 0x3C ops) (zI ||| zImm) →
       exec (.scTime c ops) s = .next (s.within (s.scalarDone c (fldA ops) (BitVec.ofNat 64 s.now) pc))) ∧
     (Takes s c (word clsSC 0x3D ops) (zI ||| zImm) →
       exec (.scId c ops) s = .next (s.within (s.scalarDone c (fldA ops) (BitVec.ofNat 64
         (c.val + c.val / 8 * 2 ^ 7 + c.val % 8 * 2 ^ 11 + s.fld R.TOILE_DEVNUM_devnum * 2 ^ 14)) pc))) ∧
     (Takes s c (word clsSC 0x7F ops) (zbits 51 0) → exec (.scNop c ops) s = .next (s.within (s.goOn c pc)))) ∧
  (∀ (c : CoreId) (ops : BitVec 52) (s : State),
     let o := bits ops.toNat 0 16
     let reg := 0xF002000000 + c.val * 0x10000 + o
     let z := zI ||| zbits 31 16
     (Takes s c (word clsSC 0x3A ops) z → crrAllowed o = true → o % 8 = 0 →
       exec (.scCrr c ops) s = .next (s.within (s.scalarDone c (fldA ops) (s.regRead reg) (s.pcOf c + 8)))) ∧
     (Takes s c (word clsSC 0x3B ops) z → crwAllowed o = true → Settled c s →
       Retires (.scCrw c ops) c s (s.regStore reg (s.sreg c (fldA ops)))) ∧
     (Takes s c (word clsSC 0x3A ops) z → crrAllowed (o / 8 * 8) = false →
       exec (.scCrr c ops) s = .next (s.within (s.faulted c (word clsSC 0x3A ops) { code := fPriv, info := o }))) ∧
     (Takes s c (word clsSC 0x3B ops) z → crwAllowed (o / 8 * 8) = false →
       exec (.scCrw c ops) s = .next (s.within (s.faulted c (word clsSC 0x3B ops) { code := fPriv, info := o }))))

/-- The identity word and the control offsets of a program: SC.ID writes the core number, the hoop, the local core, the
device number (0xFFF while none is assigned) and zeros; SC.CRR and SC.CRW raise PRIV at an offset that Table 4-13 does
not open, bits [2:0] cleared, and ALIGN, with the register's address, at one that is open but not aligned (R111, Table 4-12). -/
def Obligations.IdentityAndControlOffsets : Prop :=
  ∀ (c : CoreId) (ops : BitVec 52) (s : State),
    let o := bits ops.toNat 0 16
    let o8 := o / 8 * 8
    let readable := o8 = 0x8 ∨ o8 = 0x3000 ∨ o8 = 0x3008 ∨ (0x3100 ≤ o8 ∧ o8 ≤ 0x32F8)
    let writable := ∃ k, k < 16 ∧ o8 = 0x3100 + 0x20 * k
    let z := zI ||| zbits 31 16
    (Takes s c (word clsSC 0x3D ops) (zI ||| zImm) → ∃ v : W64,
      exec (.scId c ops) s = .next (s.within (s.scalarDone c (fldA ops) v (s.pcOf c + 8))) ∧
      bits v.toNat 0 7 = c.val ∧ bits v.toNat 7 4 = c.val / 8 ∧ bits v.toNat 11 3 = c.val % 8 ∧
      bits v.toNat 14 12 = s.fld R.TOILE_DEVNUM_devnum ∧ v.toNat / 2 ^ 26 = 0) ∧
    (Takes s c (word clsSC 0x3A ops) z →
      (¬ readable → Leads (.scCrr c ops) s (s.faulted c (word clsSC 0x3A ops) { code := fPriv, info := o })) ∧
      (readable → o % 8 ≠ 0 → Leads (.scCrr c ops) s (s.faulted c (word clsSC 0x3A ops)
        { code := fAlign, info := 0xF002000000 + c.val * 0x10000 + o })) ∧
      (readable → o % 8 = 0 → Leads (.scCrr c ops) s
        (s.scalarDone c (fldA ops) (s.regRead (0xF002000000 + c.val * 0x10000 + o)) (s.pcOf c + 8)))) ∧
    (Takes s c (word clsSC 0x3B ops) z →
      (¬ writable → Leads (.scCrw c ops) s (s.faulted c (word clsSC 0x3B ops) { code := fPriv, info := o })) ∧
      (writable → o % 8 ≠ 0 → Leads (.scCrw c ops) s (s.faulted c (word clsSC 0x3B ops)
        { code := fAlign, info := 0xF002000000 + c.val * 0x10000 + o })) ∧
      (writable → o % 8 = 0 → Settled c s → Retires (.scCrw c ops) c s
        (s.regStore (0xF002000000 + c.val * 0x10000 + o) (s.sreg c (fldA ops)))))

/-- Scalar loads: SC.LD reads 8 bytes and SC.LDW 4, zero-extended, little-endian, at s[B] + sext(imm), aligned to their
size and within the program's reach, once the core's writes to other devices are acknowledged (R106, R110, R121). Memory
is as before but for what the reads' checks do to the lines.
Scalar stores to the device's own memory: SC.ST writes the 8 bytes of s[A] and SC.STW its low 4, little-endian, at s[B]
+ sext(imm), once no earlier instruction that can leave a deferred fault is queued, no write to another device is
unacknowledged and no running shadow check holds the bytes (R107, R110, R333). An access that is not
aligned to its size raises ALIGN, with the address as its information, and changes nothing else (R110, R122). -/
def Obligations.ScalarMemory : Prop :=
  (∀ (c : CoreId) (ops : BitVec 52) (l : List Byte) (s : State),
     let a := (s.sreg c (fldB ops) + (fldImm ops).signExtend 64).toNat
     a < 2 ^ 52 → s.settled c = true →
     (Takes s c (word clsSC 0x20 ops) zRI → s.reach c a 8 false = none → a % 8 = 0 → s.readToile c a 8 = .bytes l →
       exec (.scLd c ops) s = .next (s.within ((s.checked a 8).scalarDone c (fldA ops) (BitVec.ofNat 64 (leNat l))
         ((s.checked a 8).pcOf c + 8)))) ∧
     (Takes s c (word clsSC 0x21 ops) zRI → s.reach c a 4 false = none → a % 4 = 0 → s.readToile c a 4 = .bytes l →
       exec (.scLdw c ops) s = .next (s.within ((s.checked a 4).scalarDone c (fldA ops) (BitVec.ofNat 64 (leNat l))
         ((s.checked a 4).pcOf c + 8))))) ∧
  (∀ (c : CoreId) (ops : BitVec 52) (o : Nat) (s : State),
     let a := (s.sreg c (fldB ops) + (fldImm ops).signExtend 64).toNat
     a < 2 ^ 52 → s.locate a = .here o → Settled c s → (s.core c).shadowHold = [] →
     (Takes s c (word clsSC 0x22 ops) zRI → s.reach c a 8 true = none → a % 8 = 0 → s.leasesOn o 8 = [] →
       Retires (.scSt c ops) c s (s.writeLocal o (toLE 8 (s.sreg c (fldA ops)).toNat))) ∧
     (Takes s c (word clsSC 0x23 ops) zRI → s.reach c a 4 true = none → a % 4 = 0 → s.leasesOn o 4 = [] →
       Retires (.scStw c ops) c s (s.writeLocal o (toLE 4 (s.sreg c (fldA ops)).toNat)))) ∧
  (∀ (c : CoreId) (ops : BitVec 52) (s : State),
     let a := (s.sreg c (fldB ops) + (fldImm ops).signExtend 64).toNat
     a < 2 ^ 52 →
     (Takes s c (word clsSC 0x20 ops) zRI → s.reach c a 8 false = none → a % 8 ≠ 0 →
       exec (.scLd c ops) s = .next (s.within (s.faulted c (word clsSC 0x20 ops) { code := fAlign, info := a, operand := 1 }))) ∧
     (Takes s c (word clsSC 0x21 ops) zRI → s.reach c a 4 false = none → a % 4 ≠ 0 →
       exec (.scLdw c ops) s = .next (s.within (s.faulted c (word clsSC 0x21 ops) { code := fAlign, info := a, operand := 1 }))) ∧
     (Takes s c (word clsSC 0x22 ops) zRI → s.reach c a 8 true = none → a % 8 ≠ 0 →
       exec (.scSt c ops) s = .next (s.within (s.faulted c (word clsSC 0x22 ops) { code := fAlign, info := a, operand := 1 }))) ∧
     (Takes s c (word clsSC 0x23 ops) zRI → s.reach c a 4 true = none → a % 4 ≠ 0 →
       exec (.scStw c ops) s = .next (s.within (s.faulted c (word clsSC 0x23 ops) { code := fAlign, info := a, operand := 1 }))))

/-- DM.TBASE and DM.TCAP change one field of a descriptor: the base becomes s[B] modulo 2^52, the capacity of the
dimension that D names becomes s[B], 1 to 16,384; outside that range DM.TCAP raises BOUND (R116). All of these issue
only while the data mover's queue has room (R104). Descriptors of Toile
memory: DM.TLD reads 32 bytes into t[A]; DM.TST writes the 32 bytes of t[A] to the device's own memory (R107, R116). The
words and vectors of tensors (R117, R122): DM.RDW and DM.VLD read 8 and 256 bytes at the offset s[C] of a valid tensor,
aligned and inside its extent; DM.WRW and DM.VST write them, always into on-chip memory. An unaligned offset or one
outside the extent raises ALIGN or BOUND. -/
def Obligations.Descriptors : Prop :=
  (∀ (c : CoreId) (ops : BitVec 52) (s : State),
     let r := tOf (fldA ops)
     let v := (s.sreg c (fldB ops)).toNat
     let z := zT ||| zbits 41 37 ||| zbits 36 31 ||| zbits 28 0
     (Takes s c (word clsDM 6 ops) (zT ||| zbits 41 0) → (s.core c).dm.length < 16 →
       Retires (.dmTbase c ops) c s (s.withT c r (setBits (s.treg c r) 0 52 v))) ∧
     (16 ≤ (s.core c).dm.length →
       (Takes s c (word clsDM 6 ops) (zT ||| zbits 41 0) → Leads (.dmTbase c ops) s s) ∧
       (Takes s c (word clsDM 7 ops) z → 1 ≤ v → v ≤ 16384 → Leads (.dmTcap c ops) s s)) ∧
     (Takes s c (word clsDM 7 ops) z → (s.core c).dm.length < 16 → 1 ≤ v → v ≤ 16384 →
       Retires (.dmTcap c ops) c s
         (s.withT c r (setBits (s.treg c r) ([84, 105, 154, 203].getD (fldD ops % 4) 84) 14 (v - 1)))) ∧
     (Takes s c (word clsDM 7 ops) z → v = 0 ∨ 16384 < v →
       Leads (.dmTcap c ops) s
         (s.faulted c (word clsDM 7 ops) { code := fBound, info := v, dim := fldD ops % 4, operand := 1 }))) ∧
  (∀ (c : CoreId) (ops : BitVec 52) (l : List Byte) (o : Nat) (s : State),
     let a := (s.sreg c (fldB ops) + (fldImm ops).signExtend 64).toNat
     a < 2 ^ 52 → a % 32 = 0 → (s.core c).dm.length < 16 →
     (Takes s c (word clsDM 4 ops) (zT ||| zbits 41 32) → s.reach c a 32 false = none → s.settled c = true →
       s.readToile c a 32 = .bytes l →
       Retires (.dmTld c ops) c s ((s.checked a 32).withT c (tOf (fldA ops)) (BitVec.ofNat 256 (leNat l)))) ∧
     (Takes s c (word clsDM 5 ops) (zT ||| zbits 41 32) → s.reach c a 32 true = none → s.locate a = .here o →
       s.leasesOn o 32 = [] → Settled c s → (s.core c).shadowHold = [] →
       Retires (.dmTst c ops) c s (s.writeLocal o (toLE 32 (s.treg c (tOf (fldA ops))).toNat)))) ∧
  (∀ (c : CoreId) (ops : BitVec 52) (s u : State) (t : Tens),
     let o := (u.sreg c (fldC ops)).toNat
     let z := zTB ||| zbits 36 0
     let ready := (u.core c).dm.length < 16 ∧ (t.d.kind ≤ 1 ∨ 4 ≤ t.d.kind → u.settled c = true)
     (evalT c (tOf (fldB ops)) 1 false s = .ok (t, u) →
       (Takes s c (word clsDM 8 ops) z →
         (∀ l v, ready → o % 8 = 0 → o + 8 ≤ t.d.extent → u.tensorBytes c t.d (t.d.base + o) 8 = some (l, v) →
           Retires (.dmRdw c ops) c s (v.updCore c (fun k => k.setS (fldA ops) (BitVec.ofNat 64 (leNat l))))) ∧
         (o % 8 ≠ 0 → Leads (.dmRdw c ops) s (s.faulted c (word clsDM 8 ops) { code := fAlign, info := o, operand := 2 })) ∧
         (o % 8 = 0 → t.d.extent < o + 8 →
           Leads (.dmRdw c ops) s (s.faulted c (word clsDM 8 ops) { code := fBound, info := o, operand := 2 }))) ∧
       (∀ l v, Takes s c (word clsDM 10 ops) z → ready → o % 16 = 0 → o + 256 ≤ t.d.extent →
         u.tensorBytes c t.d (t.d.base + o) 256 = some (l, v) →
         Retires (.dmVld c ops) c s (v.withV c (fldA ops) (BitVec.ofNat 2048 (leNat l))))) ∧
     (evalT c (tOf (fldB ops)) 1 false s = .ok (t, u) →
       (Takes s c (word clsDM 10 ops) z →
         (o % 16 ≠ 0 → Leads (.dmVld c ops) s (s.faulted c (word clsDM 10 ops) { code := fAlign, info := o, operand := 2 })) ∧
         (o % 16 = 0 → t.d.extent < o + 256 →
           Leads (.dmVld c ops) s (s.faulted c (word clsDM 10 ops) { code := fBound, info := o, operand := 2 })))) ∧
     (evalT c (tOf (fldB ops)) 1 true s = .ok (t, u) → checkAlloc c t 1 u = .ok ((), u) →
       (Takes s c (word clsDM 9 ops) z →
         (o % 8 ≠ 0 → Leads (.dmWrw c ops) s (s.faulted c (word clsDM 9 ops) { code := fAlign, info := o, operand := 2 })) ∧
         (o % 8 = 0 → t.d.extent < o + 8 →
           Leads (.dmWrw c ops) s (s.faulted c (word clsDM 9 ops) { code := fBound, info := o, operand := 2 }))) ∧
       (Takes s c (word clsDM 11 ops) z →
         (o % 16 ≠ 0 → Leads (.dmVst c ops) s (s.faulted c (word clsDM 11 ops) { code := fAlign, info := o, operand := 2 })) ∧
         (o % 16 = 0 → t.d.extent < o + 256 →
           Leads (.dmVst c ops) s (s.faulted c (word clsDM 11 ops) { code := fBound, info := o, operand := 2 })))) ∧
     (evalT c (tOf (fldB ops)) 1 true s = .ok (t, u) → checkAlloc c t 1 u = .ok ((), u) →
       (t.d.kind ≤ 1 → Settled c u) → ready → (u.core c).shadowHold = [] →
       (Takes s c (word clsDM 9 ops) z → o % 8 = 0 → o + 8 ≤ t.d.extent →
         let put := writeAt c (word clsDM 9 ops) t.d (t.d.base + o) (toLE 8 (u.sreg c (fldA ops)).toNat)
         (∀ v, put u = .ok ((), v) → Retires (.dmWrw c ops) c s v) ∧
         (2 ≤ t.d.kind → ∃ v, put u = .ok ((), v) ∧ Retires (.dmWrw c ops) c s v)) ∧
       (Takes s c (word clsDM 11 ops) z → u.sramWords (vrfAddr c (fldA ops) 0) 256 = [] → o % 16 = 0 → o + 256 ≤ t.d.extent →
         let put := writeAt c (word clsDM 11 ops) t.d (t.d.base + o) (toLE 256 (u.vreg c (fldA ops)).toNat)
         (∀ v, put u = .ok ((), v) → Retires (.dmVst c ops) c s v) ∧
         (2 ≤ t.d.kind → ∃ v, put u = .ok ((), v) ∧ Retires (.dmVst c ops) c s v))))

/-- DM.COPY and DM.PREF (R113, R114): a copy whose operands are valid and whose source reads without error writes it to
the destination, padded, and always completes into on-chip memory it does not overlap; a prefetch never faults but for
its descriptor. DM.PACK writes the packed object of its operands, header and data, to local memory that no read lease
holds, once no engine but DM works; a failed check or operand is raised (R107, R115, R225). -/
def Obligations.CopyingAndPacking : Prop :=
  (∀ (c : CoreId) (ops : BitVec 52) (s : State),
     let w := word clsDM 1 ops
     (Takes s c w (zT ||| zbits 42 0) →
       (∀ f, copyCheck c ops s = .error (.flt f) → Leads (.dmCopy c ops) s (s.faulted c w f)) ∧
       (∀ td ta u, copyCheck c ops s = .ok ((td, ta), u) → ((u.core c).queue .dm).length < 16 →
         (td.d.kind ≤ 1 → Settled c u) → (td.d.kind ≠ 2 ∧ td.d.kind ≠ 3 ∨ ta.d.kind ≠ 2 ∧ ta.d.kind ≠ 3 → u.settled c = true) →
         (td.empty = true → Retires (.dmCopy c ops) c s (u.emptied c)) ∧
         (td.empty = false →
           (∀ t, copyBody c w td ta u = .ok ((), t) → Retires (.dmCopy c ops) c s (t.dispatched c .dm w {})) ∧
           (∀ f, copyBody c w td ta u = .error (.flt f) → Leads (.dmCopy c ops) s (s.faulted c w f)) ∧
           (∀ v u', 2 ≤ td.d.kind → (u'.core c).shadowHold = [] → overlaps u c td.d ta.d = false →
             readSub c ta.d (ta.within td 0) (ta.within td 1) (ta.within td 2) (ta.within td 3) u = .ok ((v, none), u') →
             ∃ t, copyBody c w td ta u = .ok ((), t) ∧ Retires (.dmCopy c ops) c s (t.dispatched c .dm w {})))))
     ∧
     (Takes s c (word clsDM 2 ops) (zbits 51 47 ||| zTB ||| zbits 41 0) →
       (∀ f, prefCheck c ops s = .error (.flt f) →
         (f.code = fDesc → Leads (.dmPref c ops) s (s.faulted c (word clsDM 2 ops) { code := fDesc, info := f.info, dim := f.dim, operand := f.operand })) ∧
         (f.code ≠ fDesc → Retires (.dmPref c ops) c s s)) ∧
       (∀ t ws u, prefCheck c ops s = .ok ((t, ws), u) → u.settled c = true → ((u.core c).queue .dm).length < 16 →
         (t.empty = true → Retires (.dmPref c ops) c s (u.emptied c)) ∧
         (t.empty = false → 1 < t.d.kind ∨ weightOk t.d.fmt = false →
           Retires (.dmPref c ops) c s (u.dispatched c .dm (word clsDM 2 ops) {})) ∧
         (t.empty = false → t.d.kind ≤ 1 → weightOk t.d.fmt = true →
           (∀ v, prefetch c t ws u = .ok ((), v) → Retires (.dmPref c ops) c s (v.dispatched c .dm (word clsDM 2 ops) {})) ∧
           (∀ f, prefetch c t ws u = .error (.flt f) →
             Retires (.dmPref c ops) c s (u.dispatched c .dm (word clsDM 2 ops) {})))))) ∧
  (∀ (c : CoreId) (ops : BitVec 52) (s : State),
     let w := word clsDM 3 ops
     Takes s c w (zT ||| zTB ||| zTC ||| zbits 36 35 ||| zbits 28 0 |||
         (if (fldD ops).testBit 0 then 0 else zbits 41 37 ||| zbits 34 30)) →
       (∀ f, packCheck c ops s = .error (.flt f) → Leads (.dmPack c ops) s (s.faulted c w f)) ∧
       (∀ o u, packCheck c ops s = .ok (o, u) → Settled c u → ((u.core c).queue .dm).length < 16 →
         (o.empty = true → Retires (.dmPack c ops) c s (u.emptied c)) ∧
         (∀ f, o.empty = false → packObject c o u = .error (.flt f) → Leads (.dmPack c ops) s (s.faulted c w f)) ∧
         (∀ h dat v, o.empty = false → packObject c o u = .ok ((h, dat), v) → o.td.d.base + 64 < 2 ^ 40 → v.leases = [] →
           (v.core c).shadowHold = [] →
           Retires (.dmPack c ops) c s
             (((v.writeLocal (o.td.d.base + 64) dat).writeLocal o.td.d.base h.bytes).dispatched c .dm w {}))))

/-- The matrix instructions (R122, R135 to R147): MM.GRP runs on the array, or on the LUT path while lut_mode is set;
MM.LUT on the LUT path; MM.TALLOC takes the lowest free run of n tiles and writes its descriptor, or raises BOUND or
ACC; MM.TFREE frees the tiles its descriptor touches. MM.COMBINE with valid operands (R143 to R145): with an empty tile
mask it sets the flag; alone it changes nothing; with other participants the core waits for them. -/
def Obligations.MatrixInstructions : Prop :=
  (∀ (c : CoreId) (ops : BitVec 52) (s : State),
     let walk := bits (fldD ops) 1 2
     let lut := fun (o : MmOps) (u : State) => u.bit R.CORE_MM_CTRL_lut_mode c && !fltWeights o.tw.d.fmt
     let init := (fldD ops).testBit 0
     (Takes s c (word clsMM 1 ops) zMM → walk ≠ 3 →
       Carried (.mmGrp c ops) c (word clsMM 1 ops) s (mmCheck c ops false) (fun o u => if lut o u then .vx else .mm) MmOps.empty
         (fun o u => mmWork c (word clsMM 1 ops) o walk init (!lut o u))
         (fun o u => if init && !lut o u then some (shadOf c u ops o walk) else none)) ∧
     (Takes s c (word clsMM 2 ops) zMM → walk ≠ 3 →
       Carried (.mmLut c ops) c (word clsMM 2 ops) s (mmCheck c ops true) (fun _ _ => .vx) MmOps.empty
         (fun o _ => mmWork c (word clsMM 2 ops) o walk init false)) ∧
     (Takes s c (word clsMM 1 ops) zMM → walk = 3 → Leads (.mmGrp c ops) s (s.faulted c (word clsMM 1 ops) { code := fIllegal })) ∧
     (Takes s c (word clsMM 4 ops) (zT ||| zbits 46 37 ||| zbits 36 34 ||| zbits 28 0) →
       (∀ t0, 1 ≤ fldD ops → fldD ops ≤ 16 → freeRun (s.fld R.CORE_MM_ALLOC_map c) (fldD ops) = some t0 →
         Retires (.mmTalloc c ops) c s
           ((s.put R.CORE_MM_ALLOC_map (s.fld R.CORE_MM_ALLOC_map c ||| ((2 ^ fldD ops - 1) * 2 ^ t0)) c).withT c
             (tOf (fldA ops)) (tallocDesc t0 (fldD ops)))) ∧
       (1 ≤ fldD ops → fldD ops ≤ 16 → freeRun (s.fld R.CORE_MM_ALLOC_map c) (fldD ops) = none →
         Leads (.mmTalloc c ops) s (s.faulted c (word clsMM 4 ops) { code := fAcc, info := fldD ops })) ∧
       (fldD ops = 0 ∨ 16 < fldD ops →
         Leads (.mmTalloc c ops) s (s.faulted c (word clsMM 4 ops) { code := fBound, info := fldD ops }))) ∧
     (∀ t u, Takes s c (word clsMM 5 ops) (zbits 51 47 ||| zTB ||| zbits 41 0) →
       evalT c (tOf (fldB ops)) 1 false s = .ok (t, u) →
       (t.d.kind = 3 → Retires (.mmTfree c ops) c s ((tilesTouched t.d.base t.d.extent).foldl (fun (s : State) k =>
         s.setBit R.CORE_MM_ALLOC_map k false c) u)) ∧
       (t.d.kind ≠ 3 → Leads (.mmTfree c ops) s (s.faulted c (word clsMM 5 ops) { code := fDesc, info := 52, operand := 1 })))) ∧
  (∀ (c : CoreId) (ops : BitVec 52) (s : State),
     let a := (s.sreg c (fldA ops)).toNat
     let b := (s.sreg c (fldB ops)).toNat
     let k := combOf a b (fldD ops)
     Takes s c (word clsMM 3 ops) (zbits 41 37 ||| zbits 36 33 ||| zbits 28 0) → a < 2 ^ 22 → b < 2 ^ 8 →
     k.parts.testBit (c.val % 8) = true → (∀ j, j < 8 → k.parts.testBit j = true → j ∈ (s.groupOf c).map (· % 8)) →
     k.parts.testBit k.root = true →
     (∀ t, t < 16 → k.tiles.testBit t = true → (s.fld R.CORE_MM_ALLOC_map c).testBit t = true) →
     (k.tiles = 0 → Retires (.mmCombine c ops) c s (s.emptied c)) ∧
     (k.tiles ≠ 0 → k.parts = 2 ^ (c.val % 8) → Retires (.mmCombine c ops) c s s) ∧
     (k.tiles ≠ 0 → k.parts ≠ 2 ^ (c.val % 8) → Leads (.mmCombine c ops) s
       ((s.updCore c (fun x => { x with
         wait := .combine, waitArg := (a, b + fldD ops * 2 ^ 8), waitWord := word clsMM 3 ops, combSeen := none,
         issued := x.issued + 1 })).goOn c (s.pcOf c))))

/-- The recurrence and attention instructions are carried out from their issue checks on: RC.SCAN and RC.ANCHOR in the
recurrence engine, RC.GATE and RC.LCONV in the matrix engine, AT.WIN and AT.APPEND in the attention engine, AT.WIN once the
core's writes to other devices are acknowledged and AT.APPEND once no engine but DM works too (R106, R107, R156 to R170,
R199 to R203). The vector instructions on tensors are carried out from
their issue checks on, in the vector engine (R184 to R189). -/
def Obligations.TensorInstructions : Prop :=
  (∀ (c : CoreId) (ops : BitVec 52) (s : State),
     let d := fldD ops
     (Takes s c (word clsRC 1 ops) (zPairA ||| zPairB ||| zPairC ||| zbits 36 35 ||| zbits 28 0) →
       Carried (.rcGate c ops) c (word clsRC 1 ops) s (gateCheck c ops) (fun _ _ => .mm)
         GateOps.noop
         (fun o u => gateWork c (word clsRC 1 ops) o (d.testBit 5) (!u.bit R.CORE_MM_CTRL_lut_mode c))) ∧
     (Takes s c (word clsRC 2 ops) (zT ||| zPairB ||| zPairC ||| zbits 36 36 ||| zbits 28 0) →
       Carried (.rcScan c ops) c (word clsRC 2 ops) s (scanCheck c ops) (fun _ _ => .rc)
         ScanOps.noop
         (fun o _ => scanWork c (word clsRC 2 ops) o (d.testBit 5) (d.testBit 6))) ∧
     (Takes s c (word clsRC 3 ops) (zT ||| zPairB ||| zPairC ||| zbits 34 34 ||| zbits 36 36 ||| zbits 28 0) →
       Carried (.rcLconv c ops) c (word clsRC 3 ops) s (lconvCheck c ops) (fun _ _ => .mm)
         LconvOps.noop
         (fun o _ => lconvWork c (word clsRC 3 ops) o (d.testBit 6))) ∧
     (Takes s c (word clsRC 4 ops) (zbits 51 47 ||| zTB ||| zbits 41 37 ||| zbits 36 34 ||| zbits 28 0) →
       Carried (.rcAnchor c ops) c (word clsRC 4 ops) s (anchorCheck c ops) (fun _ _ => .rc)
         (fun o => o.2.n == 0 || o.1.empty) (fun o _ => anchorWork c (word clsRC 4 ops) o.1 o.2)) ∧
     (Takes s c (word clsAT 1 ops) (zT ||| zTB ||| zTC ||| zbits 36 34 ||| zbits 28 0) →
       Carried (.atWin c ops) c (word clsAT 1 ops) s (winCheck c ops) (fun _ _ => .at) Option.isNone
         (fun o _ => o.elim (pure {}) (winWork c (word clsAT 1 ops)))
         (leaves := fun o => o.elim [] WinOps.leaves) (ready := fun u => u.settled c = true)) ∧
     (Takes s c (word clsAT 2 ops) (zbits 51 47 ||| zTB ||| zPairB ||| zTC ||| zbits 36 34 ||| zbits 28 0) →
       Carried (.atAppend c ops) c (word clsAT 2 ops) s (appendCheck c ops) (fun _ _ => .at) Option.isNone
         (fun o _ => o.elim (pure {}) (appendWork c (word clsAT 2 ops)))
         (leaves := fun o => o.elim [] AppendOps.leaves) (ready := Settled c))) ∧
  (∀ (c : CoreId) (ops : BitVec 52) (s : State),
     let d := fldD ops
     (Takes s c (word clsVX 0x20 ops) (zVX ||| zT ||| zTB ||| zTC ||| zFldD ||| zLane) →
       Carried (.vxQnt c ops) c (word clsVX 0x20 ops) s (qntCheck c ops) (fun _ _ => .vx)
         QntOps.noop (fun o _ => qntWork c (word clsVX 0x20 ops) o)) ∧
     (Takes s c (word clsVX 0x21 ops) (zVX ||| zT ||| zTB ||| zFldC ||| zFldD ||| zFldF ||| zLane) →
       Carried (.vxDq c ops) c (word clsVX 0x21 ops) s (dqCheck c ops) (fun _ _ => .vx)
         DqOps.noop (fun o _ => dqWork c (word clsVX 0x21 ops) o)) ∧
     (Takes s c (word clsVX 0x22 ops) (zVX ||| zT ||| zTB ||| zFldC ||| zbits 36 34 ||| zFldF ||| zLane) →
       Carried (.vxHad c ops) c (word clsVX 0x22 ops) s (hadCheck c ops) (fun _ _ => .vx)
         (fun o => o.1.empty || o.2.empty) (fun o _ => hadWork c (word clsVX 0x22 ops) o.1 o.2 (d % 16) (d.testBit 4))) ∧
     (Takes s c (word clsVX 0x23 ops) (zVX ||| zT ||| zTB ||| zTC ||| zFldD ||| zLane) →
       Carried (.vxRowg c ops) c (word clsVX 0x23 ops) s (rowCheck c ops false) (fun _ _ => .vx)
         RowOps.noop (fun o _ => rowgWork c (word clsVX 0x23 ops) o)) ∧
     (Takes s c (word clsVX 0x24 ops) (zVX ||| zT ||| zTB ||| zTC ||| zbits 36 30 ||| zLane) →
       Carried (.vxRows c ops) c (word clsVX 0x24 ops) s (rowCheck c ops true) (fun _ _ => .vx)
         RowOps.noop (fun o _ => rowsWork c (word clsVX 0x24 ops) o (d.testBit 0))))

/-- The lane instructions on bits: every active lane of v[A] takes the value given, the others keep theirs; VX.SEL takes
v[B] where its mask is 1 and v[C] where it is 0 (R175 to R177, Table 7-2). The lane instructions on numbers: every
active lane reads its operands under R73, operates in FP32 where the format is a floating-point one, and rounds to the
format, a saturation or NaN counted; VX.MAX and VX.MIN take the first operand when the two are equal (R74, R176, R177).
Both for registers whose words are sound (R211). -/
def Obligations.VectorLanes : Prop :=
  (∀ (c : CoreId) (ops : BitVec 52) (s : State),
     let n := elemBits (vxFmt ops)
     let a := fun i => (s.lanesAt c (fldB ops) ops).getD i 0
     let b := fun i => (s.lanesAt c (fldC ops) ops).getD i 0
     let z := fun x => zVX ||| zMaskReg ||| x
     (s.core c).vx.length < 16 → LanesSound s c ops →
     (Takes s c (word clsVX 8 ops) (z (zbits 36 31 ||| zFldF)) → fmtInt (vxFmt ops) = true →
       Retires (.vxLog c ops) c s (s.lanesSet c ops (word clsVX 8 ops) (fun i => logOp (fldD ops) (a i) (b i)))) ∧
     (Takes s c (word clsVX 9 ops) (z (zbits 36 31 ||| zFldF)) → fmtInt (vxFmt ops) = true → fldD ops ≠ 3 →
       Retires (.vxShf c ops) c s (s.lanesSet c ops (word clsVX 9 ops) (fun i => shfOp (fldD ops) n (a i) (b i % n)))) ∧
     (Takes s c (word clsVX 0xB ops) (z (zFldD ||| zFldF)) → fmtLane (vxFmt ops) = true → vxMasked ops = true →
       Retires (.vxSel c ops) c s ((s.withV c (fldA ops) (ofLanes n ((List.range (lanesOf n)).map (fun i =>
         if governs (s.mreg c (vxMask ops)) n i then a i else b i)))).dispatched c .vx (word clsVX 0xB ops) {})) ∧
     (Takes s c (word clsVX 0xC ops) (z (zFldC ||| zFldD ||| zFldF)) → fmtLane (vxFmt ops) = true →
       Retires (.vxSplat c ops) c s (s.lanesSet c ops (word clsVX 0xC ops) (fun _ => (s.sreg c (fldB ops)).toNat % 2 ^ n))) ∧
     (Takes s c (word clsVX 0xD ops) (z (zFldC ||| zFldD ||| zFldF)) → fmtInt (vxFmt ops) = true →
       Retires (.vxIota c ops) c s
         (s.lanesSet c ops (word clsVX 0xD ops) (fun i => ((s.sreg c (fldB ops)).toNat + i) % 2 ^ n))) ∧
     (Takes s c (word clsVX 8 ops) (z (zbits 36 31 ||| zFldF)) → fmtInt (vxFmt ops) = false →
       Leads (.vxLog c ops) s (s.faulted c (word clsVX 8 ops) { code := fIllegal }))) ∧
  (∀ (c : CoreId) (ops : BitVec 52) (s : State),
     let f := vxFmt ops
     let a := fun i => (s.lanesAt c (fldB ops) ops).getD i 0
     let b := fun i => (s.lanesAt c (fldC ops) ops).getD i 0
     let z := zVX ||| zMaskReg ||| (zFldD ||| zFldF)
     (s.core c).vx.length < 16 → LanesSound s c ops →
     (Takes s c (word clsVX 1 ops) z → fmtLane f = true →
       Retires (.vxAdd c ops) c s (s.lanesRun c ops (word clsVX 1 ops) (fun i _ => arith f addNM (a i) (b i)))) ∧
     (Takes s c (word clsVX 2 ops) z → fmtLane f = true →
       Retires (.vxSub c ops) c s (s.lanesRun c ops (word clsVX 2 ops) (fun i _ => arith f subNM (a i) (b i)))) ∧
     (Takes s c (word clsVX 3 ops) z → fmtLane f = true →
       Retires (.vxMul c ops) c s (s.lanesRun c ops (word clsVX 3 ops) (fun i _ => arith f mulNM (a i) (b i)))) ∧
     (Takes s c (word clsVX 5 ops) z → fmtLane f = true →
       Retires (.vxMax c ops) c s
         (s.lanesRun c ops (word clsVX 5 ops) (fun i _ => arith f (fun x y => pure (if x.lt y then y else x)) (a i) (b i)))) ∧
     (Takes s c (word clsVX 6 ops) z → fmtLane f = true →
       Retires (.vxMin c ops) c s
         (s.lanesRun c ops (word clsVX 6 ops) (fun i _ => arith f (fun x y => pure (if y.lt x then y else x)) (a i) (b i)))) ∧
     (Takes s c (word clsVX 4 ops) z → fmtFloat f = true →
       Retires (.vxFma c ops) c s (s.lanesRun c ops (word clsVX 4 ops) (fun i o => do
         let x ← readElem f (a i)
         let y ← readElem f (b i)
         let w ← readElem f o
         laneOut f (← addNM (← mulNM x y) w)))) ∧
     (Takes s c (word clsVX 7 ops) (zVX ||| zMaskReg ||| (zFldC ||| zFldD ||| zFldF)) → fmtLane f = true →
       Retires (.vxAbs c ops) c s (s.lanesRun c ops (word clsVX 7 ops) (fun i _ => do
         let x ← readElem f (a i)
         laneOut f x.abs))))

/-- The other lane instructions complete for every value of their operands: with the formats they take and room in the
queue, their work meets no fault, and they retire with what it leaves, in the vector queue (R104, R176 to R183). -/
def Obligations.VectorLanesComplete : Prop :=
  ∀ (c : CoreId) (ops : BitVec 52) (s : State),
    let f := vxFmt ops
    let z := fun x => zVX ||| zMaskReg ||| x
    let red := if fldD ops % 4 = 0 ∨ fldD ops % 4 = 3 then zFldF else zbits 14 14
    (s.core c).vx.length < 16 →
    (Takes s c (word clsVX 0xA ops) (z (zbits 48 47 ||| zbits 36 32 ||| zFldF)) → fmtLane f = true → fldD ops < 6 →
      ∃ t, workVxCmp c ops s = .ok ((), t) ∧ Retires (.vxCmp c ops) c s (t.dispatched c .vx (word clsVX 0xA ops) {})) ∧
    (Takes s c (word clsVX 0xE ops) (z (zFldC ||| zbits 36 35 ||| zFldF)) → fmtCvt f = true →
      fmtCvt (fldD ops % 16) = true → vxPartOk (elemBits f) (elemBits (fldD ops % 16)) (bits (fldD ops) 4 2) = true →
      ∃ t, workVxCvt c ops s = .ok ((), t) ∧ Retires (.vxCvt c ops) c s (t.dispatched c .vx (word clsVX 0xE ops) {})) ∧
    (Takes s c (word clsVX 0x10 ops) (z (zFldC ||| zbits 36 33 ||| zFldF)) → fmtFloat f = true → fldD ops < 9 →
      ∃ t, workVxFn c ops s = .ok ((), t) ∧ Retires (.vxFn c ops) c s (t.dispatched c .vx (word clsVX 0x10 ops) {})) ∧
    (Takes s c (word clsVX 0x11 ops) (z (zFldC ||| zFldD)) → fmtLane f = true → vxMasked ops = true →
      ∃ t, workVxCmpr c ops s = .ok ((), t) ∧ Retires (.vxCmpr c ops) c s (t.dispatched c .vx (word clsVX 0x11 ops) {})) ∧
    (Takes s c (word clsVX 0x12 ops) (z (zFldC ||| zFldD ||| zFldF)) → fmtLane f = true → vxMasked ops = true →
      ∃ t, workVxExpd c ops s = .ok ((), t) ∧ Retires (.vxExpd c ops) c s (t.dispatched c .vx (word clsVX 0x12 ops) {})) ∧
    (Takes s c (word clsVX 0x13 ops) (z (zFldD ||| zFldF)) → fmtLane f = true →
      ∃ t, workVxPerm c ops s = .ok ((), t) ∧ Retires (.vxPerm c ops) c s (t.dispatched c .vx (word clsVX 0x13 ops) {})) ∧
    (Takes s c (word clsVX 0x14 ops) (z red) → fmtLane f = true → (fldC ops = 0 ∨ (s.sreg c (fldC ops)).toNat ≤ lanesOf (elemBits f)) →
      ∃ t, workVxRed c ops s = .ok ((), t) ∧ Retires (.vxRed c ops) c s (t.dispatched c .vx (word clsVX 0x14 ops) {}))

/-! ### Engines, tile cache, HBM and binders -/

/-- Events of the engines: a combine whose participants all wait sums their tiles at the root, and each goes on once every
core that its own mask names has issued; an instruction at the head of its queue whose tiles are staged, and whose turn in
the recurrence engine it is, ends; a waiting reservation is made; the tile longest in the expander becomes valid, or corrupt and
counted, a corrupt one, or one of a mutable source, that nothing pins leaving the cache, while no other tile is done before it; a
stale pin is released, and the last one takes an invalidated tile out (R104, R123, R140, R143, R145, R153, R212, R224, R229).
Self-test, shadow checks and residue recovery of a matrix array (R147, R332 to R334): a passed self-test clears lut_mode and
makes the core ready; an arming takes the next completed MM.GRP; a check whose recomputed block agrees only counts and
releases what it held; a mismatch counts and raises RESIDUE; a recovery restores the array unless one ran within the last
hour. -/
def Obligations.EngineEvents : Prop :=
  (∀ (c : CoreId) (e : Engine) (h : HoopId) (k : TileKey) (s : State), s.mainOn = true →
     ((s.core c).wait = .combine →
       ((s.core c).combSeen = none → (s.core c).comb.root = c.val % 8 → (s.combineCores c).all s.combReady = true →
         (∀ d, (s.core d).shadowHold = []) →
         Leads (.combineRendezvous c) s (s.combine c (s.core c).comb (s.combineCores c))) ∧
       (∀ seen, (s.core c).combSeen = some seen →
         (∀ j, j < 8 → (s.core c).comb.parts.testBit j = true →
           seen.testBit j = true ∨ s.combReady (8 * (c.val / 8) + j) = true) →
         Leads (.combineRendezvous c) s (s.combineOut c))) ∧
     (∀ q qs, (s.core c).queue e = q :: qs → s.staged (c.val / 8) q = true → (s.core c).rcTurn e q = true →
       (e = .vx → (s.core c).shadowRun = none) → s.txns = [] → Leads (.engineInstructionComplete c e) s (s.engineDone c e q qs)) ∧
     Leads (.tileStaging c) s (s.restage c) ∧
     (∀ l1 t l2, (s.hoop h).tiles = l1 ++ t :: l2 → (∀ x ∈ l1, x.expanding = false) → t.expanding = true →
       let leaves := fun (o : List Tile) => s.updTiles h (fun _ => l1 ++ o ++ l2)
       (t.addr ≠ k.addr.toNat ∨ t.blk ≠ k.blk → Leads (.tileExpanded h k) s s) ∧
       (t.addr = k.addr.toNat → t.blk = k.blk →
         (t.bad = false → t.pins ≠ 0 ∨ t.keep = true → Leads (.tileExpanded h k) s (leaves [{ t with valid := true }])) ∧
         (t.bad = false → t.pins = 0 → t.keep = false → Leads (.tileExpanded h k) s (leaves [])) ∧
         (t.bad = true → t.pins = 0 → Leads (.tileExpanded h k) s ((leaves []).count R.HOOP_EXP_CORRUPT_count 1 h)) ∧
         (t.bad = true → t.pins ≠ 0 →
           Leads (.tileExpanded h k) s ((leaves [{ t with corrupt := true }]).count R.HOOP_EXP_CORRUPT_count 1 h)))) ∧
     (∀ l1 t l2, (s.hoop h).tiles = l1 ++ t :: l2 → t.addr = k.addr.toNat → t.blk = k.blk →
       (∀ x ∈ l1, ¬ (x.addr = t.addr ∧ x.blk = t.blk ∧ (0 < x.pins ∨ x.inval = true))) →
       (t.pins ≠ 0 → t.pins ≤ s.tileHolders h (k.addr.toNat, k.blk) → Leads (.tileUnpin h k) s s) ∧
       (1 < t.pins → s.tileHolders h (k.addr.toNat, k.blk) < t.pins →
         Leads (.tileUnpin h k) s (s.updTiles h (fun _ => l1 ++ { t with pins := t.pins - 1 } :: l2))) ∧
       (t.pins = 1 → s.tileHolders h (k.addr.toNat, k.blk) = 0 → t.inval = false → t.keep = true → t.corrupt = false →
         t.gone = false → Leads (.tileUnpin h k) s (s.updTiles h (fun _ => l1 ++ { t with pins := 0 } :: l2))) ∧
       (t.pins = 1 → s.tileHolders h (k.addr.toNat, k.blk) = 0 →
         t.inval = true ∨ t.keep = false ∨ t.corrupt = true ∨ t.gone = true →
         Leads (.tileUnpin h k) s (s.updTiles h (fun _ => l1 ++ l2))) ∧
       (t.pins = 0 → t.inval = true → Leads (.tileUnpin h k) s (s.updTiles h (fun _ => l1 ++ l2))))) ∧
  (∀ (c : CoreId) (s : State), s.mainOn = true →
     (s.hoopOn (c.val / 8) = true → (s.core c).recovering = false →
       (if c.val < 64 then (s.fld R.COLO_READY2_cores).testBit c else (s.fld R.COLO_READY3_cores).testBit (c.val - 64)) = false →
       Leads (.coreSelfTest c true) s ((s.put R.CORE_MM_CTRL_lut_mode 0 c).coreReady c true)) ∧
     (s.bit R.CORE_MM_CTRL_lut_mode c = false → s.fld R.CORE_MM_SHADOW_CFG_shadow_period c ≠ 0 →
       (s.core c).shadowDue ≤ s.now →
       Leads (.shadowArm c) s (s.updCore c (fun k => { k with
         shadowArmed := true, shadowDue := s.now + s.fld R.CORE_MM_SHADOW_CFG_shadow_period c * 1000000 }))) ∧
     (∀ q b r h, (s.core c).shadowRun = some (q, b, r) → q.shad = some h →
       let pieces := blockPieces h.ops.N h.ops.M b r
       let differs := s.shadowDiffers c h.ops.td.d pieces (s.shadowValues c q h pieces)
       (differs = none → Leads (.shadowCheck c) s (s.shadowEnd c q)) ∧
       (∀ m n, differs = some (m, n) → Leads (.shadowCheck c) s ((s.shadowEnd c q).shadowFail c q m n))) ∧
     ((s.core c).recovering = true →
       let done := fun (s : State) => (s.coreReady c true).updCore c (fun k =>
         { k with recovering := false, recoverAgain := false, lastRecovery := some s.now })
       ((s.core c).recoverAgain = false → Leads (.residueRecovery c true) s (done (s.put R.CORE_MM_CTRL_lut_mode 0 c))) ∧
       ((s.core c).recoverAgain = true → Leads (.residueRecovery c true) s (done s)) ∧
       Leads (.residueRecovery c false) s (done s)))

/-- The HBM controller: with its readiness bit, a patrol step while scrub_en; an automatic recalibration in turn or for
drift, one by command, which waits for the bit, and its end, counted when training did not converge; the temperature with its
hot bit above 85 °C (R27, R214, R217, R218). Tile cache, leaves and decode tables: TC_INVAL drops every tile; AT_FREE waits
for the pins of the leaf and ends with the last of them, which an AT.WIN in its walk releases once it has finished with the leaf
(log entry 97), and then counts; DT_LOAD keeps the table's address and slot, and loads it once the hoop is ready
and nothing in flight names the slot (R27, R208, R212, R227). -/
def Obligations.MemoryControllers : Prop :=
  (∀ (p : Port) (pc : Fin 32) (temp : BitVec 8) (s : State),
     (s.mainOn = true →
       (s.hbmUp = false → exec .patrolScrub s = .next s ∧ exec (.recalAuto pc) s = .next s) ∧
       (s.hbmUp = true → s.bit R.HBM_CTRL_scrub_en = true → Leads .patrolScrub s s.scrubStep.scrubWrap) ∧
       (s.hbmUp = true → s.bit R.HBM_CTRL_recal_auto = true → s.bit R.HBM_STAT_recal_busy = false →
         (s.turnDue pc.val = true → Leads (.recalAuto pc) s
           (({ s with hbm := { s.hbm with turn := (s.hbm.turn + 1) % 32 } } : State).recalStart pc.val)) ∧
         (s.turnDue pc.val = false → s.driftDue pc.val = true → Leads (.recalAuto pc) s (s.recalStart pc.val))) ∧
       (s.bit R.HBM_STAT_recal_busy = true →
         let t : State := { s.put R.HBM_STAT_recal_busy 0 with hbm := { s.hbm with
           recals := SMap.put (0, 0) s.hbm.recals (s.fld R.HBM_STAT_recal_pc) (s.now, (s.put R.HBM_STAT_recal_busy 0).fld R.HBM_STAT_temp) } }
         Leads (.recalDone true) s t ∧ Leads (.recalDone false) s (t.count R.HBM_RECAL_FAIL_count)) ∧
       Leads (.hbmTempReadout temp) s
         ((s.put R.HBM_STAT_temp temp.toNat).put R.HBM_STAT_hot (decide (85 < temp.toNat)).toNat)) ∧
     (Permit s p (R.HBM_RECAL_pc.addr 0 0) → s.bit R.HBM_STAT_recal_busy = false →
       (s.hbmUp = true → Leads (.hbmRecal p pc true) s ((s.put R.HBM_STAT_recal_pc pc.val).put R.HBM_STAT_recal_busy 1)) ∧
       (s.hbmUp = false → Leads (.hbmRecal p pc true) s { s with hbm := { s.hbm with asked := some pc.val } }))) ∧
  (∀ (p : Port) (h : HoopId) (s : State),
     (Permit s p (R.HOOP_TC_INVAL_all.addr h.val 0) → Leads (.tcInval p h true) s (s.invalTiles h.val (fun _ => true))) ∧
     (∀ leaf, Permit s p (R.HOOP_AT_FREE_leaf.addr h.val 0) → s.bit R.HOOP_AT_FREE_STAT_busy h.val = false →
       let t := s.atMark h.val leaf.toNat
       (t.freeing h.val = false → Leads (.atFree p h leaf) s t) ∧
       (t.freeing h.val = true → Leads (.atFree p h leaf) s (t.put R.HOOP_AT_FREE_STAT_busy 1 h.val))) ∧
     (s.mainOn = true → s.bit R.HOOP_AT_FREE_STAT_busy h.val = true →
       (s.freeHeld h.val = false → Leads (.atFreeDone h) s (s.freeEnd h.val)) ∧
       (s.freeHeld h.val = true → Leads (.atFreeDone h) s s)) ∧
     (∀ addr slot, Permit s p (R.HOOP_DT_LOAD_addr.addr h.val 0) → s.bit R.HOOP_DT_STAT_busy h.val = false →
       Leads (.dtLoad p h addr slot) s
         ((s.updHoop h.val (fun k => { k with dtLoad := some (addr.toNat * 128, slot.val) })).put R.HOOP_DT_STAT_busy 1 h.val)) ∧
     (∀ a k l, s.mainOn = true → ((s.dtDrain h.val).hoop h.val).dtLoad = some (a, k) →
       (((s.dtDrain h.val).fld R.COLO_READY0_ready).testBit (24 + h.val) = false →
         Leads (.dtLoadComplete h) s (s.dtDrain h.val)) ∧
       (((s.dtDrain h.val).fld R.COLO_READY0_ready).testBit (24 + h.val) = true →
         (s.dtDrain h.val).dtInflight h.val k = 0 → (s.dtDrain h.val).readToile (256 + h.val) a 128 = .bytes l →
         Leads (.dtLoadComplete h) s (((s.dtDrain h.val).touched a 128).dtEnd h.val a k (some l)))))

/-- The binder commands with their checks passed (R237 to R240): REGISTER records the binder; DEREGISTER removes one
that is loaded nowhere and is no base; LOAD loads it on its hoops and wakes those that are off (R378); UNLOAD removes one that is no base from hoops where no
folio of it is open; SWAP loads the second binder where the first is. A command given while one runs is discarded. -/
def Obligations.BinderCommands : Prop :=
  ∀ (p : Port) (b : BitVec 12) (x y : Binder) (s t : State), Permit s p (R.FOL_BND_CMD_op.addr 0 0) →
    (s.bit R.FOL_BND_STATUS_busy = true →
      exec (.bndRegister p b) s = .next s ∧ exec (.bndDeregister p b) s = .next s ∧ exec (.bndLoad p b) s = .next s ∧
        exec (.bndUnload p b) s = .next s ∧ exec (.bndSwap p b) s = .next s) ∧
    (s.bit R.FOL_BND_STATUS_busy = false →
      ((s.bndBusy 1 b).binder b = none →
        (checkImage (s.fld R.FOL_BND_ARG0_image)).run (s.bndBusy 1 b) = .ok x t →
        Leads (.bndRegister p b) s ((t.registered b x).bndDone 0 0)) ∧
      ((s.bndBusy 2 b).binder b = some x → x.hoops = [] → (s.bndBusy 2 b).isBase b = false →
        Leads (.bndDeregister p b) s (((s.bndBusy 2 b).deregistered b).bndDone 0 0)) ∧
      ((s.bndBusy 3 b).binder b = some x → x.swap = none →
        (s.bndBusy 3 b).loadChecks b x (hoopsOf (s.fld R.FOL_BND_ARG1_hoops)) = none →
        Leads (.bndLoad p b) s
          ((s.bndBusy 3 b).loadHoops b x (hoopsOf (s.fld R.FOL_BND_ARG1_hoops))).bndSettle) ∧
      ((s.bndBusy 4 b).binder b = some x →
        (hoopsOf (s.fld R.FOL_BND_ARG1_hoops)).all (fun h => (s.bndBusy 4 b).openFolios b h == 0) = true →
        (s.bndBusy 4 b).isBase b = false →
        Leads (.bndUnload p b) s (((s.bndBusy 4 b).unloadAll b
          ((hoopsOf (s.fld R.FOL_BND_ARG1_hoops)).filter (fun h => x.hoops.contains h))).bndDone 0 0)) ∧
      (let b2 := BitVec.ofNat 12 (s.fld R.FOL_BND_ARG1_binder2)
       (s.bndBusy 5 b).binder b = some x → (s.bndBusy 5 b).binder b2 = some y → x.hoops ≠ [] → b ≠ b2 → x.swap = none →
        y.swap = none → (s.bndBusy 5 b).binders.any (fun p => p.2.swap == some b) = false →
        (s.bndBusy 5 b).loadChecks b2 y x.hoops = none → swapDiff x y = none →
        Leads (.bndSwap p b) s ((s.bndBusy 5 b).loadHoops b2 y x.hoops).bndSettle))

/-! ### Fabric -/

/-- A peer's request whose turn it is in its flow, and which no read lease holds back, is served, answered by a completion,
and the flow goes on (R241, R259, R260): a READ that an export entry allows returns the bytes, a WRITE stores them, an
ATOMIC stores its result and returns the old value; one that no entry allows is refused and counted. A duplicate gets the
kept answer and is not served again. The model's choices: an atomic acts on the aligned 8-byte word (log entry 34), and a
READ of a page under a read lease that the device's own hardware wrote returns the page as it stood (log entry 79). -/
def Obligations.PeerRequests : Prop :=
  ∀ (src : DevNum) (seq tag : BitVec 16) (off : BitVec 40) (len : Nat) (dat : List Byte) (sub : BitVec 8)
    (opa opb old v : BitVec 64) (s t : State) (l : List Byte), s.mainOn = true →
    let d := src.toNat
    let run := fun (i : Instr) (op : PeerOp) =>
      let r : PeerReq := { seq := seq, tag := tag, op := op }
      (s.turnOf d 0 r = true → Leads i s (State.turnEnd d 0 r (s.serve d tag op))) ∧
      (∀ k, (s.rxFlow d 0).kept.find? (fun k => k.1 == seq) = some k →
        Leads i s ((s.count R.TOILE_DUP_count).giveAns d 0 seq k.2))
    let replies := fun (t : State) (r : Reply) => (t, PeerAns.say 1 (.reply tag r))
    let denied := replies ((s.count R.SEC_DENIED_count).count R.TOILE_REFUSED_count) .refused
    let a := off.toNat / 8 * 8
    run (.peerRead src seq tag off len) (.read off.toNat len) ∧
    run (.peerWrite src seq tag off dat) (.write off.toNat dat) ∧
    run (.peerAtomic src seq tag sub off opa opb) (.atomic sub.toNat off.toNat opa opb) ∧
    (s.allows d off.toNat len false = true →
      (s.hbmRead off.toNat len = (t, some l) →
        s.serve d tag (.read off.toNat len) = replies t (.done (s.peerView off.toNat l) 0)) ∧
      (s.hbmRead off.toNat len = (t, none) → s.serve d tag (.read off.toNat len) = replies t .ecc)) ∧
    (s.allows d off.toNat dat.length true = true →
      s.serve d tag (.write off.toNat dat) = replies (s.hbmWrite off.toNat dat) (.done [] 0)) ∧
    (s.allows d a 8 true = true → s.hbmRead a 8 = (t, some (toLE 8 old.toNat)) →
      ((sub = 1 ∧ v = old + opa) ∨ (sub = 2 ∧ v = if old = opa then opb else old) ∨
        (sub = 3 ∧ v = if old < opa then opa else old)) →
      s.serve d tag (.atomic sub.toNat off.toNat opa opb) = replies (t.hbmWrite a (toLE 8 v.toNat)) (.done [] old)) ∧
    (s.allows d off.toNat len false = false → s.serve d tag (.read off.toNat len) = denied) ∧
    (s.allows d off.toNat dat.length true = false → s.serve d tag (.write off.toNat dat) = denied) ∧
    (s.allows d a 8 true = false → s.serve d tag (.atomic sub.toNat off.toNat opa opb) = denied)

/-- The answers to the device's own transactions and their absence (R259): an answer ends its transaction and reaches
its requester; after half the timeout it is sent again once, after the timeout its requester has it as lost. Read leases
and gaps at the serving side (R243, R259): a lease is given for 50 ms under an owned entry that the peer may read, else
refused and counted; an expired lease is gone and what waited proceeds; a recalled lease is given up and said so; a gap
older than the timeout is skipped. A transaction for another device goes on by one of its route's usable links with its
data and one hop more; one that has made seven hops or finds no link is dropped and counted; a request naming 0xFFF is
refused (R25, R254 to R256). The form of the read-lease request and its answer is the model's (log entry 32), and so is the
acknowledgement of a flow's transaction that has no response (log entry 77). -/
def Obligations.Transactions : Prop :=
  (∀ (src : DevNum) (h : FlowPos) (tag : BitVec 16) (cls : Fin 4) (seq : BitVec 16) (r : Reply) (ok : Bool) (t : Txn) (s : State),
     s.mainOn = true →
     (s.txns.find? (fun t => t.tag = h.tag.toNat ∧ t.dest.toNat = src.toNat ∧ !t.held) = some t →
       Comes (.completion src (.reply h r)) src 1 h (.reply h.tag r) s ((s.retireTxn t).deliver t (.answer r), .ack) ∧
       Comes (.completion src (.lease h ok)) src 3 h (.leaseAns h.tag ok) s
         ((s.retireTxn t).deliver t (.answer (if ok then .done [] 0 else .refused)), .ack)) ∧
     (s.txns.find? (fun t => t.body.isSome ∧ t.cls = cls.val ∧ t.seq = seq ∧ t.dest.toNat = src.toNat ∧ !t.held) = some t →
       Leads (.completion src (.flow cls seq)) s (s.retireTxn t)) ∧
     (s.txns.find? (fun t => t.tag = tag.toNat) = some t → t.held = false →
       (t.resent = false → t.sentAt + s.timeout / 2 ≤ s.now → Leads (.resendTimeout tag) s (s.resend t)) ∧
       (t.sentAt + s.timeout ≤ s.now → Leads (.transactionTimeout tag) s ((s.retireTxn t).deliver t .lost)))) ∧
  (∀ (src : DevNum) (h : FlowPos) (addr : BitVec 40) (a52 : BitVec 52) (e : Fin 256) (page : Nat) (cls : Fin 4) (s : State),
     s.mainOn = true →
     let asked := fun (take : Bool) (p : State × PeerAns) =>
       let r : PeerReq := { seq := h.seq, tag := h.tag, op := .note (.readLease addr take) }
       s.turnOf src.toNat 3 r = true →
         Leads (.readLeaseRequest src h addr take) s (State.turnEnd src.toNat 3 r p).wakeFlows
     (∀ r, s.leaseEntry src addr = some r →
       asked true (s.giveLease src (addr.toNat / 4096) r, .say 3 (.leaseAns h.tag true))) ∧
     (s.leaseEntry src addr = none → asked true (s.count R.TOILE_REFUSED_count, .say 3 (.leaseAns h.tag false))) ∧
     asked false (({ s with leases := s.otherLeases src (addr.toNat / 4096) } : State).leasesEnd, .say 3 (.leaseAns h.tag true)) ∧
     Leads (.readLeaseExpiry e src page) s
       ({ s with leases := s.leases.filter (fun l =>
           !(l.entry == e.val && l.holder == src && l.page == page && decide (l.expiry ≤ s.now))) } : State).leasesEnd.wakeFlows ∧
     (let a := src.toNat * 2 ^ 40 + a52.toNat % 2 ^ 40 / 4096 * 4096
      Comes (.recall src h a52) src 3 h (.recall a52) s
       (({ s with myLeases := s.myLeases.filter (fun l => l.1 ≠ a) } : State).post src.toNat 3
         (.readLease (BitVec.ofNat 40 (a % 2 ^ 40)) false), .ack)) ∧
     (∀ t, (s.rxFlow src.toNat cls.val).gapAt = some t → t + s.timeout ≤ s.now →
       Leads (.seqGapTimeout src cls) s (s.skipGap src.toNat cls.val (s.rxFlow src.toNat cls.val).gap))) ∧
  (∀ (hd : TxnHeader) (l : Nat) (s : State), s.mainOn = true → hd.dest.toNat ≠ s.devnum →
     (hd.dest.toNat ≠ ownDev → hd.hops ≠ 7 → s.routed hd.dest.toNat hd.cls.toNat = true →
       s.pickLink hd.dest.toNat hd.cls.toNat = some l →
       Leads (.transactionForward hd) s
         (s.enqueue l hd.cls.toNat noTag (headerFlits hd) (.forward l { hd with
           hops := hd.hops + 1, dat := padTo (headerData hd.typ.toNat hd.len.toNat hd.sub.toNat) hd.dat }))) ∧
     (hd.dest.toNat ≠ ownDev →
       hd.hops = 7 ∨ s.routed hd.dest.toNat hd.cls.toNat = false ∨ s.pickLink hd.dest.toNat hd.cls.toNat = none →
       Leads (.transactionForward hd) s (s.count R.TOILE_HOPDROP_count)) ∧
     (hd.dest.toNat = ownDev → 1 ≤ hd.typ → hd.typ ≤ 3 →
       Leads (.transactionForward hd) s ((s.count R.TOILE_REFUSED_count).post hd.src.toNat 1 (.reply hd.tag .refused))))

/-- Light and training (R245, R250, R252, R366, Table 10-3): losing a wavelength clears laser_ok of the engine's links
and takes those up down; its return retrains; a link that loses signal goes down; enabling starts training, disabling
ends it; a link not up after 20 ms waits 100 ms and starts again; an engine whose links are all disabled is switched
off. Flits and retry (R247, R249): a good flit is accepted and acknowledged; one with a bad CRC or an uncorrectable
codeword is dropped and reported at most once a round trip; an acknowledgement frees the replay buffer up to the flit it
names; a negative one, or none in time, replays. The model's reading: a link not UP that loses signal only clears its lock,
and a retrain of a link that waits starts it again (log entry 35); LINK_START gives each class 128 credits (log entry 78). -/
def Obligations.Links : Prop :=
  (∀ (p : Port) (e lane : Fin 8) (l : LinkId) (on : Bool) (s : State),
     (s.mainOn = true →
       Leads (.laserLoss e lane) s ((linksOf e.val).foldl (fun (s : State) l => (s.put R.FLNK_STAT_laser_ok 0 l).downIfUp l 2) s) ∧
       Leads (.laserRestore e) s ((linksOf e.val).foldl (fun (s : State) l =>
         if (s.put R.FLNK_STAT_laser_ok 1 l).linkOn l ∧ (s.put R.FLNK_STAT_laser_ok 1 l).linkState l ≠ 3 then
           (s.put R.FLNK_STAT_laser_ok 1 l).trainStart l
         else s.put R.FLNK_STAT_laser_ok 1 l) s) ∧
       (s.linkState l = 3 → Leads (.lossOfSignal l) s (s.downNow l 1)) ∧
       (s.linkState l ≠ 3 → Leads (.lossOfSignal l) s
         ((s.put R.FLNK_STAT_lock 0 l).updLink l (fun k => { k with locked := false }))) ∧
       (64 ≤ (s.link l).uncorr → s.linkState l = 3 → Leads (.fecErrorLimit l) s (s.downNow l 3)) ∧
       (16 ≤ (s.link l).replays → s.linkState l = 3 → Leads (.replayLimit l) s (s.downNow l 4)) ∧
       (s.linkState l = 1 → (s.link l).trainAt + 20 * ms ≤ s.now →
         Leads (.trainTimeout l) s (s.linkDown l 7 (fun s => s.put R.FLNK_STAT_state 4 l))) ∧
       (s.linkState l = 4 → (s.link l).trainAt + 100 * ms ≤ s.now → Leads (.retrainDelayEnd l) s (s.trainStart l)) ∧
       (s.linkState l = 1 →
         let t := (s.put R.FLNK_STAT_lock 0xFF l).updLink l (fun k => { k with locked := true })
         (t.bit R.FLNK_STAT_laser_ok l = true → Leads (.laneLock l) s (t.send (.linkStart l))) ∧
         (t.bit R.FLNK_STAT_laser_ok l = false → Leads (.laneLock l) s t)) ∧
       (s.linkState l = 1 → (s.link l).locked = true →
         Leads (.linkStart l) s (s.updLink l (fun k => { k with
           started := true, txSeq := 0, rxSeq := 0, replay := [], queue := [], replays := 0, credits := [128, 128, 128, 128],
           owed := [0, 0, 0, 0], rxLeft := 0, rxCls := 0, timeAt := s.now }))) ∧
       (∀ t, (s.engine e).idleAt = some t → t + ms ≤ s.now → (linksOf e.val).any (fun l => s.linkOn l) = false →
         Leads (.engineSwitchOff e) s (s.updEngine e (fun _ => {})))) ∧
     (Permit s p (R.FLNK_CTRL_enable.addr l 0) →
       Leads (.linkEnable p l on) s ((if on && !s.linkOn l then s.loadLink l else s).setEnable l on) ∧
       (s.linkOn l = true → s.linkRuns l = true → Leads (.linkRetrain p l) s (s.downNow l 8)) ∧
       (s.linkOn l = true → s.linkRuns l = false → Leads (.linkRetrain p l) s ((s.put R.FLNK_STAT_reason 8 l).trainStart l)) ∧
       (s.linkOn l = false → exec (.linkRetrain p l) s = .next s))) ∧
  (∀ (l : LinkId) (content : BitVec 480) (crc : BitVec 32) (sym uncorr : Nat) (seq : BitVec 12) (c : Credits) (s : State),
     s.mainOn = true →
     ((s.link l).started = true →
       let u := s.flitCounts l sym uncorr
       (uncorr ≠ 0 ∨ crc ≠ flitCrc content (s.link l).rxSeq →
         Leads (.flitReceived l content crc sym uncorr) s (u.flitDropped l)) ∧
       (uncorr = 0 → crc = flitCrc content (s.link l).rxSeq →
         ((s.link l).rxLeft ≠ 0 ∨ bits content.toNat 0 4 = 1 →
           Leads (.flitReceived l content crc sym uncorr) s (u.flitTaken l content)) ∧
         ((s.link l).rxLeft = 0 → bits content.toNat 0 4 ≠ 1 → Leads (.flitReceived l content crc sym uncorr) s u))) ∧
     (let u := s.updLink l (fun k => k.credit c)
      (∀ rest, afterSeq seq (u.link l).replay = some rest → Leads (.ackReceived l seq c) s
        (((u.updLink l (fun k => { k with replay := rest, replays := 0, lastSend := s.now })).drainLink l).sayControl l)) ∧
      (afterSeq seq (u.link l).replay = none → Leads (.ackReceived l seq c) s ((u.drainLink l).sayControl l))) ∧
     Leads (.nakReceived l seq) s (s.replayFrom l ((s.link l).replay.dropWhile (fun x => x.1 != seq))) ∧
     ((s.link l).lastSend + 4 * us + 2 * s.fld R.FLNK_DELAY_delay l ≤ s.now →
       Leads (.replayTimeout l) s (s.replayFrom l (s.link l).replay)))

/-- HELLO and routes (R251, R253, R254): a matching HELLO brings the link up; another fabric, lifecycle or no number
takes it down with reason 5, the device's own number with 6; the device number is written only while every link is off;
a pending route is confirmed, or cleared. Device time on the Toile (R261, R262, Table 10-3): every 1 ms a link sends a
TIME message; one received is answered with its stamps, or, itself an answer, gives with its arrival's stamp the delay and
the offset, completes step 4 of a training link, and steers device time when it comes from the parent: behind by more than
1 µs it steps, else it is slewed. The model's reading: a TIME message whose t2 and t3 are 0 is the request (log entry 38); a
link that a HELLO takes down trains anew as one of any other loss does (log entry 35). -/
def Obligations.HelloRoutesAndTime : Prop :=
  (∀ (p : Port) (l : LinkId) (m : HelloMsg) (v : BitVec 64) (dev : DevNum) (s : State),
     (s.mainOn = true → s.linkState l = 2 → s.devnum ≠ ownDev →
       (m.devnum.toNat = s.devnum → Leads (.hello l m) s (s.downNow l 6)) ∧
       (m.devnum.toNat ≠ s.devnum →
         (m.fabricId.toNat = s.fld R.TOILE_DEVNUM_fabric_id → m.lifecycle.toNat = s.lifecycle → m.devnum.toNat ≠ ownDev →
           Leads (.hello l m) s (s.linkUp l m)) ∧
         (m.fabricId.toNat ≠ s.fld R.TOILE_DEVNUM_fabric_id ∨ m.lifecycle.toNat ≠ s.lifecycle ∨ m.devnum.toNat = ownDev →
           Leads (.hello l m) s (s.downNow l 5)))) ∧
     (Permit s p (R.TOILE_DEVNUM_devnum.addr 0 0) →
       ((List.range 64).all (fun l => s.linkState l == 0) = true → Leads (.toileDevnumWrite p v) s
         ((s.put R.TOILE_DEVNUM_devnum (bits v.toNat 0 12)).put R.TOILE_DEVNUM_fabric_id (bits v.toNat 12 32)).memberBit.followRoot) ∧
       ((List.range 64).all (fun l => s.linkState l == 0) = false → exec (.toileDevnumWrite p v) s = .next s)) ∧
     (Permit s p (R.TOILE_RT_CONFIRM_dev.addr 0 0) → s.bit R.TOILE_RT_pending dev.toNat = true →
       Leads (.toileRtConfirm p dev true) s (s.put R.TOILE_RT_pending 0 dev.toNat).pendingStat ∧
       Leads (.toileRtConfirm p dev false) s ((List.range 4).foldl (fun (s : State) k => s.put (rtCand k) 0 dev.toNat)
         (s.put R.TOILE_RT_pending 0 dev.toNat)).pendingStat)) ∧
  (∀ (l : LinkId) (m : TimeMsg) (off : Int) (s : State), s.mainOn = true →
     let runs := s.linkState l = 3 ∨ (s.linkState l = 1 ∧ (s.link l).started = true)
     (runs → (s.link l).timeAt ≤ s.now → Leads (.timeExchange l) s
       ((s.followRoot.updLink l (fun k => { k with timeAt := s.followRoot.now + ms })).linkSay l
         (fun l n => .time l n (s.followRoot.timeMsg (BitVec.ofNat 64 s.followRoot.now) 0 0)))) ∧
     (runs ∨ s.linkState l = 2 →
       let u := s.timeHeard l m
       (m.t2 = 0 → m.t3 = 0 → Leads (.timeMsg l m) s (u.linkSay l
         (fun l n => .time l n (u.timeMsg m.t1 (BitVec.ofNat 64 s.now) (BitVec.ofNat 64 s.now))))) ∧
       (m.t2 ≠ 0 ∨ m.t3 ≠ 0 →
         let delay : Int := (((s.now % 2 ^ 64 : Nat) - m.t1.toNat : Int) - ((m.t3.toNat : Int) - m.t2.toNat)) / 2
         let off : Int := (((m.t2.toNat : Int) - m.t1.toNat) + ((m.t3.toNat : Int) - (s.now % 2 ^ 64 : Nat))) / 2
         let v := u.put R.FLNK_DELAY_delay delay.toNat l
         (v.linkState l = 1 → Leads (.timeMsg l m) s (v.updLink l (fun k => { k with timed := true }))) ∧
         (v.linkState l ≠ 1 → v.parentLink = some l.val → Leads (.timeMsg l m) s (v.steer off)) ∧
         (v.linkState l ≠ 1 → v.parentLink ≠ some l.val → Leads (.timeMsg l m) s v))) ∧
     (1000 < off → (s.steer off).clk.time = s.clk.time + off.toNat ∧ (s.steer off).clk.slew = 0) ∧
     (off ≤ 1000 → (s.steer off).clk.time = s.clk.time ∧ (s.steer off).clk.slew = off))

/-- TOILE_XCMD (R258, R260, R243): each operation starts on the address, length and buffer registers; a misaligned one
ends with ALIGN; one given while another runs is discarded. That a misaligned buffer ends with ALIGN and one outside HBM with
DENIED, also for the lease operations, is the model's choice (log entry 34). -/
def Obligations.ToileCommands : Prop :=
  ∀ (p : Port) (len : BitVec 6) (s : State), Permit s p (R.TOILE_XCMD_op.addr 0 0) →
    let each := fun (i : Instr) (op : Nat) =>
      let x : XRun := { op := op, addr := s.norm (s.fld R.TOILE_XADDR_addr), len := 64 * (len.toNat + 1),
                        buf := s.fld R.TOILE_XBUF_buf }
      (s.bit R.TOILE_XSTAT_busy = true → exec i s = .next s) ∧
      (s.bit R.TOILE_XSTAT_busy = false →
        (xAligned x = true → x.buf % 64 = 0 → x.buf + x.len ≤ hbmSize → Leads i s (s.xStart x)) ∧
        (xAligned x = false ∨ x.buf % 64 ≠ 0 → Leads i s (s.xDone 5)) ∧
        (xAligned x = true → x.buf % 64 = 0 → hbmSize < x.buf + x.len → Leads i s (s.xDone 2)))
    each (.xcmdRead p len) 1 ∧ each (.xcmdWrite p len) 2 ∧ each (.xcmdAdd p len) 3 ∧ each (.xcmdCas p len) 4 ∧
      each (.xcmdMax p len) 5 ∧ each (.takeReadLease p len) 6 ∧ each (.releaseReadLease p len) 7

/-- Lining at the home (R14, R265, R266, R268): an acknowledgement of LINE.OPEN lines the folio, a refusal or its
timeout unlines it; an acknowledgement of the gathering unacknowledged lets it be released; without one the DELTA goes
out again; REPARTNER of an IDLE or READY folio opens its shadow at the new partner. The model's reading (log entry 36): a
refusal of a DELTA lets the gathering be released with lined clear, and REPARTNER stays busy until LINE.OPEN is answered. -/
def Obligations.LiningAtHome : Prop :=
  ∀ (p : Port) (src dev : DevNum) (h : FlowPos) (n : Folio) (seq : BitVec 32) (r : LineResult) (s : State),
    (s.mainOn = true →
      (let u := s.answered src.toNat h.tag (.done [] 0)
       (u.ent n).st ≠ .free → (u.ent n).partner = src →
        ((u.fol n).line.openAt.isSome = true →
          Comes (.lineAck src h n seq r) src 2 h (.lineAck h.tag n seq r) s (u.openAnswered n (r == .ack), .ack)) ∧
        (∀ x, (u.fol n).line.openAt = none → (u.fol n).line.unacked = some (seq, x) →
          Comes (.lineAck src h n seq r) src 2 h (.lineAck h.tag n seq r) s (u.lineAcked n (r == .ack), .ack))) ∧
      (∀ t, (s.fol n).line.openAt = some t → t + max 100 (s.fld R.TOILE_CFG_timeout_us) * us ≤ s.now →
        Leads (.lineOpenTimeout n) s (s.openAnswered n false)) ∧
      (∀ next full crc dat, (s.fol n).line.unacked = some (seq, next, full, crc, dat) → s.fenced = false →
        s.lineWaits n = true → (s.fol n).line.sentAt + max 100 (s.fld R.TOILE_LINE_CFG_ack_timeout_us) * us ≤ s.now →
        Leads (.deltaResend n) s (s.lineResend n
          (if full then .lineFull n seq next crc dat else .lineDelta n seq next crc dat)))) ∧
    (Permit s p (R.TOILE_CMD_op.addr 0 0) →
      (s.bit R.TOILE_CMD_STATUS_busy = true → exec (.repartner p n dev) s = .next s) ∧
      (s.bit R.TOILE_CMD_STATUS_busy = false →
        (((s.ent n).st = .idle ∨ (s.ent n).st = .ready) → s.standalone = false → s.routed dev.toNat 2 = true →
          Leads (.repartner p n dev) s (s.repartStart n dev)) ∧
        ((s.ent n).st ≠ .idle → (s.ent n).st ≠ .ready →
          Leads (.repartner p n dev) s (s.put R.TOILE_CMD_STATUS_result 1))))

/-- Lining at the partner (R265 to R267, R269): LINE.OPEN sets a shadow up where an index and a slot are free, else is
refused; LINE.REL notes the gathering released; LINE.CLOSE frees the shadow; a DELTA of the next gathering, or a FULL, whose
CRC matches gives the shadow its state; one whose CRC does not match, or a DELTA out of its order, makes the shadow stale; one
already taken is acknowledged. The shadow ring takes a home's audio under its indices and stamps; a stamp with count 0 and
reset_mark moves the base of the shadow's source (R266, R267, R316). The model's reading: LINE.OPEN drops an earlier shadow of
the same folio first, and a FULL is taken at any sequence (log entry 37); a DELTA or FULL of a folio without a shadow is
answered STALE (log entry 100); the table's lines are checked as they are read, and an entry that cannot be read describes no
shadow (log entry 90). -/
def Obligations.LiningAtPartner : Prop :=
  (∀ (src : DevNum) (h : FlowPos) (n : Folio) (m : LineParams) (seq next crc : BitVec 32) (dat : List Byte) (s : State),
     s.mainOn = true →
     let d := src.toNat
     let u := s.readShadows
     let t := u.dropOldShadow d n
     let opens := fun (u : State) (r : LineResult) =>
       Comes (.lineOpen src h n m) src 2 h (.lineOpen n m) s (u, .say 2 (.lineAck h.tag n 0 r))
     let delta := fun (u : State) (r : LineResult) =>
       Comes (.lineDelta src h n seq next crc dat) src 2 h (.lineDelta n seq next crc dat) s (u, .say 2 (.lineAck h.tag n seq r))
     let full := fun (u : State) (r : LineResult) =>
       Comes (.lineFull src h n seq next crc dat) src 2 h (.lineFull n seq next crc dat) s (u, .say 2 (.lineAck h.tag n seq r))
     let need := if m.external then 2 * m.size.toNat else m.size.toNat
     (∀ i slot, t.standalone = false → t.freeShadowIndex = some i → t.freeSlot need = some slot →
       opens (t.openShadow i (shadowEntry d n m slot) m.base) .ack) ∧
     (t.standalone = true ∨ t.freeShadowIndex = none ∨ t.freeSlot need = none → opens t .noRoom) ∧
     (∀ i, u.shadowOf d n = some i →
       let e := u.sh i
       Comes (.lineRel src h n seq) src 2 h (.lineRel n seq) s (u.setSh i { e with relSeq := seq.toNat }, .ack) ∧
       Comes (.lineClose src h n seq) src 2 h (.lineClose n seq) s (u.freeShadow i, .ack) ∧
       (e.lastSeq = seq.toNat → e.stale = false → delta u .ack ∧ full u .ack) ∧
       (e.lastSeq ≠ seq.toNat ∨ e.stale = true →
         (crc32c (padTo e.size dat) = crc → full (u.lineTake i seq.toNat next.toNat (padTo e.size dat)) .ack) ∧
         (crc32c (padTo e.size dat) ≠ crc → full (u.markStale i) .stale) ∧
         (seq.toNat ≠ (e.lastSeq + 1) % 2 ^ 32 → delta (u.markStale i) .seq)) ∧
       (seq.toNat = (e.lastSeq + 1) % 2 ^ 32 →
         (e.stale = true → delta u .stale) ∧
         (e.stale = false → e.lastSeq < 2 ^ 32 → ∀ c, u.readLocal e.slot e.size = .bytes c →
           (crc32c (applyDelta c dat) = crc → delta (u.lineTake i seq.toNat next.toNat (applyDelta c dat)) .ack) ∧
           (crc32c (applyDelta c dat) ≠ crc → delta (u.markStale i) .stale)))) ∧
     (u.shadowOf d n = none → delta u .stale ∧ full u .stale)) ∧
  (∀ (src : DevNum) (h : FlowPos) (n : Folio) (st : StampEntry) (ssrc ts : BitVec 32) (dat : List Byte) (i : Nat) (s : State),
     let u := s.readShadows
     s.mainOn = true → u.shadowOf src.toNat n = some i →
     let heard := fun (t : State) =>
       Comes (.lineAudio src h n st ssrc ts dat) src 2 h (.lineAudio n st ssrc ts dat) s (t, .ack)
     (st.count ≠ 0 →
       let r := u.shadowBlock (u.shFolio i) (u.sh i).lookback { time := st.time.toNat, dat := dat, count := st.count.toNat } st
       heard (if r.2 then r.1.markStale i else r.1)) ∧
     (st.count = 0 → st.resetMark = true → heard
       (u.baseUpdate (u.shFolio i) { ssrc := ssrc, baseTs := ts, anchorI := st.first, anchorT := st.time })))

/-- The holder's side of leases (R271, R272, R276, R278, R340): renewals go out every 10 ms while the device renews; a
member's answer counts; a lease that passes fences the device; REJOIN forgets every folio and joins; the quorum set is
written. The member's side (R271, R273, R276, R277, R339): a member that serves answers a renewal, a promotion, a JOIN
and a RESIGN; held promotions are granted, and held JOINs answered, 10 ms after the recorded expiry; a grant that
expires unrenewed raises an event; the quiet time after a device reset ends. One that does not serve answers nothing. The
model's reading (log entry 22): PROMOTE for a device without a record is refused; a RESIGN of another epoch is answered as
a refused renewal; a device without a record that joins gets one above the epoch it names; REJOIN ends a FOL command that
runs. -/
def Obligations.Leases : Prop :=
  (∀ (p : Port) (m : DevNum) (h : FlowPos) (r : LeaseReply) (v : BitVec 64) (s : State),
     (s.mainOn = true →
       (s.renews = true → s.lease.autoJoin = false → s.lease.renewAt ≤ s.now → Leads .leaseRenewSend s
         ({ s with lease := { s.lease with renewAt := s.now + 10 * ms } } : State).sendRenew) ∧
       (let u := s.answered m.toNat h.tag (.done [] 0)
        u.quorum.contains m.toNat = true →
          Comes (.leaseGrant m h r) m 3 h (.leaseReply h.tag r) s (u.leaseAnswer m.toNat r, .ack)) ∧
       (s.standalone = false → s.bit R.TOILE_LEASE_leased = true → s.fld R.TOILE_LEASE_EXP_expiry ≤ s.now →
         Leads .leaseExpiry s (s.put R.TOILE_LEASE_leased 0).fence)) ∧
     (Permit s p (R.TOILE_CMD_op.addr 0 0) → s.bit R.TOILE_CMD_STATUS_busy = false →
       (s.endFolCmd.forgetFolios.quorum = [] → Leads (.rejoin p) s (s.endFolCmd.forgetFolios.put R.TOILE_CMD_STATUS_result 0)) ∧
       (s.endFolCmd.forgetFolios.quorum ≠ [] →
         Leads (.rejoin p) s (s.endFolCmd.forgetFolios.sendJoin.put R.TOILE_CMD_STATUS_result 0))) ∧
     (Permit s p (R.TOILE_QUORUM_members.addr 0 0) →
       (v.getLsbD 63 = s.standalone → Leads (.toileQuorumWrite p v) s (s.setQuorum v.toNat false)) ∧
       (v.getLsbD 63 ≠ s.standalone → s.dir.all (fun d => d.2.st == .free) = true →
         Leads (.toileQuorumWrite p v) s (s.setQuorum v.toNat true)) ∧
       (v.getLsbD 63 ≠ s.standalone → s.dir.all (fun d => d.2.st == .free) = false →
         exec (.toileQuorumWrite p v) s = .next s))) ∧
  (∀ (src x : DevNum) (h : FlowPos) (e : BitVec 32) (t : BitVec 64) (s : State), s.mainOn = true →
     let d := src.toNat
     let renew := Comes (.leaseRenew src h e t) src 3 h (.leaseRenew e t) s
     let promote := Comes (.leasePromote src h x e) src 3 h (.leasePromote x e) s
     let join := Comes (.leaseJoin src h e) src 3 h (.leaseJoin e) s
     let resign := Comes (.leaseResign src h e) src 3 h (.leaseResign e) s
     let replies := fun (u : State) (r : LeaseReply) => (u, PeerAns.say 3 (.leaseReply h.tag r))
     (s.serves = true →
       renew (replies (s.renewed d e.toNat t.toNat).1 (s.renewed d e.toNat t.toNat).2) ∧
       (let u := s.readQrec x.toNat
        ((u.qrec x.toNat).valid = true →
          (e.toNat < (u.qrec x.toNat).epoch → promote (replies u (.promoted x))) ∧
          ((u.qrec x.toNat).epoch = e.toNat →
            let l := u.lease.heldPromotes.filter (fun g => !(g.x == x && g.e == e && g.src.toNat == d))
            let k : HeldPromo := { x := x, e := e, src := BitVec.ofNat 12 d, tag := h.tag }
            promote ({ u with lease := { u.lease with heldPromotes := l ++ [k] } }, .silent))) ∧
        ((u.qrec x.toNat).valid = false ∨ (u.qrec x.toNat).epoch < e.toNat → promote (replies u (.promoteRefused x)))) ∧
       (let u := s.readQrec d
        ((u.qrec d).valid = false ∨ (u.qrec d).revoked = true ∨ (u.qrec d).expiry + 10 * ms ≤ u.now →
          join (replies (u.memberJoin d e.toNat).1 (u.memberJoin d e.toNat).2)) ∧
        ((u.qrec d).valid = true → (u.qrec d).revoked = false → u.now < (u.qrec d).expiry + 10 * ms →
          let l := u.lease.heldJoins.filter (fun g => g.1.toNat ≠ d)
          join ({ u with lease := { u.lease with heldJoins := l ++ [(BitVec.ofNat 12 d, h.tag)] } }, .silent)) ∧
        ((u.qrec d).valid = true → (u.qrec d).epoch = e.toNat →
          resign ((u.revoke d).grantHeld d, .say 3 (.resignAck h.tag))) ∧
        ((u.qrec d).valid = false ∨ (u.qrec d).epoch ≠ e.toNat →
          resign (replies u (.renewRefused (BitVec.ofNat 32 (u.qrec d).epoch)))))) ∧
     (s.serves = false → renew (s, .silent) ∧ promote (s, .silent) ∧ join (s, .silent) ∧ resign (s, .silent)) ∧
     (s.lease.heldPromotes.any (fun g => g.x == x) = true → (s.qrec x.toNat).expiry + 10 * ms ≤ s.now →
       Leads (.promoteHoldExpiry x) s (((s.readQrec x.toNat).revoke x.toNat).grantHeld x.toNat)) ∧
     (∀ g, s.lease.heldJoins.find? (fun g => g.1 = x) = some g → (s.qrec x.toNat).expiry + 10 * ms ≤ s.now →
       let u := s.readQrec x.toNat
       let a := ({ u with lease := { u.lease with heldJoins := u.lease.heldJoins.filter (fun g => g.1 ≠ x) } } : State).memberJoin
         x.toNat 0
       Leads (.joinAnswerDue x) s (a.1.memberSay x.toNat g.2 a.2)) ∧
     ((s.lease.grants.find? (fun g => g.1 = x.toNat ∧ g.2 ≤ s.now)).isSome = true → Leads (.grantExpiry x) s
       (({ s with lease := { s.lease with grants := SMap.del s.lease.grants x.toNat } } : State).event 0x0C 4 0xFF 0xFFFFF x.toNat)) ∧
     (s.lease.quietUntil ≠ 0 → s.lease.quietUntil ≤ s.now →
       Leads .quorumQuietEnd s { s with lease := { s.lease with quietUntil := 0 } }))

/-- Watching peers (R263, R273): a BEAT to each watched peer every 500 µs; a BEAT received keeps its peer alive; a
watched peer without one for 2 ms, or without a usable route, is lost; while it is lost PROMOTE goes out again every 1
ms. -/
def Obligations.PeerWatch : Prop :=
  ∀ (dev : DevNum) (h : FlowPos) (epoch : BitVec 32) (s : State), s.mainOn = true →
    (s.lease.beatAt ≤ s.now → Leads .beatSend s
      ((({ s with lease := { s.lease with beatAt := s.now + 500 * us } } : State).rewatch s.watchList).sendBeats s.watchList)) ∧
    Comes (.beat dev h epoch) dev 3 h (.beat epoch) s (s.updPeer dev.toNat (fun p =>
      { p with lastBeat := s.now, lost := false, epoch := epoch, promoteAt := none, promoteBy := [] }), .ack) ∧
    ((s.peer dev.toNat).watched = true → s.watches dev.toNat = true →
      (s.peer dev.toNat).lastBeat + 2 * ms ≤ s.now ∨ s.candidates dev.toNat = [] →
      Leads (.beatTimeout dev) s (s.peerLost dev.toNat ((s.candidates dev.toNat).getLast?.getD 0xFF))) ∧
    (∀ t, (s.peer dev.toNat).promoteAt = some t → (s.peer dev.toNat).lost = true → t + ms ≤ s.now →
      Leads (.promoteResend dev) s (s.sendPromote dev.toNat))

/-! ### Audio, Ethernet and modules -/

/-- Ports (R27, R293, R298, R299): a start whose checks pass makes an OFF port pending, or relocks a slave whose group runs;
one that fails leaves its error; a port whose readiness bit is 0 does not begin; a stop ends the port; RESTART takes RATE_STOP to RELOCK; leads and tails begin and end
by their lengths in frames. The lands of a port by its state (R307, Table 11-6): a port that is OFF and was never a master
drives nothing, a master that is OFF drives its clocks low, one that is not OFF drives them; without the main domain's
power nothing is driven. -/
def Obligations.PortStartStop : Prop :=
  ∀ (p : Port) (a : SapId) (v : BitVec 64) (heard : List LineLevels) (l : Fin 4) (s : State),
    (Permit s p (R.SAP_CTRL_start.addr a 0) →
      let t := s.sapCtrl a v
      (t.sapState a = 0 → t.bit R.SAP_STAT_pending a = false →
        (t.startErr a ≠ 0 → Leads (.sapStart p a v) s (t.put R.SAP_STAT_err (t.startErr a) a)) ∧
        (t.startErr a = 0 →
          let u := (t.put R.SAP_STAT_err 0 a).put R.SAP_STAT_pending 1 a
          Leads (.sapStart p a v) s
            (if u.grpState (u.grpOf a) = 2 ∧ u.slave a = true ∧ u.sapUsable a = true then u.sapRelock a false else u))) ∧
      Leads (.sapStop p a v) s (t.sapStopNow a) ∧
      (t.sapState a = 6 → Leads (.sapRestart p a v) s (t.sapRelock a true)) ∧
      (t.sapState a ≠ 6 → Leads (.sapRestart p a v) s t)) ∧
    (s.mainOn = true →
      ((s.fld R.COLO_READY0_ready).testBit (8 + a) = false → exec (.leadStart a) s = .next s) ∧
      (s.bit R.SAP_STAT_pending a = true → (s.fld R.COLO_READY0_ready).testBit (8 + a) = true → s.slave a = false →
        s.grpState (s.grpOf a) = 1 → s.fld R.SAP_LEAD_clk_lead a ≠ 0 →
        (s.agrp (s.grpOf a)).start ≤ s.now + s.framesNs (s.grpOf a) (s.fld R.SAP_LEAD_clk_lead a) →
        Leads (.leadStart a) s (s.sapLead a)) ∧
      (s.sapState a = 1 → (s.sap a).leadAt + s.framesNs (s.grpOf a) (s.fld R.SAP_LEAD_clk_lead a) ≤ s.now →
        Leads (.leadEnd a heard) s (((s.iecSpent a).micsTake a (s.pdmRatio a / 4) heard).sapRun a)) ∧
      (s.sapState a = 3 → (s.sap a).leadAt + s.framesNs (s.grpOf a) (s.fld R.SAP_LEAD_clk_tail a) ≤ s.now →
        Leads (.tailEnd a) s (s.sapOff a)) ∧
      (s.sapState a = 0 →
        ((s.sap a).master = false → s.land (.bclk a) = .highZ ∧ s.land (.fsync a) = .highZ ∧ s.land (.mclkOut a) = .highZ ∧
          s.land (.line a l) = .highZ) ∧
        ((s.sap a).master = true → s.land (.bclk a) = .low ∧ s.land (.fsync a) = .low)) ∧
      (s.sapState a ≠ 0 → s.slave a = false → s.mode a < 4 →
        s.land (.bclk a) = .clock (s.fld R.SAP_CLK_family a) (s.sapDiv a) ∧ s.land (.fsync a) = .active)) ∧
    (s.mainOn = false → s.land (.bclk a) = .highZ ∧ s.land (.fsync a) = .highZ ∧ s.land (.mclkOut a) = .highZ ∧
      s.land (.line a l) = .highZ)

/-- Alignment groups (R291, R292, R296, R301): an idle group is armed for a time at least 100 µs ahead at a rate within
1 ppm; its frame zero starts its pending ports; a stop of an armed group is at once, of a running one at a block
boundary; frames run; a complete block is passed on or dropped, and the oldest is written to its folios. -/
def Obligations.AlignmentGroups : Prop :=
  ∀ (p : Port) (k : GrpId) (t : BitVec 64) (fr : List PortFrame) (s : State),
    (Permit s p (R.AUD_GRP_START_time.addr k 0) → s.grpState k = 0 →
      (s.now + 100 * us ≤ t.toNat → s.rateOk k = true → Leads (.audGrpStart p k t) s
        ((s.put R.AUD_GRP_STAT_state 1 k).updAgrp k (fun g => { start := t.toNat, queue := g.queue, dropped := g.dropped }))) ∧
      (t.toNat < s.now + 100 * us → s.rateOk k = true → (s.put R.AUD_GRP_STAT_late 1 k).rateOk k = true →
        Leads (.audGrpStart p k t) s (s.put R.AUD_GRP_STAT_late 1 k))) ∧
    (Permit s p (R.AUD_GRP_CTRL_stop.addr k 0) →
      (s.grpState k = 2 → Leads (.audGrpStop p k) s (s.updAgrp k (fun g => { g with stopping := true }))) ∧
      (s.grpState k = 1 → Leads (.audGrpStop p k) s (s.grpIdle k)) ∧
      (s.grpState k = 0 → exec (.audGrpStop p k) s = .next s)) ∧
    (s.mainOn = true →
      (s.grpState k = 1 → (s.agrp k).start ≤ s.now → Leads (.groupFrameZero k) s
        (((s.members k).filter (fun a => s.bit R.SAP_STAT_pending a)).foldl (fun (s : State) a => s.sapGo a)
          (((s.members k).foldl (fun (s : State) a => s.iecSpent a) s).put R.AUD_GRP_STAT_state 2 k))) ∧
      (s.grpState k = 2 →
        (((s.blockEnd k).agrp k).stopping = true → ((s.blockEnd k).agrp k).frame % 64 = 0 →
          Leads (.groupFrame k fr) s (((s.blockEnd k).bindBoundary k).grpIdle k)) ∧
        (((s.blockEnd k).agrp k).stopping = false → Leads (.groupFrame k fr) s ((s.blockEnd k).grpFrame k fr))) ∧
      (s.grpState k ≠ 2 → exec (.groupFrame k fr) s = .next s) ∧
      Leads (.blockComplete k) s (s.blockEnd k) ∧
      (∀ b rest, (s.agrp k).queue = b :: rest → Leads (.portBlockWrite k) s
        ((s.updAgrp k (fun g => { g with queue := rest })).reading (b.parts.map (·.folio))
          (fun s => b.parts.foldl (fun (s : State) p => s.partWrite b p) s))))

/-- Slave and receiving ports and the audio PLL (R27, R281, R285, R286, R288, R290, R293, R294): a complete frame of a port that
is ready enters the elastic buffer, and in RELOCK counts as good where its period lies within 0.5 % of the rate; 256 good ones and a buffer of 4 end
RELOCK; a lost frame sync and a rate more than 0.5 % off stop the port with an event; channel status is taken from whole,
correct blocks; the PLL locks, holds over and returns. -/
def Obligations.AudioReception : Prop :=
  ∀ (a : SapId) (fr : PortFrame) (ps ns : Nat) (l : Samples) (cs : List (Bool × Bool)) (s t : State), s.mainOn = true →
    ((s.fld R.COLO_READY0_ready).testBit (8 + a) = false → exec (.slaveFrame a fr ps) s = .next s) ∧
    (s.slave a = true → (s.fld R.COLO_READY0_ready).testBit (8 + a) = true →
      (s.capture a fr = (t, some l) →
        let u := t.csCollect a fr
        (s.sapState a = 2 → u.sapState a = 2 → Leads (.slaveFrame a fr ps) s (u.pushFrame a l 8)) ∧
        (s.sapState a = 4 → u.sapState a = 4 → Leads (.slaveFrame a fr ps) s
          ((((u.setSap a 5).put R.SAP_STAT_good 0 a).goodFrame a ps).pushFrame a l 4)) ∧
        (s.sapState a = 5 → u.sapState a = 5 → Leads (.slaveFrame a fr ps) s ((u.goodFrame a ps).pushFrame a l 4))) ∧
      (s.capture a fr = (t, none) → exec (.slaveFrame a fr ps) s = .next s)) ∧
    (s.slave a = true →
      (s.sapState a = 2 ∨ s.sapState a = 5 → Leads (.fsyncLoss a) s (s.fsyncLost a)) ∧
      (s.sapState a = 2 → ns ≠ 0 → s.rate (s.grpOf a) ≠ 0 →
        let t := s.put R.SAP_STAT_rate_ppm (s.windowPpm a ns) a
        (s.windowOff a ns = true → Leads (.rateWindow a ns) s
          (((t.setSap a 6).setFifo a []).event 0x07 5 a 0xFFFFF (s.windowPpm a ns))) ∧
        (s.windowOff a ns = false → Leads (.rateWindow a ns) s t))) ∧
    (s.sapState a = 5 → 256 ≤ s.fld R.SAP_STAT_good a → (s.sap a).fifo.length = 4 →
      Leads (.relockDone a) s ((s.sapRun a).updSap a (fun x => { x with
        waitBlk := true, restarted := false,
        markNext := x.markNext || x.restarted || s.bit R.AUD_GRP_CFG_relock_reset (s.grpOf a) }))) ∧
    ((s.sap a).csDone = some cs →
      let u := s.updSap a (fun x => { x with csDone := none })
      let csa := csBytes (cs.reverse.map (·.1))
      let csb := csBytes (cs.reverse.map (·.2))
      (cs.length ≠ 192 → Leads (.csBlockEnd a) s (u.put R.SAP_CS_STAT_block_err 1 a)) ∧
      (cs.length = 192 → crccBad csa = true ∨ crccBad csb = true → Leads (.csBlockEnd a) s
        ((u.put R.SAP_CS_STAT_crc_bad 1 a).count R.SAP_CS_CRC_count 1 a)) ∧
      (cs.length = 192 → crccBad csa = false → crccBad csb = false → Leads (.csBlockEnd a) s (u.csTake a csa csb))) ∧
    (s.bit R.AUD_PLL_CFG_enable = true →
      Leads .audioPllLock s (((s.put R.AUD_PLL_STAT_lock48 1).put R.AUD_PLL_STAT_lock44 1).sapReady true) ∧
      (s.bit R.AUD_PLL_CFG_ref = true → s.bit R.AUD_PLL_STAT_holdover = false →
        Leads .mclkInLoss s ((s.put R.AUD_PLL_STAT_holdover 1).event 0x06 5 0xFF))) ∧
    Leads .audioPllRelock s (s.put R.AUD_PLL_STAT_holdover 0)

/-- Bindings, gains, routes and streams (R301 to R305): AUD_BIND binds its entries, or ends with the first check that
fails; AUD_UNBIND ends a binding at once, or at the next block boundary of a running group; gains and routes change by
R303; a stream's register starts it in silence. That both commands complete at once, and that UNBIND without a binding ends
with STATE, is the model's reading (log entry 44). -/
def Obligations.AudioBindingsAndChannels : Prop :=
  ∀ (p : Port) (n : Folio) (ch : Fin 384) (o : Fin 16) (v : BitVec 64) (s : State),
    (Permit s p (R.AUD_BIND_CMD_op.addr 0 0) →
      let k := s.fld R.AUD_BIND_ARG_group
      let c0 := s.fld R.AUD_BIND_ARG_c0
      let C := s.fld R.AUD_BIND_ARG_count + 1
      (s.bindCheck n k c0 C = 0 → Leads (.audBind p n) s ((s.bindNow n k c0 C).audDone n 0)) ∧
      (s.bindCheck n k c0 C ≠ 0 → Leads (.audBind p n) s (s.audDone n (s.bindCheck n k c0 C))) ∧
      (s.abinds.find? (fun b => b.folio = n) = none → Leads (.audUnbind p n) s (s.audDone n 1)) ∧
      (∀ b, s.abinds.find? (fun b => b.folio = n) = some b →
        (s.grpState b.grp = 2 → Leads (.audUnbind p n) s ((s.endBind n).audDone n 0)) ∧
        (s.grpState b.grp ≠ 2 → Leads (.audUnbind p n) s (((s.endBind n).bindBoundary b.grp).audDone n 0)))) ∧
    (Permit s p (R.AUD_CH_GAIN_gain.addr ch 0) → Leads (.audChGainWrite p ch v) s (s.gainWrite ch v.toNat)) ∧
    (Permit s p (R.AUD_CH_SRC_port.addr ch 0) → Leads (.audChSrcWrite p ch v) s (s.routeWrite ch v.toNat)) ∧
    (s.mainOn = true →
      Leads (.zcTimeout ch) s ((s.updChan ch (fun c => { c with
        gain := c.gain.map (fun g => g.expire s.now), route := c.route.map (fun g => g.expire s.now) })).chanBits ch) ∧
      Leads (.rampEnd ch) s (s.rampsEnd ch)) ∧
    (Permit s p (R.AUD_OUT_BASE_base.addr o 0) → Leads (.audOutEnable p o v) s (s.outWrite o v))

/-- Module presence and identity (R306, R321, R322): a module that appears is queued for its identity read; one that
goes is detached, with its port stopped when detach_stop is set; the read of the port at the head of a free bus leaves
status, class and record, and raises MODULE_ATTACH. Spine transfers on a module bus (R325): a command that is not
refused waits for the bus; one on an identity address, above 32 bytes or with nothing to send ends at once with result
4; one given while the bus is busy is discarded; one that starts puts its address and its bytes on the bus; a transfer ends
with its bytes and count, or on an SCL timeout with result 5. -/
def Obligations.ModuleBus : Prop :=
  (∀ (a : SapId) (ack : Bool) (rec : List Byte) (s : State), s.mainOn = true →
     Leads (.prsntChange a true) s ((s.put R.SAP_STAT_prsnt 1 a).modThere a) ∧
     Leads (.prsntChange a false) s ((s.put R.SAP_STAT_prsnt 0 a).modGone a) ∧
     ((s.i2c (a.val / 4)).run = none → (s.i2c (a.val / 4)).ident.head? = some a.val →
       Leads (.moduleIdentityRead a ack rec) s (s.identTaken a (recStatus ack rec) (recClass ack rec) rec))) ∧
  (∀ (p : Port) (g : Fin 4) (v : BitVec 64) (r : BusResult) (dat : List Byte) (s : State),
     (Permit s p (R.MISC_I2C_CMD_op.addr g 0) →
       let each := fun (i : Instr) (op : Nat) => bits v.toNat 0 3 = op →
         (s.bit R.MISC_I2C_STAT_busy g = true → exec i s = .next s) ∧
         (s.bit R.MISC_I2C_STAT_busy g = false →
           (s.i2cRefused g v.toNat = true → Leads i s (s.i2cRefuse g)) ∧
           (s.i2cRefused g v.toNat = false → Leads i s ((s.updI2c g (fun x => { x with wait := some v })).i2cNext g)))
       each (.i2cWrite p g v) 1 ∧ each (.i2cRead p g v) 2 ∧ each (.i2cWriteRead p g v) 3 ∧ each (.entdaa p g v) 4 ∧
         each (.broadcastCcc p g v) 5) ∧
     ((s.i2c g).wait = some v → s.i2cStart g =
       (s.updI2c g (fun x => { x with run := some v, wait := none })).send (.bus g (s.busSend g v))) ∧
     (s.mainOn = true → ∀ w, (s.i2c g).run = some w →
       Leads (.i2cTransferEnd g r dat) s ((s.i2cData g (dat.take (i2cMost w.toNat))).i2cDone g (busCode r)
         (i2cCount w.toNat (dat.take (i2cMost w.toNat)).length)) ∧
       Leads (.sclTimeout g) s (s.i2cDone g 5 0)))

/-- Frames and flows (R27, R308, R309, R311, R313, R366): a frame that its port takes is counted, with the codewords that its FEC
corrected or could not, and passed on, one with a bad FCS only counted; a packet is written at its playout time, a hole
concealed; a frame goes out from a port that is enabled and ready while the Spine is not down; the link of a port comes up or
falls once it has been enabled for 200 µs. The classifier's commands and PUSH (R315, R317): each ends with the
code of the first check that fails, or with 0 and its effect; an unbound folio's push sets push_err, one of a folio that
takes no samples is discarded and counted. -/
def Obligations.EthernetAndClassifier : Prop :=
  (∀ (e : Fin 2) (f : EthFrame) (t : TxFrame) (k : BitVec 16) (s : State), s.mainOn = true →
     let ready := s.bit R.ETH_CTRL_enable e = true ∧ (s.fld R.COLO_READY0_ready).testBit (6 + e) = true
     (¬ready → exec (.frameReceived e f) s = .next s ∧ exec (.frameTransmit e t) s = .next s) ∧
     (s.frameTaken e f = true → Leads (.frameReceived e f) s (((s.fecSeen e).count R.ETH_RX_PKTS_count 1 e).frameIn e f.bytes)) ∧
     (ready → f.fcsOk = false →
       Leads (.frameReceived e f) s ((s.fecSeen e).count R.ETH_RX_FCS_count 1 e)) ∧
     (let w := s.flowPos (s.flow k.toNat).folio
      let g := (s.flow k.toNat).purge w
      g.bound = true → g.started = true →
       (∀ p, g.heldAt w = some p → g.play (s.flowFs g) w ≤ s.now →
         Leads (.packetWrite k) s (s.reading [g.folio] (fun s => s.writePacket k.toNat g p))) ∧
       (g.hole w ≠ 0 → g.play (s.flowFs g) (w + g.hole w) ≤ s.now →
         Leads (.concealmentWrite k) s (s.reading [g.folio] (fun s => s.writeHole k.toNat g (g.hole w))))) ∧
     (ready → s.spineDown = false → 64 ≤ t.bytes.length + 4 →
       t.bytes.length + 4 ≤ min (s.fld R.ETH_CTRL_mtu e) 9216 → Leads (.frameTransmit e t) s (s.frameOut e t)) ∧
     (s.ethPowered e = true →
       Leads (.ethLinkChange e true) s (s.ethUp e) ∧ Leads (.ethLinkChange e false) s (s.ethDown e)) ∧
     (∀ up, s.bit R.ETH_CTRL_enable e = false ∨ s.now < (SMap.get {} s.eths e).onAt + 200 * us →
       exec (.ethLinkChange e up) s = .next s)) ∧
  (∀ (p : Port) (f : BitVec 16) (n : Folio) (v : BitVec 64) (s : State),
     let k := f.toNat
     let done := fun (s : State) (r : Nat) => (s.put R.INGRESS_STATUS_result r).put R.INGRESS_STATUS_flow k
     (Permit s p ingressCmdAddr → s.bit R.INGRESS_STATUS_busy = false →
       (s.addCheck k = 0 →
         Leads (.ingressAdd p f) s (done (s.updFlow k (fun g => { s.argFlow with folio := g.folio })) 0)) ∧
       (s.addCheck k ≠ 0 → Leads (.ingressAdd p f) s (done s (s.addCheck k))) ∧
       ((s.flow k).valid = true → (s.flow k).bound = false →
         Leads (.ingressDelete p f) s (done (s.updFlow k (fun g => { g with valid := false })) 0)) ∧
       ((s.flow k).valid = false ∨ (s.flow k).bound = true → Leads (.ingressDelete p f) s (done s 1)) ∧
       (s.flowBindCheck k n = 0 →
         let t := (s.updFlow k (fun _ => s.boundFlow (s.flow k) n)).updEnt n (fun e => { e with sourceBound := true })
         Leads (.ingressBind p f n) s (done (if (t.flow k).shadow then
           { t with shBase := t.shBase.map (fun q => if q.1 = n.toNat then (q.1, q.2.1, []) else q) } else t) 0)) ∧
       (s.flowBindCheck k n ≠ 0 → Leads (.ingressBind p f n) s (done s (s.flowBindCheck k n))) ∧
       ((s.flow k).valid = true → (s.flow k).bound = true → Leads (.ingressUnbind p f) s (done (s.letGo k) 0)) ∧
       ((s.flow k).valid = false ∨ (s.flow k).bound = false → Leads (.ingressUnbind p f) s (done s 1))) ∧
     (Permit s p (R.INGRESS_PUSH0_folio.addr 0 0) →
       let m : Folio := BitVec.ofNat 20 v.toNat
       let c := bits v.toNat 20 13
       ((s.ent m).sourceBound = false ∨ c = 0 ∨ 4096 < c → Leads (.push p v) s (s.put R.INGRESS_STATUS_push_err 1)) ∧
       ((s.ent m).sourceBound = true → c ≠ 0 → c ≤ 4096 →
         (s.takes m = false → Leads (.push p v) s (s.count R.INGRESS_DISCARD_count)) ∧
         (s.takes m = true → Leads (.push p v) s (s.reading [m] (fun s => s.writeBlock m (s.pushBlock v.toNat)))))))

/-- Time and the board's links (R261, R262, R309, R318, R320, R326): an offset is removed and a frequency trimmed only while
the device is its own time root, and an offset at a root that follows PTP only while a port reports PTP lock (at a device
that is no root, log entry 89); the management PHY's link shows in its readiness bit; the UART takes its settings, its
characters and its errors, keeps them while the Colophon restarts (R342), and loses what it cannot take. -/
def Obligations.TimeTrimAndBoardLinks : Prop :=
  ∀ (p : Port) (v : BitVec 64) (up taken : Bool) (b : Byte) (s : State),
    (Permit s p (R.ETH_TIME_ADJ_offset_ns.addr 0 0) →
      let locked := s.bit R.TOILE_TIME_CFG_root_ok = false ∨ s.bit R.ETH_PTP_STAT_lock 0 = true ∨
        s.bit R.ETH_PTP_STAT_lock 1 = true
      (s.timeOwn = true → locked → Leads (.ethTimeAdj p v) s (s.removeOffset (BitVec.ofNat 32 v.toNat).toInt)) ∧
      (s.timeOwn = false ∨ ¬locked → exec (.ethTimeAdj p v) s = .next s)) ∧
    (Permit s p (R.ETH_TIME_FREQ_ppb.addr 0 0) →
      (s.timeOwn = true → Leads (.ethTimeFreq p v) s (s.put R.ETH_TIME_FREQ_ppb (v.toNat % 2 ^ 24))) ∧
      (s.timeOwn = false → exec (.ethTimeFreq p v) s = .next s)) ∧
    (s.pwr.aon = true →
      Leads (.phyLinkChange up) s (({ s with colo := { s.colo with phyUp := up } } : State).setBit R.COLO_READY0_ready 1
        (up && (s.colo.phase == .running || s.colo.shown.isSome))) ∧
      (s.colo.shown = none →
        Leads (.uartReceive b true true) s { s with colo := { s.colo with uartRx := s.colo.uartRx ++ [b] } } ∧
        Leads (.uartReceive b false taken) s (s.put R.MISC_UART_STAT_framing_err 1) ∧
        Leads (.uartReceive b true false) s (s.put R.MISC_UART_STAT_rx_overrun 1)) ∧
      (s.colo.shown.isSome = true →
        Leads (.uartReceive b true true) s { s with colo := { s.colo with rxWait := s.colo.rxWait ++ [b] } } ∧
        Leads (.uartReceive b false taken) s { s with colo := { s.colo with framingWait := true } } ∧
        Leads (.uartReceive b true false) s { s with colo := { s.colo with overrunWait := true } })) ∧
    (Permit s p (R.MISC_UART_CFG_baud.addr 0 0) →
      (s.colo.shown = none → Leads (.uartCfgWrite p v) s (s.put R.MISC_UART_CFG_baud (bits v.toNat 0 22))) ∧
      (s.colo.shown.isSome = true →
        Leads (.uartCfgWrite p v) s { s with colo := { s.colo with cfgWait := some (bits v.toNat 0 22) } }))

/-! ### Management and trust -/

/-- Unsigned requests (R358, R359, R361, R362): while the service runs, one with the current challenge is answered, one
with another is answered STALE; 60 s after it was drawn the challenge is drawn anew; an ATTEST waits while a request of
SEC_ATT_CMD runs; a response is signed with the identity key over its bytes, whose order is the model's choice (log entry 57).
Attestation by command (R358, R359): a report takes its nonce from an aligned buffer in HBM and is busy; without such a
buffer a request ends with result 1, a report whose nonce is unreadable with 2; its end writes the bytes and clears busy;
while it runs another is discarded. -/
def Obligations.UnsignedRequests : Prop :=
  (∀ (chal : BitVec 128) (nonce : List Byte) (s : State), s.pwr.aon = true →
     let u := s.coloCheck
     (s.mgmtOn true = true →
       (chal = s.colo.chal →
         Leads (.getChallenge chal) s (u.respond .ok (toLE 16 u.colo.chal.toNat)) ∧
         (let v := u.flashUsed (u.fld R.COLO_BOOT_slot)
          Leads (.getCert chal) s (v.respond .ok v.certificate))) ∧
       (chal ≠ s.colo.chal →
         Leads (.getChallenge chal) s (u.respond .stale) ∧ Leads (.getCert chal) s (u.respond .stale)) ∧
       (s.colo.chalAt + 60000 * ms ≤ s.pwr.up → Leads .challengeRefresh s s.drawChal) ∧
       (s.pwr.up < s.colo.chalAt + 60000 * ms → exec .challengeRefresh s = .next s)) ∧
     (∀ st res, s.respond st res = s.send (.mgmt st s.colo.chal res (edSign s.idPriv (respBytes st s.colo.chal res)))) ∧
     (s.mgmtOn false = true → chal = s.colo.chal → nonce.length = 32 →
       (s.att = none → Leads (.attest chal nonce) s (s.respond .ok (s.attReport nonce))) ∧
       (∀ r, s.att = some r → Leads (.attest chal nonce) s { s with attWait := s.attWait ++ [nonce] })) ∧
     (s.colo.phase = .off ∨ s.colo.phase = .stopped ∨ s.colo.phase = .starting →
       exec (.getChallenge chal) s = .next s ∧ exec (.attest chal nonce) s = .next s)) ∧
  (∀ (p : Port) (u : State) (nonce : List Byte) (s : State),
     (Permit s p (R.SEC_ATT_CMD_op.addr 0 0) →
       let a := s.fld R.SEC_ATT_BUF_buf
       let b := s.put R.SEC_ATT_STAT_busy 1
       (s.bit R.SEC_ATT_STAT_busy = true → exec (.attReport p) s = .next s ∧ exec (.attCert p) s = .next s) ∧
       (s.bit R.SEC_ATT_STAT_busy = false → a % 64 ≠ 0 ∨ hbmSize < a + 256 →
         Leads (.attReport p) s { b with att := some { buf := a, dat := [], result := 1 } } ∧
         Leads (.attCert p) s { b with att := some { buf := a, dat := [], result := 1 } }) ∧
       (s.bit R.SEC_ATT_STAT_busy = false → a % 64 = 0 →
         (a + (256 + 96 * s.attEntries.length) ≤ hbmSize → s.mainOn = true →
           (b.hbmRead a 32 = (u, some nonce) → Leads (.attReport p) s
             { u with att := some { buf := a, dat := s.attReport nonce, result := 0 } }) ∧
           (b.hbmRead a 32 = (u, none) → Leads (.attReport p) s
             { u with att := some { buf := a, dat := [], result := 2 } })) ∧
         (a + 256 ≤ hbmSize → s.mainOn = true → Leads (.attCert p) s
           { b with att := some { buf := a, dat := s.certificate, result := 0 } }) ∧
         (a + (256 + 96 * s.attEntries.length) ≤ hbmSize → s.mainOn = false →
           Leads (.attReport p) s { b with att := some { buf := a, dat := [], result := 2 } } ∧
           Leads (.attCert p) s { b with att := some { buf := a, dat := [], result := 2 } }))) ∧
     (∀ r, s.att = some r → s.pwr.aon = true →
       (r.result = 0 → s.mainOn = true → Leads .attDone s ((s.hwWrite r.buf r.dat).attEnd 0)) ∧
       (r.result = 0 → s.mainOn = false → Leads .attDone s (s.attEnd 2)) ∧
       (r.result ≠ 0 → Leads .attDone s (s.attEnd r.result))))

/-- Signed requests (R343, R361 to R363, Table 14-9): with the current challenge and a signature that verifies under the
present owner, each takes its effect, draws a new challenge and answers OK, one that names the booted slot or the identity
region SLOT; one with an old challenge is answered STALE, one whose signature fails SIG, and nothing else changes. The bytes
that a signature covers (log entry 56) and the statuses for bad arguments and for a refused write (log entry 57) are the
model's choice. -/
def Obligations.SignedRequests : Prop :=
  ∀ (q : SignedReq) (addr : BitVec 64) (cnt : Nat) (off : SlotPlace) (vals : List (BitVec 64)) (dat token : List Byte)
    (s : State),
    s.pwr.aon = true →
    let u := s.coloCheck
    let k := u.otherSlot
    let regs := vals.zipIdx.map (fun x => (addr.toNat + 8 * x.2, x.1))
    let checked := fun (i : Instr) (code : Nat) (args : List Byte) =>
      (q.chal ≠ s.colo.chal → Leads i s (u.respond .stale)) ∧
      (q.chal = s.colo.chal → s.reqSigned code args q = false → Leads i s (u.respond .sig))
    let place := toLE 1 off.slot ++ toLE 4 off.off ++ dat
    (s.mgmtOn true = true →
      checked (.slotErase q) 0x20 [] ∧ checked (.slotWrite q off dat) 0x21 place ∧ checked (.slotCommit q) 0x22 [] ∧
      checked (.coloRestart q) 0x23 []) ∧
    (s.mgmtOn false = true →
      checked (.regRead q addr cnt) 0x10 (toLE 8 addr.toNat ++ toLE 2 cnt) ∧
      checked (.mgmtRegWrite q addr vals) 0x11 (toLE 8 addr.toNat ++ vals.flatMap (fun v => toLE 8 v.toNat)) ∧
      checked (.jtagUnlock q token) 0x40 token ∧
      (q.chal = s.colo.chal → s.reqSigned 0x10 (toLE 8 addr.toNat ++ toLE 2 cnt) q = true → addr.toNat % 8 = 0 → cnt ≤ 64 →
        Leads (.regRead q addr cnt) s (u.drawChal.respond .ok
          ((List.range cnt).flatMap (fun k => toLE 8 (u.regRead (addr.toNat + 8 * k)).toNat)))) ∧
      (q.chal = s.colo.chal → s.reqSigned 0x11 (toLE 8 addr.toNat ++ vals.flatMap (fun v => toLE 8 v.toNat)) q = true →
        vals.length ≤ 64 → inControl addr.toNat = true →
        Leads (.mgmtRegWrite q addr vals) s
          ((regs.foldl (fun (s : State) x => s.ctlWrite .p1 x.1 64 x.2) u).drawChal.respond
            (if regs.any (fun x => !u.mayWrite .p1 (x.1 / 8 * 8)) then .denied
             else if addr.toNat % 8 ≠ 0 then .args else .ok))) ∧
      (q.chal = s.colo.chal → s.reqSigned 0x40 token q = true → u.ticketOk token 7 = true →
        mfield token 24 16 = u.colo.chal.toNat → u.now < mfield token 40 8 → allZero ((token.drop 48).take 40) = true →
        Leads (.jtagUnlock q token) s ((u.unlock (mfield token 40 8)).drawChal.respond .ok))) ∧
    (s.mgmtOn true = true → q.chal = s.colo.chal →
      let v := u.flashUsed k
      (s.reqSigned 0x21 place q = true → off.slot.val ≠ k ∨ identityAt < off.off + dat.length →
        Leads (.slotWrite q off dat) s (u.drawChal.respond .slot)) ∧
      ((v.flash k).present = true →
        (s.reqSigned 0x20 [] q = true → Leads (.slotErase q) s ((v.updFlash k (fun f =>
          { f with bytes := f.bytes.filter (fun p => decide (identityAt ≤ p.1)) })).drawChal.respond .ok)) ∧
        (s.reqSigned 0x21 place q = true → off.slot.val = k → dat.length ≤ 1024 → off.off + dat.length ≤ identityAt →
          Leads (.slotWrite q off dat) s ((v.updFlash k (fun f => f.write off.off dat)).drawChal.respond .ok)) ∧
        (s.reqSigned 0x22 [] q = true → Leads (.slotCommit q) s ((v.updFlash k (fun f =>
          f.write 0 (toLE 4 0x4C534D47 ++ toLE 4 (v.fld R.COLO_BOOT_seq + 1) ++ [0xFF]))).drawChal.respond .ok)))) ∧
    (s.mgmtOn true = true → q.chal = s.colo.chal → s.reqSigned 0x23 [] q = true →
      Leads (.coloRestart q) s
        ((if u.colo.phase = .running then u.coloRestart else u.chooseSlot).drawChal.respond .ok))

/-- The commands that blow fuses (R347, R349, R350): CLAIM with a ticket for this device in PROVISIONED ORs the owner's
digest in and goes on to DEPLOYED, RETURN from PROVISIONED or DEPLOYED to RETURN, both at the next device reset;
SVN_ADVANCE raises the floor to the svn of the Colophon firmware that runs, at most 64. In MANUFACTURE the vendor's firmware
goes on to PROVISIONED, once the certificate stands in both flashes; that it does so as it comes ready is the model's choice
(log entry 64). -/
def Obligations.FuseCommands : Prop :=
  ∀ (chal : BitVec 128) (ticket : List Byte) (q : SignedReq) (s : State), s.pwr.aon = true →
    let u := s.coloCheck
    (s.mgmtOn false = true →
      (chal = s.colo.chal → u.lifecycle = 1 → u.bit R.SEC_LIFECYCLE_pending = false → u.ticketOk ticket 6 = true →
        let t : State := { u with fuses := { u.fuses with
          ownerDigest := u.fuses.ownerDigest ||| BitVec.ofNat 512 (mfield ticket 24 64) } }
        exec (.claim chal ticket) s = .next (s.fused ((t.fuseRegs.transition 2).respond .ok))) ∧
      (q.chal = s.colo.chal → s.reqSigned 0x31 [] q = true →
        let v := ((u.colo.images.find? (fun i => i.kind == 1)).map (·.svn)).getD 0
        let t : State := { u with fuses := { u.fuses with svnFloor := max u.fuses.svnFloor (min v 64) } }
        exec (.svnAdvance q) s = .next (s.fused (t.fuseRegs.drawChal.respond .ok))) ∧
      (q.chal = s.colo.chal → s.reqSigned 0x32 [] q = true → u.bit R.SEC_LIFECYCLE_pending = false →
        (u.lifecycle = 1 ∨ u.lifecycle = 2 →
          exec (.returnCmd q) s = .next (s.fused ((u.transition 3).drawChal.respond .ok))) ∧
        (u.lifecycle ≠ 1 → u.lifecycle ≠ 2 →
          exec (.returnCmd q) s = .next (s.fused (u.drawChal.respond .state))))) ∧
    (s.mayStart = true → s.coloRunning.mayProvision = true →
      let t := s.coloRunning.transition 1
      exec (.colophonReady true) s = .next (s.fused (if s.colo.shown.isNone ∧ t.pwrState = 1 ∧ t.pwr.rstHigh then t.startUp
        else t.tryMain)))

/-- The test port (R363): IDCODE works in every state; locked, the others act as BYPASS and the outputs are not driven;
unlocked, SAMPLE/PRELOAD and EXTEST reach the lands, of which EXTEST drives those that have power, and the debug access reaches control space and
memory; the unlock ends at its expiry. -/
def Obligations.TestPort : Prop :=
  ∀ (tdi : Bool) (pins pre : List Bool) (r : BitVec 64) (v : W64) (m : BitVec 40) (n : Nat) (l : List Byte)
    (dat : List Byte) (d : Land) (s : State), s.pwr.aon = true →
    Leads .idcode s { s with jtag := { s.jtag with drive := false, out := natBits 32 0x14620B67 } } ∧
    Leads (.bypass tdi) s (s.shiftBypass [tdi]) ∧
    (s.bit R.SEC_DEBUG_unlocked = false ∨ s.cellOn d = false → s.landShown d = s.land d) ∧
    (s.bit R.SEC_DEBUG_unlocked = false →
      Leads (.samplePreload pins pre) s (s.shiftBypass pre) ∧ Leads (.extest pins) s (s.shiftBypass []) ∧
      Leads (.debugAccess (.writeMem m dat)) s (s.shiftBypass []) ∧ Leads (.debugAccess (.readReg r)) s (s.shiftBypass [])) ∧
    (s.bit R.SEC_DEBUG_unlocked = true →
      Leads (.samplePreload pins pre) s { s with jtag := { s.jtag with preload := pre, drive := false, out := pins } } ∧
      (let u : State := { s with jtag := { s.jtag with drive := true, out := pins } }
       Leads (.extest pins) s u ∧ (s.cellOn d = true → u.landShown d = .boundary)) ∧
      (r.toNat % 8 = 0 → inControl r.toNat = true →
        Leads (.debugAccess (.readReg r)) s (s.shiftOut (toLE 8 (s.regRead r.toNat).toNat)) ∧
        Leads (.debugAccess (.writeReg r v)) s (s.regCmd .p6 r.toNat (fun s => s.writeReg .p6 r.toNat v))) ∧
      (s.mainOn = true → oneArea m.toNat n = true → s.bufOff m.toNat n = false → areaOf m.toNat ≠ .hole →
        areaOf m.toNat ≠ .ctl → s.readLocal m.toNat n = .bytes l →
        Leads (.debugAccess (.readMem m n)) s ((s.checked (localAddr m.toNat) n).shiftOut l)) ∧
      (s.mainOn = true → dat ≠ [] → oneArea m.toNat dat.length = true → areaOf m.toNat = .hbm →
        Leads (.debugAccess (.writeMem m dat)) s (s.writeLocal m.toNat dat))) ∧
    (∀ t, s.jtag.expiry = some t → t < s.now →
      Leads .jtagExpiry s (({ s with jtag := { s.jtag with expiry := none, drive := false } } : State).put R.SEC_DEBUG_unlocked 0)) ∧
    (∀ t, s.jtag.expiry = some t → s.now ≤ t → exec .jtagExpiry s = .next s)

/-! ### Service and power -/

/-- The Spine (R335, R336): a lockstep mismatch stops it and is logged; it restarts, and is ready again; a restart
longer than carry_s retires the device with fatal set; the board's image starts it. Retiring (R328, R337, R340, Table
13-5): RETIRE begins a planned retire; the fence comes when what was in flight is released or after 5 ms;
acknowledgements of the RESIGN, a majority or 1 ms of them, make the device fall silent; the loss of a running clock
retires the device with fatal set. Hoop maintenance (R344): drain set wakes the hoop and moves its folios, cleared ends
the drain; a microcode load runs only on a drained hoop, one while a load runs is discarded; it ends with result 0 and
the new microcode, or with 2. -/
def Obligations.SpineAndRetire : Prop :=
  (∀ (pair : Fin 8) (m img : List Byte) (u : State) (s : State), s.mainOn = true →
     (s.spine.phase ≠ .off → s.spine.phase ≠ .stopped → Leads (.lockstepMismatch pair) s (s.spineStop pair)) ∧
     (s.spine.phase ≠ .off → Leads .spineRestart s
       (({ s.spineSram with spine := { phase := .restarting, since := s.spineSram.now } } : State).setBit R.COLO_READY0_ready 4
         false)) ∧
     (s.spine.phase = .starting ∨ s.spine.phase = .restarting → Leads .spineReady s
       (({ s with spine := { s.spine with phase := .running } } : State).setBit R.COLO_READY0_ready 4 true)) ∧
     (s.spine.phase = .restarting → s.spine.since + s.carryNs ≤ s.now → Leads .spineCarryTimeout s
       ((s.errLog { cls := 8, inst := 0, level := 4, kind := 0x84 }).retireNow true)) ∧
     (s.colo.phase = .running → (s.fld R.COLO_READY0_ready).testBit 5 = true → s.spine.phase = .off →
       s.loadPart 2 = (u, some (m, img)) → Leads .spineOsLoaded s (u.spineBoot m img))) ∧
  (∀ (p : Port) (m : DevNum) (fp : FlowPos) (k : ClockSource) (s : State),
     (Permit s p (R.COLO_SERVICE_retire.addr 0 0) → Leads (.retire p) s (s.retireNow false)) ∧
     (s.mainOn = true →
       (s.fld R.COLO_SERVICE_state = 1 → s.retire.resignAt = none →
         s.drainedAll = true ∨ s.retire.since + 5 * ms ≤ s.now → Leads .retireFence s s.retireFence) ∧
       (let u := s.answered m.toNat fp.tag (.done [] 0)
        u.retire.resignAt.isSome = true → u.quorum.contains m.toNat = true → u.retire.acks.contains m = false →
          Comes (.resignAck m fp) m 3 fp (.resignAck fp.tag) s (u.resignHeard m, .ack)) ∧
       (∀ t, s.retire.resignAt = some t → t + ms ≤ s.now → s.retire.silent = false → s.standalone = false →
         Leads .resignTimeout s s.retireSilent)) ∧
     (s.pwr.aon = true → s.clockRuns k = true → Leads (.clockFault k) s
       ((s.errLog { cls := 7, inst := 0, level := 4, kind := 0x81 }).retireNow true)) ∧
     (s.clockRuns k = false → exec (.clockFault k) s = .next s)) ∧
  (∀ (p : Port) (h : HoopId) (mf img : List Byte) (u v : State) (s : State),
     (Permit s p (R.HOOP_MAINT_drain.addr h 0) →
       Leads (.hoopDrain p h true) s ((s.put R.HOOP_MAINT_drain 1 h).drainOn h) ∧
       Leads (.hoopDrain p h false) s ((s.put R.HOOP_MAINT_drain 0 h).drainStat h) ∧
       (s.bit R.HOOP_MAINT_busy h = true → exec (.ucodeLoad p h) s = .next s) ∧
       (s.bit R.HOOP_MAINT_busy h = false →
         (s.bit R.HOOP_MAINT_drained h = false → Leads (.ucodeLoad p h) s (s.put R.HOOP_MAINT_result 1 h)) ∧
         (s.bit R.HOOP_MAINT_drained h = true → Leads (.ucodeLoad p h) s (s.ucodeStart h)))) ∧
     (s.mainOn = true → s.bit R.HOOP_MAINT_busy h = true →
       let a := s.fld R.HOOP_UCODE_addr h
       (a % 4096 ≠ 0 → Leads (.ucodeLoadDone h) s (s.ucodeEnd h 2)) ∧
       (a % 4096 = 0 → s.ucodeRead h a 320 = (some mf, u, false) →
         (u.manifestSigned mf 3 = false ∨ hbmSize < mfield mf 16 8 → Leads (.ucodeLoadDone h) s (u.ucodeEnd h 2)) ∧
         (u.manifestSigned mf 3 = true → mfield mf 16 8 ≤ hbmSize →
           u.ucodeRead h (a + 4096) (mfield mf 16 8) = (some img, v, false) → digestOk mf img = true →
           Leads (.ucodeLoadDone h) s
             (((v.freeVal.2.runs 3 h mf).put R.HOOP_UCODE_VER_version (v.freeVal.1.toNat % 2 ^ 32) h).ucodeEnd h 0)))))

/-- Boot and resets (R2, R343, R356, R357, R365, R373, R387): the fall of AON_POR_N resets everything and leaves no land
driven, its rise boots; RST_N low is a device reset, its rise boots from step 2; the Colophon's firmware comes ready, at most
3 s after a slot is tried, and the rails start; a tried slot that does not come ready is given up; HBM is trained once; a
device reset by command boots anew. -/
def Obligations.BootAndResets : Prop :=
  ∀ (p : Port) (adr : BitVec 5) (d : Land) (s : State),
    Leads (.aonPor false adr) s s.aonDown ∧
    (s.aonDown.landShown d = .highZ ∨ s.aonDown.landShown d = .released ∨ s.aonDown.landShown d = .dark) ∧
    (s.pwr.aon = false → Leads (.aonPor true adr) s (s.aonUp adr)) ∧
    (s.pwr.aon = true → exec (.aonPor true adr) s = .next s) ∧
    (s.pwr.rstHigh = true → exec (.rstN true) s = .next s ∧
      (let t : State := { s with pwr := { s.pwr with rstHigh := false } }
       (s.pwr.aon = true → Leads (.rstN false) s t.deviceReset) ∧ (s.pwr.aon = false → Leads (.rstN false) s t))) ∧
    (s.pwr.rstHigh = false → exec (.rstN false) s = .next s ∧
      (let t : State := { s with pwr := { s.pwr with rstHigh := true } }
       (s.pwr.aon = true → Leads (.rstN true) s t.bootRun) ∧ (s.pwr.aon = false → Leads (.rstN true) s t))) ∧
    (s.pwr.aon = true →
      (s.colo.phase = .starting → s.colo.trying = false ∨ s.colo.age ≤ 3000 * ms →
        (s.colo.shown = none → s.coloRunning.pwrState = 1 → s.coloRunning.pwr.rstHigh = true →
          Leads (.colophonReady false) s s.coloRunning.startUp) ∧
        (s.colo.shown.isSome = true → Leads (.colophonReady false) s s.coloRunning.tryMain)) ∧
      (s.colo.phase = .starting → s.colo.trying = true → 3000 * ms ≤ s.colo.age →
        Leads .colophonBootWatchdog s s.chooseSlot)) ∧
    (s.colo.phase ≠ .starting → exec (.colophonReady false) s = .next s ∧ exec .colophonBootWatchdog s = .next s) ∧
    (s.mainOn = true → (s.fld R.COLO_READY0_ready).testBit 5 = false → Leads .hbmTrained s s.hbmReady) ∧
    (Permit s p (R.PWR_CMD_op.addr 0 0) →
      (s.pwrState = 1 ∨ s.pwrState = 3 →
        Leads (.deviceReset p) s (s.put R.PWR_STAT_cmd_result 0).deviceReset.bootRun) ∧
      (s.pwrState = 2 ∨ s.pwrState = 4 → Leads (.deviceReset p) s (s.put R.PWR_STAT_cmd_result 2)))

/-- Power states (R367, R370 to R372): STANDBY is accepted once the device is retired or every folio FREE, else it
answers 1; RUN is accepted in STANDBY with RST_N high; both answer 2 while the rails switch; a rail's power-good raises
the next enable in the order of Table 15-3, the last one ends in RUN; one that does not come, or a rail that fails, is a
fault; the power-down follows. -/
def Obligations.PowerStates : Prop :=
  ∀ (p : Port) (r : Fin 8) (a : Fin 10) (s : State),
    (Permit s p (R.PWR_CMD_op.addr 0 0) →
      (s.pwrState = 2 ∨ s.pwrState = 4 → Leads (.standby p) s (s.put R.PWR_STAT_cmd_result 2) ∧
        Leads (.run p) s (s.put R.PWR_STAT_cmd_result 2)) ∧
      (s.pwrState = 3 →
        (s.fld R.COLO_SERVICE_state = 2 ∨ s.dir.all (fun d => d.2.st == .free) = true → Leads (.standby p) s s.stopping) ∧
        (s.fld R.COLO_SERVICE_state ≠ 2 → s.dir.all (fun d => d.2.st == .free) = false →
          Leads (.standby p) s (s.put R.PWR_STAT_cmd_result 1)) ∧
        Leads (.run p) s (s.put R.PWR_STAT_cmd_result 1)) ∧
      (s.pwrState = 1 → s.pwr.rstHigh = true → Leads (.run p) s (s.put R.PWR_STAT_cmd_result 0).startUp)) ∧
    (s.pwr.aon = true → s.pwrState = 2 → s.pwr.awaits = some r.val →
      (∀ n, railAfter r.val = some n → r.val ≠ 4 → Leads (.powerGood r) s (s.enableRail n)) ∧
      (∀ n, railAfter r.val = some n → r.val = 4 → Leads (.powerGood r) s (s.enableRail n).tryMain) ∧
      (railAfter r.val = none → Leads (.powerGood r) s s.railsUp) ∧
      Leads (.pgTimeout r) s (s.railMissing r.val)) ∧
    (s.pwr.awaits ≠ some r.val → exec (.powerGood r) s = .next s ∧ exec (.pgTimeout r) s = .next s) ∧
    (s.pwr.aon = true → s.downMay = true → Leads .powerDown s s.railsDown) ∧
    (s.downMay = false → exec .powerDown s = .next s) ∧
    (a.val < 8 → s.pwr.aon = true → s.pwr.enables.getLsbD a = true → Leads (.railFault a) s (s.railFault a)) ∧
    (a.val < 8 → s.pwr.enables.getLsbD a = false → exec (.railFault a) s = .next s) ∧
    (8 ≤ a.val → s.pwr.aon = true → Leads (.railFault a) s s.aonReset.powerUpBoot)

/-- The arithmetic clock (R368, R375, R376, Table 15-5): a write sets the target, and a change begins unless the clock
is there; a step moves it by 100 MHz; a voltage target not reached is abandoned; the PLL stops 100 ms after the last
hoop; whether the crystal gives edges is kept; PWR_RTC is written only in STANDBY. Power and temperature (R368,
R369, R380, R381): a reading of the VDD_CORE current runs the fast loop, every 1 ms the slow loop runs, both while
VDD_CORE is on; rails that answer give telemetry, their alerts are recorded; a set of temperature readings sets events,
the hottest junction and the duty. Hoop sleep and wake (R19, R378, R379, Table 15-6): a hoop idle for idle_ms that
nothing keeps on powers off; at most two wakes are granted in any 20 µs; 40 µs after its grant a hoop is powered. -/
def Obligations.PowerControl : Prop :=
  (∀ (p : Port) (v : BitVec 64) (edge : Bool) (s : State),
     (Permit s p (R.PWR_ARITH_target.addr 0 0) →
       let t := s.arithSet v.toNat
       (t.fld R.PWR_ARITH_present = t.arithTarget → t.bit R.PWR_ARITH_busy = false → Leads (.pwrArithWrite p v) s t) ∧
       (t.fld R.PWR_ARITH_present ≠ t.arithTarget → Leads (.pwrArithWrite p v) s t.arithGo)) ∧
     (s.bit R.PWR_ARITH_busy = false → exec .dvfsStep s = .next s) ∧
     (s.pwr.aon = true →
       (s.bit R.PWR_ARITH_busy = true → Leads .dvfsStep s s.dvfsMove) ∧
       (∀ mv, s.pwr.avsPrev = some mv → Leads .avsTimeout s (s.avsAbandon mv)) ∧
       (∀ t, s.pwr.arithIdle = some t → s.bit R.PWR_ARITH_pll_auto = true → s.hoopsOff = true → t + 100 * ms ≤ s.now →
         Leads .arithPllStop s { s with pwr := { s.pwr with arithPll := false, arithIdle := none } }) ∧
       Leads (.oscillatorTrim edge) s { s with pwr := { s.pwr with edges := edge } }) ∧
     (Permit s p (R.PWR_RTC_ticks.addr 0 0) →
       (s.pwrState = 1 → Leads (.pwrRtcWrite p v) s (s.put R.PWR_RTC_ticks v.toNat)) ∧
       (s.pwrState ≠ 1 → exec (.pwrRtcWrite p v) s = .next s))) ∧
  (∀ (ma : AvsReading) (vals : List RailReading) (als : List RailStatus) (temps : List (BitVec 8)) (s : State),
     (s.pwr.aon = true → s.pwr.enables.getLsbD 0 = true →
       Leads (.avsRead ma) s (s.powerSample ma) ∧ Leads .powerCapTick s s.slowLoop) ∧
     (s.pwr.enables.getLsbD 0 = false → exec (.avsRead ma) s = .next s ∧ exec .powerCapTick s = .next s) ∧
     (s.pwr.aon = true →
       Leads (.pmbusPoll vals) s ((List.range 10).foldl (fun (s : State) r =>
         s.railPolled r (vals.find? (fun x => x.rail.val == r))) s) ∧
       Leads (.pmbAlert als) s (als.foldl (fun (s : State) x => s.railAlert x) s)) ∧
     (s.mainOn = true → Leads (.thermalSample temps) s (s.thermals (temps.take 49)))) ∧
  (∀ (h : HoopId) (s : State), s.mainOn = true →
     (s.hoopMayOff h = true → Leads (.hoopPowerOff h) s (s.hoopDown h)) ∧
     (s.hoopMayOff h = false → exec (.hoopPowerOff h) s = .next s) ∧
     Leads .hoopWakeGrant s s.grantWakes ∧
     (∀ t, (s.hoop h).waking = some t →
       (t + 40 * us ≤ s.now → Leads (.hoopWakeDone h) s (s.hoopUp h)) ∧
       (s.now < t + 40 * us → exec (.hoopWakeDone h) s = .next s)))

/-- The duty of the power cap (R381). It stays in 1 to 16, and at most what the slow loop allows, over a reading of the
VDD_CORE current and a turn of the slow loop. A reading with the power above the peak lowers it unless it is 1; one below 97 %
of the peak gives back a step of what the fast loop took, at most once in 100 µs (what it took: log entry 87). A turn of the
slow loop with the mean above the cap lowers it by one unless it is 1; one with the mean below 95 % of the cap raises it by
one, at most once in 10 ms. Between those limits both leave it. -/
def Obligations.CapDutyInRange : Prop :=
  ∀ (r : AvsReading) (s t : State), 1 ≤ s.pwr.capDuty → s.pwr.capDuty ≤ s.pwr.slowTop → s.pwr.slowTop ≤ 16 →
    let d := s.pwr.capDuty
    (exec (.avsRead r) s = .next t ∨ exec .powerCapTick s = .next t →
      1 ≤ t.pwr.capDuty ∧ t.pwr.capDuty ≤ t.pwr.slowTop ∧ t.pwr.slowTop ≤ 16) ∧
    (s.pwr.aon = true → s.pwr.enables.getLsbD 0 = true →
      (exec (.avsRead r) s = .next t →
        let p := ({ s with pwr := { s.pwr with coreMa := r.ma } } : State).power
        let peak := s.peakW * 1000000
        let back := 100 * p < 97 * peak ∧ d < s.pwr.slowTop ∧ s.pwr.fastMoved + 100 * us ≤ s.now
        (peak < p → (d = 1 ∧ t.pwr.capDuty = 1) ∨ t.pwr.capDuty < d) ∧
        (p ≤ peak → (back → t.pwr.capDuty = d + 1) ∧ (¬back → t.pwr.capDuty = d))) ∧
      (exec .powerCapTick s = .next t →
        let l := s.pwr.samples.filter (fun (x : Nat × Nat) => decide (s.now ≤ x.1 + s.windowMs * ms))
        let mean := if l = [] then 0 else (l.map (·.2)).sum / l.length
        let cap := s.capW * 1000000
        let back := 100 * mean < 95 * cap ∧ s.pwr.slowTop < 16 ∧ s.pwr.slowMoved + 10 * ms ≤ s.now
        (cap < mean → t.pwr.capDuty = max 1 (d - 1)) ∧
        (mean ≤ cap → (back → t.pwr.capDuty = d + 1) ∧ (¬back → t.pwr.capDuty = d))))
end

