-- ==== Sys2Proof/Laws/SMap.lean ====
section
/-! SUPPORT. The laws of sparse maps: a read after a write, that a write keeps the canonical form, and reading a range
in one pass. -/
namespace Sys2Proof.Machine.SMap

/-- The first entry decides. -/
theorem get_cons {α : Type} (d : α) (p : Nat × α) (m : List (Nat × α)) (k : Nat) :
    get d (p :: m) k = if p.1 = k then p.2 else get d m k := by
  cases h : Nat.beq p.1 k <;> simp [get, h, ← Nat.beq_eq]

/-- An empty map reads as its default. -/
@[simp] theorem get_nil {α : Type} (d : α) (k : Nat) : get d ([] : List (Nat × α)) k = d := rfl

variable {α : Type} [DecidableEq α]

omit [DecidableEq α] in
theorem del_keys (m : List (Nat × α)) (k : Nat) : ∀ x ∈ del m k, x.1 ≠ k := by
  induction m with
  | nil => simp [del]
  | cons p m ih =>
    simp only [del]; split
    · exact ih
    · intro x hx
      rcases List.mem_cons.1 hx with rfl | hx
      · assumption
      · exact ih x hx

omit [DecidableEq α] in
@[simp] theorem get_del_self (d : α) (m : List (Nat × α)) (k : Nat) : get d (del m k) k = d := by
  induction m with
  | nil => rfl
  | cons p m ih => simp only [del]; split <;> simp_all [get_cons]

omit [DecidableEq α] in
theorem get_del_ne (d : α) (m : List (Nat × α)) {k j : Nat} (h : j ≠ k) : get d (del m k) j = get d m j := by
  induction m with
  | nil => rfl
  | cons p m ih => simp only [del]; split <;> simp_all [get_cons, Ne.symm h]

omit [DecidableEq α] in
theorem get_ins_self (d : α) (m : List (Nat × α)) (k : Nat) (v : α) (h : ∀ x ∈ m, x.1 ≠ k) :
    get d (ins k v m) k = v := by
  induction m with
  | nil => simp [ins, get_cons]
  | cons p m ih =>
    simp only [ins]; split
    · simp [get_cons]
    · simp only [get_cons, if_neg (h p (by simp))]; exact ih (fun x hx => h x (by simp [hx]))

omit [DecidableEq α] in
theorem get_ins_ne (d : α) (m : List (Nat × α)) {k j : Nat} (v : α) (h : j ≠ k) :
    get d (ins k v m) j = get d m j := by
  induction m with
  | nil => simp [ins, get_cons, Ne.symm h]
  | cons p m ih => simp only [ins]; split <;> simp [get_cons, ih, Ne.symm h]

/-- A read after a write to the same key gives the value written. -/
@[simp] theorem get_put_self (d : α) (m : List (Nat × α)) (k : Nat) (v : α) : get d (put d m k v) k = v := by
  unfold put; split
  · subst_vars; exact get_del_self _ m k
  · exact get_ins_self d _ k v (del_keys m k)

/-- A write leaves every other key alone. -/
theorem get_put_ne (d : α) (m : List (Nat × α)) {k j : Nat} (v : α) (h : j ≠ k) : get d (put d m k v) j = get d m j := by
  unfold put; split
  · exact get_del_ne d m h
  · rw [get_ins_ne d _ v h, get_del_ne d m h]

@[simp] theorem get_upd_self (d : α) (m : List (Nat × α)) (k : Nat) (f : α → α) : get d (upd d m k f) k = f (get d m k) :=
  get_put_self d m k _

theorem get_upd_ne (d : α) (m : List (Nat × α)) {k j : Nat} (f : α → α) (h : j ≠ k) :
    get d (upd d m k f) j = get d m j := get_put_ne d m _ h

theorem wfFrom_mono (d : α) (m : List (Nat × α)) {lo hi : Nat} (h : lo ≤ hi) (w : wfFrom d hi m = true) :
    wfFrom d lo m = true := by
  cases m with
  | nil => rfl
  | cons p m => simp [wfFrom] at *; exact ⟨⟨by omega, w.1.2⟩, w.2⟩

theorem wfFrom_del (d : α) (m : List (Nat × α)) (k lo : Nat) (w : wfFrom d lo m = true) : wfFrom d lo (del m k) = true := by
  induction m generalizing lo with
  | nil => rfl
  | cons p m ih =>
    simp only [wfFrom, Bool.and_eq_true, decide_eq_true_eq] at w
    simp only [del]; split
    · exact wfFrom_mono d _ (by omega) (ih _ w.2)
    · simp [wfFrom, w.1.1, w.1.2, ih _ w.2]

theorem wfFrom_ins (d : α) (m : List (Nat × α)) {k lo : Nat} {v : α} (hv : v ≠ d) (hk : lo ≤ k) (w : wfFrom d lo m = true)
    (h : ∀ x ∈ m, x.1 ≠ k) : wfFrom d lo (ins k v m) = true := by
  induction m generalizing lo with
  | nil => simp [ins, wfFrom, hv, hk]
  | cons p m ih =>
    simp only [wfFrom, Bool.and_eq_true, decide_eq_true_eq] at w
    have hp := h p (by simp)
    simp only [ins]; split
    · simp [wfFrom, hv, hk, w.1.2, w.2]; omega
    · simp [wfFrom, w.1.1, w.1.2]
      exact ih (by omega) w.2 (fun x hx => h x (by simp [hx]))

/-- A write keeps the canonical form. -/
theorem wf_put (d : α) (m : List (Nat × α)) (k : Nat) (v : α) (w : wf d m = true) : wf d (put d m k v) = true := by
  unfold put wf at *; split
  · exact wfFrom_del d m k 0 w
  · exact wfFrom_ins d _ (by assumption) (by omega) (wfFrom_del d m k 0 w) (del_keys m k)

theorem wf_upd (d : α) (m : List (Nat × α)) (k : Nat) (f : α → α) (w : wf d m = true) : wf d (upd d m k f) = true :=
  wf_put d m k _ w

/-! ### Reading a range in one pass -/

/-- The values at n keys from a, of a map whose keys begin at a or later, in one pass. -/
def walk {α : Type} (d : α) : Nat → Nat → List (Nat × α) → List α
  | 0, _, _ => []
  | n + 1, a, [] => d :: walk d n (a + 1) []
  | n + 1, a, p :: m => bif Nat.beq p.1 a then p.2 :: walk d n (a + 1) m else d :: walk d n (a + 1) (p :: m)

omit [DecidableEq α] in
theorem walk_cons (d : α) (n a : Nat) (p : Nat × α) (m : List (Nat × α)) :
    walk d (n + 1) a (p :: m) = if p.1 = a then p.2 :: walk d n (a + 1) m else d :: walk d n (a + 1) (p :: m) := by
  cases h : Nat.beq p.1 a <;> simp [walk, h, ← Nat.beq_eq]

/-- A key below all that a canonical map lists reads as the default. -/
theorem get_below (d : α) (m : List (Nat × α)) {lo k : Nat} (w : wfFrom d lo m = true) (h : k < lo) : get d m k = d := by
  induction m generalizing lo with
  | nil => rfl
  | cons p m ih =>
    simp only [wfFrom, Bool.and_eq_true, decide_eq_true_eq] at w
    rw [get_cons, if_neg (by omega), ih w.2 (by omega)]

/-- The pass reads what `get` reads. -/
theorem walk_eq (d : α) (n : Nat) {a : Nat} {m : List (Nat × α)} (w : wfFrom d a m = true) :
    walk d n a m = (List.range n).map (fun k => get d m (a + k)) := by
  induction n generalizing a m with
  | zero => rfl
  | succ n ih =>
    have e : ∀ k, a + 1 + k = a + (k + 1) := by omega
    rw [List.range_succ_eq_map, List.map_cons, List.map_map]
    cases m with
    | nil => rw [walk, ih (by rfl)]; simp [Function.comp_def]
    | cons p m =>
      simp only [wfFrom, Bool.and_eq_true, decide_eq_true_eq] at w
      obtain ⟨⟨hk, hv⟩, w⟩ := w
      by_cases h : p.1 = a
      · rw [walk_cons, if_pos h, ih (by rwa [h] at w)]
        refine congrArg₂ List.cons (by simp [get_cons, h]) (List.map_congr_left fun k _ => ?_)
        simp only [Function.comp, get_cons, e]
        rw [if_neg (by omega)]
      · rw [walk_cons, if_neg h, ih (by simp [wfFrom, hv, w]; omega)]
        refine congrArg₂ List.cons (by rw [get_cons, if_neg (by simpa using h), get_below d m w (by omega)]) ?_
        exact List.map_congr_left fun k _ => by simp only [Function.comp, e]

/-- The entries from key a on. -/
theorem wfFrom_dropWhile (d : α) (m : List (Nat × α)) (a : Nat) {lo : Nat} (w : wfFrom d lo m = true) :
    wfFrom d a (m.dropWhile (fun p => Nat.ble (p.1 + 1) a)) = true := by
  induction m generalizing lo with
  | nil => rfl
  | cons p m ih =>
    simp only [wfFrom, Bool.and_eq_true, decide_eq_true_eq] at w
    rw [List.dropWhile_cons]
    split
    · exact ih w.2
    · rename_i h
      simp only [Nat.ble_eq] at h
      simp [wfFrom, w.1.2, w.2]; omega

omit [DecidableEq α] in
/-- Entries below a key do not show there. -/
theorem get_dropWhile (d : α) (m : List (Nat × α)) {a k : Nat} (h : a ≤ k) :
    get d (m.dropWhile (fun p => Nat.ble (p.1 + 1) a)) k = get d m k := by
  induction m with
  | nil => rfl
  | cons p m ih =>
    rw [List.dropWhile_cons]
    split
    · rename_i hp
      simp only [Nat.ble_eq] at hp
      rw [ih, get_cons, if_neg (by omega)]
    · rfl

end Sys2Proof.Machine.SMap
end

