-- ==== Sys2Proof/Laws/State.lean ====
section
/-! SUPPORT. What each update of the state leaves alone, one lemma per field and update: later proofs never unfold a
record update. -/
namespace Sys2Proof.Machine

/-! ### State.put -/

@[simp] theorem State.put_pending (s : State) (f : Fld) (v i j : Nat) : (s.put f v i j).pending = s.pending := rfl
@[simp] theorem State.put_clk (s : State) (f : Fld) (v i j : Nat) : (s.put f v i j).clk = s.clk := rfl
@[simp] theorem State.put_mem (s : State) (f : Fld) (v i j : Nat) : (s.put f v i j).mem = s.mem := rfl
@[simp] theorem State.put_hbmErr (s : State) (f : Fld) (v i j : Nat) : (s.put f v i j).hbmErr = s.hbmErr := rfl
@[simp] theorem State.put_sramErr (s : State) (f : Fld) (v i j : Nat) : (s.put f v i j).sramErr = s.sramErr := rfl
@[simp] theorem State.put_hbm (s : State) (f : Fld) (v i j : Nat) : (s.put f v i j).hbm = s.hbm := rfl
@[simp] theorem State.put_dir (s : State) (f : Fld) (v i j : Nat) : (s.put f v i j).dir = s.dir := rfl
@[simp] theorem State.put_fx (s : State) (f : Fld) (v i j : Nat) : (s.put f v i j).fx = s.fx := rfl
@[simp] theorem State.put_releases (s : State) (f : Fld) (v i j : Nat) : (s.put f v i j).releases = s.releases := rfl
@[simp] theorem State.put_cores (s : State) (f : Fld) (v i j : Nat) : (s.put f v i j).cores = s.cores := rfl
@[simp] theorem State.put_hoops (s : State) (f : Fld) (v i j : Nat) : (s.put f v i j).hoops = s.hoops := rfl
@[simp] theorem State.put_binders (s : State) (f : Fld) (v i j : Nat) : (s.put f v i j).binders = s.binders := rfl
@[simp] theorem State.put_folCmd (s : State) (f : Fld) (v i j : Nat) : (s.put f v i j).folCmd = s.folCmd := rfl
@[simp] theorem State.put_bnd (s : State) (f : Fld) (v i j : Nat) : (s.put f v i j).bnd = s.bnd := rfl
@[simp] theorem State.put_fuses (s : State) (f : Fld) (v i j : Nat) : (s.put f v i j).fuses = s.fuses := rfl
@[simp] theorem State.put_linkFw (s : State) (f : Fld) (v i j : Nat) : (s.put f v i j).linkFw = s.linkFw := rfl
@[simp] theorem State.put_links (s : State) (f : Fld) (v i j : Nat) : (s.put f v i j).links = s.links := rfl
@[simp] theorem State.put_engines (s : State) (f : Fld) (v i j : Nat) : (s.put f v i j).engines = s.engines := rfl
@[simp] theorem State.put_peers (s : State) (f : Fld) (v i j : Nat) : (s.put f v i j).peers = s.peers := rfl
@[simp] theorem State.put_rxFlows (s : State) (f : Fld) (v i j : Nat) : (s.put f v i j).rxFlows = s.rxFlows := rfl
@[simp] theorem State.put_txFlows (s : State) (f : Fld) (v i j : Nat) : (s.put f v i j).txFlows = s.txFlows := rfl
@[simp] theorem State.put_txns (s : State) (f : Fld) (v i j : Nat) : (s.put f v i j).txns = s.txns := rfl
@[simp] theorem State.put_nextTag (s : State) (f : Fld) (v i j : Nat) : (s.put f v i j).nextTag = s.nextTag := rfl
@[simp] theorem State.put_rxbuf (s : State) (f : Fld) (v i j : Nat) : (s.put f v i j).rxbuf = s.rxbuf := rfl
@[simp] theorem State.put_leases (s : State) (f : Fld) (v i j : Nat) : (s.put f v i j).leases = s.leases := rfl
@[simp] theorem State.put_images (s : State) (f : Fld) (v i j : Nat) : (s.put f v i j).images = s.images := rfl
@[simp] theorem State.put_myLeases (s : State) (f : Fld) (v i j : Nat) : (s.put f v i j).myLeases = s.myLeases := rfl
@[simp] theorem State.put_xrun (s : State) (f : Fld) (v i j : Nat) : (s.put f v i j).xrun = s.xrun := rfl
@[simp] theorem State.put_repart (s : State) (f : Fld) (v i j : Nat) : (s.put f v i j).repart = s.repart := rfl
@[simp] theorem State.put_shBase (s : State) (f : Fld) (v i j : Nat) : (s.put f v i j).shBase = s.shBase := rfl
@[simp] theorem State.put_lease (s : State) (f : Fld) (v i j : Nat) : (s.put f v i j).lease = s.lease := rfl
@[simp] theorem State.put_retire (s : State) (f : Fld) (v i j : Nat) : (s.put f v i j).retire = s.retire := rfl
@[simp] theorem State.put_sent (s : State) (f : Fld) (v i j : Nat) : (s.put f v i j).sent = s.sent := rfl
@[simp] theorem State.put_irqs (s : State) (f : Fld) (v i j : Nat) : (s.put f v i j).irqs = s.irqs := rfl
@[simp] theorem State.put_eccSrc (s : State) (f : Fld) (v i j : Nat) : (s.put f v i j).eccSrc = s.eccSrc := rfl
@[simp] theorem State.put_flows (s : State) (f : Fld) (v i j : Nat) : (s.put f v i j).flows = s.flows := rfl
@[simp] theorem State.put_abinds (s : State) (f : Fld) (v i j : Nat) : (s.put f v i j).abinds = s.abinds := rfl
@[simp] theorem State.put_agrps (s : State) (f : Fld) (v i j : Nat) : (s.put f v i j).agrps = s.agrps := rfl
@[simp] theorem State.put_saps (s : State) (f : Fld) (v i j : Nat) : (s.put f v i j).saps = s.saps := rfl
@[simp] theorem State.put_chans (s : State) (f : Fld) (v i j : Nat) : (s.put f v i j).chans = s.chans := rfl
@[simp] theorem State.put_outs (s : State) (f : Fld) (v i j : Nat) : (s.put f v i j).outs = s.outs := rfl
@[simp] theorem State.put_pwr (s : State) (f : Fld) (v i j : Nat) : (s.put f v i j).pwr = s.pwr := rfl
@[simp] theorem State.put_colo (s : State) (f : Fld) (v i j : Nat) : (s.put f v i j).colo = s.colo := rfl
@[simp] theorem State.put_flashA (s : State) (f : Fld) (v i j : Nat) : (s.put f v i j).flashA = s.flashA := rfl
@[simp] theorem State.put_flashB (s : State) (f : Fld) (v i j : Nat) : (s.put f v i j).flashB = s.flashB := rfl
@[simp] theorem State.put_optRecs (s : State) (f : Fld) (v i j : Nat) : (s.put f v i j).optRecs = s.optRecs := rfl
@[simp] theorem State.put_spine (s : State) (f : Fld) (v i j : Nat) : (s.put f v i j).spine = s.spine := rfl
@[simp] theorem State.put_jtag (s : State) (f : Fld) (v i j : Nat) : (s.put f v i j).jtag = s.jtag := rfl
@[simp] theorem State.put_att (s : State) (f : Fld) (v i j : Nat) : (s.put f v i j).att = s.att := rfl
@[simp] theorem State.put_attWait (s : State) (f : Fld) (v i j : Nat) : (s.put f v i j).attWait = s.attWait := rfl
@[simp] theorem State.put_i2cs (s : State) (f : Fld) (v i j : Nat) : (s.put f v i j).i2cs = s.i2cs := rfl
@[simp] theorem State.put_attached (s : State) (f : Fld) (v i j : Nat) : (s.put f v i j).attached = s.attached := rfl
@[simp] theorem State.put_eths (s : State) (f : Fld) (v i j : Nat) : (s.put f v i j).eths = s.eths := rfl
@[simp] theorem State.put_free (s : State) (f : Fld) (v i j : Nat) : (s.put f v i j).free = s.free := rfl

/-! ### State.irq -/

@[simp] theorem State.irq_pending (s : State) (q : Irq) : (s.irq q).pending = s.pending := rfl
@[simp] theorem State.irq_clk (s : State) (q : Irq) : (s.irq q).clk = s.clk := rfl
@[simp] theorem State.irq_mem (s : State) (q : Irq) : (s.irq q).mem = s.mem := rfl
@[simp] theorem State.irq_hbmErr (s : State) (q : Irq) : (s.irq q).hbmErr = s.hbmErr := rfl
@[simp] theorem State.irq_sramErr (s : State) (q : Irq) : (s.irq q).sramErr = s.sramErr := rfl
@[simp] theorem State.irq_hbm (s : State) (q : Irq) : (s.irq q).hbm = s.hbm := rfl
@[simp] theorem State.irq_ctl (s : State) (q : Irq) : (s.irq q).ctl = s.ctl := rfl
@[simp] theorem State.irq_dir (s : State) (q : Irq) : (s.irq q).dir = s.dir := rfl
@[simp] theorem State.irq_fx (s : State) (q : Irq) : (s.irq q).fx = s.fx := rfl
@[simp] theorem State.irq_releases (s : State) (q : Irq) : (s.irq q).releases = s.releases := rfl
@[simp] theorem State.irq_cores (s : State) (q : Irq) : (s.irq q).cores = s.cores := rfl
@[simp] theorem State.irq_hoops (s : State) (q : Irq) : (s.irq q).hoops = s.hoops := rfl
@[simp] theorem State.irq_binders (s : State) (q : Irq) : (s.irq q).binders = s.binders := rfl
@[simp] theorem State.irq_folCmd (s : State) (q : Irq) : (s.irq q).folCmd = s.folCmd := rfl
@[simp] theorem State.irq_bnd (s : State) (q : Irq) : (s.irq q).bnd = s.bnd := rfl
@[simp] theorem State.irq_fuses (s : State) (q : Irq) : (s.irq q).fuses = s.fuses := rfl
@[simp] theorem State.irq_linkFw (s : State) (q : Irq) : (s.irq q).linkFw = s.linkFw := rfl
@[simp] theorem State.irq_links (s : State) (q : Irq) : (s.irq q).links = s.links := rfl
@[simp] theorem State.irq_engines (s : State) (q : Irq) : (s.irq q).engines = s.engines := rfl
@[simp] theorem State.irq_peers (s : State) (q : Irq) : (s.irq q).peers = s.peers := rfl
@[simp] theorem State.irq_rxFlows (s : State) (q : Irq) : (s.irq q).rxFlows = s.rxFlows := rfl
@[simp] theorem State.irq_txFlows (s : State) (q : Irq) : (s.irq q).txFlows = s.txFlows := rfl
@[simp] theorem State.irq_txns (s : State) (q : Irq) : (s.irq q).txns = s.txns := rfl
@[simp] theorem State.irq_nextTag (s : State) (q : Irq) : (s.irq q).nextTag = s.nextTag := rfl
@[simp] theorem State.irq_rxbuf (s : State) (q : Irq) : (s.irq q).rxbuf = s.rxbuf := rfl
@[simp] theorem State.irq_leases (s : State) (q : Irq) : (s.irq q).leases = s.leases := rfl
@[simp] theorem State.irq_images (s : State) (q : Irq) : (s.irq q).images = s.images := rfl
@[simp] theorem State.irq_myLeases (s : State) (q : Irq) : (s.irq q).myLeases = s.myLeases := rfl
@[simp] theorem State.irq_xrun (s : State) (q : Irq) : (s.irq q).xrun = s.xrun := rfl
@[simp] theorem State.irq_repart (s : State) (q : Irq) : (s.irq q).repart = s.repart := rfl
@[simp] theorem State.irq_shBase (s : State) (q : Irq) : (s.irq q).shBase = s.shBase := rfl
@[simp] theorem State.irq_lease (s : State) (q : Irq) : (s.irq q).lease = s.lease := rfl
@[simp] theorem State.irq_retire (s : State) (q : Irq) : (s.irq q).retire = s.retire := rfl
@[simp] theorem State.irq_sent (s : State) (q : Irq) : (s.irq q).sent = s.sent := rfl
@[simp] theorem State.irq_eccSrc (s : State) (q : Irq) : (s.irq q).eccSrc = s.eccSrc := rfl
@[simp] theorem State.irq_flows (s : State) (q : Irq) : (s.irq q).flows = s.flows := rfl
@[simp] theorem State.irq_abinds (s : State) (q : Irq) : (s.irq q).abinds = s.abinds := rfl
@[simp] theorem State.irq_agrps (s : State) (q : Irq) : (s.irq q).agrps = s.agrps := rfl
@[simp] theorem State.irq_saps (s : State) (q : Irq) : (s.irq q).saps = s.saps := rfl
@[simp] theorem State.irq_chans (s : State) (q : Irq) : (s.irq q).chans = s.chans := rfl
@[simp] theorem State.irq_outs (s : State) (q : Irq) : (s.irq q).outs = s.outs := rfl
@[simp] theorem State.irq_pwr (s : State) (q : Irq) : (s.irq q).pwr = s.pwr := rfl
@[simp] theorem State.irq_colo (s : State) (q : Irq) : (s.irq q).colo = s.colo := rfl
@[simp] theorem State.irq_flashA (s : State) (q : Irq) : (s.irq q).flashA = s.flashA := rfl
@[simp] theorem State.irq_flashB (s : State) (q : Irq) : (s.irq q).flashB = s.flashB := rfl
@[simp] theorem State.irq_optRecs (s : State) (q : Irq) : (s.irq q).optRecs = s.optRecs := rfl
@[simp] theorem State.irq_spine (s : State) (q : Irq) : (s.irq q).spine = s.spine := rfl
@[simp] theorem State.irq_jtag (s : State) (q : Irq) : (s.irq q).jtag = s.jtag := rfl
@[simp] theorem State.irq_att (s : State) (q : Irq) : (s.irq q).att = s.att := rfl
@[simp] theorem State.irq_attWait (s : State) (q : Irq) : (s.irq q).attWait = s.attWait := rfl
@[simp] theorem State.irq_i2cs (s : State) (q : Irq) : (s.irq q).i2cs = s.i2cs := rfl
@[simp] theorem State.irq_attached (s : State) (q : Irq) : (s.irq q).attached = s.attached := rfl
@[simp] theorem State.irq_eths (s : State) (q : Irq) : (s.irq q).eths = s.eths := rfl
@[simp] theorem State.irq_free (s : State) (q : Irq) : (s.irq q).free = s.free := rfl

/-! ### State.send -/

@[simp] theorem State.send_pending (s : State) (m : Msg) : (s.send m).pending = s.pending := rfl
@[simp] theorem State.send_clk (s : State) (m : Msg) : (s.send m).clk = s.clk := rfl
@[simp] theorem State.send_mem (s : State) (m : Msg) : (s.send m).mem = s.mem := rfl
@[simp] theorem State.send_hbmErr (s : State) (m : Msg) : (s.send m).hbmErr = s.hbmErr := rfl
@[simp] theorem State.send_sramErr (s : State) (m : Msg) : (s.send m).sramErr = s.sramErr := rfl
@[simp] theorem State.send_hbm (s : State) (m : Msg) : (s.send m).hbm = s.hbm := rfl
@[simp] theorem State.send_ctl (s : State) (m : Msg) : (s.send m).ctl = s.ctl := rfl
@[simp] theorem State.send_dir (s : State) (m : Msg) : (s.send m).dir = s.dir := rfl
@[simp] theorem State.send_fx (s : State) (m : Msg) : (s.send m).fx = s.fx := rfl
@[simp] theorem State.send_releases (s : State) (m : Msg) : (s.send m).releases = s.releases := rfl
@[simp] theorem State.send_cores (s : State) (m : Msg) : (s.send m).cores = s.cores := rfl
@[simp] theorem State.send_hoops (s : State) (m : Msg) : (s.send m).hoops = s.hoops := rfl
@[simp] theorem State.send_binders (s : State) (m : Msg) : (s.send m).binders = s.binders := rfl
@[simp] theorem State.send_folCmd (s : State) (m : Msg) : (s.send m).folCmd = s.folCmd := rfl
@[simp] theorem State.send_bnd (s : State) (m : Msg) : (s.send m).bnd = s.bnd := rfl
@[simp] theorem State.send_fuses (s : State) (m : Msg) : (s.send m).fuses = s.fuses := rfl
@[simp] theorem State.send_linkFw (s : State) (m : Msg) : (s.send m).linkFw = s.linkFw := rfl
@[simp] theorem State.send_links (s : State) (m : Msg) : (s.send m).links = s.links := rfl
@[simp] theorem State.send_engines (s : State) (m : Msg) : (s.send m).engines = s.engines := rfl
@[simp] theorem State.send_peers (s : State) (m : Msg) : (s.send m).peers = s.peers := rfl
@[simp] theorem State.send_rxFlows (s : State) (m : Msg) : (s.send m).rxFlows = s.rxFlows := rfl
@[simp] theorem State.send_txFlows (s : State) (m : Msg) : (s.send m).txFlows = s.txFlows := rfl
@[simp] theorem State.send_txns (s : State) (m : Msg) : (s.send m).txns = s.txns := rfl
@[simp] theorem State.send_nextTag (s : State) (m : Msg) : (s.send m).nextTag = s.nextTag := rfl
@[simp] theorem State.send_rxbuf (s : State) (m : Msg) : (s.send m).rxbuf = s.rxbuf := rfl
@[simp] theorem State.send_leases (s : State) (m : Msg) : (s.send m).leases = s.leases := rfl
@[simp] theorem State.send_images (s : State) (m : Msg) : (s.send m).images = s.images := rfl
@[simp] theorem State.send_myLeases (s : State) (m : Msg) : (s.send m).myLeases = s.myLeases := rfl
@[simp] theorem State.send_xrun (s : State) (m : Msg) : (s.send m).xrun = s.xrun := rfl
@[simp] theorem State.send_repart (s : State) (m : Msg) : (s.send m).repart = s.repart := rfl
@[simp] theorem State.send_shBase (s : State) (m : Msg) : (s.send m).shBase = s.shBase := rfl
@[simp] theorem State.send_lease (s : State) (m : Msg) : (s.send m).lease = s.lease := rfl
@[simp] theorem State.send_retire (s : State) (m : Msg) : (s.send m).retire = s.retire := rfl
@[simp] theorem State.send_irqs (s : State) (m : Msg) : (s.send m).irqs = s.irqs := rfl
@[simp] theorem State.send_eccSrc (s : State) (m : Msg) : (s.send m).eccSrc = s.eccSrc := rfl
@[simp] theorem State.send_flows (s : State) (m : Msg) : (s.send m).flows = s.flows := rfl
@[simp] theorem State.send_abinds (s : State) (m : Msg) : (s.send m).abinds = s.abinds := rfl
@[simp] theorem State.send_agrps (s : State) (m : Msg) : (s.send m).agrps = s.agrps := rfl
@[simp] theorem State.send_saps (s : State) (m : Msg) : (s.send m).saps = s.saps := rfl
@[simp] theorem State.send_chans (s : State) (m : Msg) : (s.send m).chans = s.chans := rfl
@[simp] theorem State.send_outs (s : State) (m : Msg) : (s.send m).outs = s.outs := rfl
@[simp] theorem State.send_pwr (s : State) (m : Msg) : (s.send m).pwr = s.pwr := rfl
@[simp] theorem State.send_colo (s : State) (m : Msg) : (s.send m).colo = s.colo := rfl
@[simp] theorem State.send_flashA (s : State) (m : Msg) : (s.send m).flashA = s.flashA := rfl
@[simp] theorem State.send_flashB (s : State) (m : Msg) : (s.send m).flashB = s.flashB := rfl
@[simp] theorem State.send_optRecs (s : State) (m : Msg) : (s.send m).optRecs = s.optRecs := rfl
@[simp] theorem State.send_spine (s : State) (m : Msg) : (s.send m).spine = s.spine := rfl
@[simp] theorem State.send_jtag (s : State) (m : Msg) : (s.send m).jtag = s.jtag := rfl
@[simp] theorem State.send_att (s : State) (m : Msg) : (s.send m).att = s.att := rfl
@[simp] theorem State.send_attWait (s : State) (m : Msg) : (s.send m).attWait = s.attWait := rfl
@[simp] theorem State.send_i2cs (s : State) (m : Msg) : (s.send m).i2cs = s.i2cs := rfl
@[simp] theorem State.send_attached (s : State) (m : Msg) : (s.send m).attached = s.attached := rfl
@[simp] theorem State.send_eths (s : State) (m : Msg) : (s.send m).eths = s.eths := rfl
@[simp] theorem State.send_free (s : State) (m : Msg) : (s.send m).free = s.free := rfl

/-! ### State.poke -/

@[simp] theorem State.poke_pending (s : State) (a : Nat) (l : List Byte) : (s.poke a l).pending = s.pending := rfl
@[simp] theorem State.poke_clk (s : State) (a : Nat) (l : List Byte) : (s.poke a l).clk = s.clk := rfl
@[simp] theorem State.poke_hbmErr (s : State) (a : Nat) (l : List Byte) : (s.poke a l).hbmErr = s.hbmErr := rfl
@[simp] theorem State.poke_sramErr (s : State) (a : Nat) (l : List Byte) : (s.poke a l).sramErr = s.sramErr := rfl
@[simp] theorem State.poke_hbm (s : State) (a : Nat) (l : List Byte) : (s.poke a l).hbm = s.hbm := rfl
@[simp] theorem State.poke_ctl (s : State) (a : Nat) (l : List Byte) : (s.poke a l).ctl = s.ctl := rfl
@[simp] theorem State.poke_dir (s : State) (a : Nat) (l : List Byte) : (s.poke a l).dir = s.dir := rfl
@[simp] theorem State.poke_fx (s : State) (a : Nat) (l : List Byte) : (s.poke a l).fx = s.fx := rfl
@[simp] theorem State.poke_releases (s : State) (a : Nat) (l : List Byte) : (s.poke a l).releases = s.releases := rfl
@[simp] theorem State.poke_cores (s : State) (a : Nat) (l : List Byte) : (s.poke a l).cores = s.cores := rfl
@[simp] theorem State.poke_hoops (s : State) (a : Nat) (l : List Byte) : (s.poke a l).hoops = s.hoops := rfl
@[simp] theorem State.poke_binders (s : State) (a : Nat) (l : List Byte) : (s.poke a l).binders = s.binders := rfl
@[simp] theorem State.poke_folCmd (s : State) (a : Nat) (l : List Byte) : (s.poke a l).folCmd = s.folCmd := rfl
@[simp] theorem State.poke_bnd (s : State) (a : Nat) (l : List Byte) : (s.poke a l).bnd = s.bnd := rfl
@[simp] theorem State.poke_fuses (s : State) (a : Nat) (l : List Byte) : (s.poke a l).fuses = s.fuses := rfl
@[simp] theorem State.poke_linkFw (s : State) (a : Nat) (l : List Byte) : (s.poke a l).linkFw = s.linkFw := rfl
@[simp] theorem State.poke_links (s : State) (a : Nat) (l : List Byte) : (s.poke a l).links = s.links := rfl
@[simp] theorem State.poke_engines (s : State) (a : Nat) (l : List Byte) : (s.poke a l).engines = s.engines := rfl
@[simp] theorem State.poke_peers (s : State) (a : Nat) (l : List Byte) : (s.poke a l).peers = s.peers := rfl
@[simp] theorem State.poke_rxFlows (s : State) (a : Nat) (l : List Byte) : (s.poke a l).rxFlows = s.rxFlows := rfl
@[simp] theorem State.poke_txFlows (s : State) (a : Nat) (l : List Byte) : (s.poke a l).txFlows = s.txFlows := rfl
@[simp] theorem State.poke_txns (s : State) (a : Nat) (l : List Byte) : (s.poke a l).txns = s.txns := rfl
@[simp] theorem State.poke_nextTag (s : State) (a : Nat) (l : List Byte) : (s.poke a l).nextTag = s.nextTag := rfl
@[simp] theorem State.poke_rxbuf (s : State) (a : Nat) (l : List Byte) : (s.poke a l).rxbuf = s.rxbuf := rfl
@[simp] theorem State.poke_leases (s : State) (a : Nat) (l : List Byte) : (s.poke a l).leases = s.leases := rfl
@[simp] theorem State.poke_images (s : State) (a : Nat) (l : List Byte) : (s.poke a l).images = s.images := rfl
@[simp] theorem State.poke_myLeases (s : State) (a : Nat) (l : List Byte) : (s.poke a l).myLeases = s.myLeases := rfl
@[simp] theorem State.poke_xrun (s : State) (a : Nat) (l : List Byte) : (s.poke a l).xrun = s.xrun := rfl
@[simp] theorem State.poke_repart (s : State) (a : Nat) (l : List Byte) : (s.poke a l).repart = s.repart := rfl
@[simp] theorem State.poke_shBase (s : State) (a : Nat) (l : List Byte) : (s.poke a l).shBase = s.shBase := rfl
@[simp] theorem State.poke_lease (s : State) (a : Nat) (l : List Byte) : (s.poke a l).lease = s.lease := rfl
@[simp] theorem State.poke_retire (s : State) (a : Nat) (l : List Byte) : (s.poke a l).retire = s.retire := rfl
@[simp] theorem State.poke_sent (s : State) (a : Nat) (l : List Byte) : (s.poke a l).sent = s.sent := rfl
@[simp] theorem State.poke_irqs (s : State) (a : Nat) (l : List Byte) : (s.poke a l).irqs = s.irqs := rfl
@[simp] theorem State.poke_eccSrc (s : State) (a : Nat) (l : List Byte) : (s.poke a l).eccSrc = s.eccSrc := rfl
@[simp] theorem State.poke_flows (s : State) (a : Nat) (l : List Byte) : (s.poke a l).flows = s.flows := rfl
@[simp] theorem State.poke_abinds (s : State) (a : Nat) (l : List Byte) : (s.poke a l).abinds = s.abinds := rfl
@[simp] theorem State.poke_agrps (s : State) (a : Nat) (l : List Byte) : (s.poke a l).agrps = s.agrps := rfl
@[simp] theorem State.poke_saps (s : State) (a : Nat) (l : List Byte) : (s.poke a l).saps = s.saps := rfl
@[simp] theorem State.poke_chans (s : State) (a : Nat) (l : List Byte) : (s.poke a l).chans = s.chans := rfl
@[simp] theorem State.poke_outs (s : State) (a : Nat) (l : List Byte) : (s.poke a l).outs = s.outs := rfl
@[simp] theorem State.poke_pwr (s : State) (a : Nat) (l : List Byte) : (s.poke a l).pwr = s.pwr := rfl
@[simp] theorem State.poke_colo (s : State) (a : Nat) (l : List Byte) : (s.poke a l).colo = s.colo := rfl
@[simp] theorem State.poke_flashA (s : State) (a : Nat) (l : List Byte) : (s.poke a l).flashA = s.flashA := rfl
@[simp] theorem State.poke_flashB (s : State) (a : Nat) (l : List Byte) : (s.poke a l).flashB = s.flashB := rfl
@[simp] theorem State.poke_optRecs (s : State) (a : Nat) (l : List Byte) : (s.poke a l).optRecs = s.optRecs := rfl
@[simp] theorem State.poke_spine (s : State) (a : Nat) (l : List Byte) : (s.poke a l).spine = s.spine := rfl
@[simp] theorem State.poke_jtag (s : State) (a : Nat) (l : List Byte) : (s.poke a l).jtag = s.jtag := rfl
@[simp] theorem State.poke_att (s : State) (a : Nat) (l : List Byte) : (s.poke a l).att = s.att := rfl
@[simp] theorem State.poke_attWait (s : State) (a : Nat) (l : List Byte) : (s.poke a l).attWait = s.attWait := rfl
@[simp] theorem State.poke_i2cs (s : State) (a : Nat) (l : List Byte) : (s.poke a l).i2cs = s.i2cs := rfl
@[simp] theorem State.poke_attached (s : State) (a : Nat) (l : List Byte) : (s.poke a l).attached = s.attached := rfl
@[simp] theorem State.poke_eths (s : State) (a : Nat) (l : List Byte) : (s.poke a l).eths = s.eths := rfl
@[simp] theorem State.poke_free (s : State) (a : Nat) (l : List Byte) : (s.poke a l).free = s.free := rfl

/-! ### State.updCore -/

@[simp] theorem State.updCore_pending (s : State) (c : Nat) (f : Core → Core) : (s.updCore c f).pending = s.pending := rfl
@[simp] theorem State.updCore_clk (s : State) (c : Nat) (f : Core → Core) : (s.updCore c f).clk = s.clk := rfl
@[simp] theorem State.updCore_mem (s : State) (c : Nat) (f : Core → Core) : (s.updCore c f).mem = s.mem := rfl
@[simp] theorem State.updCore_hbmErr (s : State) (c : Nat) (f : Core → Core) : (s.updCore c f).hbmErr = s.hbmErr := rfl
@[simp] theorem State.updCore_sramErr (s : State) (c : Nat) (f : Core → Core) : (s.updCore c f).sramErr = s.sramErr := rfl
@[simp] theorem State.updCore_hbm (s : State) (c : Nat) (f : Core → Core) : (s.updCore c f).hbm = s.hbm := rfl
@[simp] theorem State.updCore_ctl (s : State) (c : Nat) (f : Core → Core) : (s.updCore c f).ctl = s.ctl := rfl
@[simp] theorem State.updCore_dir (s : State) (c : Nat) (f : Core → Core) : (s.updCore c f).dir = s.dir := rfl
@[simp] theorem State.updCore_fx (s : State) (c : Nat) (f : Core → Core) : (s.updCore c f).fx = s.fx := rfl
@[simp] theorem State.updCore_releases (s : State) (c : Nat) (f : Core → Core) : (s.updCore c f).releases = s.releases := rfl
@[simp] theorem State.updCore_hoops (s : State) (c : Nat) (f : Core → Core) : (s.updCore c f).hoops = s.hoops := rfl
@[simp] theorem State.updCore_binders (s : State) (c : Nat) (f : Core → Core) : (s.updCore c f).binders = s.binders := rfl
@[simp] theorem State.updCore_folCmd (s : State) (c : Nat) (f : Core → Core) : (s.updCore c f).folCmd = s.folCmd := rfl
@[simp] theorem State.updCore_bnd (s : State) (c : Nat) (f : Core → Core) : (s.updCore c f).bnd = s.bnd := rfl
@[simp] theorem State.updCore_fuses (s : State) (c : Nat) (f : Core → Core) : (s.updCore c f).fuses = s.fuses := rfl
@[simp] theorem State.updCore_linkFw (s : State) (c : Nat) (f : Core → Core) : (s.updCore c f).linkFw = s.linkFw := rfl
@[simp] theorem State.updCore_links (s : State) (c : Nat) (f : Core → Core) : (s.updCore c f).links = s.links := rfl
@[simp] theorem State.updCore_engines (s : State) (c : Nat) (f : Core → Core) : (s.updCore c f).engines = s.engines := rfl
@[simp] theorem State.updCore_peers (s : State) (c : Nat) (f : Core → Core) : (s.updCore c f).peers = s.peers := rfl
@[simp] theorem State.updCore_rxFlows (s : State) (c : Nat) (f : Core → Core) : (s.updCore c f).rxFlows = s.rxFlows := rfl
@[simp] theorem State.updCore_txFlows (s : State) (c : Nat) (f : Core → Core) : (s.updCore c f).txFlows = s.txFlows := rfl
@[simp] theorem State.updCore_txns (s : State) (c : Nat) (f : Core → Core) : (s.updCore c f).txns = s.txns := rfl
@[simp] theorem State.updCore_nextTag (s : State) (c : Nat) (f : Core → Core) : (s.updCore c f).nextTag = s.nextTag := rfl
@[simp] theorem State.updCore_rxbuf (s : State) (c : Nat) (f : Core → Core) : (s.updCore c f).rxbuf = s.rxbuf := rfl
@[simp] theorem State.updCore_leases (s : State) (c : Nat) (f : Core → Core) : (s.updCore c f).leases = s.leases := rfl
@[simp] theorem State.updCore_images (s : State) (c : Nat) (f : Core → Core) : (s.updCore c f).images = s.images := rfl
@[simp] theorem State.updCore_myLeases (s : State) (c : Nat) (f : Core → Core) : (s.updCore c f).myLeases = s.myLeases := rfl
@[simp] theorem State.updCore_xrun (s : State) (c : Nat) (f : Core → Core) : (s.updCore c f).xrun = s.xrun := rfl
@[simp] theorem State.updCore_repart (s : State) (c : Nat) (f : Core → Core) : (s.updCore c f).repart = s.repart := rfl
@[simp] theorem State.updCore_shBase (s : State) (c : Nat) (f : Core → Core) : (s.updCore c f).shBase = s.shBase := rfl
@[simp] theorem State.updCore_lease (s : State) (c : Nat) (f : Core → Core) : (s.updCore c f).lease = s.lease := rfl
@[simp] theorem State.updCore_retire (s : State) (c : Nat) (f : Core → Core) : (s.updCore c f).retire = s.retire := rfl
@[simp] theorem State.updCore_sent (s : State) (c : Nat) (f : Core → Core) : (s.updCore c f).sent = s.sent := rfl
@[simp] theorem State.updCore_irqs (s : State) (c : Nat) (f : Core → Core) : (s.updCore c f).irqs = s.irqs := rfl
@[simp] theorem State.updCore_eccSrc (s : State) (c : Nat) (f : Core → Core) : (s.updCore c f).eccSrc = s.eccSrc := rfl
@[simp] theorem State.updCore_flows (s : State) (c : Nat) (f : Core → Core) : (s.updCore c f).flows = s.flows := rfl
@[simp] theorem State.updCore_abinds (s : State) (c : Nat) (f : Core → Core) : (s.updCore c f).abinds = s.abinds := rfl
@[simp] theorem State.updCore_agrps (s : State) (c : Nat) (f : Core → Core) : (s.updCore c f).agrps = s.agrps := rfl
@[simp] theorem State.updCore_saps (s : State) (c : Nat) (f : Core → Core) : (s.updCore c f).saps = s.saps := rfl
@[simp] theorem State.updCore_chans (s : State) (c : Nat) (f : Core → Core) : (s.updCore c f).chans = s.chans := rfl
@[simp] theorem State.updCore_outs (s : State) (c : Nat) (f : Core → Core) : (s.updCore c f).outs = s.outs := rfl
@[simp] theorem State.updCore_pwr (s : State) (c : Nat) (f : Core → Core) : (s.updCore c f).pwr = s.pwr := rfl
@[simp] theorem State.updCore_colo (s : State) (c : Nat) (f : Core → Core) : (s.updCore c f).colo = s.colo := rfl
@[simp] theorem State.updCore_flashA (s : State) (c : Nat) (f : Core → Core) : (s.updCore c f).flashA = s.flashA := rfl
@[simp] theorem State.updCore_flashB (s : State) (c : Nat) (f : Core → Core) : (s.updCore c f).flashB = s.flashB := rfl
@[simp] theorem State.updCore_optRecs (s : State) (c : Nat) (f : Core → Core) : (s.updCore c f).optRecs = s.optRecs := rfl
@[simp] theorem State.updCore_spine (s : State) (c : Nat) (f : Core → Core) : (s.updCore c f).spine = s.spine := rfl
@[simp] theorem State.updCore_jtag (s : State) (c : Nat) (f : Core → Core) : (s.updCore c f).jtag = s.jtag := rfl
@[simp] theorem State.updCore_att (s : State) (c : Nat) (f : Core → Core) : (s.updCore c f).att = s.att := rfl
@[simp] theorem State.updCore_attWait (s : State) (c : Nat) (f : Core → Core) : (s.updCore c f).attWait = s.attWait := rfl
@[simp] theorem State.updCore_i2cs (s : State) (c : Nat) (f : Core → Core) : (s.updCore c f).i2cs = s.i2cs := rfl
@[simp] theorem State.updCore_attached (s : State) (c : Nat) (f : Core → Core) : (s.updCore c f).attached = s.attached := rfl
@[simp] theorem State.updCore_eths (s : State) (c : Nat) (f : Core → Core) : (s.updCore c f).eths = s.eths := rfl
@[simp] theorem State.updCore_free (s : State) (c : Nat) (f : Core → Core) : (s.updCore c f).free = s.free := rfl

/-! ### State.updHoop -/

@[simp] theorem State.updHoop_pending (s : State) (h : Nat) (f : Hoop → Hoop) : (s.updHoop h f).pending = s.pending := rfl
@[simp] theorem State.updHoop_clk (s : State) (h : Nat) (f : Hoop → Hoop) : (s.updHoop h f).clk = s.clk := rfl
@[simp] theorem State.updHoop_mem (s : State) (h : Nat) (f : Hoop → Hoop) : (s.updHoop h f).mem = s.mem := rfl
@[simp] theorem State.updHoop_hbmErr (s : State) (h : Nat) (f : Hoop → Hoop) : (s.updHoop h f).hbmErr = s.hbmErr := rfl
@[simp] theorem State.updHoop_sramErr (s : State) (h : Nat) (f : Hoop → Hoop) : (s.updHoop h f).sramErr = s.sramErr := rfl
@[simp] theorem State.updHoop_hbm (s : State) (h : Nat) (f : Hoop → Hoop) : (s.updHoop h f).hbm = s.hbm := rfl
@[simp] theorem State.updHoop_ctl (s : State) (h : Nat) (f : Hoop → Hoop) : (s.updHoop h f).ctl = s.ctl := rfl
@[simp] theorem State.updHoop_dir (s : State) (h : Nat) (f : Hoop → Hoop) : (s.updHoop h f).dir = s.dir := rfl
@[simp] theorem State.updHoop_fx (s : State) (h : Nat) (f : Hoop → Hoop) : (s.updHoop h f).fx = s.fx := rfl
@[simp] theorem State.updHoop_releases (s : State) (h : Nat) (f : Hoop → Hoop) : (s.updHoop h f).releases = s.releases := rfl
@[simp] theorem State.updHoop_cores (s : State) (h : Nat) (f : Hoop → Hoop) : (s.updHoop h f).cores = s.cores := rfl
@[simp] theorem State.updHoop_binders (s : State) (h : Nat) (f : Hoop → Hoop) : (s.updHoop h f).binders = s.binders := rfl
@[simp] theorem State.updHoop_folCmd (s : State) (h : Nat) (f : Hoop → Hoop) : (s.updHoop h f).folCmd = s.folCmd := rfl
@[simp] theorem State.updHoop_bnd (s : State) (h : Nat) (f : Hoop → Hoop) : (s.updHoop h f).bnd = s.bnd := rfl
@[simp] theorem State.updHoop_fuses (s : State) (h : Nat) (f : Hoop → Hoop) : (s.updHoop h f).fuses = s.fuses := rfl
@[simp] theorem State.updHoop_linkFw (s : State) (h : Nat) (f : Hoop → Hoop) : (s.updHoop h f).linkFw = s.linkFw := rfl
@[simp] theorem State.updHoop_links (s : State) (h : Nat) (f : Hoop → Hoop) : (s.updHoop h f).links = s.links := rfl
@[simp] theorem State.updHoop_engines (s : State) (h : Nat) (f : Hoop → Hoop) : (s.updHoop h f).engines = s.engines := rfl
@[simp] theorem State.updHoop_peers (s : State) (h : Nat) (f : Hoop → Hoop) : (s.updHoop h f).peers = s.peers := rfl
@[simp] theorem State.updHoop_rxFlows (s : State) (h : Nat) (f : Hoop → Hoop) : (s.updHoop h f).rxFlows = s.rxFlows := rfl
@[simp] theorem State.updHoop_txFlows (s : State) (h : Nat) (f : Hoop → Hoop) : (s.updHoop h f).txFlows = s.txFlows := rfl
@[simp] theorem State.updHoop_txns (s : State) (h : Nat) (f : Hoop → Hoop) : (s.updHoop h f).txns = s.txns := rfl
@[simp] theorem State.updHoop_nextTag (s : State) (h : Nat) (f : Hoop → Hoop) : (s.updHoop h f).nextTag = s.nextTag := rfl
@[simp] theorem State.updHoop_rxbuf (s : State) (h : Nat) (f : Hoop → Hoop) : (s.updHoop h f).rxbuf = s.rxbuf := rfl
@[simp] theorem State.updHoop_leases (s : State) (h : Nat) (f : Hoop → Hoop) : (s.updHoop h f).leases = s.leases := rfl
@[simp] theorem State.updHoop_images (s : State) (h : Nat) (f : Hoop → Hoop) : (s.updHoop h f).images = s.images := rfl
@[simp] theorem State.updHoop_myLeases (s : State) (h : Nat) (f : Hoop → Hoop) : (s.updHoop h f).myLeases = s.myLeases := rfl
@[simp] theorem State.updHoop_xrun (s : State) (h : Nat) (f : Hoop → Hoop) : (s.updHoop h f).xrun = s.xrun := rfl
@[simp] theorem State.updHoop_repart (s : State) (h : Nat) (f : Hoop → Hoop) : (s.updHoop h f).repart = s.repart := rfl
@[simp] theorem State.updHoop_shBase (s : State) (h : Nat) (f : Hoop → Hoop) : (s.updHoop h f).shBase = s.shBase := rfl
@[simp] theorem State.updHoop_lease (s : State) (h : Nat) (f : Hoop → Hoop) : (s.updHoop h f).lease = s.lease := rfl
@[simp] theorem State.updHoop_retire (s : State) (h : Nat) (f : Hoop → Hoop) : (s.updHoop h f).retire = s.retire := rfl
@[simp] theorem State.updHoop_sent (s : State) (h : Nat) (f : Hoop → Hoop) : (s.updHoop h f).sent = s.sent := rfl
@[simp] theorem State.updHoop_irqs (s : State) (h : Nat) (f : Hoop → Hoop) : (s.updHoop h f).irqs = s.irqs := rfl
@[simp] theorem State.updHoop_eccSrc (s : State) (h : Nat) (f : Hoop → Hoop) : (s.updHoop h f).eccSrc = s.eccSrc := rfl
@[simp] theorem State.updHoop_flows (s : State) (h : Nat) (f : Hoop → Hoop) : (s.updHoop h f).flows = s.flows := rfl
@[simp] theorem State.updHoop_abinds (s : State) (h : Nat) (f : Hoop → Hoop) : (s.updHoop h f).abinds = s.abinds := rfl
@[simp] theorem State.updHoop_agrps (s : State) (h : Nat) (f : Hoop → Hoop) : (s.updHoop h f).agrps = s.agrps := rfl
@[simp] theorem State.updHoop_saps (s : State) (h : Nat) (f : Hoop → Hoop) : (s.updHoop h f).saps = s.saps := rfl
@[simp] theorem State.updHoop_chans (s : State) (h : Nat) (f : Hoop → Hoop) : (s.updHoop h f).chans = s.chans := rfl
@[simp] theorem State.updHoop_outs (s : State) (h : Nat) (f : Hoop → Hoop) : (s.updHoop h f).outs = s.outs := rfl
@[simp] theorem State.updHoop_pwr (s : State) (h : Nat) (f : Hoop → Hoop) : (s.updHoop h f).pwr = s.pwr := rfl
@[simp] theorem State.updHoop_colo (s : State) (h : Nat) (f : Hoop → Hoop) : (s.updHoop h f).colo = s.colo := rfl
@[simp] theorem State.updHoop_flashA (s : State) (h : Nat) (f : Hoop → Hoop) : (s.updHoop h f).flashA = s.flashA := rfl
@[simp] theorem State.updHoop_flashB (s : State) (h : Nat) (f : Hoop → Hoop) : (s.updHoop h f).flashB = s.flashB := rfl
@[simp] theorem State.updHoop_optRecs (s : State) (h : Nat) (f : Hoop → Hoop) : (s.updHoop h f).optRecs = s.optRecs := rfl
@[simp] theorem State.updHoop_spine (s : State) (h : Nat) (f : Hoop → Hoop) : (s.updHoop h f).spine = s.spine := rfl
@[simp] theorem State.updHoop_jtag (s : State) (h : Nat) (f : Hoop → Hoop) : (s.updHoop h f).jtag = s.jtag := rfl
@[simp] theorem State.updHoop_att (s : State) (h : Nat) (f : Hoop → Hoop) : (s.updHoop h f).att = s.att := rfl
@[simp] theorem State.updHoop_attWait (s : State) (h : Nat) (f : Hoop → Hoop) : (s.updHoop h f).attWait = s.attWait := rfl
@[simp] theorem State.updHoop_i2cs (s : State) (h : Nat) (f : Hoop → Hoop) : (s.updHoop h f).i2cs = s.i2cs := rfl
@[simp] theorem State.updHoop_attached (s : State) (h : Nat) (f : Hoop → Hoop) : (s.updHoop h f).attached = s.attached := rfl
@[simp] theorem State.updHoop_eths (s : State) (h : Nat) (f : Hoop → Hoop) : (s.updHoop h f).eths = s.eths := rfl
@[simp] theorem State.updHoop_free (s : State) (h : Nat) (f : Hoop → Hoop) : (s.updHoop h f).free = s.free := rfl

/-! ### State.updEnt -/

@[simp] theorem State.updEnt_pending (s : State) (n : Folio) (f : DirEntry → DirEntry) : (s.updEnt n f).pending = s.pending := rfl
@[simp] theorem State.updEnt_clk (s : State) (n : Folio) (f : DirEntry → DirEntry) : (s.updEnt n f).clk = s.clk := rfl
@[simp] theorem State.updEnt_mem (s : State) (n : Folio) (f : DirEntry → DirEntry) : (s.updEnt n f).mem = s.mem := rfl
@[simp] theorem State.updEnt_hbmErr (s : State) (n : Folio) (f : DirEntry → DirEntry) : (s.updEnt n f).hbmErr = s.hbmErr := rfl
@[simp] theorem State.updEnt_sramErr (s : State) (n : Folio) (f : DirEntry → DirEntry) : (s.updEnt n f).sramErr = s.sramErr := rfl
@[simp] theorem State.updEnt_hbm (s : State) (n : Folio) (f : DirEntry → DirEntry) : (s.updEnt n f).hbm = s.hbm := rfl
@[simp] theorem State.updEnt_ctl (s : State) (n : Folio) (f : DirEntry → DirEntry) : (s.updEnt n f).ctl = s.ctl := rfl
@[simp] theorem State.updEnt_fx (s : State) (n : Folio) (f : DirEntry → DirEntry) : (s.updEnt n f).fx = s.fx := rfl
@[simp] theorem State.updEnt_releases (s : State) (n : Folio) (f : DirEntry → DirEntry) : (s.updEnt n f).releases = s.releases := rfl
@[simp] theorem State.updEnt_cores (s : State) (n : Folio) (f : DirEntry → DirEntry) : (s.updEnt n f).cores = s.cores := rfl
@[simp] theorem State.updEnt_hoops (s : State) (n : Folio) (f : DirEntry → DirEntry) : (s.updEnt n f).hoops = s.hoops := rfl
@[simp] theorem State.updEnt_binders (s : State) (n : Folio) (f : DirEntry → DirEntry) : (s.updEnt n f).binders = s.binders := rfl
@[simp] theorem State.updEnt_folCmd (s : State) (n : Folio) (f : DirEntry → DirEntry) : (s.updEnt n f).folCmd = s.folCmd := rfl
@[simp] theorem State.updEnt_bnd (s : State) (n : Folio) (f : DirEntry → DirEntry) : (s.updEnt n f).bnd = s.bnd := rfl
@[simp] theorem State.updEnt_fuses (s : State) (n : Folio) (f : DirEntry → DirEntry) : (s.updEnt n f).fuses = s.fuses := rfl
@[simp] theorem State.updEnt_linkFw (s : State) (n : Folio) (f : DirEntry → DirEntry) : (s.updEnt n f).linkFw = s.linkFw := rfl
@[simp] theorem State.updEnt_links (s : State) (n : Folio) (f : DirEntry → DirEntry) : (s.updEnt n f).links = s.links := rfl
@[simp] theorem State.updEnt_engines (s : State) (n : Folio) (f : DirEntry → DirEntry) : (s.updEnt n f).engines = s.engines := rfl
@[simp] theorem State.updEnt_peers (s : State) (n : Folio) (f : DirEntry → DirEntry) : (s.updEnt n f).peers = s.peers := rfl
@[simp] theorem State.updEnt_rxFlows (s : State) (n : Folio) (f : DirEntry → DirEntry) : (s.updEnt n f).rxFlows = s.rxFlows := rfl
@[simp] theorem State.updEnt_txFlows (s : State) (n : Folio) (f : DirEntry → DirEntry) : (s.updEnt n f).txFlows = s.txFlows := rfl
@[simp] theorem State.updEnt_txns (s : State) (n : Folio) (f : DirEntry → DirEntry) : (s.updEnt n f).txns = s.txns := rfl
@[simp] theorem State.updEnt_nextTag (s : State) (n : Folio) (f : DirEntry → DirEntry) : (s.updEnt n f).nextTag = s.nextTag := rfl
@[simp] theorem State.updEnt_rxbuf (s : State) (n : Folio) (f : DirEntry → DirEntry) : (s.updEnt n f).rxbuf = s.rxbuf := rfl
@[simp] theorem State.updEnt_leases (s : State) (n : Folio) (f : DirEntry → DirEntry) : (s.updEnt n f).leases = s.leases := rfl
@[simp] theorem State.updEnt_images (s : State) (n : Folio) (f : DirEntry → DirEntry) : (s.updEnt n f).images = s.images := rfl
@[simp] theorem State.updEnt_myLeases (s : State) (n : Folio) (f : DirEntry → DirEntry) : (s.updEnt n f).myLeases = s.myLeases := rfl
@[simp] theorem State.updEnt_xrun (s : State) (n : Folio) (f : DirEntry → DirEntry) : (s.updEnt n f).xrun = s.xrun := rfl
@[simp] theorem State.updEnt_repart (s : State) (n : Folio) (f : DirEntry → DirEntry) : (s.updEnt n f).repart = s.repart := rfl
@[simp] theorem State.updEnt_shBase (s : State) (n : Folio) (f : DirEntry → DirEntry) : (s.updEnt n f).shBase = s.shBase := rfl
@[simp] theorem State.updEnt_lease (s : State) (n : Folio) (f : DirEntry → DirEntry) : (s.updEnt n f).lease = s.lease := rfl
@[simp] theorem State.updEnt_retire (s : State) (n : Folio) (f : DirEntry → DirEntry) : (s.updEnt n f).retire = s.retire := rfl
@[simp] theorem State.updEnt_sent (s : State) (n : Folio) (f : DirEntry → DirEntry) : (s.updEnt n f).sent = s.sent := rfl
@[simp] theorem State.updEnt_irqs (s : State) (n : Folio) (f : DirEntry → DirEntry) : (s.updEnt n f).irqs = s.irqs := rfl
@[simp] theorem State.updEnt_eccSrc (s : State) (n : Folio) (f : DirEntry → DirEntry) : (s.updEnt n f).eccSrc = s.eccSrc := rfl
@[simp] theorem State.updEnt_flows (s : State) (n : Folio) (f : DirEntry → DirEntry) : (s.updEnt n f).flows = s.flows := rfl
@[simp] theorem State.updEnt_abinds (s : State) (n : Folio) (f : DirEntry → DirEntry) : (s.updEnt n f).abinds = s.abinds := rfl
@[simp] theorem State.updEnt_agrps (s : State) (n : Folio) (f : DirEntry → DirEntry) : (s.updEnt n f).agrps = s.agrps := rfl
@[simp] theorem State.updEnt_saps (s : State) (n : Folio) (f : DirEntry → DirEntry) : (s.updEnt n f).saps = s.saps := rfl
@[simp] theorem State.updEnt_chans (s : State) (n : Folio) (f : DirEntry → DirEntry) : (s.updEnt n f).chans = s.chans := rfl
@[simp] theorem State.updEnt_outs (s : State) (n : Folio) (f : DirEntry → DirEntry) : (s.updEnt n f).outs = s.outs := rfl
@[simp] theorem State.updEnt_pwr (s : State) (n : Folio) (f : DirEntry → DirEntry) : (s.updEnt n f).pwr = s.pwr := rfl
@[simp] theorem State.updEnt_colo (s : State) (n : Folio) (f : DirEntry → DirEntry) : (s.updEnt n f).colo = s.colo := rfl
@[simp] theorem State.updEnt_flashA (s : State) (n : Folio) (f : DirEntry → DirEntry) : (s.updEnt n f).flashA = s.flashA := rfl
@[simp] theorem State.updEnt_flashB (s : State) (n : Folio) (f : DirEntry → DirEntry) : (s.updEnt n f).flashB = s.flashB := rfl
@[simp] theorem State.updEnt_optRecs (s : State) (n : Folio) (f : DirEntry → DirEntry) : (s.updEnt n f).optRecs = s.optRecs := rfl
@[simp] theorem State.updEnt_spine (s : State) (n : Folio) (f : DirEntry → DirEntry) : (s.updEnt n f).spine = s.spine := rfl
@[simp] theorem State.updEnt_jtag (s : State) (n : Folio) (f : DirEntry → DirEntry) : (s.updEnt n f).jtag = s.jtag := rfl
@[simp] theorem State.updEnt_att (s : State) (n : Folio) (f : DirEntry → DirEntry) : (s.updEnt n f).att = s.att := rfl
@[simp] theorem State.updEnt_attWait (s : State) (n : Folio) (f : DirEntry → DirEntry) : (s.updEnt n f).attWait = s.attWait := rfl
@[simp] theorem State.updEnt_i2cs (s : State) (n : Folio) (f : DirEntry → DirEntry) : (s.updEnt n f).i2cs = s.i2cs := rfl
@[simp] theorem State.updEnt_attached (s : State) (n : Folio) (f : DirEntry → DirEntry) : (s.updEnt n f).attached = s.attached := rfl
@[simp] theorem State.updEnt_eths (s : State) (n : Folio) (f : DirEntry → DirEntry) : (s.updEnt n f).eths = s.eths := rfl
@[simp] theorem State.updEnt_free (s : State) (n : Folio) (f : DirEntry → DirEntry) : (s.updEnt n f).free = s.free := rfl

/-! ### State.updFol -/

@[simp] theorem State.updFol_pending (s : State) (n : Folio) (f : FolX → FolX) : (s.updFol n f).pending = s.pending := rfl
@[simp] theorem State.updFol_clk (s : State) (n : Folio) (f : FolX → FolX) : (s.updFol n f).clk = s.clk := rfl
@[simp] theorem State.updFol_mem (s : State) (n : Folio) (f : FolX → FolX) : (s.updFol n f).mem = s.mem := rfl
@[simp] theorem State.updFol_hbmErr (s : State) (n : Folio) (f : FolX → FolX) : (s.updFol n f).hbmErr = s.hbmErr := rfl
@[simp] theorem State.updFol_sramErr (s : State) (n : Folio) (f : FolX → FolX) : (s.updFol n f).sramErr = s.sramErr := rfl
@[simp] theorem State.updFol_hbm (s : State) (n : Folio) (f : FolX → FolX) : (s.updFol n f).hbm = s.hbm := rfl
@[simp] theorem State.updFol_ctl (s : State) (n : Folio) (f : FolX → FolX) : (s.updFol n f).ctl = s.ctl := rfl
@[simp] theorem State.updFol_dir (s : State) (n : Folio) (f : FolX → FolX) : (s.updFol n f).dir = s.dir := rfl
@[simp] theorem State.updFol_releases (s : State) (n : Folio) (f : FolX → FolX) : (s.updFol n f).releases = s.releases := rfl
@[simp] theorem State.updFol_cores (s : State) (n : Folio) (f : FolX → FolX) : (s.updFol n f).cores = s.cores := rfl
@[simp] theorem State.updFol_hoops (s : State) (n : Folio) (f : FolX → FolX) : (s.updFol n f).hoops = s.hoops := rfl
@[simp] theorem State.updFol_binders (s : State) (n : Folio) (f : FolX → FolX) : (s.updFol n f).binders = s.binders := rfl
@[simp] theorem State.updFol_folCmd (s : State) (n : Folio) (f : FolX → FolX) : (s.updFol n f).folCmd = s.folCmd := rfl
@[simp] theorem State.updFol_bnd (s : State) (n : Folio) (f : FolX → FolX) : (s.updFol n f).bnd = s.bnd := rfl
@[simp] theorem State.updFol_fuses (s : State) (n : Folio) (f : FolX → FolX) : (s.updFol n f).fuses = s.fuses := rfl
@[simp] theorem State.updFol_linkFw (s : State) (n : Folio) (f : FolX → FolX) : (s.updFol n f).linkFw = s.linkFw := rfl
@[simp] theorem State.updFol_links (s : State) (n : Folio) (f : FolX → FolX) : (s.updFol n f).links = s.links := rfl
@[simp] theorem State.updFol_engines (s : State) (n : Folio) (f : FolX → FolX) : (s.updFol n f).engines = s.engines := rfl
@[simp] theorem State.updFol_peers (s : State) (n : Folio) (f : FolX → FolX) : (s.updFol n f).peers = s.peers := rfl
@[simp] theorem State.updFol_rxFlows (s : State) (n : Folio) (f : FolX → FolX) : (s.updFol n f).rxFlows = s.rxFlows := rfl
@[simp] theorem State.updFol_txFlows (s : State) (n : Folio) (f : FolX → FolX) : (s.updFol n f).txFlows = s.txFlows := rfl
@[simp] theorem State.updFol_txns (s : State) (n : Folio) (f : FolX → FolX) : (s.updFol n f).txns = s.txns := rfl
@[simp] theorem State.updFol_nextTag (s : State) (n : Folio) (f : FolX → FolX) : (s.updFol n f).nextTag = s.nextTag := rfl
@[simp] theorem State.updFol_rxbuf (s : State) (n : Folio) (f : FolX → FolX) : (s.updFol n f).rxbuf = s.rxbuf := rfl
@[simp] theorem State.updFol_leases (s : State) (n : Folio) (f : FolX → FolX) : (s.updFol n f).leases = s.leases := rfl
@[simp] theorem State.updFol_images (s : State) (n : Folio) (f : FolX → FolX) : (s.updFol n f).images = s.images := rfl
@[simp] theorem State.updFol_myLeases (s : State) (n : Folio) (f : FolX → FolX) : (s.updFol n f).myLeases = s.myLeases := rfl
@[simp] theorem State.updFol_xrun (s : State) (n : Folio) (f : FolX → FolX) : (s.updFol n f).xrun = s.xrun := rfl
@[simp] theorem State.updFol_repart (s : State) (n : Folio) (f : FolX → FolX) : (s.updFol n f).repart = s.repart := rfl
@[simp] theorem State.updFol_shBase (s : State) (n : Folio) (f : FolX → FolX) : (s.updFol n f).shBase = s.shBase := rfl
@[simp] theorem State.updFol_lease (s : State) (n : Folio) (f : FolX → FolX) : (s.updFol n f).lease = s.lease := rfl
@[simp] theorem State.updFol_retire (s : State) (n : Folio) (f : FolX → FolX) : (s.updFol n f).retire = s.retire := rfl
@[simp] theorem State.updFol_sent (s : State) (n : Folio) (f : FolX → FolX) : (s.updFol n f).sent = s.sent := rfl
@[simp] theorem State.updFol_irqs (s : State) (n : Folio) (f : FolX → FolX) : (s.updFol n f).irqs = s.irqs := rfl
@[simp] theorem State.updFol_eccSrc (s : State) (n : Folio) (f : FolX → FolX) : (s.updFol n f).eccSrc = s.eccSrc := rfl
@[simp] theorem State.updFol_flows (s : State) (n : Folio) (f : FolX → FolX) : (s.updFol n f).flows = s.flows := rfl
@[simp] theorem State.updFol_abinds (s : State) (n : Folio) (f : FolX → FolX) : (s.updFol n f).abinds = s.abinds := rfl
@[simp] theorem State.updFol_agrps (s : State) (n : Folio) (f : FolX → FolX) : (s.updFol n f).agrps = s.agrps := rfl
@[simp] theorem State.updFol_saps (s : State) (n : Folio) (f : FolX → FolX) : (s.updFol n f).saps = s.saps := rfl
@[simp] theorem State.updFol_chans (s : State) (n : Folio) (f : FolX → FolX) : (s.updFol n f).chans = s.chans := rfl
@[simp] theorem State.updFol_outs (s : State) (n : Folio) (f : FolX → FolX) : (s.updFol n f).outs = s.outs := rfl
@[simp] theorem State.updFol_pwr (s : State) (n : Folio) (f : FolX → FolX) : (s.updFol n f).pwr = s.pwr := rfl
@[simp] theorem State.updFol_colo (s : State) (n : Folio) (f : FolX → FolX) : (s.updFol n f).colo = s.colo := rfl
@[simp] theorem State.updFol_flashA (s : State) (n : Folio) (f : FolX → FolX) : (s.updFol n f).flashA = s.flashA := rfl
@[simp] theorem State.updFol_flashB (s : State) (n : Folio) (f : FolX → FolX) : (s.updFol n f).flashB = s.flashB := rfl
@[simp] theorem State.updFol_optRecs (s : State) (n : Folio) (f : FolX → FolX) : (s.updFol n f).optRecs = s.optRecs := rfl
@[simp] theorem State.updFol_spine (s : State) (n : Folio) (f : FolX → FolX) : (s.updFol n f).spine = s.spine := rfl
@[simp] theorem State.updFol_jtag (s : State) (n : Folio) (f : FolX → FolX) : (s.updFol n f).jtag = s.jtag := rfl
@[simp] theorem State.updFol_att (s : State) (n : Folio) (f : FolX → FolX) : (s.updFol n f).att = s.att := rfl
@[simp] theorem State.updFol_attWait (s : State) (n : Folio) (f : FolX → FolX) : (s.updFol n f).attWait = s.attWait := rfl
@[simp] theorem State.updFol_i2cs (s : State) (n : Folio) (f : FolX → FolX) : (s.updFol n f).i2cs = s.i2cs := rfl
@[simp] theorem State.updFol_attached (s : State) (n : Folio) (f : FolX → FolX) : (s.updFol n f).attached = s.attached := rfl
@[simp] theorem State.updFol_eths (s : State) (n : Folio) (f : FolX → FolX) : (s.updFol n f).eths = s.eths := rfl
@[simp] theorem State.updFol_free (s : State) (n : Folio) (f : FolX → FolX) : (s.updFol n f).free = s.free := rfl

/-! ### State.updBinder -/

@[simp] theorem State.updBinder_pending (s : State) (b : BitVec 12) (f : Binder → Binder) : (s.updBinder b f).pending = s.pending := rfl
@[simp] theorem State.updBinder_clk (s : State) (b : BitVec 12) (f : Binder → Binder) : (s.updBinder b f).clk = s.clk := rfl
@[simp] theorem State.updBinder_mem (s : State) (b : BitVec 12) (f : Binder → Binder) : (s.updBinder b f).mem = s.mem := rfl
@[simp] theorem State.updBinder_hbmErr (s : State) (b : BitVec 12) (f : Binder → Binder) : (s.updBinder b f).hbmErr = s.hbmErr := rfl
@[simp] theorem State.updBinder_sramErr (s : State) (b : BitVec 12) (f : Binder → Binder) : (s.updBinder b f).sramErr = s.sramErr := rfl
@[simp] theorem State.updBinder_hbm (s : State) (b : BitVec 12) (f : Binder → Binder) : (s.updBinder b f).hbm = s.hbm := rfl
@[simp] theorem State.updBinder_ctl (s : State) (b : BitVec 12) (f : Binder → Binder) : (s.updBinder b f).ctl = s.ctl := rfl
@[simp] theorem State.updBinder_dir (s : State) (b : BitVec 12) (f : Binder → Binder) : (s.updBinder b f).dir = s.dir := rfl
@[simp] theorem State.updBinder_fx (s : State) (b : BitVec 12) (f : Binder → Binder) : (s.updBinder b f).fx = s.fx := rfl
@[simp] theorem State.updBinder_releases (s : State) (b : BitVec 12) (f : Binder → Binder) : (s.updBinder b f).releases = s.releases := rfl
@[simp] theorem State.updBinder_cores (s : State) (b : BitVec 12) (f : Binder → Binder) : (s.updBinder b f).cores = s.cores := rfl
@[simp] theorem State.updBinder_hoops (s : State) (b : BitVec 12) (f : Binder → Binder) : (s.updBinder b f).hoops = s.hoops := rfl
@[simp] theorem State.updBinder_folCmd (s : State) (b : BitVec 12) (f : Binder → Binder) : (s.updBinder b f).folCmd = s.folCmd := rfl
@[simp] theorem State.updBinder_bnd (s : State) (b : BitVec 12) (f : Binder → Binder) : (s.updBinder b f).bnd = s.bnd := rfl
@[simp] theorem State.updBinder_fuses (s : State) (b : BitVec 12) (f : Binder → Binder) : (s.updBinder b f).fuses = s.fuses := rfl
@[simp] theorem State.updBinder_linkFw (s : State) (b : BitVec 12) (f : Binder → Binder) : (s.updBinder b f).linkFw = s.linkFw := rfl
@[simp] theorem State.updBinder_links (s : State) (b : BitVec 12) (f : Binder → Binder) : (s.updBinder b f).links = s.links := rfl
@[simp] theorem State.updBinder_engines (s : State) (b : BitVec 12) (f : Binder → Binder) : (s.updBinder b f).engines = s.engines := rfl
@[simp] theorem State.updBinder_peers (s : State) (b : BitVec 12) (f : Binder → Binder) : (s.updBinder b f).peers = s.peers := rfl
@[simp] theorem State.updBinder_rxFlows (s : State) (b : BitVec 12) (f : Binder → Binder) : (s.updBinder b f).rxFlows = s.rxFlows := rfl
@[simp] theorem State.updBinder_txFlows (s : State) (b : BitVec 12) (f : Binder → Binder) : (s.updBinder b f).txFlows = s.txFlows := rfl
@[simp] theorem State.updBinder_txns (s : State) (b : BitVec 12) (f : Binder → Binder) : (s.updBinder b f).txns = s.txns := rfl
@[simp] theorem State.updBinder_nextTag (s : State) (b : BitVec 12) (f : Binder → Binder) : (s.updBinder b f).nextTag = s.nextTag := rfl
@[simp] theorem State.updBinder_rxbuf (s : State) (b : BitVec 12) (f : Binder → Binder) : (s.updBinder b f).rxbuf = s.rxbuf := rfl
@[simp] theorem State.updBinder_leases (s : State) (b : BitVec 12) (f : Binder → Binder) : (s.updBinder b f).leases = s.leases := rfl
@[simp] theorem State.updBinder_images (s : State) (b : BitVec 12) (f : Binder → Binder) : (s.updBinder b f).images = s.images := rfl
@[simp] theorem State.updBinder_myLeases (s : State) (b : BitVec 12) (f : Binder → Binder) : (s.updBinder b f).myLeases = s.myLeases := rfl
@[simp] theorem State.updBinder_xrun (s : State) (b : BitVec 12) (f : Binder → Binder) : (s.updBinder b f).xrun = s.xrun := rfl
@[simp] theorem State.updBinder_repart (s : State) (b : BitVec 12) (f : Binder → Binder) : (s.updBinder b f).repart = s.repart := rfl
@[simp] theorem State.updBinder_shBase (s : State) (b : BitVec 12) (f : Binder → Binder) : (s.updBinder b f).shBase = s.shBase := rfl
@[simp] theorem State.updBinder_lease (s : State) (b : BitVec 12) (f : Binder → Binder) : (s.updBinder b f).lease = s.lease := rfl
@[simp] theorem State.updBinder_retire (s : State) (b : BitVec 12) (f : Binder → Binder) : (s.updBinder b f).retire = s.retire := rfl
@[simp] theorem State.updBinder_sent (s : State) (b : BitVec 12) (f : Binder → Binder) : (s.updBinder b f).sent = s.sent := rfl
@[simp] theorem State.updBinder_irqs (s : State) (b : BitVec 12) (f : Binder → Binder) : (s.updBinder b f).irqs = s.irqs := rfl
@[simp] theorem State.updBinder_eccSrc (s : State) (b : BitVec 12) (f : Binder → Binder) : (s.updBinder b f).eccSrc = s.eccSrc := rfl
@[simp] theorem State.updBinder_flows (s : State) (b : BitVec 12) (f : Binder → Binder) : (s.updBinder b f).flows = s.flows := rfl
@[simp] theorem State.updBinder_abinds (s : State) (b : BitVec 12) (f : Binder → Binder) : (s.updBinder b f).abinds = s.abinds := rfl
@[simp] theorem State.updBinder_agrps (s : State) (b : BitVec 12) (f : Binder → Binder) : (s.updBinder b f).agrps = s.agrps := rfl
@[simp] theorem State.updBinder_saps (s : State) (b : BitVec 12) (f : Binder → Binder) : (s.updBinder b f).saps = s.saps := rfl
@[simp] theorem State.updBinder_chans (s : State) (b : BitVec 12) (f : Binder → Binder) : (s.updBinder b f).chans = s.chans := rfl
@[simp] theorem State.updBinder_outs (s : State) (b : BitVec 12) (f : Binder → Binder) : (s.updBinder b f).outs = s.outs := rfl
@[simp] theorem State.updBinder_pwr (s : State) (b : BitVec 12) (f : Binder → Binder) : (s.updBinder b f).pwr = s.pwr := rfl
@[simp] theorem State.updBinder_colo (s : State) (b : BitVec 12) (f : Binder → Binder) : (s.updBinder b f).colo = s.colo := rfl
@[simp] theorem State.updBinder_flashA (s : State) (b : BitVec 12) (f : Binder → Binder) : (s.updBinder b f).flashA = s.flashA := rfl
@[simp] theorem State.updBinder_flashB (s : State) (b : BitVec 12) (f : Binder → Binder) : (s.updBinder b f).flashB = s.flashB := rfl
@[simp] theorem State.updBinder_optRecs (s : State) (b : BitVec 12) (f : Binder → Binder) : (s.updBinder b f).optRecs = s.optRecs := rfl
@[simp] theorem State.updBinder_spine (s : State) (b : BitVec 12) (f : Binder → Binder) : (s.updBinder b f).spine = s.spine := rfl
@[simp] theorem State.updBinder_jtag (s : State) (b : BitVec 12) (f : Binder → Binder) : (s.updBinder b f).jtag = s.jtag := rfl
@[simp] theorem State.updBinder_att (s : State) (b : BitVec 12) (f : Binder → Binder) : (s.updBinder b f).att = s.att := rfl
@[simp] theorem State.updBinder_attWait (s : State) (b : BitVec 12) (f : Binder → Binder) : (s.updBinder b f).attWait = s.attWait := rfl
@[simp] theorem State.updBinder_i2cs (s : State) (b : BitVec 12) (f : Binder → Binder) : (s.updBinder b f).i2cs = s.i2cs := rfl
@[simp] theorem State.updBinder_attached (s : State) (b : BitVec 12) (f : Binder → Binder) : (s.updBinder b f).attached = s.attached := rfl
@[simp] theorem State.updBinder_eths (s : State) (b : BitVec 12) (f : Binder → Binder) : (s.updBinder b f).eths = s.eths := rfl
@[simp] theorem State.updBinder_free (s : State) (b : BitVec 12) (f : Binder → Binder) : (s.updBinder b f).free = s.free := rfl

/-! ### State.updLink -/

@[simp] theorem State.updLink_pending (s : State) (l : Nat) (f : Link → Link) : (s.updLink l f).pending = s.pending := rfl
@[simp] theorem State.updLink_clk (s : State) (l : Nat) (f : Link → Link) : (s.updLink l f).clk = s.clk := rfl
@[simp] theorem State.updLink_mem (s : State) (l : Nat) (f : Link → Link) : (s.updLink l f).mem = s.mem := rfl
@[simp] theorem State.updLink_hbmErr (s : State) (l : Nat) (f : Link → Link) : (s.updLink l f).hbmErr = s.hbmErr := rfl
@[simp] theorem State.updLink_sramErr (s : State) (l : Nat) (f : Link → Link) : (s.updLink l f).sramErr = s.sramErr := rfl
@[simp] theorem State.updLink_hbm (s : State) (l : Nat) (f : Link → Link) : (s.updLink l f).hbm = s.hbm := rfl
@[simp] theorem State.updLink_ctl (s : State) (l : Nat) (f : Link → Link) : (s.updLink l f).ctl = s.ctl := rfl
@[simp] theorem State.updLink_dir (s : State) (l : Nat) (f : Link → Link) : (s.updLink l f).dir = s.dir := rfl
@[simp] theorem State.updLink_fx (s : State) (l : Nat) (f : Link → Link) : (s.updLink l f).fx = s.fx := rfl
@[simp] theorem State.updLink_releases (s : State) (l : Nat) (f : Link → Link) : (s.updLink l f).releases = s.releases := rfl
@[simp] theorem State.updLink_cores (s : State) (l : Nat) (f : Link → Link) : (s.updLink l f).cores = s.cores := rfl
@[simp] theorem State.updLink_hoops (s : State) (l : Nat) (f : Link → Link) : (s.updLink l f).hoops = s.hoops := rfl
@[simp] theorem State.updLink_binders (s : State) (l : Nat) (f : Link → Link) : (s.updLink l f).binders = s.binders := rfl
@[simp] theorem State.updLink_folCmd (s : State) (l : Nat) (f : Link → Link) : (s.updLink l f).folCmd = s.folCmd := rfl
@[simp] theorem State.updLink_bnd (s : State) (l : Nat) (f : Link → Link) : (s.updLink l f).bnd = s.bnd := rfl
@[simp] theorem State.updLink_fuses (s : State) (l : Nat) (f : Link → Link) : (s.updLink l f).fuses = s.fuses := rfl
@[simp] theorem State.updLink_linkFw (s : State) (l : Nat) (f : Link → Link) : (s.updLink l f).linkFw = s.linkFw := rfl
@[simp] theorem State.updLink_engines (s : State) (l : Nat) (f : Link → Link) : (s.updLink l f).engines = s.engines := rfl
@[simp] theorem State.updLink_peers (s : State) (l : Nat) (f : Link → Link) : (s.updLink l f).peers = s.peers := rfl
@[simp] theorem State.updLink_rxFlows (s : State) (l : Nat) (f : Link → Link) : (s.updLink l f).rxFlows = s.rxFlows := rfl
@[simp] theorem State.updLink_txFlows (s : State) (l : Nat) (f : Link → Link) : (s.updLink l f).txFlows = s.txFlows := rfl
@[simp] theorem State.updLink_txns (s : State) (l : Nat) (f : Link → Link) : (s.updLink l f).txns = s.txns := rfl
@[simp] theorem State.updLink_nextTag (s : State) (l : Nat) (f : Link → Link) : (s.updLink l f).nextTag = s.nextTag := rfl
@[simp] theorem State.updLink_rxbuf (s : State) (l : Nat) (f : Link → Link) : (s.updLink l f).rxbuf = s.rxbuf := rfl
@[simp] theorem State.updLink_leases (s : State) (l : Nat) (f : Link → Link) : (s.updLink l f).leases = s.leases := rfl
@[simp] theorem State.updLink_images (s : State) (l : Nat) (f : Link → Link) : (s.updLink l f).images = s.images := rfl
@[simp] theorem State.updLink_myLeases (s : State) (l : Nat) (f : Link → Link) : (s.updLink l f).myLeases = s.myLeases := rfl
@[simp] theorem State.updLink_xrun (s : State) (l : Nat) (f : Link → Link) : (s.updLink l f).xrun = s.xrun := rfl
@[simp] theorem State.updLink_repart (s : State) (l : Nat) (f : Link → Link) : (s.updLink l f).repart = s.repart := rfl
@[simp] theorem State.updLink_shBase (s : State) (l : Nat) (f : Link → Link) : (s.updLink l f).shBase = s.shBase := rfl
@[simp] theorem State.updLink_lease (s : State) (l : Nat) (f : Link → Link) : (s.updLink l f).lease = s.lease := rfl
@[simp] theorem State.updLink_retire (s : State) (l : Nat) (f : Link → Link) : (s.updLink l f).retire = s.retire := rfl
@[simp] theorem State.updLink_sent (s : State) (l : Nat) (f : Link → Link) : (s.updLink l f).sent = s.sent := rfl
@[simp] theorem State.updLink_irqs (s : State) (l : Nat) (f : Link → Link) : (s.updLink l f).irqs = s.irqs := rfl
@[simp] theorem State.updLink_eccSrc (s : State) (l : Nat) (f : Link → Link) : (s.updLink l f).eccSrc = s.eccSrc := rfl
@[simp] theorem State.updLink_flows (s : State) (l : Nat) (f : Link → Link) : (s.updLink l f).flows = s.flows := rfl
@[simp] theorem State.updLink_abinds (s : State) (l : Nat) (f : Link → Link) : (s.updLink l f).abinds = s.abinds := rfl
@[simp] theorem State.updLink_agrps (s : State) (l : Nat) (f : Link → Link) : (s.updLink l f).agrps = s.agrps := rfl
@[simp] theorem State.updLink_saps (s : State) (l : Nat) (f : Link → Link) : (s.updLink l f).saps = s.saps := rfl
@[simp] theorem State.updLink_chans (s : State) (l : Nat) (f : Link → Link) : (s.updLink l f).chans = s.chans := rfl
@[simp] theorem State.updLink_outs (s : State) (l : Nat) (f : Link → Link) : (s.updLink l f).outs = s.outs := rfl
@[simp] theorem State.updLink_pwr (s : State) (l : Nat) (f : Link → Link) : (s.updLink l f).pwr = s.pwr := rfl
@[simp] theorem State.updLink_colo (s : State) (l : Nat) (f : Link → Link) : (s.updLink l f).colo = s.colo := rfl
@[simp] theorem State.updLink_flashA (s : State) (l : Nat) (f : Link → Link) : (s.updLink l f).flashA = s.flashA := rfl
@[simp] theorem State.updLink_flashB (s : State) (l : Nat) (f : Link → Link) : (s.updLink l f).flashB = s.flashB := rfl
@[simp] theorem State.updLink_optRecs (s : State) (l : Nat) (f : Link → Link) : (s.updLink l f).optRecs = s.optRecs := rfl
@[simp] theorem State.updLink_spine (s : State) (l : Nat) (f : Link → Link) : (s.updLink l f).spine = s.spine := rfl
@[simp] theorem State.updLink_jtag (s : State) (l : Nat) (f : Link → Link) : (s.updLink l f).jtag = s.jtag := rfl
@[simp] theorem State.updLink_att (s : State) (l : Nat) (f : Link → Link) : (s.updLink l f).att = s.att := rfl
@[simp] theorem State.updLink_attWait (s : State) (l : Nat) (f : Link → Link) : (s.updLink l f).attWait = s.attWait := rfl
@[simp] theorem State.updLink_i2cs (s : State) (l : Nat) (f : Link → Link) : (s.updLink l f).i2cs = s.i2cs := rfl
@[simp] theorem State.updLink_attached (s : State) (l : Nat) (f : Link → Link) : (s.updLink l f).attached = s.attached := rfl
@[simp] theorem State.updLink_eths (s : State) (l : Nat) (f : Link → Link) : (s.updLink l f).eths = s.eths := rfl
@[simp] theorem State.updLink_free (s : State) (l : Nat) (f : Link → Link) : (s.updLink l f).free = s.free := rfl

/-! ### State.updPeer -/

@[simp] theorem State.updPeer_pending (s : State) (x : Nat) (f : Peer → Peer) : (s.updPeer x f).pending = s.pending := rfl
@[simp] theorem State.updPeer_clk (s : State) (x : Nat) (f : Peer → Peer) : (s.updPeer x f).clk = s.clk := rfl
@[simp] theorem State.updPeer_mem (s : State) (x : Nat) (f : Peer → Peer) : (s.updPeer x f).mem = s.mem := rfl
@[simp] theorem State.updPeer_hbmErr (s : State) (x : Nat) (f : Peer → Peer) : (s.updPeer x f).hbmErr = s.hbmErr := rfl
@[simp] theorem State.updPeer_sramErr (s : State) (x : Nat) (f : Peer → Peer) : (s.updPeer x f).sramErr = s.sramErr := rfl
@[simp] theorem State.updPeer_hbm (s : State) (x : Nat) (f : Peer → Peer) : (s.updPeer x f).hbm = s.hbm := rfl
@[simp] theorem State.updPeer_ctl (s : State) (x : Nat) (f : Peer → Peer) : (s.updPeer x f).ctl = s.ctl := rfl
@[simp] theorem State.updPeer_dir (s : State) (x : Nat) (f : Peer → Peer) : (s.updPeer x f).dir = s.dir := rfl
@[simp] theorem State.updPeer_fx (s : State) (x : Nat) (f : Peer → Peer) : (s.updPeer x f).fx = s.fx := rfl
@[simp] theorem State.updPeer_releases (s : State) (x : Nat) (f : Peer → Peer) : (s.updPeer x f).releases = s.releases := rfl
@[simp] theorem State.updPeer_cores (s : State) (x : Nat) (f : Peer → Peer) : (s.updPeer x f).cores = s.cores := rfl
@[simp] theorem State.updPeer_hoops (s : State) (x : Nat) (f : Peer → Peer) : (s.updPeer x f).hoops = s.hoops := rfl
@[simp] theorem State.updPeer_binders (s : State) (x : Nat) (f : Peer → Peer) : (s.updPeer x f).binders = s.binders := rfl
@[simp] theorem State.updPeer_folCmd (s : State) (x : Nat) (f : Peer → Peer) : (s.updPeer x f).folCmd = s.folCmd := rfl
@[simp] theorem State.updPeer_bnd (s : State) (x : Nat) (f : Peer → Peer) : (s.updPeer x f).bnd = s.bnd := rfl
@[simp] theorem State.updPeer_fuses (s : State) (x : Nat) (f : Peer → Peer) : (s.updPeer x f).fuses = s.fuses := rfl
@[simp] theorem State.updPeer_linkFw (s : State) (x : Nat) (f : Peer → Peer) : (s.updPeer x f).linkFw = s.linkFw := rfl
@[simp] theorem State.updPeer_links (s : State) (x : Nat) (f : Peer → Peer) : (s.updPeer x f).links = s.links := rfl
@[simp] theorem State.updPeer_engines (s : State) (x : Nat) (f : Peer → Peer) : (s.updPeer x f).engines = s.engines := rfl
@[simp] theorem State.updPeer_rxFlows (s : State) (x : Nat) (f : Peer → Peer) : (s.updPeer x f).rxFlows = s.rxFlows := rfl
@[simp] theorem State.updPeer_txFlows (s : State) (x : Nat) (f : Peer → Peer) : (s.updPeer x f).txFlows = s.txFlows := rfl
@[simp] theorem State.updPeer_txns (s : State) (x : Nat) (f : Peer → Peer) : (s.updPeer x f).txns = s.txns := rfl
@[simp] theorem State.updPeer_nextTag (s : State) (x : Nat) (f : Peer → Peer) : (s.updPeer x f).nextTag = s.nextTag := rfl
@[simp] theorem State.updPeer_rxbuf (s : State) (x : Nat) (f : Peer → Peer) : (s.updPeer x f).rxbuf = s.rxbuf := rfl
@[simp] theorem State.updPeer_leases (s : State) (x : Nat) (f : Peer → Peer) : (s.updPeer x f).leases = s.leases := rfl
@[simp] theorem State.updPeer_images (s : State) (x : Nat) (f : Peer → Peer) : (s.updPeer x f).images = s.images := rfl
@[simp] theorem State.updPeer_myLeases (s : State) (x : Nat) (f : Peer → Peer) : (s.updPeer x f).myLeases = s.myLeases := rfl
@[simp] theorem State.updPeer_xrun (s : State) (x : Nat) (f : Peer → Peer) : (s.updPeer x f).xrun = s.xrun := rfl
@[simp] theorem State.updPeer_repart (s : State) (x : Nat) (f : Peer → Peer) : (s.updPeer x f).repart = s.repart := rfl
@[simp] theorem State.updPeer_shBase (s : State) (x : Nat) (f : Peer → Peer) : (s.updPeer x f).shBase = s.shBase := rfl
@[simp] theorem State.updPeer_lease (s : State) (x : Nat) (f : Peer → Peer) : (s.updPeer x f).lease = s.lease := rfl
@[simp] theorem State.updPeer_retire (s : State) (x : Nat) (f : Peer → Peer) : (s.updPeer x f).retire = s.retire := rfl
@[simp] theorem State.updPeer_sent (s : State) (x : Nat) (f : Peer → Peer) : (s.updPeer x f).sent = s.sent := rfl
@[simp] theorem State.updPeer_irqs (s : State) (x : Nat) (f : Peer → Peer) : (s.updPeer x f).irqs = s.irqs := rfl
@[simp] theorem State.updPeer_eccSrc (s : State) (x : Nat) (f : Peer → Peer) : (s.updPeer x f).eccSrc = s.eccSrc := rfl
@[simp] theorem State.updPeer_flows (s : State) (x : Nat) (f : Peer → Peer) : (s.updPeer x f).flows = s.flows := rfl
@[simp] theorem State.updPeer_abinds (s : State) (x : Nat) (f : Peer → Peer) : (s.updPeer x f).abinds = s.abinds := rfl
@[simp] theorem State.updPeer_agrps (s : State) (x : Nat) (f : Peer → Peer) : (s.updPeer x f).agrps = s.agrps := rfl
@[simp] theorem State.updPeer_saps (s : State) (x : Nat) (f : Peer → Peer) : (s.updPeer x f).saps = s.saps := rfl
@[simp] theorem State.updPeer_chans (s : State) (x : Nat) (f : Peer → Peer) : (s.updPeer x f).chans = s.chans := rfl
@[simp] theorem State.updPeer_outs (s : State) (x : Nat) (f : Peer → Peer) : (s.updPeer x f).outs = s.outs := rfl
@[simp] theorem State.updPeer_pwr (s : State) (x : Nat) (f : Peer → Peer) : (s.updPeer x f).pwr = s.pwr := rfl
@[simp] theorem State.updPeer_colo (s : State) (x : Nat) (f : Peer → Peer) : (s.updPeer x f).colo = s.colo := rfl
@[simp] theorem State.updPeer_flashA (s : State) (x : Nat) (f : Peer → Peer) : (s.updPeer x f).flashA = s.flashA := rfl
@[simp] theorem State.updPeer_flashB (s : State) (x : Nat) (f : Peer → Peer) : (s.updPeer x f).flashB = s.flashB := rfl
@[simp] theorem State.updPeer_optRecs (s : State) (x : Nat) (f : Peer → Peer) : (s.updPeer x f).optRecs = s.optRecs := rfl
@[simp] theorem State.updPeer_spine (s : State) (x : Nat) (f : Peer → Peer) : (s.updPeer x f).spine = s.spine := rfl
@[simp] theorem State.updPeer_jtag (s : State) (x : Nat) (f : Peer → Peer) : (s.updPeer x f).jtag = s.jtag := rfl
@[simp] theorem State.updPeer_att (s : State) (x : Nat) (f : Peer → Peer) : (s.updPeer x f).att = s.att := rfl
@[simp] theorem State.updPeer_attWait (s : State) (x : Nat) (f : Peer → Peer) : (s.updPeer x f).attWait = s.attWait := rfl
@[simp] theorem State.updPeer_i2cs (s : State) (x : Nat) (f : Peer → Peer) : (s.updPeer x f).i2cs = s.i2cs := rfl
@[simp] theorem State.updPeer_attached (s : State) (x : Nat) (f : Peer → Peer) : (s.updPeer x f).attached = s.attached := rfl
@[simp] theorem State.updPeer_eths (s : State) (x : Nat) (f : Peer → Peer) : (s.updPeer x f).eths = s.eths := rfl
@[simp] theorem State.updPeer_free (s : State) (x : Nat) (f : Peer → Peer) : (s.updPeer x f).free = s.free := rfl

/-! ### State.updEngine -/

@[simp] theorem State.updEngine_pending (s : State) (e : Nat) (f : OptEngine → OptEngine) : (s.updEngine e f).pending = s.pending := rfl
@[simp] theorem State.updEngine_clk (s : State) (e : Nat) (f : OptEngine → OptEngine) : (s.updEngine e f).clk = s.clk := rfl
@[simp] theorem State.updEngine_mem (s : State) (e : Nat) (f : OptEngine → OptEngine) : (s.updEngine e f).mem = s.mem := rfl
@[simp] theorem State.updEngine_hbmErr (s : State) (e : Nat) (f : OptEngine → OptEngine) : (s.updEngine e f).hbmErr = s.hbmErr := rfl
@[simp] theorem State.updEngine_sramErr (s : State) (e : Nat) (f : OptEngine → OptEngine) : (s.updEngine e f).sramErr = s.sramErr := rfl
@[simp] theorem State.updEngine_hbm (s : State) (e : Nat) (f : OptEngine → OptEngine) : (s.updEngine e f).hbm = s.hbm := rfl
@[simp] theorem State.updEngine_ctl (s : State) (e : Nat) (f : OptEngine → OptEngine) : (s.updEngine e f).ctl = s.ctl := rfl
@[simp] theorem State.updEngine_dir (s : State) (e : Nat) (f : OptEngine → OptEngine) : (s.updEngine e f).dir = s.dir := rfl
@[simp] theorem State.updEngine_fx (s : State) (e : Nat) (f : OptEngine → OptEngine) : (s.updEngine e f).fx = s.fx := rfl
@[simp] theorem State.updEngine_releases (s : State) (e : Nat) (f : OptEngine → OptEngine) : (s.updEngine e f).releases = s.releases := rfl
@[simp] theorem State.updEngine_cores (s : State) (e : Nat) (f : OptEngine → OptEngine) : (s.updEngine e f).cores = s.cores := rfl
@[simp] theorem State.updEngine_hoops (s : State) (e : Nat) (f : OptEngine → OptEngine) : (s.updEngine e f).hoops = s.hoops := rfl
@[simp] theorem State.updEngine_binders (s : State) (e : Nat) (f : OptEngine → OptEngine) : (s.updEngine e f).binders = s.binders := rfl
@[simp] theorem State.updEngine_folCmd (s : State) (e : Nat) (f : OptEngine → OptEngine) : (s.updEngine e f).folCmd = s.folCmd := rfl
@[simp] theorem State.updEngine_bnd (s : State) (e : Nat) (f : OptEngine → OptEngine) : (s.updEngine e f).bnd = s.bnd := rfl
@[simp] theorem State.updEngine_fuses (s : State) (e : Nat) (f : OptEngine → OptEngine) : (s.updEngine e f).fuses = s.fuses := rfl
@[simp] theorem State.updEngine_linkFw (s : State) (e : Nat) (f : OptEngine → OptEngine) : (s.updEngine e f).linkFw = s.linkFw := rfl
@[simp] theorem State.updEngine_links (s : State) (e : Nat) (f : OptEngine → OptEngine) : (s.updEngine e f).links = s.links := rfl
@[simp] theorem State.updEngine_peers (s : State) (e : Nat) (f : OptEngine → OptEngine) : (s.updEngine e f).peers = s.peers := rfl
@[simp] theorem State.updEngine_rxFlows (s : State) (e : Nat) (f : OptEngine → OptEngine) : (s.updEngine e f).rxFlows = s.rxFlows := rfl
@[simp] theorem State.updEngine_txFlows (s : State) (e : Nat) (f : OptEngine → OptEngine) : (s.updEngine e f).txFlows = s.txFlows := rfl
@[simp] theorem State.updEngine_txns (s : State) (e : Nat) (f : OptEngine → OptEngine) : (s.updEngine e f).txns = s.txns := rfl
@[simp] theorem State.updEngine_nextTag (s : State) (e : Nat) (f : OptEngine → OptEngine) : (s.updEngine e f).nextTag = s.nextTag := rfl
@[simp] theorem State.updEngine_rxbuf (s : State) (e : Nat) (f : OptEngine → OptEngine) : (s.updEngine e f).rxbuf = s.rxbuf := rfl
@[simp] theorem State.updEngine_leases (s : State) (e : Nat) (f : OptEngine → OptEngine) : (s.updEngine e f).leases = s.leases := rfl
@[simp] theorem State.updEngine_images (s : State) (e : Nat) (f : OptEngine → OptEngine) : (s.updEngine e f).images = s.images := rfl
@[simp] theorem State.updEngine_myLeases (s : State) (e : Nat) (f : OptEngine → OptEngine) : (s.updEngine e f).myLeases = s.myLeases := rfl
@[simp] theorem State.updEngine_xrun (s : State) (e : Nat) (f : OptEngine → OptEngine) : (s.updEngine e f).xrun = s.xrun := rfl
@[simp] theorem State.updEngine_repart (s : State) (e : Nat) (f : OptEngine → OptEngine) : (s.updEngine e f).repart = s.repart := rfl
@[simp] theorem State.updEngine_shBase (s : State) (e : Nat) (f : OptEngine → OptEngine) : (s.updEngine e f).shBase = s.shBase := rfl
@[simp] theorem State.updEngine_lease (s : State) (e : Nat) (f : OptEngine → OptEngine) : (s.updEngine e f).lease = s.lease := rfl
@[simp] theorem State.updEngine_retire (s : State) (e : Nat) (f : OptEngine → OptEngine) : (s.updEngine e f).retire = s.retire := rfl
@[simp] theorem State.updEngine_sent (s : State) (e : Nat) (f : OptEngine → OptEngine) : (s.updEngine e f).sent = s.sent := rfl
@[simp] theorem State.updEngine_irqs (s : State) (e : Nat) (f : OptEngine → OptEngine) : (s.updEngine e f).irqs = s.irqs := rfl
@[simp] theorem State.updEngine_eccSrc (s : State) (e : Nat) (f : OptEngine → OptEngine) : (s.updEngine e f).eccSrc = s.eccSrc := rfl
@[simp] theorem State.updEngine_flows (s : State) (e : Nat) (f : OptEngine → OptEngine) : (s.updEngine e f).flows = s.flows := rfl
@[simp] theorem State.updEngine_abinds (s : State) (e : Nat) (f : OptEngine → OptEngine) : (s.updEngine e f).abinds = s.abinds := rfl
@[simp] theorem State.updEngine_agrps (s : State) (e : Nat) (f : OptEngine → OptEngine) : (s.updEngine e f).agrps = s.agrps := rfl
@[simp] theorem State.updEngine_saps (s : State) (e : Nat) (f : OptEngine → OptEngine) : (s.updEngine e f).saps = s.saps := rfl
@[simp] theorem State.updEngine_chans (s : State) (e : Nat) (f : OptEngine → OptEngine) : (s.updEngine e f).chans = s.chans := rfl
@[simp] theorem State.updEngine_outs (s : State) (e : Nat) (f : OptEngine → OptEngine) : (s.updEngine e f).outs = s.outs := rfl
@[simp] theorem State.updEngine_pwr (s : State) (e : Nat) (f : OptEngine → OptEngine) : (s.updEngine e f).pwr = s.pwr := rfl
@[simp] theorem State.updEngine_colo (s : State) (e : Nat) (f : OptEngine → OptEngine) : (s.updEngine e f).colo = s.colo := rfl
@[simp] theorem State.updEngine_flashA (s : State) (e : Nat) (f : OptEngine → OptEngine) : (s.updEngine e f).flashA = s.flashA := rfl
@[simp] theorem State.updEngine_flashB (s : State) (e : Nat) (f : OptEngine → OptEngine) : (s.updEngine e f).flashB = s.flashB := rfl
@[simp] theorem State.updEngine_optRecs (s : State) (e : Nat) (f : OptEngine → OptEngine) : (s.updEngine e f).optRecs = s.optRecs := rfl
@[simp] theorem State.updEngine_spine (s : State) (e : Nat) (f : OptEngine → OptEngine) : (s.updEngine e f).spine = s.spine := rfl
@[simp] theorem State.updEngine_jtag (s : State) (e : Nat) (f : OptEngine → OptEngine) : (s.updEngine e f).jtag = s.jtag := rfl
@[simp] theorem State.updEngine_att (s : State) (e : Nat) (f : OptEngine → OptEngine) : (s.updEngine e f).att = s.att := rfl
@[simp] theorem State.updEngine_attWait (s : State) (e : Nat) (f : OptEngine → OptEngine) : (s.updEngine e f).attWait = s.attWait := rfl
@[simp] theorem State.updEngine_i2cs (s : State) (e : Nat) (f : OptEngine → OptEngine) : (s.updEngine e f).i2cs = s.i2cs := rfl
@[simp] theorem State.updEngine_attached (s : State) (e : Nat) (f : OptEngine → OptEngine) : (s.updEngine e f).attached = s.attached := rfl
@[simp] theorem State.updEngine_eths (s : State) (e : Nat) (f : OptEngine → OptEngine) : (s.updEngine e f).eths = s.eths := rfl
@[simp] theorem State.updEngine_free (s : State) (e : Nat) (f : OptEngine → OptEngine) : (s.updEngine e f).free = s.free := rfl

/-! ### State.updSap -/

@[simp] theorem State.updSap_pending (s : State) (a : Nat) (f : Sap → Sap) : (s.updSap a f).pending = s.pending := rfl
@[simp] theorem State.updSap_clk (s : State) (a : Nat) (f : Sap → Sap) : (s.updSap a f).clk = s.clk := rfl
@[simp] theorem State.updSap_mem (s : State) (a : Nat) (f : Sap → Sap) : (s.updSap a f).mem = s.mem := rfl
@[simp] theorem State.updSap_hbmErr (s : State) (a : Nat) (f : Sap → Sap) : (s.updSap a f).hbmErr = s.hbmErr := rfl
@[simp] theorem State.updSap_sramErr (s : State) (a : Nat) (f : Sap → Sap) : (s.updSap a f).sramErr = s.sramErr := rfl
@[simp] theorem State.updSap_hbm (s : State) (a : Nat) (f : Sap → Sap) : (s.updSap a f).hbm = s.hbm := rfl
@[simp] theorem State.updSap_ctl (s : State) (a : Nat) (f : Sap → Sap) : (s.updSap a f).ctl = s.ctl := rfl
@[simp] theorem State.updSap_dir (s : State) (a : Nat) (f : Sap → Sap) : (s.updSap a f).dir = s.dir := rfl
@[simp] theorem State.updSap_fx (s : State) (a : Nat) (f : Sap → Sap) : (s.updSap a f).fx = s.fx := rfl
@[simp] theorem State.updSap_releases (s : State) (a : Nat) (f : Sap → Sap) : (s.updSap a f).releases = s.releases := rfl
@[simp] theorem State.updSap_cores (s : State) (a : Nat) (f : Sap → Sap) : (s.updSap a f).cores = s.cores := rfl
@[simp] theorem State.updSap_hoops (s : State) (a : Nat) (f : Sap → Sap) : (s.updSap a f).hoops = s.hoops := rfl
@[simp] theorem State.updSap_binders (s : State) (a : Nat) (f : Sap → Sap) : (s.updSap a f).binders = s.binders := rfl
@[simp] theorem State.updSap_folCmd (s : State) (a : Nat) (f : Sap → Sap) : (s.updSap a f).folCmd = s.folCmd := rfl
@[simp] theorem State.updSap_bnd (s : State) (a : Nat) (f : Sap → Sap) : (s.updSap a f).bnd = s.bnd := rfl
@[simp] theorem State.updSap_fuses (s : State) (a : Nat) (f : Sap → Sap) : (s.updSap a f).fuses = s.fuses := rfl
@[simp] theorem State.updSap_linkFw (s : State) (a : Nat) (f : Sap → Sap) : (s.updSap a f).linkFw = s.linkFw := rfl
@[simp] theorem State.updSap_links (s : State) (a : Nat) (f : Sap → Sap) : (s.updSap a f).links = s.links := rfl
@[simp] theorem State.updSap_engines (s : State) (a : Nat) (f : Sap → Sap) : (s.updSap a f).engines = s.engines := rfl
@[simp] theorem State.updSap_peers (s : State) (a : Nat) (f : Sap → Sap) : (s.updSap a f).peers = s.peers := rfl
@[simp] theorem State.updSap_rxFlows (s : State) (a : Nat) (f : Sap → Sap) : (s.updSap a f).rxFlows = s.rxFlows := rfl
@[simp] theorem State.updSap_txFlows (s : State) (a : Nat) (f : Sap → Sap) : (s.updSap a f).txFlows = s.txFlows := rfl
@[simp] theorem State.updSap_txns (s : State) (a : Nat) (f : Sap → Sap) : (s.updSap a f).txns = s.txns := rfl
@[simp] theorem State.updSap_nextTag (s : State) (a : Nat) (f : Sap → Sap) : (s.updSap a f).nextTag = s.nextTag := rfl
@[simp] theorem State.updSap_rxbuf (s : State) (a : Nat) (f : Sap → Sap) : (s.updSap a f).rxbuf = s.rxbuf := rfl
@[simp] theorem State.updSap_leases (s : State) (a : Nat) (f : Sap → Sap) : (s.updSap a f).leases = s.leases := rfl
@[simp] theorem State.updSap_images (s : State) (a : Nat) (f : Sap → Sap) : (s.updSap a f).images = s.images := rfl
@[simp] theorem State.updSap_myLeases (s : State) (a : Nat) (f : Sap → Sap) : (s.updSap a f).myLeases = s.myLeases := rfl
@[simp] theorem State.updSap_xrun (s : State) (a : Nat) (f : Sap → Sap) : (s.updSap a f).xrun = s.xrun := rfl
@[simp] theorem State.updSap_repart (s : State) (a : Nat) (f : Sap → Sap) : (s.updSap a f).repart = s.repart := rfl
@[simp] theorem State.updSap_shBase (s : State) (a : Nat) (f : Sap → Sap) : (s.updSap a f).shBase = s.shBase := rfl
@[simp] theorem State.updSap_lease (s : State) (a : Nat) (f : Sap → Sap) : (s.updSap a f).lease = s.lease := rfl
@[simp] theorem State.updSap_retire (s : State) (a : Nat) (f : Sap → Sap) : (s.updSap a f).retire = s.retire := rfl
@[simp] theorem State.updSap_sent (s : State) (a : Nat) (f : Sap → Sap) : (s.updSap a f).sent = s.sent := rfl
@[simp] theorem State.updSap_irqs (s : State) (a : Nat) (f : Sap → Sap) : (s.updSap a f).irqs = s.irqs := rfl
@[simp] theorem State.updSap_eccSrc (s : State) (a : Nat) (f : Sap → Sap) : (s.updSap a f).eccSrc = s.eccSrc := rfl
@[simp] theorem State.updSap_flows (s : State) (a : Nat) (f : Sap → Sap) : (s.updSap a f).flows = s.flows := rfl
@[simp] theorem State.updSap_abinds (s : State) (a : Nat) (f : Sap → Sap) : (s.updSap a f).abinds = s.abinds := rfl
@[simp] theorem State.updSap_agrps (s : State) (a : Nat) (f : Sap → Sap) : (s.updSap a f).agrps = s.agrps := rfl
@[simp] theorem State.updSap_chans (s : State) (a : Nat) (f : Sap → Sap) : (s.updSap a f).chans = s.chans := rfl
@[simp] theorem State.updSap_outs (s : State) (a : Nat) (f : Sap → Sap) : (s.updSap a f).outs = s.outs := rfl
@[simp] theorem State.updSap_pwr (s : State) (a : Nat) (f : Sap → Sap) : (s.updSap a f).pwr = s.pwr := rfl
@[simp] theorem State.updSap_colo (s : State) (a : Nat) (f : Sap → Sap) : (s.updSap a f).colo = s.colo := rfl
@[simp] theorem State.updSap_flashA (s : State) (a : Nat) (f : Sap → Sap) : (s.updSap a f).flashA = s.flashA := rfl
@[simp] theorem State.updSap_flashB (s : State) (a : Nat) (f : Sap → Sap) : (s.updSap a f).flashB = s.flashB := rfl
@[simp] theorem State.updSap_optRecs (s : State) (a : Nat) (f : Sap → Sap) : (s.updSap a f).optRecs = s.optRecs := rfl
@[simp] theorem State.updSap_spine (s : State) (a : Nat) (f : Sap → Sap) : (s.updSap a f).spine = s.spine := rfl
@[simp] theorem State.updSap_jtag (s : State) (a : Nat) (f : Sap → Sap) : (s.updSap a f).jtag = s.jtag := rfl
@[simp] theorem State.updSap_att (s : State) (a : Nat) (f : Sap → Sap) : (s.updSap a f).att = s.att := rfl
@[simp] theorem State.updSap_attWait (s : State) (a : Nat) (f : Sap → Sap) : (s.updSap a f).attWait = s.attWait := rfl
@[simp] theorem State.updSap_i2cs (s : State) (a : Nat) (f : Sap → Sap) : (s.updSap a f).i2cs = s.i2cs := rfl
@[simp] theorem State.updSap_attached (s : State) (a : Nat) (f : Sap → Sap) : (s.updSap a f).attached = s.attached := rfl
@[simp] theorem State.updSap_eths (s : State) (a : Nat) (f : Sap → Sap) : (s.updSap a f).eths = s.eths := rfl
@[simp] theorem State.updSap_free (s : State) (a : Nat) (f : Sap → Sap) : (s.updSap a f).free = s.free := rfl

/-! ### State.updAgrp -/

@[simp] theorem State.updAgrp_pending (s : State) (k : Nat) (f : AGrp → AGrp) : (s.updAgrp k f).pending = s.pending := rfl
@[simp] theorem State.updAgrp_clk (s : State) (k : Nat) (f : AGrp → AGrp) : (s.updAgrp k f).clk = s.clk := rfl
@[simp] theorem State.updAgrp_mem (s : State) (k : Nat) (f : AGrp → AGrp) : (s.updAgrp k f).mem = s.mem := rfl
@[simp] theorem State.updAgrp_hbmErr (s : State) (k : Nat) (f : AGrp → AGrp) : (s.updAgrp k f).hbmErr = s.hbmErr := rfl
@[simp] theorem State.updAgrp_sramErr (s : State) (k : Nat) (f : AGrp → AGrp) : (s.updAgrp k f).sramErr = s.sramErr := rfl
@[simp] theorem State.updAgrp_hbm (s : State) (k : Nat) (f : AGrp → AGrp) : (s.updAgrp k f).hbm = s.hbm := rfl
@[simp] theorem State.updAgrp_ctl (s : State) (k : Nat) (f : AGrp → AGrp) : (s.updAgrp k f).ctl = s.ctl := rfl
@[simp] theorem State.updAgrp_dir (s : State) (k : Nat) (f : AGrp → AGrp) : (s.updAgrp k f).dir = s.dir := rfl
@[simp] theorem State.updAgrp_fx (s : State) (k : Nat) (f : AGrp → AGrp) : (s.updAgrp k f).fx = s.fx := rfl
@[simp] theorem State.updAgrp_releases (s : State) (k : Nat) (f : AGrp → AGrp) : (s.updAgrp k f).releases = s.releases := rfl
@[simp] theorem State.updAgrp_cores (s : State) (k : Nat) (f : AGrp → AGrp) : (s.updAgrp k f).cores = s.cores := rfl
@[simp] theorem State.updAgrp_hoops (s : State) (k : Nat) (f : AGrp → AGrp) : (s.updAgrp k f).hoops = s.hoops := rfl
@[simp] theorem State.updAgrp_binders (s : State) (k : Nat) (f : AGrp → AGrp) : (s.updAgrp k f).binders = s.binders := rfl
@[simp] theorem State.updAgrp_folCmd (s : State) (k : Nat) (f : AGrp → AGrp) : (s.updAgrp k f).folCmd = s.folCmd := rfl
@[simp] theorem State.updAgrp_bnd (s : State) (k : Nat) (f : AGrp → AGrp) : (s.updAgrp k f).bnd = s.bnd := rfl
@[simp] theorem State.updAgrp_fuses (s : State) (k : Nat) (f : AGrp → AGrp) : (s.updAgrp k f).fuses = s.fuses := rfl
@[simp] theorem State.updAgrp_linkFw (s : State) (k : Nat) (f : AGrp → AGrp) : (s.updAgrp k f).linkFw = s.linkFw := rfl
@[simp] theorem State.updAgrp_links (s : State) (k : Nat) (f : AGrp → AGrp) : (s.updAgrp k f).links = s.links := rfl
@[simp] theorem State.updAgrp_engines (s : State) (k : Nat) (f : AGrp → AGrp) : (s.updAgrp k f).engines = s.engines := rfl
@[simp] theorem State.updAgrp_peers (s : State) (k : Nat) (f : AGrp → AGrp) : (s.updAgrp k f).peers = s.peers := rfl
@[simp] theorem State.updAgrp_rxFlows (s : State) (k : Nat) (f : AGrp → AGrp) : (s.updAgrp k f).rxFlows = s.rxFlows := rfl
@[simp] theorem State.updAgrp_txFlows (s : State) (k : Nat) (f : AGrp → AGrp) : (s.updAgrp k f).txFlows = s.txFlows := rfl
@[simp] theorem State.updAgrp_txns (s : State) (k : Nat) (f : AGrp → AGrp) : (s.updAgrp k f).txns = s.txns := rfl
@[simp] theorem State.updAgrp_nextTag (s : State) (k : Nat) (f : AGrp → AGrp) : (s.updAgrp k f).nextTag = s.nextTag := rfl
@[simp] theorem State.updAgrp_rxbuf (s : State) (k : Nat) (f : AGrp → AGrp) : (s.updAgrp k f).rxbuf = s.rxbuf := rfl
@[simp] theorem State.updAgrp_leases (s : State) (k : Nat) (f : AGrp → AGrp) : (s.updAgrp k f).leases = s.leases := rfl
@[simp] theorem State.updAgrp_images (s : State) (k : Nat) (f : AGrp → AGrp) : (s.updAgrp k f).images = s.images := rfl
@[simp] theorem State.updAgrp_myLeases (s : State) (k : Nat) (f : AGrp → AGrp) : (s.updAgrp k f).myLeases = s.myLeases := rfl
@[simp] theorem State.updAgrp_xrun (s : State) (k : Nat) (f : AGrp → AGrp) : (s.updAgrp k f).xrun = s.xrun := rfl
@[simp] theorem State.updAgrp_repart (s : State) (k : Nat) (f : AGrp → AGrp) : (s.updAgrp k f).repart = s.repart := rfl
@[simp] theorem State.updAgrp_shBase (s : State) (k : Nat) (f : AGrp → AGrp) : (s.updAgrp k f).shBase = s.shBase := rfl
@[simp] theorem State.updAgrp_lease (s : State) (k : Nat) (f : AGrp → AGrp) : (s.updAgrp k f).lease = s.lease := rfl
@[simp] theorem State.updAgrp_retire (s : State) (k : Nat) (f : AGrp → AGrp) : (s.updAgrp k f).retire = s.retire := rfl
@[simp] theorem State.updAgrp_sent (s : State) (k : Nat) (f : AGrp → AGrp) : (s.updAgrp k f).sent = s.sent := rfl
@[simp] theorem State.updAgrp_irqs (s : State) (k : Nat) (f : AGrp → AGrp) : (s.updAgrp k f).irqs = s.irqs := rfl
@[simp] theorem State.updAgrp_eccSrc (s : State) (k : Nat) (f : AGrp → AGrp) : (s.updAgrp k f).eccSrc = s.eccSrc := rfl
@[simp] theorem State.updAgrp_flows (s : State) (k : Nat) (f : AGrp → AGrp) : (s.updAgrp k f).flows = s.flows := rfl
@[simp] theorem State.updAgrp_abinds (s : State) (k : Nat) (f : AGrp → AGrp) : (s.updAgrp k f).abinds = s.abinds := rfl
@[simp] theorem State.updAgrp_saps (s : State) (k : Nat) (f : AGrp → AGrp) : (s.updAgrp k f).saps = s.saps := rfl
@[simp] theorem State.updAgrp_chans (s : State) (k : Nat) (f : AGrp → AGrp) : (s.updAgrp k f).chans = s.chans := rfl
@[simp] theorem State.updAgrp_outs (s : State) (k : Nat) (f : AGrp → AGrp) : (s.updAgrp k f).outs = s.outs := rfl
@[simp] theorem State.updAgrp_pwr (s : State) (k : Nat) (f : AGrp → AGrp) : (s.updAgrp k f).pwr = s.pwr := rfl
@[simp] theorem State.updAgrp_colo (s : State) (k : Nat) (f : AGrp → AGrp) : (s.updAgrp k f).colo = s.colo := rfl
@[simp] theorem State.updAgrp_flashA (s : State) (k : Nat) (f : AGrp → AGrp) : (s.updAgrp k f).flashA = s.flashA := rfl
@[simp] theorem State.updAgrp_flashB (s : State) (k : Nat) (f : AGrp → AGrp) : (s.updAgrp k f).flashB = s.flashB := rfl
@[simp] theorem State.updAgrp_optRecs (s : State) (k : Nat) (f : AGrp → AGrp) : (s.updAgrp k f).optRecs = s.optRecs := rfl
@[simp] theorem State.updAgrp_spine (s : State) (k : Nat) (f : AGrp → AGrp) : (s.updAgrp k f).spine = s.spine := rfl
@[simp] theorem State.updAgrp_jtag (s : State) (k : Nat) (f : AGrp → AGrp) : (s.updAgrp k f).jtag = s.jtag := rfl
@[simp] theorem State.updAgrp_att (s : State) (k : Nat) (f : AGrp → AGrp) : (s.updAgrp k f).att = s.att := rfl
@[simp] theorem State.updAgrp_attWait (s : State) (k : Nat) (f : AGrp → AGrp) : (s.updAgrp k f).attWait = s.attWait := rfl
@[simp] theorem State.updAgrp_i2cs (s : State) (k : Nat) (f : AGrp → AGrp) : (s.updAgrp k f).i2cs = s.i2cs := rfl
@[simp] theorem State.updAgrp_attached (s : State) (k : Nat) (f : AGrp → AGrp) : (s.updAgrp k f).attached = s.attached := rfl
@[simp] theorem State.updAgrp_eths (s : State) (k : Nat) (f : AGrp → AGrp) : (s.updAgrp k f).eths = s.eths := rfl
@[simp] theorem State.updAgrp_free (s : State) (k : Nat) (f : AGrp → AGrp) : (s.updAgrp k f).free = s.free := rfl

/-! ### State.updChan -/

@[simp] theorem State.updChan_pending (s : State) (c : Nat) (f : Chan → Chan) : (s.updChan c f).pending = s.pending := rfl
@[simp] theorem State.updChan_clk (s : State) (c : Nat) (f : Chan → Chan) : (s.updChan c f).clk = s.clk := rfl
@[simp] theorem State.updChan_mem (s : State) (c : Nat) (f : Chan → Chan) : (s.updChan c f).mem = s.mem := rfl
@[simp] theorem State.updChan_hbmErr (s : State) (c : Nat) (f : Chan → Chan) : (s.updChan c f).hbmErr = s.hbmErr := rfl
@[simp] theorem State.updChan_sramErr (s : State) (c : Nat) (f : Chan → Chan) : (s.updChan c f).sramErr = s.sramErr := rfl
@[simp] theorem State.updChan_hbm (s : State) (c : Nat) (f : Chan → Chan) : (s.updChan c f).hbm = s.hbm := rfl
@[simp] theorem State.updChan_ctl (s : State) (c : Nat) (f : Chan → Chan) : (s.updChan c f).ctl = s.ctl := rfl
@[simp] theorem State.updChan_dir (s : State) (c : Nat) (f : Chan → Chan) : (s.updChan c f).dir = s.dir := rfl
@[simp] theorem State.updChan_fx (s : State) (c : Nat) (f : Chan → Chan) : (s.updChan c f).fx = s.fx := rfl
@[simp] theorem State.updChan_releases (s : State) (c : Nat) (f : Chan → Chan) : (s.updChan c f).releases = s.releases := rfl
@[simp] theorem State.updChan_cores (s : State) (c : Nat) (f : Chan → Chan) : (s.updChan c f).cores = s.cores := rfl
@[simp] theorem State.updChan_hoops (s : State) (c : Nat) (f : Chan → Chan) : (s.updChan c f).hoops = s.hoops := rfl
@[simp] theorem State.updChan_binders (s : State) (c : Nat) (f : Chan → Chan) : (s.updChan c f).binders = s.binders := rfl
@[simp] theorem State.updChan_folCmd (s : State) (c : Nat) (f : Chan → Chan) : (s.updChan c f).folCmd = s.folCmd := rfl
@[simp] theorem State.updChan_bnd (s : State) (c : Nat) (f : Chan → Chan) : (s.updChan c f).bnd = s.bnd := rfl
@[simp] theorem State.updChan_fuses (s : State) (c : Nat) (f : Chan → Chan) : (s.updChan c f).fuses = s.fuses := rfl
@[simp] theorem State.updChan_linkFw (s : State) (c : Nat) (f : Chan → Chan) : (s.updChan c f).linkFw = s.linkFw := rfl
@[simp] theorem State.updChan_links (s : State) (c : Nat) (f : Chan → Chan) : (s.updChan c f).links = s.links := rfl
@[simp] theorem State.updChan_engines (s : State) (c : Nat) (f : Chan → Chan) : (s.updChan c f).engines = s.engines := rfl
@[simp] theorem State.updChan_peers (s : State) (c : Nat) (f : Chan → Chan) : (s.updChan c f).peers = s.peers := rfl
@[simp] theorem State.updChan_rxFlows (s : State) (c : Nat) (f : Chan → Chan) : (s.updChan c f).rxFlows = s.rxFlows := rfl
@[simp] theorem State.updChan_txFlows (s : State) (c : Nat) (f : Chan → Chan) : (s.updChan c f).txFlows = s.txFlows := rfl
@[simp] theorem State.updChan_txns (s : State) (c : Nat) (f : Chan → Chan) : (s.updChan c f).txns = s.txns := rfl
@[simp] theorem State.updChan_nextTag (s : State) (c : Nat) (f : Chan → Chan) : (s.updChan c f).nextTag = s.nextTag := rfl
@[simp] theorem State.updChan_rxbuf (s : State) (c : Nat) (f : Chan → Chan) : (s.updChan c f).rxbuf = s.rxbuf := rfl
@[simp] theorem State.updChan_leases (s : State) (c : Nat) (f : Chan → Chan) : (s.updChan c f).leases = s.leases := rfl
@[simp] theorem State.updChan_images (s : State) (c : Nat) (f : Chan → Chan) : (s.updChan c f).images = s.images := rfl
@[simp] theorem State.updChan_myLeases (s : State) (c : Nat) (f : Chan → Chan) : (s.updChan c f).myLeases = s.myLeases := rfl
@[simp] theorem State.updChan_xrun (s : State) (c : Nat) (f : Chan → Chan) : (s.updChan c f).xrun = s.xrun := rfl
@[simp] theorem State.updChan_repart (s : State) (c : Nat) (f : Chan → Chan) : (s.updChan c f).repart = s.repart := rfl
@[simp] theorem State.updChan_shBase (s : State) (c : Nat) (f : Chan → Chan) : (s.updChan c f).shBase = s.shBase := rfl
@[simp] theorem State.updChan_lease (s : State) (c : Nat) (f : Chan → Chan) : (s.updChan c f).lease = s.lease := rfl
@[simp] theorem State.updChan_retire (s : State) (c : Nat) (f : Chan → Chan) : (s.updChan c f).retire = s.retire := rfl
@[simp] theorem State.updChan_sent (s : State) (c : Nat) (f : Chan → Chan) : (s.updChan c f).sent = s.sent := rfl
@[simp] theorem State.updChan_irqs (s : State) (c : Nat) (f : Chan → Chan) : (s.updChan c f).irqs = s.irqs := rfl
@[simp] theorem State.updChan_eccSrc (s : State) (c : Nat) (f : Chan → Chan) : (s.updChan c f).eccSrc = s.eccSrc := rfl
@[simp] theorem State.updChan_flows (s : State) (c : Nat) (f : Chan → Chan) : (s.updChan c f).flows = s.flows := rfl
@[simp] theorem State.updChan_abinds (s : State) (c : Nat) (f : Chan → Chan) : (s.updChan c f).abinds = s.abinds := rfl
@[simp] theorem State.updChan_agrps (s : State) (c : Nat) (f : Chan → Chan) : (s.updChan c f).agrps = s.agrps := rfl
@[simp] theorem State.updChan_saps (s : State) (c : Nat) (f : Chan → Chan) : (s.updChan c f).saps = s.saps := rfl
@[simp] theorem State.updChan_outs (s : State) (c : Nat) (f : Chan → Chan) : (s.updChan c f).outs = s.outs := rfl
@[simp] theorem State.updChan_pwr (s : State) (c : Nat) (f : Chan → Chan) : (s.updChan c f).pwr = s.pwr := rfl
@[simp] theorem State.updChan_colo (s : State) (c : Nat) (f : Chan → Chan) : (s.updChan c f).colo = s.colo := rfl
@[simp] theorem State.updChan_flashA (s : State) (c : Nat) (f : Chan → Chan) : (s.updChan c f).flashA = s.flashA := rfl
@[simp] theorem State.updChan_flashB (s : State) (c : Nat) (f : Chan → Chan) : (s.updChan c f).flashB = s.flashB := rfl
@[simp] theorem State.updChan_optRecs (s : State) (c : Nat) (f : Chan → Chan) : (s.updChan c f).optRecs = s.optRecs := rfl
@[simp] theorem State.updChan_spine (s : State) (c : Nat) (f : Chan → Chan) : (s.updChan c f).spine = s.spine := rfl
@[simp] theorem State.updChan_jtag (s : State) (c : Nat) (f : Chan → Chan) : (s.updChan c f).jtag = s.jtag := rfl
@[simp] theorem State.updChan_att (s : State) (c : Nat) (f : Chan → Chan) : (s.updChan c f).att = s.att := rfl
@[simp] theorem State.updChan_attWait (s : State) (c : Nat) (f : Chan → Chan) : (s.updChan c f).attWait = s.attWait := rfl
@[simp] theorem State.updChan_i2cs (s : State) (c : Nat) (f : Chan → Chan) : (s.updChan c f).i2cs = s.i2cs := rfl
@[simp] theorem State.updChan_attached (s : State) (c : Nat) (f : Chan → Chan) : (s.updChan c f).attached = s.attached := rfl
@[simp] theorem State.updChan_eths (s : State) (c : Nat) (f : Chan → Chan) : (s.updChan c f).eths = s.eths := rfl
@[simp] theorem State.updChan_free (s : State) (c : Nat) (f : Chan → Chan) : (s.updChan c f).free = s.free := rfl

/-! ### State.updI2c -/

@[simp] theorem State.updI2c_pending (s : State) (g : Nat) (f : I2cX → I2cX) : (s.updI2c g f).pending = s.pending := rfl
@[simp] theorem State.updI2c_clk (s : State) (g : Nat) (f : I2cX → I2cX) : (s.updI2c g f).clk = s.clk := rfl
@[simp] theorem State.updI2c_mem (s : State) (g : Nat) (f : I2cX → I2cX) : (s.updI2c g f).mem = s.mem := rfl
@[simp] theorem State.updI2c_hbmErr (s : State) (g : Nat) (f : I2cX → I2cX) : (s.updI2c g f).hbmErr = s.hbmErr := rfl
@[simp] theorem State.updI2c_sramErr (s : State) (g : Nat) (f : I2cX → I2cX) : (s.updI2c g f).sramErr = s.sramErr := rfl
@[simp] theorem State.updI2c_hbm (s : State) (g : Nat) (f : I2cX → I2cX) : (s.updI2c g f).hbm = s.hbm := rfl
@[simp] theorem State.updI2c_ctl (s : State) (g : Nat) (f : I2cX → I2cX) : (s.updI2c g f).ctl = s.ctl := rfl
@[simp] theorem State.updI2c_dir (s : State) (g : Nat) (f : I2cX → I2cX) : (s.updI2c g f).dir = s.dir := rfl
@[simp] theorem State.updI2c_fx (s : State) (g : Nat) (f : I2cX → I2cX) : (s.updI2c g f).fx = s.fx := rfl
@[simp] theorem State.updI2c_releases (s : State) (g : Nat) (f : I2cX → I2cX) : (s.updI2c g f).releases = s.releases := rfl
@[simp] theorem State.updI2c_cores (s : State) (g : Nat) (f : I2cX → I2cX) : (s.updI2c g f).cores = s.cores := rfl
@[simp] theorem State.updI2c_hoops (s : State) (g : Nat) (f : I2cX → I2cX) : (s.updI2c g f).hoops = s.hoops := rfl
@[simp] theorem State.updI2c_binders (s : State) (g : Nat) (f : I2cX → I2cX) : (s.updI2c g f).binders = s.binders := rfl
@[simp] theorem State.updI2c_folCmd (s : State) (g : Nat) (f : I2cX → I2cX) : (s.updI2c g f).folCmd = s.folCmd := rfl
@[simp] theorem State.updI2c_bnd (s : State) (g : Nat) (f : I2cX → I2cX) : (s.updI2c g f).bnd = s.bnd := rfl
@[simp] theorem State.updI2c_fuses (s : State) (g : Nat) (f : I2cX → I2cX) : (s.updI2c g f).fuses = s.fuses := rfl
@[simp] theorem State.updI2c_linkFw (s : State) (g : Nat) (f : I2cX → I2cX) : (s.updI2c g f).linkFw = s.linkFw := rfl
@[simp] theorem State.updI2c_links (s : State) (g : Nat) (f : I2cX → I2cX) : (s.updI2c g f).links = s.links := rfl
@[simp] theorem State.updI2c_engines (s : State) (g : Nat) (f : I2cX → I2cX) : (s.updI2c g f).engines = s.engines := rfl
@[simp] theorem State.updI2c_peers (s : State) (g : Nat) (f : I2cX → I2cX) : (s.updI2c g f).peers = s.peers := rfl
@[simp] theorem State.updI2c_rxFlows (s : State) (g : Nat) (f : I2cX → I2cX) : (s.updI2c g f).rxFlows = s.rxFlows := rfl
@[simp] theorem State.updI2c_txFlows (s : State) (g : Nat) (f : I2cX → I2cX) : (s.updI2c g f).txFlows = s.txFlows := rfl
@[simp] theorem State.updI2c_txns (s : State) (g : Nat) (f : I2cX → I2cX) : (s.updI2c g f).txns = s.txns := rfl
@[simp] theorem State.updI2c_nextTag (s : State) (g : Nat) (f : I2cX → I2cX) : (s.updI2c g f).nextTag = s.nextTag := rfl
@[simp] theorem State.updI2c_rxbuf (s : State) (g : Nat) (f : I2cX → I2cX) : (s.updI2c g f).rxbuf = s.rxbuf := rfl
@[simp] theorem State.updI2c_leases (s : State) (g : Nat) (f : I2cX → I2cX) : (s.updI2c g f).leases = s.leases := rfl
@[simp] theorem State.updI2c_images (s : State) (g : Nat) (f : I2cX → I2cX) : (s.updI2c g f).images = s.images := rfl
@[simp] theorem State.updI2c_myLeases (s : State) (g : Nat) (f : I2cX → I2cX) : (s.updI2c g f).myLeases = s.myLeases := rfl
@[simp] theorem State.updI2c_xrun (s : State) (g : Nat) (f : I2cX → I2cX) : (s.updI2c g f).xrun = s.xrun := rfl
@[simp] theorem State.updI2c_repart (s : State) (g : Nat) (f : I2cX → I2cX) : (s.updI2c g f).repart = s.repart := rfl
@[simp] theorem State.updI2c_shBase (s : State) (g : Nat) (f : I2cX → I2cX) : (s.updI2c g f).shBase = s.shBase := rfl
@[simp] theorem State.updI2c_lease (s : State) (g : Nat) (f : I2cX → I2cX) : (s.updI2c g f).lease = s.lease := rfl
@[simp] theorem State.updI2c_retire (s : State) (g : Nat) (f : I2cX → I2cX) : (s.updI2c g f).retire = s.retire := rfl
@[simp] theorem State.updI2c_sent (s : State) (g : Nat) (f : I2cX → I2cX) : (s.updI2c g f).sent = s.sent := rfl
@[simp] theorem State.updI2c_irqs (s : State) (g : Nat) (f : I2cX → I2cX) : (s.updI2c g f).irqs = s.irqs := rfl
@[simp] theorem State.updI2c_eccSrc (s : State) (g : Nat) (f : I2cX → I2cX) : (s.updI2c g f).eccSrc = s.eccSrc := rfl
@[simp] theorem State.updI2c_flows (s : State) (g : Nat) (f : I2cX → I2cX) : (s.updI2c g f).flows = s.flows := rfl
@[simp] theorem State.updI2c_abinds (s : State) (g : Nat) (f : I2cX → I2cX) : (s.updI2c g f).abinds = s.abinds := rfl
@[simp] theorem State.updI2c_agrps (s : State) (g : Nat) (f : I2cX → I2cX) : (s.updI2c g f).agrps = s.agrps := rfl
@[simp] theorem State.updI2c_saps (s : State) (g : Nat) (f : I2cX → I2cX) : (s.updI2c g f).saps = s.saps := rfl
@[simp] theorem State.updI2c_chans (s : State) (g : Nat) (f : I2cX → I2cX) : (s.updI2c g f).chans = s.chans := rfl
@[simp] theorem State.updI2c_outs (s : State) (g : Nat) (f : I2cX → I2cX) : (s.updI2c g f).outs = s.outs := rfl
@[simp] theorem State.updI2c_pwr (s : State) (g : Nat) (f : I2cX → I2cX) : (s.updI2c g f).pwr = s.pwr := rfl
@[simp] theorem State.updI2c_colo (s : State) (g : Nat) (f : I2cX → I2cX) : (s.updI2c g f).colo = s.colo := rfl
@[simp] theorem State.updI2c_flashA (s : State) (g : Nat) (f : I2cX → I2cX) : (s.updI2c g f).flashA = s.flashA := rfl
@[simp] theorem State.updI2c_flashB (s : State) (g : Nat) (f : I2cX → I2cX) : (s.updI2c g f).flashB = s.flashB := rfl
@[simp] theorem State.updI2c_optRecs (s : State) (g : Nat) (f : I2cX → I2cX) : (s.updI2c g f).optRecs = s.optRecs := rfl
@[simp] theorem State.updI2c_spine (s : State) (g : Nat) (f : I2cX → I2cX) : (s.updI2c g f).spine = s.spine := rfl
@[simp] theorem State.updI2c_jtag (s : State) (g : Nat) (f : I2cX → I2cX) : (s.updI2c g f).jtag = s.jtag := rfl
@[simp] theorem State.updI2c_att (s : State) (g : Nat) (f : I2cX → I2cX) : (s.updI2c g f).att = s.att := rfl
@[simp] theorem State.updI2c_attWait (s : State) (g : Nat) (f : I2cX → I2cX) : (s.updI2c g f).attWait = s.attWait := rfl
@[simp] theorem State.updI2c_attached (s : State) (g : Nat) (f : I2cX → I2cX) : (s.updI2c g f).attached = s.attached := rfl
@[simp] theorem State.updI2c_eths (s : State) (g : Nat) (f : I2cX → I2cX) : (s.updI2c g f).eths = s.eths := rfl
@[simp] theorem State.updI2c_free (s : State) (g : Nat) (f : I2cX → I2cX) : (s.updI2c g f).free = s.free := rfl

/-! ### State.updSect -/

@[simp] theorem State.updSect_pending (s : State) (h ser : Nat) (f : Section → Section) : (s.updSect h ser f).pending = s.pending := rfl
@[simp] theorem State.updSect_clk (s : State) (h ser : Nat) (f : Section → Section) : (s.updSect h ser f).clk = s.clk := rfl
@[simp] theorem State.updSect_mem (s : State) (h ser : Nat) (f : Section → Section) : (s.updSect h ser f).mem = s.mem := rfl
@[simp] theorem State.updSect_hbmErr (s : State) (h ser : Nat) (f : Section → Section) : (s.updSect h ser f).hbmErr = s.hbmErr := rfl
@[simp] theorem State.updSect_sramErr (s : State) (h ser : Nat) (f : Section → Section) : (s.updSect h ser f).sramErr = s.sramErr := rfl
@[simp] theorem State.updSect_hbm (s : State) (h ser : Nat) (f : Section → Section) : (s.updSect h ser f).hbm = s.hbm := rfl
@[simp] theorem State.updSect_ctl (s : State) (h ser : Nat) (f : Section → Section) : (s.updSect h ser f).ctl = s.ctl := rfl
@[simp] theorem State.updSect_dir (s : State) (h ser : Nat) (f : Section → Section) : (s.updSect h ser f).dir = s.dir := rfl
@[simp] theorem State.updSect_fx (s : State) (h ser : Nat) (f : Section → Section) : (s.updSect h ser f).fx = s.fx := rfl
@[simp] theorem State.updSect_releases (s : State) (h ser : Nat) (f : Section → Section) : (s.updSect h ser f).releases = s.releases := rfl
@[simp] theorem State.updSect_cores (s : State) (h ser : Nat) (f : Section → Section) : (s.updSect h ser f).cores = s.cores := rfl
@[simp] theorem State.updSect_binders (s : State) (h ser : Nat) (f : Section → Section) : (s.updSect h ser f).binders = s.binders := rfl
@[simp] theorem State.updSect_folCmd (s : State) (h ser : Nat) (f : Section → Section) : (s.updSect h ser f).folCmd = s.folCmd := rfl
@[simp] theorem State.updSect_bnd (s : State) (h ser : Nat) (f : Section → Section) : (s.updSect h ser f).bnd = s.bnd := rfl
@[simp] theorem State.updSect_fuses (s : State) (h ser : Nat) (f : Section → Section) : (s.updSect h ser f).fuses = s.fuses := rfl
@[simp] theorem State.updSect_linkFw (s : State) (h ser : Nat) (f : Section → Section) : (s.updSect h ser f).linkFw = s.linkFw := rfl
@[simp] theorem State.updSect_links (s : State) (h ser : Nat) (f : Section → Section) : (s.updSect h ser f).links = s.links := rfl
@[simp] theorem State.updSect_engines (s : State) (h ser : Nat) (f : Section → Section) : (s.updSect h ser f).engines = s.engines := rfl
@[simp] theorem State.updSect_peers (s : State) (h ser : Nat) (f : Section → Section) : (s.updSect h ser f).peers = s.peers := rfl
@[simp] theorem State.updSect_rxFlows (s : State) (h ser : Nat) (f : Section → Section) : (s.updSect h ser f).rxFlows = s.rxFlows := rfl
@[simp] theorem State.updSect_txFlows (s : State) (h ser : Nat) (f : Section → Section) : (s.updSect h ser f).txFlows = s.txFlows := rfl
@[simp] theorem State.updSect_txns (s : State) (h ser : Nat) (f : Section → Section) : (s.updSect h ser f).txns = s.txns := rfl
@[simp] theorem State.updSect_nextTag (s : State) (h ser : Nat) (f : Section → Section) : (s.updSect h ser f).nextTag = s.nextTag := rfl
@[simp] theorem State.updSect_rxbuf (s : State) (h ser : Nat) (f : Section → Section) : (s.updSect h ser f).rxbuf = s.rxbuf := rfl
@[simp] theorem State.updSect_leases (s : State) (h ser : Nat) (f : Section → Section) : (s.updSect h ser f).leases = s.leases := rfl
@[simp] theorem State.updSect_images (s : State) (h ser : Nat) (f : Section → Section) : (s.updSect h ser f).images = s.images := rfl
@[simp] theorem State.updSect_myLeases (s : State) (h ser : Nat) (f : Section → Section) : (s.updSect h ser f).myLeases = s.myLeases := rfl
@[simp] theorem State.updSect_xrun (s : State) (h ser : Nat) (f : Section → Section) : (s.updSect h ser f).xrun = s.xrun := rfl
@[simp] theorem State.updSect_repart (s : State) (h ser : Nat) (f : Section → Section) : (s.updSect h ser f).repart = s.repart := rfl
@[simp] theorem State.updSect_shBase (s : State) (h ser : Nat) (f : Section → Section) : (s.updSect h ser f).shBase = s.shBase := rfl
@[simp] theorem State.updSect_lease (s : State) (h ser : Nat) (f : Section → Section) : (s.updSect h ser f).lease = s.lease := rfl
@[simp] theorem State.updSect_retire (s : State) (h ser : Nat) (f : Section → Section) : (s.updSect h ser f).retire = s.retire := rfl
@[simp] theorem State.updSect_sent (s : State) (h ser : Nat) (f : Section → Section) : (s.updSect h ser f).sent = s.sent := rfl
@[simp] theorem State.updSect_irqs (s : State) (h ser : Nat) (f : Section → Section) : (s.updSect h ser f).irqs = s.irqs := rfl
@[simp] theorem State.updSect_eccSrc (s : State) (h ser : Nat) (f : Section → Section) : (s.updSect h ser f).eccSrc = s.eccSrc := rfl
@[simp] theorem State.updSect_flows (s : State) (h ser : Nat) (f : Section → Section) : (s.updSect h ser f).flows = s.flows := rfl
@[simp] theorem State.updSect_abinds (s : State) (h ser : Nat) (f : Section → Section) : (s.updSect h ser f).abinds = s.abinds := rfl
@[simp] theorem State.updSect_agrps (s : State) (h ser : Nat) (f : Section → Section) : (s.updSect h ser f).agrps = s.agrps := rfl
@[simp] theorem State.updSect_saps (s : State) (h ser : Nat) (f : Section → Section) : (s.updSect h ser f).saps = s.saps := rfl
@[simp] theorem State.updSect_chans (s : State) (h ser : Nat) (f : Section → Section) : (s.updSect h ser f).chans = s.chans := rfl
@[simp] theorem State.updSect_outs (s : State) (h ser : Nat) (f : Section → Section) : (s.updSect h ser f).outs = s.outs := rfl
@[simp] theorem State.updSect_pwr (s : State) (h ser : Nat) (f : Section → Section) : (s.updSect h ser f).pwr = s.pwr := rfl
@[simp] theorem State.updSect_colo (s : State) (h ser : Nat) (f : Section → Section) : (s.updSect h ser f).colo = s.colo := rfl
@[simp] theorem State.updSect_flashA (s : State) (h ser : Nat) (f : Section → Section) : (s.updSect h ser f).flashA = s.flashA := rfl
@[simp] theorem State.updSect_flashB (s : State) (h ser : Nat) (f : Section → Section) : (s.updSect h ser f).flashB = s.flashB := rfl
@[simp] theorem State.updSect_optRecs (s : State) (h ser : Nat) (f : Section → Section) : (s.updSect h ser f).optRecs = s.optRecs := rfl
@[simp] theorem State.updSect_spine (s : State) (h ser : Nat) (f : Section → Section) : (s.updSect h ser f).spine = s.spine := rfl
@[simp] theorem State.updSect_jtag (s : State) (h ser : Nat) (f : Section → Section) : (s.updSect h ser f).jtag = s.jtag := rfl
@[simp] theorem State.updSect_att (s : State) (h ser : Nat) (f : Section → Section) : (s.updSect h ser f).att = s.att := rfl
@[simp] theorem State.updSect_attWait (s : State) (h ser : Nat) (f : Section → Section) : (s.updSect h ser f).attWait = s.attWait := rfl
@[simp] theorem State.updSect_i2cs (s : State) (h ser : Nat) (f : Section → Section) : (s.updSect h ser f).i2cs = s.i2cs := rfl
@[simp] theorem State.updSect_attached (s : State) (h ser : Nat) (f : Section → Section) : (s.updSect h ser f).attached = s.attached := rfl
@[simp] theorem State.updSect_eths (s : State) (h ser : Nat) (f : Section → Section) : (s.updSect h ser f).eths = s.eths := rfl
@[simp] theorem State.updSect_free (s : State) (h ser : Nat) (f : Section → Section) : (s.updSect h ser f).free = s.free := rfl

/-! ### State.setEccSrc -/

@[simp] theorem State.setEccSrc_pending (s : State) (k : Nat) (v : Option Nat × Nat) : (s.setEccSrc k v).pending = s.pending := rfl
@[simp] theorem State.setEccSrc_clk (s : State) (k : Nat) (v : Option Nat × Nat) : (s.setEccSrc k v).clk = s.clk := rfl
@[simp] theorem State.setEccSrc_mem (s : State) (k : Nat) (v : Option Nat × Nat) : (s.setEccSrc k v).mem = s.mem := rfl
@[simp] theorem State.setEccSrc_hbmErr (s : State) (k : Nat) (v : Option Nat × Nat) : (s.setEccSrc k v).hbmErr = s.hbmErr := rfl
@[simp] theorem State.setEccSrc_sramErr (s : State) (k : Nat) (v : Option Nat × Nat) : (s.setEccSrc k v).sramErr = s.sramErr := rfl
@[simp] theorem State.setEccSrc_hbm (s : State) (k : Nat) (v : Option Nat × Nat) : (s.setEccSrc k v).hbm = s.hbm := rfl
@[simp] theorem State.setEccSrc_ctl (s : State) (k : Nat) (v : Option Nat × Nat) : (s.setEccSrc k v).ctl = s.ctl := rfl
@[simp] theorem State.setEccSrc_dir (s : State) (k : Nat) (v : Option Nat × Nat) : (s.setEccSrc k v).dir = s.dir := rfl
@[simp] theorem State.setEccSrc_fx (s : State) (k : Nat) (v : Option Nat × Nat) : (s.setEccSrc k v).fx = s.fx := rfl
@[simp] theorem State.setEccSrc_releases (s : State) (k : Nat) (v : Option Nat × Nat) : (s.setEccSrc k v).releases = s.releases := rfl
@[simp] theorem State.setEccSrc_cores (s : State) (k : Nat) (v : Option Nat × Nat) : (s.setEccSrc k v).cores = s.cores := rfl
@[simp] theorem State.setEccSrc_hoops (s : State) (k : Nat) (v : Option Nat × Nat) : (s.setEccSrc k v).hoops = s.hoops := rfl
@[simp] theorem State.setEccSrc_binders (s : State) (k : Nat) (v : Option Nat × Nat) : (s.setEccSrc k v).binders = s.binders := rfl
@[simp] theorem State.setEccSrc_folCmd (s : State) (k : Nat) (v : Option Nat × Nat) : (s.setEccSrc k v).folCmd = s.folCmd := rfl
@[simp] theorem State.setEccSrc_bnd (s : State) (k : Nat) (v : Option Nat × Nat) : (s.setEccSrc k v).bnd = s.bnd := rfl
@[simp] theorem State.setEccSrc_fuses (s : State) (k : Nat) (v : Option Nat × Nat) : (s.setEccSrc k v).fuses = s.fuses := rfl
@[simp] theorem State.setEccSrc_linkFw (s : State) (k : Nat) (v : Option Nat × Nat) : (s.setEccSrc k v).linkFw = s.linkFw := rfl
@[simp] theorem State.setEccSrc_links (s : State) (k : Nat) (v : Option Nat × Nat) : (s.setEccSrc k v).links = s.links := rfl
@[simp] theorem State.setEccSrc_engines (s : State) (k : Nat) (v : Option Nat × Nat) : (s.setEccSrc k v).engines = s.engines := rfl
@[simp] theorem State.setEccSrc_peers (s : State) (k : Nat) (v : Option Nat × Nat) : (s.setEccSrc k v).peers = s.peers := rfl
@[simp] theorem State.setEccSrc_rxFlows (s : State) (k : Nat) (v : Option Nat × Nat) : (s.setEccSrc k v).rxFlows = s.rxFlows := rfl
@[simp] theorem State.setEccSrc_txFlows (s : State) (k : Nat) (v : Option Nat × Nat) : (s.setEccSrc k v).txFlows = s.txFlows := rfl
@[simp] theorem State.setEccSrc_txns (s : State) (k : Nat) (v : Option Nat × Nat) : (s.setEccSrc k v).txns = s.txns := rfl
@[simp] theorem State.setEccSrc_nextTag (s : State) (k : Nat) (v : Option Nat × Nat) : (s.setEccSrc k v).nextTag = s.nextTag := rfl
@[simp] theorem State.setEccSrc_rxbuf (s : State) (k : Nat) (v : Option Nat × Nat) : (s.setEccSrc k v).rxbuf = s.rxbuf := rfl
@[simp] theorem State.setEccSrc_leases (s : State) (k : Nat) (v : Option Nat × Nat) : (s.setEccSrc k v).leases = s.leases := rfl
@[simp] theorem State.setEccSrc_images (s : State) (k : Nat) (v : Option Nat × Nat) : (s.setEccSrc k v).images = s.images := rfl
@[simp] theorem State.setEccSrc_myLeases (s : State) (k : Nat) (v : Option Nat × Nat) : (s.setEccSrc k v).myLeases = s.myLeases := rfl
@[simp] theorem State.setEccSrc_xrun (s : State) (k : Nat) (v : Option Nat × Nat) : (s.setEccSrc k v).xrun = s.xrun := rfl
@[simp] theorem State.setEccSrc_repart (s : State) (k : Nat) (v : Option Nat × Nat) : (s.setEccSrc k v).repart = s.repart := rfl
@[simp] theorem State.setEccSrc_shBase (s : State) (k : Nat) (v : Option Nat × Nat) : (s.setEccSrc k v).shBase = s.shBase := rfl
@[simp] theorem State.setEccSrc_lease (s : State) (k : Nat) (v : Option Nat × Nat) : (s.setEccSrc k v).lease = s.lease := rfl
@[simp] theorem State.setEccSrc_retire (s : State) (k : Nat) (v : Option Nat × Nat) : (s.setEccSrc k v).retire = s.retire := rfl
@[simp] theorem State.setEccSrc_sent (s : State) (k : Nat) (v : Option Nat × Nat) : (s.setEccSrc k v).sent = s.sent := rfl
@[simp] theorem State.setEccSrc_irqs (s : State) (k : Nat) (v : Option Nat × Nat) : (s.setEccSrc k v).irqs = s.irqs := rfl
@[simp] theorem State.setEccSrc_flows (s : State) (k : Nat) (v : Option Nat × Nat) : (s.setEccSrc k v).flows = s.flows := rfl
@[simp] theorem State.setEccSrc_abinds (s : State) (k : Nat) (v : Option Nat × Nat) : (s.setEccSrc k v).abinds = s.abinds := rfl
@[simp] theorem State.setEccSrc_agrps (s : State) (k : Nat) (v : Option Nat × Nat) : (s.setEccSrc k v).agrps = s.agrps := rfl
@[simp] theorem State.setEccSrc_saps (s : State) (k : Nat) (v : Option Nat × Nat) : (s.setEccSrc k v).saps = s.saps := rfl
@[simp] theorem State.setEccSrc_chans (s : State) (k : Nat) (v : Option Nat × Nat) : (s.setEccSrc k v).chans = s.chans := rfl
@[simp] theorem State.setEccSrc_outs (s : State) (k : Nat) (v : Option Nat × Nat) : (s.setEccSrc k v).outs = s.outs := rfl
@[simp] theorem State.setEccSrc_pwr (s : State) (k : Nat) (v : Option Nat × Nat) : (s.setEccSrc k v).pwr = s.pwr := rfl
@[simp] theorem State.setEccSrc_colo (s : State) (k : Nat) (v : Option Nat × Nat) : (s.setEccSrc k v).colo = s.colo := rfl
@[simp] theorem State.setEccSrc_flashA (s : State) (k : Nat) (v : Option Nat × Nat) : (s.setEccSrc k v).flashA = s.flashA := rfl
@[simp] theorem State.setEccSrc_flashB (s : State) (k : Nat) (v : Option Nat × Nat) : (s.setEccSrc k v).flashB = s.flashB := rfl
@[simp] theorem State.setEccSrc_optRecs (s : State) (k : Nat) (v : Option Nat × Nat) : (s.setEccSrc k v).optRecs = s.optRecs := rfl
@[simp] theorem State.setEccSrc_spine (s : State) (k : Nat) (v : Option Nat × Nat) : (s.setEccSrc k v).spine = s.spine := rfl
@[simp] theorem State.setEccSrc_jtag (s : State) (k : Nat) (v : Option Nat × Nat) : (s.setEccSrc k v).jtag = s.jtag := rfl
@[simp] theorem State.setEccSrc_att (s : State) (k : Nat) (v : Option Nat × Nat) : (s.setEccSrc k v).att = s.att := rfl
@[simp] theorem State.setEccSrc_attWait (s : State) (k : Nat) (v : Option Nat × Nat) : (s.setEccSrc k v).attWait = s.attWait := rfl
@[simp] theorem State.setEccSrc_i2cs (s : State) (k : Nat) (v : Option Nat × Nat) : (s.setEccSrc k v).i2cs = s.i2cs := rfl
@[simp] theorem State.setEccSrc_attached (s : State) (k : Nat) (v : Option Nat × Nat) : (s.setEccSrc k v).attached = s.attached := rfl
@[simp] theorem State.setEccSrc_eths (s : State) (k : Nat) (v : Option Nat × Nat) : (s.setEccSrc k v).eths = s.eths := rfl
@[simp] theorem State.setEccSrc_free (s : State) (k : Nat) (v : Option Nat × Nat) : (s.setEccSrc k v).free = s.free := rfl

/-! ### State.setLine -/

@[simp] theorem State.setLine_pending (s : State) (l : Nat) (e : LineErr) : (s.setLine l e).pending = s.pending := rfl
@[simp] theorem State.setLine_clk (s : State) (l : Nat) (e : LineErr) : (s.setLine l e).clk = s.clk := rfl
@[simp] theorem State.setLine_mem (s : State) (l : Nat) (e : LineErr) : (s.setLine l e).mem = s.mem := rfl
@[simp] theorem State.setLine_sramErr (s : State) (l : Nat) (e : LineErr) : (s.setLine l e).sramErr = s.sramErr := rfl
@[simp] theorem State.setLine_hbm (s : State) (l : Nat) (e : LineErr) : (s.setLine l e).hbm = s.hbm := rfl
@[simp] theorem State.setLine_ctl (s : State) (l : Nat) (e : LineErr) : (s.setLine l e).ctl = s.ctl := rfl
@[simp] theorem State.setLine_dir (s : State) (l : Nat) (e : LineErr) : (s.setLine l e).dir = s.dir := rfl
@[simp] theorem State.setLine_fx (s : State) (l : Nat) (e : LineErr) : (s.setLine l e).fx = s.fx := rfl
@[simp] theorem State.setLine_releases (s : State) (l : Nat) (e : LineErr) : (s.setLine l e).releases = s.releases := rfl
@[simp] theorem State.setLine_cores (s : State) (l : Nat) (e : LineErr) : (s.setLine l e).cores = s.cores := rfl
@[simp] theorem State.setLine_hoops (s : State) (l : Nat) (e : LineErr) : (s.setLine l e).hoops = s.hoops := rfl
@[simp] theorem State.setLine_binders (s : State) (l : Nat) (e : LineErr) : (s.setLine l e).binders = s.binders := rfl
@[simp] theorem State.setLine_folCmd (s : State) (l : Nat) (e : LineErr) : (s.setLine l e).folCmd = s.folCmd := rfl
@[simp] theorem State.setLine_bnd (s : State) (l : Nat) (e : LineErr) : (s.setLine l e).bnd = s.bnd := rfl
@[simp] theorem State.setLine_fuses (s : State) (l : Nat) (e : LineErr) : (s.setLine l e).fuses = s.fuses := rfl
@[simp] theorem State.setLine_linkFw (s : State) (l : Nat) (e : LineErr) : (s.setLine l e).linkFw = s.linkFw := rfl
@[simp] theorem State.setLine_links (s : State) (l : Nat) (e : LineErr) : (s.setLine l e).links = s.links := rfl
@[simp] theorem State.setLine_engines (s : State) (l : Nat) (e : LineErr) : (s.setLine l e).engines = s.engines := rfl
@[simp] theorem State.setLine_peers (s : State) (l : Nat) (e : LineErr) : (s.setLine l e).peers = s.peers := rfl
@[simp] theorem State.setLine_rxFlows (s : State) (l : Nat) (e : LineErr) : (s.setLine l e).rxFlows = s.rxFlows := rfl
@[simp] theorem State.setLine_txFlows (s : State) (l : Nat) (e : LineErr) : (s.setLine l e).txFlows = s.txFlows := rfl
@[simp] theorem State.setLine_txns (s : State) (l : Nat) (e : LineErr) : (s.setLine l e).txns = s.txns := rfl
@[simp] theorem State.setLine_nextTag (s : State) (l : Nat) (e : LineErr) : (s.setLine l e).nextTag = s.nextTag := rfl
@[simp] theorem State.setLine_rxbuf (s : State) (l : Nat) (e : LineErr) : (s.setLine l e).rxbuf = s.rxbuf := rfl
@[simp] theorem State.setLine_leases (s : State) (l : Nat) (e : LineErr) : (s.setLine l e).leases = s.leases := rfl
@[simp] theorem State.setLine_images (s : State) (l : Nat) (e : LineErr) : (s.setLine l e).images = s.images := rfl
@[simp] theorem State.setLine_myLeases (s : State) (l : Nat) (e : LineErr) : (s.setLine l e).myLeases = s.myLeases := rfl
@[simp] theorem State.setLine_xrun (s : State) (l : Nat) (e : LineErr) : (s.setLine l e).xrun = s.xrun := rfl
@[simp] theorem State.setLine_repart (s : State) (l : Nat) (e : LineErr) : (s.setLine l e).repart = s.repart := rfl
@[simp] theorem State.setLine_shBase (s : State) (l : Nat) (e : LineErr) : (s.setLine l e).shBase = s.shBase := rfl
@[simp] theorem State.setLine_lease (s : State) (l : Nat) (e : LineErr) : (s.setLine l e).lease = s.lease := rfl
@[simp] theorem State.setLine_retire (s : State) (l : Nat) (e : LineErr) : (s.setLine l e).retire = s.retire := rfl
@[simp] theorem State.setLine_sent (s : State) (l : Nat) (e : LineErr) : (s.setLine l e).sent = s.sent := rfl
@[simp] theorem State.setLine_irqs (s : State) (l : Nat) (e : LineErr) : (s.setLine l e).irqs = s.irqs := rfl
@[simp] theorem State.setLine_eccSrc (s : State) (l : Nat) (e : LineErr) : (s.setLine l e).eccSrc = s.eccSrc := rfl
@[simp] theorem State.setLine_flows (s : State) (l : Nat) (e : LineErr) : (s.setLine l e).flows = s.flows := rfl
@[simp] theorem State.setLine_abinds (s : State) (l : Nat) (e : LineErr) : (s.setLine l e).abinds = s.abinds := rfl
@[simp] theorem State.setLine_agrps (s : State) (l : Nat) (e : LineErr) : (s.setLine l e).agrps = s.agrps := rfl
@[simp] theorem State.setLine_saps (s : State) (l : Nat) (e : LineErr) : (s.setLine l e).saps = s.saps := rfl
@[simp] theorem State.setLine_chans (s : State) (l : Nat) (e : LineErr) : (s.setLine l e).chans = s.chans := rfl
@[simp] theorem State.setLine_outs (s : State) (l : Nat) (e : LineErr) : (s.setLine l e).outs = s.outs := rfl
@[simp] theorem State.setLine_pwr (s : State) (l : Nat) (e : LineErr) : (s.setLine l e).pwr = s.pwr := rfl
@[simp] theorem State.setLine_colo (s : State) (l : Nat) (e : LineErr) : (s.setLine l e).colo = s.colo := rfl
@[simp] theorem State.setLine_flashA (s : State) (l : Nat) (e : LineErr) : (s.setLine l e).flashA = s.flashA := rfl
@[simp] theorem State.setLine_flashB (s : State) (l : Nat) (e : LineErr) : (s.setLine l e).flashB = s.flashB := rfl
@[simp] theorem State.setLine_optRecs (s : State) (l : Nat) (e : LineErr) : (s.setLine l e).optRecs = s.optRecs := rfl
@[simp] theorem State.setLine_spine (s : State) (l : Nat) (e : LineErr) : (s.setLine l e).spine = s.spine := rfl
@[simp] theorem State.setLine_jtag (s : State) (l : Nat) (e : LineErr) : (s.setLine l e).jtag = s.jtag := rfl
@[simp] theorem State.setLine_att (s : State) (l : Nat) (e : LineErr) : (s.setLine l e).att = s.att := rfl
@[simp] theorem State.setLine_attWait (s : State) (l : Nat) (e : LineErr) : (s.setLine l e).attWait = s.attWait := rfl
@[simp] theorem State.setLine_i2cs (s : State) (l : Nat) (e : LineErr) : (s.setLine l e).i2cs = s.i2cs := rfl
@[simp] theorem State.setLine_attached (s : State) (l : Nat) (e : LineErr) : (s.setLine l e).attached = s.attached := rfl
@[simp] theorem State.setLine_eths (s : State) (l : Nat) (e : LineErr) : (s.setLine l e).eths = s.eths := rfl
@[simp] theorem State.setLine_free (s : State) (l : Nat) (e : LineErr) : (s.setLine l e).free = s.free := rfl

/-! ### State.dropRx -/

@[simp] theorem State.dropRx_pending (s : State) (w : Nat) : (s.dropRx w).pending = s.pending := rfl
@[simp] theorem State.dropRx_clk (s : State) (w : Nat) : (s.dropRx w).clk = s.clk := rfl
@[simp] theorem State.dropRx_mem (s : State) (w : Nat) : (s.dropRx w).mem = s.mem := rfl
@[simp] theorem State.dropRx_hbmErr (s : State) (w : Nat) : (s.dropRx w).hbmErr = s.hbmErr := rfl
@[simp] theorem State.dropRx_sramErr (s : State) (w : Nat) : (s.dropRx w).sramErr = s.sramErr := rfl
@[simp] theorem State.dropRx_hbm (s : State) (w : Nat) : (s.dropRx w).hbm = s.hbm := rfl
@[simp] theorem State.dropRx_ctl (s : State) (w : Nat) : (s.dropRx w).ctl = s.ctl := rfl
@[simp] theorem State.dropRx_dir (s : State) (w : Nat) : (s.dropRx w).dir = s.dir := rfl
@[simp] theorem State.dropRx_fx (s : State) (w : Nat) : (s.dropRx w).fx = s.fx := rfl
@[simp] theorem State.dropRx_releases (s : State) (w : Nat) : (s.dropRx w).releases = s.releases := rfl
@[simp] theorem State.dropRx_cores (s : State) (w : Nat) : (s.dropRx w).cores = s.cores := rfl
@[simp] theorem State.dropRx_hoops (s : State) (w : Nat) : (s.dropRx w).hoops = s.hoops := rfl
@[simp] theorem State.dropRx_binders (s : State) (w : Nat) : (s.dropRx w).binders = s.binders := rfl
@[simp] theorem State.dropRx_folCmd (s : State) (w : Nat) : (s.dropRx w).folCmd = s.folCmd := rfl
@[simp] theorem State.dropRx_bnd (s : State) (w : Nat) : (s.dropRx w).bnd = s.bnd := rfl
@[simp] theorem State.dropRx_fuses (s : State) (w : Nat) : (s.dropRx w).fuses = s.fuses := rfl
@[simp] theorem State.dropRx_linkFw (s : State) (w : Nat) : (s.dropRx w).linkFw = s.linkFw := rfl
@[simp] theorem State.dropRx_links (s : State) (w : Nat) : (s.dropRx w).links = s.links := rfl
@[simp] theorem State.dropRx_engines (s : State) (w : Nat) : (s.dropRx w).engines = s.engines := rfl
@[simp] theorem State.dropRx_peers (s : State) (w : Nat) : (s.dropRx w).peers = s.peers := rfl
@[simp] theorem State.dropRx_rxFlows (s : State) (w : Nat) : (s.dropRx w).rxFlows = s.rxFlows := rfl
@[simp] theorem State.dropRx_txFlows (s : State) (w : Nat) : (s.dropRx w).txFlows = s.txFlows := rfl
@[simp] theorem State.dropRx_txns (s : State) (w : Nat) : (s.dropRx w).txns = s.txns := rfl
@[simp] theorem State.dropRx_nextTag (s : State) (w : Nat) : (s.dropRx w).nextTag = s.nextTag := rfl
@[simp] theorem State.dropRx_leases (s : State) (w : Nat) : (s.dropRx w).leases = s.leases := rfl
@[simp] theorem State.dropRx_images (s : State) (w : Nat) : (s.dropRx w).images = s.images := rfl
@[simp] theorem State.dropRx_myLeases (s : State) (w : Nat) : (s.dropRx w).myLeases = s.myLeases := rfl
@[simp] theorem State.dropRx_xrun (s : State) (w : Nat) : (s.dropRx w).xrun = s.xrun := rfl
@[simp] theorem State.dropRx_repart (s : State) (w : Nat) : (s.dropRx w).repart = s.repart := rfl
@[simp] theorem State.dropRx_shBase (s : State) (w : Nat) : (s.dropRx w).shBase = s.shBase := rfl
@[simp] theorem State.dropRx_lease (s : State) (w : Nat) : (s.dropRx w).lease = s.lease := rfl
@[simp] theorem State.dropRx_retire (s : State) (w : Nat) : (s.dropRx w).retire = s.retire := rfl
@[simp] theorem State.dropRx_sent (s : State) (w : Nat) : (s.dropRx w).sent = s.sent := rfl
@[simp] theorem State.dropRx_irqs (s : State) (w : Nat) : (s.dropRx w).irqs = s.irqs := rfl
@[simp] theorem State.dropRx_eccSrc (s : State) (w : Nat) : (s.dropRx w).eccSrc = s.eccSrc := rfl
@[simp] theorem State.dropRx_flows (s : State) (w : Nat) : (s.dropRx w).flows = s.flows := rfl
@[simp] theorem State.dropRx_abinds (s : State) (w : Nat) : (s.dropRx w).abinds = s.abinds := rfl
@[simp] theorem State.dropRx_agrps (s : State) (w : Nat) : (s.dropRx w).agrps = s.agrps := rfl
@[simp] theorem State.dropRx_saps (s : State) (w : Nat) : (s.dropRx w).saps = s.saps := rfl
@[simp] theorem State.dropRx_chans (s : State) (w : Nat) : (s.dropRx w).chans = s.chans := rfl
@[simp] theorem State.dropRx_outs (s : State) (w : Nat) : (s.dropRx w).outs = s.outs := rfl
@[simp] theorem State.dropRx_pwr (s : State) (w : Nat) : (s.dropRx w).pwr = s.pwr := rfl
@[simp] theorem State.dropRx_colo (s : State) (w : Nat) : (s.dropRx w).colo = s.colo := rfl
@[simp] theorem State.dropRx_flashA (s : State) (w : Nat) : (s.dropRx w).flashA = s.flashA := rfl
@[simp] theorem State.dropRx_flashB (s : State) (w : Nat) : (s.dropRx w).flashB = s.flashB := rfl
@[simp] theorem State.dropRx_optRecs (s : State) (w : Nat) : (s.dropRx w).optRecs = s.optRecs := rfl
@[simp] theorem State.dropRx_spine (s : State) (w : Nat) : (s.dropRx w).spine = s.spine := rfl
@[simp] theorem State.dropRx_jtag (s : State) (w : Nat) : (s.dropRx w).jtag = s.jtag := rfl
@[simp] theorem State.dropRx_att (s : State) (w : Nat) : (s.dropRx w).att = s.att := rfl
@[simp] theorem State.dropRx_attWait (s : State) (w : Nat) : (s.dropRx w).attWait = s.attWait := rfl
@[simp] theorem State.dropRx_i2cs (s : State) (w : Nat) : (s.dropRx w).i2cs = s.i2cs := rfl
@[simp] theorem State.dropRx_attached (s : State) (w : Nat) : (s.dropRx w).attached = s.attached := rfl
@[simp] theorem State.dropRx_eths (s : State) (w : Nat) : (s.dropRx w).eths = s.eths := rfl
@[simp] theorem State.dropRx_free (s : State) (w : Nat) : (s.dropRx w).free = s.free := rfl

/-! ### State.closed -/

@[simp] theorem State.closed_pending (s : State) (t : State) : (s.closed t).pending = s.pending := rfl
@[simp] theorem State.closed_clk (s : State) (t : State) : (s.closed t).clk = t.clk := rfl
@[simp] theorem State.closed_mem (s : State) (t : State) : (s.closed t).mem = keepForm s.mem t.mem := rfl
@[simp] theorem State.closed_hbmErr (s : State) (t : State) : (s.closed t).hbmErr = t.hbmErr := rfl
@[simp] theorem State.closed_sramErr (s : State) (t : State) : (s.closed t).sramErr = t.sramErr := rfl
@[simp] theorem State.closed_hbm (s : State) (t : State) : (s.closed t).hbm = { t.hbm with lost := s.hbm.lost } := rfl
@[simp] theorem State.closed_ctl (s : State) (t : State) : (s.closed t).ctl = t.ctl := rfl
@[simp] theorem State.closed_dir (s : State) (t : State) : (s.closed t).dir = t.dir := rfl
@[simp] theorem State.closed_fx (s : State) (t : State) : (s.closed t).fx = t.fx := rfl
@[simp] theorem State.closed_releases (s : State) (t : State) : (s.closed t).releases = t.releases := rfl
@[simp] theorem State.closed_cores (s : State) (t : State) : (s.closed t).cores = t.cores := rfl
@[simp] theorem State.closed_hoops (s : State) (t : State) : (s.closed t).hoops = t.hoops := rfl
@[simp] theorem State.closed_binders (s : State) (t : State) : (s.closed t).binders = t.binders := rfl
@[simp] theorem State.closed_folCmd (s : State) (t : State) : (s.closed t).folCmd = t.folCmd := rfl
@[simp] theorem State.closed_bnd (s : State) (t : State) : (s.closed t).bnd = t.bnd := rfl
@[simp] theorem State.closed_fuses (s : State) (t : State) : (s.closed t).fuses = s.fuses := rfl
@[simp] theorem State.closed_linkFw (s : State) (t : State) : (s.closed t).linkFw = t.linkFw := rfl
@[simp] theorem State.closed_links (s : State) (t : State) : (s.closed t).links = t.links := rfl
@[simp] theorem State.closed_engines (s : State) (t : State) : (s.closed t).engines = t.engines := rfl
@[simp] theorem State.closed_peers (s : State) (t : State) : (s.closed t).peers = t.peers := rfl
@[simp] theorem State.closed_rxFlows (s : State) (t : State) : (s.closed t).rxFlows = t.rxFlows := rfl
@[simp] theorem State.closed_txFlows (s : State) (t : State) : (s.closed t).txFlows = t.txFlows := rfl
@[simp] theorem State.closed_txns (s : State) (t : State) : (s.closed t).txns = t.txns := rfl
@[simp] theorem State.closed_nextTag (s : State) (t : State) : (s.closed t).nextTag = t.nextTag := rfl
@[simp] theorem State.closed_rxbuf (s : State) (t : State) : (s.closed t).rxbuf = t.rxbuf := rfl
@[simp] theorem State.closed_leases (s : State) (t : State) : (s.closed t).leases = t.leases := rfl
@[simp] theorem State.closed_images (s : State) (t : State) : (s.closed t).images = t.images := rfl
@[simp] theorem State.closed_myLeases (s : State) (t : State) : (s.closed t).myLeases = t.myLeases := rfl
@[simp] theorem State.closed_xrun (s : State) (t : State) : (s.closed t).xrun = t.xrun := rfl
@[simp] theorem State.closed_repart (s : State) (t : State) : (s.closed t).repart = t.repart := rfl
@[simp] theorem State.closed_shBase (s : State) (t : State) : (s.closed t).shBase = t.shBase := rfl
@[simp] theorem State.closed_lease (s : State) (t : State) : (s.closed t).lease = t.lease := rfl
@[simp] theorem State.closed_retire (s : State) (t : State) : (s.closed t).retire = t.retire := rfl
@[simp] theorem State.closed_sent (s : State) (t : State) : (s.closed t).sent = t.sent := rfl
@[simp] theorem State.closed_irqs (s : State) (t : State) : (s.closed t).irqs = t.irqs := rfl
@[simp] theorem State.closed_eccSrc (s : State) (t : State) : (s.closed t).eccSrc = t.eccSrc := rfl
@[simp] theorem State.closed_flows (s : State) (t : State) : (s.closed t).flows = t.flows := rfl
@[simp] theorem State.closed_abinds (s : State) (t : State) : (s.closed t).abinds = t.abinds := rfl
@[simp] theorem State.closed_agrps (s : State) (t : State) : (s.closed t).agrps = t.agrps := rfl
@[simp] theorem State.closed_saps (s : State) (t : State) : (s.closed t).saps = t.saps := rfl
@[simp] theorem State.closed_chans (s : State) (t : State) : (s.closed t).chans = t.chans := rfl
@[simp] theorem State.closed_outs (s : State) (t : State) : (s.closed t).outs = t.outs := rfl
@[simp] theorem State.closed_pwr (s : State) (t : State) : (s.closed t).pwr = t.pwr := rfl
@[simp] theorem State.closed_colo (s : State) (t : State) : (s.closed t).colo = t.colo := rfl
@[simp] theorem State.closed_flashA (s : State) (t : State) : (s.closed t).flashA = t.flashA := rfl
@[simp] theorem State.closed_flashB (s : State) (t : State) : (s.closed t).flashB = t.flashB := rfl
@[simp] theorem State.closed_optRecs (s : State) (t : State) : (s.closed t).optRecs = t.optRecs := rfl
@[simp] theorem State.closed_spine (s : State) (t : State) : (s.closed t).spine = t.spine := rfl
@[simp] theorem State.closed_jtag (s : State) (t : State) : (s.closed t).jtag = t.jtag := rfl
@[simp] theorem State.closed_att (s : State) (t : State) : (s.closed t).att = t.att := rfl
@[simp] theorem State.closed_attWait (s : State) (t : State) : (s.closed t).attWait = t.attWait := rfl
@[simp] theorem State.closed_i2cs (s : State) (t : State) : (s.closed t).i2cs = t.i2cs := rfl
@[simp] theorem State.closed_attached (s : State) (t : State) : (s.closed t).attached = t.attached := rfl
@[simp] theorem State.closed_eths (s : State) (t : State) : (s.closed t).eths = t.eths := rfl
@[simp] theorem State.closed_free (s : State) (t : State) : (s.closed t).free = t.free := rfl

@[simp] theorem State.within_pending (s t : State) : (s.within t).pending = s.pending := rfl
@[simp] theorem State.within_fuses (s t : State) : (s.within t).fuses = s.fuses := rfl

/-! ### State.setSram -/

@[simp] theorem State.setSram_pending (s : State) (a : Nat) (e : LineErr) : (s.setSram a e).pending = s.pending := rfl
@[simp] theorem State.setSram_clk (s : State) (a : Nat) (e : LineErr) : (s.setSram a e).clk = s.clk := rfl
@[simp] theorem State.setSram_mem (s : State) (a : Nat) (e : LineErr) : (s.setSram a e).mem = s.mem := rfl
@[simp] theorem State.setSram_hbmErr (s : State) (a : Nat) (e : LineErr) : (s.setSram a e).hbmErr = s.hbmErr := rfl
@[simp] theorem State.setSram_hbm (s : State) (a : Nat) (e : LineErr) : (s.setSram a e).hbm = s.hbm := rfl
@[simp] theorem State.setSram_ctl (s : State) (a : Nat) (e : LineErr) : (s.setSram a e).ctl = s.ctl := rfl
@[simp] theorem State.setSram_dir (s : State) (a : Nat) (e : LineErr) : (s.setSram a e).dir = s.dir := rfl
@[simp] theorem State.setSram_fx (s : State) (a : Nat) (e : LineErr) : (s.setSram a e).fx = s.fx := rfl
@[simp] theorem State.setSram_releases (s : State) (a : Nat) (e : LineErr) : (s.setSram a e).releases = s.releases := rfl
@[simp] theorem State.setSram_cores (s : State) (a : Nat) (e : LineErr) : (s.setSram a e).cores = s.cores := rfl
@[simp] theorem State.setSram_hoops (s : State) (a : Nat) (e : LineErr) : (s.setSram a e).hoops = s.hoops := rfl
@[simp] theorem State.setSram_binders (s : State) (a : Nat) (e : LineErr) : (s.setSram a e).binders = s.binders := rfl
@[simp] theorem State.setSram_folCmd (s : State) (a : Nat) (e : LineErr) : (s.setSram a e).folCmd = s.folCmd := rfl
@[simp] theorem State.setSram_bnd (s : State) (a : Nat) (e : LineErr) : (s.setSram a e).bnd = s.bnd := rfl
@[simp] theorem State.setSram_fuses (s : State) (a : Nat) (e : LineErr) : (s.setSram a e).fuses = s.fuses := rfl
@[simp] theorem State.setSram_linkFw (s : State) (a : Nat) (e : LineErr) : (s.setSram a e).linkFw = s.linkFw := rfl
@[simp] theorem State.setSram_links (s : State) (a : Nat) (e : LineErr) : (s.setSram a e).links = s.links := rfl
@[simp] theorem State.setSram_engines (s : State) (a : Nat) (e : LineErr) : (s.setSram a e).engines = s.engines := rfl
@[simp] theorem State.setSram_peers (s : State) (a : Nat) (e : LineErr) : (s.setSram a e).peers = s.peers := rfl
@[simp] theorem State.setSram_rxFlows (s : State) (a : Nat) (e : LineErr) : (s.setSram a e).rxFlows = s.rxFlows := rfl
@[simp] theorem State.setSram_txFlows (s : State) (a : Nat) (e : LineErr) : (s.setSram a e).txFlows = s.txFlows := rfl
@[simp] theorem State.setSram_txns (s : State) (a : Nat) (e : LineErr) : (s.setSram a e).txns = s.txns := rfl
@[simp] theorem State.setSram_nextTag (s : State) (a : Nat) (e : LineErr) : (s.setSram a e).nextTag = s.nextTag := rfl
@[simp] theorem State.setSram_rxbuf (s : State) (a : Nat) (e : LineErr) : (s.setSram a e).rxbuf = s.rxbuf := rfl
@[simp] theorem State.setSram_leases (s : State) (a : Nat) (e : LineErr) : (s.setSram a e).leases = s.leases := rfl
@[simp] theorem State.setSram_images (s : State) (a : Nat) (e : LineErr) : (s.setSram a e).images = s.images := rfl
@[simp] theorem State.setSram_myLeases (s : State) (a : Nat) (e : LineErr) : (s.setSram a e).myLeases = s.myLeases := rfl
@[simp] theorem State.setSram_xrun (s : State) (a : Nat) (e : LineErr) : (s.setSram a e).xrun = s.xrun := rfl
@[simp] theorem State.setSram_repart (s : State) (a : Nat) (e : LineErr) : (s.setSram a e).repart = s.repart := rfl
@[simp] theorem State.setSram_shBase (s : State) (a : Nat) (e : LineErr) : (s.setSram a e).shBase = s.shBase := rfl
@[simp] theorem State.setSram_lease (s : State) (a : Nat) (e : LineErr) : (s.setSram a e).lease = s.lease := rfl
@[simp] theorem State.setSram_retire (s : State) (a : Nat) (e : LineErr) : (s.setSram a e).retire = s.retire := rfl
@[simp] theorem State.setSram_sent (s : State) (a : Nat) (e : LineErr) : (s.setSram a e).sent = s.sent := rfl
@[simp] theorem State.setSram_irqs (s : State) (a : Nat) (e : LineErr) : (s.setSram a e).irqs = s.irqs := rfl
@[simp] theorem State.setSram_eccSrc (s : State) (a : Nat) (e : LineErr) : (s.setSram a e).eccSrc = s.eccSrc := rfl
@[simp] theorem State.setSram_flows (s : State) (a : Nat) (e : LineErr) : (s.setSram a e).flows = s.flows := rfl
@[simp] theorem State.setSram_abinds (s : State) (a : Nat) (e : LineErr) : (s.setSram a e).abinds = s.abinds := rfl
@[simp] theorem State.setSram_agrps (s : State) (a : Nat) (e : LineErr) : (s.setSram a e).agrps = s.agrps := rfl
@[simp] theorem State.setSram_saps (s : State) (a : Nat) (e : LineErr) : (s.setSram a e).saps = s.saps := rfl
@[simp] theorem State.setSram_chans (s : State) (a : Nat) (e : LineErr) : (s.setSram a e).chans = s.chans := rfl
@[simp] theorem State.setSram_outs (s : State) (a : Nat) (e : LineErr) : (s.setSram a e).outs = s.outs := rfl
@[simp] theorem State.setSram_pwr (s : State) (a : Nat) (e : LineErr) : (s.setSram a e).pwr = s.pwr := rfl
@[simp] theorem State.setSram_colo (s : State) (a : Nat) (e : LineErr) : (s.setSram a e).colo = s.colo := rfl
@[simp] theorem State.setSram_flashA (s : State) (a : Nat) (e : LineErr) : (s.setSram a e).flashA = s.flashA := rfl
@[simp] theorem State.setSram_flashB (s : State) (a : Nat) (e : LineErr) : (s.setSram a e).flashB = s.flashB := rfl
@[simp] theorem State.setSram_optRecs (s : State) (a : Nat) (e : LineErr) : (s.setSram a e).optRecs = s.optRecs := rfl
@[simp] theorem State.setSram_spine (s : State) (a : Nat) (e : LineErr) : (s.setSram a e).spine = s.spine := rfl
@[simp] theorem State.setSram_jtag (s : State) (a : Nat) (e : LineErr) : (s.setSram a e).jtag = s.jtag := rfl
@[simp] theorem State.setSram_att (s : State) (a : Nat) (e : LineErr) : (s.setSram a e).att = s.att := rfl
@[simp] theorem State.setSram_attWait (s : State) (a : Nat) (e : LineErr) : (s.setSram a e).attWait = s.attWait := rfl
@[simp] theorem State.setSram_i2cs (s : State) (a : Nat) (e : LineErr) : (s.setSram a e).i2cs = s.i2cs := rfl
@[simp] theorem State.setSram_attached (s : State) (a : Nat) (e : LineErr) : (s.setSram a e).attached = s.attached := rfl
@[simp] theorem State.setSram_eths (s : State) (a : Nat) (e : LineErr) : (s.setSram a e).eths = s.eths := rfl
@[simp] theorem State.setSram_free (s : State) (a : Nat) (e : LineErr) : (s.setSram a e).free = s.free := rfl

/-! ### State.sramClear -/

@[simp] theorem State.sramClear_pending (s : State) (a n : Nat) : (s.sramClear a n).pending = s.pending := rfl
@[simp] theorem State.sramClear_clk (s : State) (a n : Nat) : (s.sramClear a n).clk = s.clk := rfl
@[simp] theorem State.sramClear_mem (s : State) (a n : Nat) : (s.sramClear a n).mem = s.mem := rfl
@[simp] theorem State.sramClear_hbmErr (s : State) (a n : Nat) : (s.sramClear a n).hbmErr = s.hbmErr := rfl
@[simp] theorem State.sramClear_hbm (s : State) (a n : Nat) : (s.sramClear a n).hbm = s.hbm := rfl
@[simp] theorem State.sramClear_ctl (s : State) (a n : Nat) : (s.sramClear a n).ctl = s.ctl := rfl
@[simp] theorem State.sramClear_dir (s : State) (a n : Nat) : (s.sramClear a n).dir = s.dir := rfl
@[simp] theorem State.sramClear_fx (s : State) (a n : Nat) : (s.sramClear a n).fx = s.fx := rfl
@[simp] theorem State.sramClear_releases (s : State) (a n : Nat) : (s.sramClear a n).releases = s.releases := rfl
@[simp] theorem State.sramClear_cores (s : State) (a n : Nat) : (s.sramClear a n).cores = s.cores := rfl
@[simp] theorem State.sramClear_hoops (s : State) (a n : Nat) : (s.sramClear a n).hoops = s.hoops := rfl
@[simp] theorem State.sramClear_binders (s : State) (a n : Nat) : (s.sramClear a n).binders = s.binders := rfl
@[simp] theorem State.sramClear_folCmd (s : State) (a n : Nat) : (s.sramClear a n).folCmd = s.folCmd := rfl
@[simp] theorem State.sramClear_bnd (s : State) (a n : Nat) : (s.sramClear a n).bnd = s.bnd := rfl
@[simp] theorem State.sramClear_fuses (s : State) (a n : Nat) : (s.sramClear a n).fuses = s.fuses := rfl
@[simp] theorem State.sramClear_linkFw (s : State) (a n : Nat) : (s.sramClear a n).linkFw = s.linkFw := rfl
@[simp] theorem State.sramClear_links (s : State) (a n : Nat) : (s.sramClear a n).links = s.links := rfl
@[simp] theorem State.sramClear_engines (s : State) (a n : Nat) : (s.sramClear a n).engines = s.engines := rfl
@[simp] theorem State.sramClear_peers (s : State) (a n : Nat) : (s.sramClear a n).peers = s.peers := rfl
@[simp] theorem State.sramClear_rxFlows (s : State) (a n : Nat) : (s.sramClear a n).rxFlows = s.rxFlows := rfl
@[simp] theorem State.sramClear_txFlows (s : State) (a n : Nat) : (s.sramClear a n).txFlows = s.txFlows := rfl
@[simp] theorem State.sramClear_txns (s : State) (a n : Nat) : (s.sramClear a n).txns = s.txns := rfl
@[simp] theorem State.sramClear_nextTag (s : State) (a n : Nat) : (s.sramClear a n).nextTag = s.nextTag := rfl
@[simp] theorem State.sramClear_rxbuf (s : State) (a n : Nat) : (s.sramClear a n).rxbuf = s.rxbuf := rfl
@[simp] theorem State.sramClear_leases (s : State) (a n : Nat) : (s.sramClear a n).leases = s.leases := rfl
@[simp] theorem State.sramClear_images (s : State) (a n : Nat) : (s.sramClear a n).images = s.images := rfl
@[simp] theorem State.sramClear_myLeases (s : State) (a n : Nat) : (s.sramClear a n).myLeases = s.myLeases := rfl
@[simp] theorem State.sramClear_xrun (s : State) (a n : Nat) : (s.sramClear a n).xrun = s.xrun := rfl
@[simp] theorem State.sramClear_repart (s : State) (a n : Nat) : (s.sramClear a n).repart = s.repart := rfl
@[simp] theorem State.sramClear_shBase (s : State) (a n : Nat) : (s.sramClear a n).shBase = s.shBase := rfl
@[simp] theorem State.sramClear_lease (s : State) (a n : Nat) : (s.sramClear a n).lease = s.lease := rfl
@[simp] theorem State.sramClear_retire (s : State) (a n : Nat) : (s.sramClear a n).retire = s.retire := rfl
@[simp] theorem State.sramClear_sent (s : State) (a n : Nat) : (s.sramClear a n).sent = s.sent := rfl
@[simp] theorem State.sramClear_irqs (s : State) (a n : Nat) : (s.sramClear a n).irqs = s.irqs := rfl
@[simp] theorem State.sramClear_eccSrc (s : State) (a n : Nat) : (s.sramClear a n).eccSrc = s.eccSrc := rfl
@[simp] theorem State.sramClear_flows (s : State) (a n : Nat) : (s.sramClear a n).flows = s.flows := rfl
@[simp] theorem State.sramClear_abinds (s : State) (a n : Nat) : (s.sramClear a n).abinds = s.abinds := rfl
@[simp] theorem State.sramClear_agrps (s : State) (a n : Nat) : (s.sramClear a n).agrps = s.agrps := rfl
@[simp] theorem State.sramClear_saps (s : State) (a n : Nat) : (s.sramClear a n).saps = s.saps := rfl
@[simp] theorem State.sramClear_chans (s : State) (a n : Nat) : (s.sramClear a n).chans = s.chans := rfl
@[simp] theorem State.sramClear_outs (s : State) (a n : Nat) : (s.sramClear a n).outs = s.outs := rfl
@[simp] theorem State.sramClear_pwr (s : State) (a n : Nat) : (s.sramClear a n).pwr = s.pwr := rfl
@[simp] theorem State.sramClear_colo (s : State) (a n : Nat) : (s.sramClear a n).colo = s.colo := rfl
@[simp] theorem State.sramClear_flashA (s : State) (a n : Nat) : (s.sramClear a n).flashA = s.flashA := rfl
@[simp] theorem State.sramClear_flashB (s : State) (a n : Nat) : (s.sramClear a n).flashB = s.flashB := rfl
@[simp] theorem State.sramClear_optRecs (s : State) (a n : Nat) : (s.sramClear a n).optRecs = s.optRecs := rfl
@[simp] theorem State.sramClear_spine (s : State) (a n : Nat) : (s.sramClear a n).spine = s.spine := rfl
@[simp] theorem State.sramClear_jtag (s : State) (a n : Nat) : (s.sramClear a n).jtag = s.jtag := rfl
@[simp] theorem State.sramClear_att (s : State) (a n : Nat) : (s.sramClear a n).att = s.att := rfl
@[simp] theorem State.sramClear_attWait (s : State) (a n : Nat) : (s.sramClear a n).attWait = s.attWait := rfl
@[simp] theorem State.sramClear_i2cs (s : State) (a n : Nat) : (s.sramClear a n).i2cs = s.i2cs := rfl
@[simp] theorem State.sramClear_attached (s : State) (a n : Nat) : (s.sramClear a n).attached = s.attached := rfl
@[simp] theorem State.sramClear_eths (s : State) (a n : Nat) : (s.sramClear a n).eths = s.eths := rfl
@[simp] theorem State.sramClear_free (s : State) (a n : Nat) : (s.sramClear a n).free = s.free := rfl

/-! ### State.sramDrop -/

@[simp] theorem State.sramDrop_pending (s : State) (a n : Nat) : (s.sramDrop a n).pending = s.pending := rfl
@[simp] theorem State.sramDrop_clk (s : State) (a n : Nat) : (s.sramDrop a n).clk = s.clk := rfl
@[simp] theorem State.sramDrop_mem (s : State) (a n : Nat) : (s.sramDrop a n).mem = s.mem := rfl
@[simp] theorem State.sramDrop_hbmErr (s : State) (a n : Nat) : (s.sramDrop a n).hbmErr = s.hbmErr := rfl
@[simp] theorem State.sramDrop_hbm (s : State) (a n : Nat) : (s.sramDrop a n).hbm = s.hbm := rfl
@[simp] theorem State.sramDrop_ctl (s : State) (a n : Nat) : (s.sramDrop a n).ctl = s.ctl := rfl
@[simp] theorem State.sramDrop_dir (s : State) (a n : Nat) : (s.sramDrop a n).dir = s.dir := rfl
@[simp] theorem State.sramDrop_fx (s : State) (a n : Nat) : (s.sramDrop a n).fx = s.fx := rfl
@[simp] theorem State.sramDrop_releases (s : State) (a n : Nat) : (s.sramDrop a n).releases = s.releases := rfl
@[simp] theorem State.sramDrop_cores (s : State) (a n : Nat) : (s.sramDrop a n).cores = s.cores := rfl
@[simp] theorem State.sramDrop_hoops (s : State) (a n : Nat) : (s.sramDrop a n).hoops = s.hoops := rfl
@[simp] theorem State.sramDrop_binders (s : State) (a n : Nat) : (s.sramDrop a n).binders = s.binders := rfl
@[simp] theorem State.sramDrop_folCmd (s : State) (a n : Nat) : (s.sramDrop a n).folCmd = s.folCmd := rfl
@[simp] theorem State.sramDrop_bnd (s : State) (a n : Nat) : (s.sramDrop a n).bnd = s.bnd := rfl
@[simp] theorem State.sramDrop_fuses (s : State) (a n : Nat) : (s.sramDrop a n).fuses = s.fuses := rfl
@[simp] theorem State.sramDrop_linkFw (s : State) (a n : Nat) : (s.sramDrop a n).linkFw = s.linkFw := rfl
@[simp] theorem State.sramDrop_links (s : State) (a n : Nat) : (s.sramDrop a n).links = s.links := rfl
@[simp] theorem State.sramDrop_engines (s : State) (a n : Nat) : (s.sramDrop a n).engines = s.engines := rfl
@[simp] theorem State.sramDrop_peers (s : State) (a n : Nat) : (s.sramDrop a n).peers = s.peers := rfl
@[simp] theorem State.sramDrop_rxFlows (s : State) (a n : Nat) : (s.sramDrop a n).rxFlows = s.rxFlows := rfl
@[simp] theorem State.sramDrop_txFlows (s : State) (a n : Nat) : (s.sramDrop a n).txFlows = s.txFlows := rfl
@[simp] theorem State.sramDrop_txns (s : State) (a n : Nat) : (s.sramDrop a n).txns = s.txns := rfl
@[simp] theorem State.sramDrop_nextTag (s : State) (a n : Nat) : (s.sramDrop a n).nextTag = s.nextTag := rfl
@[simp] theorem State.sramDrop_rxbuf (s : State) (a n : Nat) : (s.sramDrop a n).rxbuf = s.rxbuf := rfl
@[simp] theorem State.sramDrop_leases (s : State) (a n : Nat) : (s.sramDrop a n).leases = s.leases := rfl
@[simp] theorem State.sramDrop_images (s : State) (a n : Nat) : (s.sramDrop a n).images = s.images := rfl
@[simp] theorem State.sramDrop_myLeases (s : State) (a n : Nat) : (s.sramDrop a n).myLeases = s.myLeases := rfl
@[simp] theorem State.sramDrop_xrun (s : State) (a n : Nat) : (s.sramDrop a n).xrun = s.xrun := rfl
@[simp] theorem State.sramDrop_repart (s : State) (a n : Nat) : (s.sramDrop a n).repart = s.repart := rfl
@[simp] theorem State.sramDrop_shBase (s : State) (a n : Nat) : (s.sramDrop a n).shBase = s.shBase := rfl
@[simp] theorem State.sramDrop_lease (s : State) (a n : Nat) : (s.sramDrop a n).lease = s.lease := rfl
@[simp] theorem State.sramDrop_retire (s : State) (a n : Nat) : (s.sramDrop a n).retire = s.retire := rfl
@[simp] theorem State.sramDrop_sent (s : State) (a n : Nat) : (s.sramDrop a n).sent = s.sent := rfl
@[simp] theorem State.sramDrop_irqs (s : State) (a n : Nat) : (s.sramDrop a n).irqs = s.irqs := rfl
@[simp] theorem State.sramDrop_eccSrc (s : State) (a n : Nat) : (s.sramDrop a n).eccSrc = s.eccSrc := rfl
@[simp] theorem State.sramDrop_flows (s : State) (a n : Nat) : (s.sramDrop a n).flows = s.flows := rfl
@[simp] theorem State.sramDrop_abinds (s : State) (a n : Nat) : (s.sramDrop a n).abinds = s.abinds := rfl
@[simp] theorem State.sramDrop_agrps (s : State) (a n : Nat) : (s.sramDrop a n).agrps = s.agrps := rfl
@[simp] theorem State.sramDrop_saps (s : State) (a n : Nat) : (s.sramDrop a n).saps = s.saps := rfl
@[simp] theorem State.sramDrop_chans (s : State) (a n : Nat) : (s.sramDrop a n).chans = s.chans := rfl
@[simp] theorem State.sramDrop_outs (s : State) (a n : Nat) : (s.sramDrop a n).outs = s.outs := rfl
@[simp] theorem State.sramDrop_pwr (s : State) (a n : Nat) : (s.sramDrop a n).pwr = s.pwr := rfl
@[simp] theorem State.sramDrop_colo (s : State) (a n : Nat) : (s.sramDrop a n).colo = s.colo := rfl
@[simp] theorem State.sramDrop_flashA (s : State) (a n : Nat) : (s.sramDrop a n).flashA = s.flashA := rfl
@[simp] theorem State.sramDrop_flashB (s : State) (a n : Nat) : (s.sramDrop a n).flashB = s.flashB := rfl
@[simp] theorem State.sramDrop_optRecs (s : State) (a n : Nat) : (s.sramDrop a n).optRecs = s.optRecs := rfl
@[simp] theorem State.sramDrop_spine (s : State) (a n : Nat) : (s.sramDrop a n).spine = s.spine := rfl
@[simp] theorem State.sramDrop_jtag (s : State) (a n : Nat) : (s.sramDrop a n).jtag = s.jtag := rfl
@[simp] theorem State.sramDrop_att (s : State) (a n : Nat) : (s.sramDrop a n).att = s.att := rfl
@[simp] theorem State.sramDrop_attWait (s : State) (a n : Nat) : (s.sramDrop a n).attWait = s.attWait := rfl
@[simp] theorem State.sramDrop_i2cs (s : State) (a n : Nat) : (s.sramDrop a n).i2cs = s.i2cs := rfl
@[simp] theorem State.sramDrop_attached (s : State) (a n : Nat) : (s.sramDrop a n).attached = s.attached := rfl
@[simp] theorem State.sramDrop_eths (s : State) (a n : Nat) : (s.sramDrop a n).eths = s.eths := rfl
@[simp] theorem State.sramDrop_free (s : State) (a n : Nat) : (s.sramDrop a n).free = s.free := rfl

/-! ### State.patchRx -/

@[simp] theorem State.patchRx_pending (s : State) (who a : Nat) (bs : List Byte) : (s.patchRx who a bs).pending = s.pending := rfl
@[simp] theorem State.patchRx_clk (s : State) (who a : Nat) (bs : List Byte) : (s.patchRx who a bs).clk = s.clk := rfl
@[simp] theorem State.patchRx_mem (s : State) (who a : Nat) (bs : List Byte) : (s.patchRx who a bs).mem = s.mem := rfl
@[simp] theorem State.patchRx_hbmErr (s : State) (who a : Nat) (bs : List Byte) : (s.patchRx who a bs).hbmErr = s.hbmErr := rfl
@[simp] theorem State.patchRx_sramErr (s : State) (who a : Nat) (bs : List Byte) : (s.patchRx who a bs).sramErr = s.sramErr := rfl
@[simp] theorem State.patchRx_hbm (s : State) (who a : Nat) (bs : List Byte) : (s.patchRx who a bs).hbm = s.hbm := rfl
@[simp] theorem State.patchRx_ctl (s : State) (who a : Nat) (bs : List Byte) : (s.patchRx who a bs).ctl = s.ctl := rfl
@[simp] theorem State.patchRx_dir (s : State) (who a : Nat) (bs : List Byte) : (s.patchRx who a bs).dir = s.dir := rfl
@[simp] theorem State.patchRx_fx (s : State) (who a : Nat) (bs : List Byte) : (s.patchRx who a bs).fx = s.fx := rfl
@[simp] theorem State.patchRx_releases (s : State) (who a : Nat) (bs : List Byte) : (s.patchRx who a bs).releases = s.releases := rfl
@[simp] theorem State.patchRx_cores (s : State) (who a : Nat) (bs : List Byte) : (s.patchRx who a bs).cores = s.cores := rfl
@[simp] theorem State.patchRx_hoops (s : State) (who a : Nat) (bs : List Byte) : (s.patchRx who a bs).hoops = s.hoops := rfl
@[simp] theorem State.patchRx_binders (s : State) (who a : Nat) (bs : List Byte) : (s.patchRx who a bs).binders = s.binders := rfl
@[simp] theorem State.patchRx_folCmd (s : State) (who a : Nat) (bs : List Byte) : (s.patchRx who a bs).folCmd = s.folCmd := rfl
@[simp] theorem State.patchRx_bnd (s : State) (who a : Nat) (bs : List Byte) : (s.patchRx who a bs).bnd = s.bnd := rfl
@[simp] theorem State.patchRx_fuses (s : State) (who a : Nat) (bs : List Byte) : (s.patchRx who a bs).fuses = s.fuses := rfl
@[simp] theorem State.patchRx_linkFw (s : State) (who a : Nat) (bs : List Byte) : (s.patchRx who a bs).linkFw = s.linkFw := rfl
@[simp] theorem State.patchRx_links (s : State) (who a : Nat) (bs : List Byte) : (s.patchRx who a bs).links = s.links := rfl
@[simp] theorem State.patchRx_engines (s : State) (who a : Nat) (bs : List Byte) : (s.patchRx who a bs).engines = s.engines := rfl
@[simp] theorem State.patchRx_peers (s : State) (who a : Nat) (bs : List Byte) : (s.patchRx who a bs).peers = s.peers := rfl
@[simp] theorem State.patchRx_rxFlows (s : State) (who a : Nat) (bs : List Byte) : (s.patchRx who a bs).rxFlows = s.rxFlows := rfl
@[simp] theorem State.patchRx_txFlows (s : State) (who a : Nat) (bs : List Byte) : (s.patchRx who a bs).txFlows = s.txFlows := rfl
@[simp] theorem State.patchRx_txns (s : State) (who a : Nat) (bs : List Byte) : (s.patchRx who a bs).txns = s.txns := rfl
@[simp] theorem State.patchRx_nextTag (s : State) (who a : Nat) (bs : List Byte) : (s.patchRx who a bs).nextTag = s.nextTag := rfl
@[simp] theorem State.patchRx_leases (s : State) (who a : Nat) (bs : List Byte) : (s.patchRx who a bs).leases = s.leases := rfl
@[simp] theorem State.patchRx_images (s : State) (who a : Nat) (bs : List Byte) : (s.patchRx who a bs).images = s.images := rfl
@[simp] theorem State.patchRx_myLeases (s : State) (who a : Nat) (bs : List Byte) : (s.patchRx who a bs).myLeases = s.myLeases := rfl
@[simp] theorem State.patchRx_xrun (s : State) (who a : Nat) (bs : List Byte) : (s.patchRx who a bs).xrun = s.xrun := rfl
@[simp] theorem State.patchRx_repart (s : State) (who a : Nat) (bs : List Byte) : (s.patchRx who a bs).repart = s.repart := rfl
@[simp] theorem State.patchRx_shBase (s : State) (who a : Nat) (bs : List Byte) : (s.patchRx who a bs).shBase = s.shBase := rfl
@[simp] theorem State.patchRx_lease (s : State) (who a : Nat) (bs : List Byte) : (s.patchRx who a bs).lease = s.lease := rfl
@[simp] theorem State.patchRx_retire (s : State) (who a : Nat) (bs : List Byte) : (s.patchRx who a bs).retire = s.retire := rfl
@[simp] theorem State.patchRx_sent (s : State) (who a : Nat) (bs : List Byte) : (s.patchRx who a bs).sent = s.sent := rfl
@[simp] theorem State.patchRx_irqs (s : State) (who a : Nat) (bs : List Byte) : (s.patchRx who a bs).irqs = s.irqs := rfl
@[simp] theorem State.patchRx_eccSrc (s : State) (who a : Nat) (bs : List Byte) : (s.patchRx who a bs).eccSrc = s.eccSrc := rfl
@[simp] theorem State.patchRx_flows (s : State) (who a : Nat) (bs : List Byte) : (s.patchRx who a bs).flows = s.flows := rfl
@[simp] theorem State.patchRx_abinds (s : State) (who a : Nat) (bs : List Byte) : (s.patchRx who a bs).abinds = s.abinds := rfl
@[simp] theorem State.patchRx_agrps (s : State) (who a : Nat) (bs : List Byte) : (s.patchRx who a bs).agrps = s.agrps := rfl
@[simp] theorem State.patchRx_saps (s : State) (who a : Nat) (bs : List Byte) : (s.patchRx who a bs).saps = s.saps := rfl
@[simp] theorem State.patchRx_chans (s : State) (who a : Nat) (bs : List Byte) : (s.patchRx who a bs).chans = s.chans := rfl
@[simp] theorem State.patchRx_outs (s : State) (who a : Nat) (bs : List Byte) : (s.patchRx who a bs).outs = s.outs := rfl
@[simp] theorem State.patchRx_pwr (s : State) (who a : Nat) (bs : List Byte) : (s.patchRx who a bs).pwr = s.pwr := rfl
@[simp] theorem State.patchRx_colo (s : State) (who a : Nat) (bs : List Byte) : (s.patchRx who a bs).colo = s.colo := rfl
@[simp] theorem State.patchRx_flashA (s : State) (who a : Nat) (bs : List Byte) : (s.patchRx who a bs).flashA = s.flashA := rfl
@[simp] theorem State.patchRx_flashB (s : State) (who a : Nat) (bs : List Byte) : (s.patchRx who a bs).flashB = s.flashB := rfl
@[simp] theorem State.patchRx_optRecs (s : State) (who a : Nat) (bs : List Byte) : (s.patchRx who a bs).optRecs = s.optRecs := rfl
@[simp] theorem State.patchRx_spine (s : State) (who a : Nat) (bs : List Byte) : (s.patchRx who a bs).spine = s.spine := rfl
@[simp] theorem State.patchRx_jtag (s : State) (who a : Nat) (bs : List Byte) : (s.patchRx who a bs).jtag = s.jtag := rfl
@[simp] theorem State.patchRx_att (s : State) (who a : Nat) (bs : List Byte) : (s.patchRx who a bs).att = s.att := rfl
@[simp] theorem State.patchRx_attWait (s : State) (who a : Nat) (bs : List Byte) : (s.patchRx who a bs).attWait = s.attWait := rfl
@[simp] theorem State.patchRx_i2cs (s : State) (who a : Nat) (bs : List Byte) : (s.patchRx who a bs).i2cs = s.i2cs := rfl
@[simp] theorem State.patchRx_attached (s : State) (who a : Nat) (bs : List Byte) : (s.patchRx who a bs).attached = s.attached := rfl
@[simp] theorem State.patchRx_eths (s : State) (who a : Nat) (bs : List Byte) : (s.patchRx who a bs).eths = s.eths := rfl
@[simp] theorem State.patchRx_free (s : State) (who a : Nat) (bs : List Byte) : (s.patchRx who a bs).free = s.free := rfl

/-! ### State.updRxFlow -/

@[simp] theorem State.updRxFlow_pending (s : State) (d k : Nat) (f : RxFlow → RxFlow) : (s.updRxFlow d k f).pending = s.pending := rfl
@[simp] theorem State.updRxFlow_clk (s : State) (d k : Nat) (f : RxFlow → RxFlow) : (s.updRxFlow d k f).clk = s.clk := rfl
@[simp] theorem State.updRxFlow_mem (s : State) (d k : Nat) (f : RxFlow → RxFlow) : (s.updRxFlow d k f).mem = s.mem := rfl
@[simp] theorem State.updRxFlow_hbmErr (s : State) (d k : Nat) (f : RxFlow → RxFlow) : (s.updRxFlow d k f).hbmErr = s.hbmErr := rfl
@[simp] theorem State.updRxFlow_sramErr (s : State) (d k : Nat) (f : RxFlow → RxFlow) : (s.updRxFlow d k f).sramErr = s.sramErr := rfl
@[simp] theorem State.updRxFlow_hbm (s : State) (d k : Nat) (f : RxFlow → RxFlow) : (s.updRxFlow d k f).hbm = s.hbm := rfl
@[simp] theorem State.updRxFlow_ctl (s : State) (d k : Nat) (f : RxFlow → RxFlow) : (s.updRxFlow d k f).ctl = s.ctl := rfl
@[simp] theorem State.updRxFlow_dir (s : State) (d k : Nat) (f : RxFlow → RxFlow) : (s.updRxFlow d k f).dir = s.dir := rfl
@[simp] theorem State.updRxFlow_fx (s : State) (d k : Nat) (f : RxFlow → RxFlow) : (s.updRxFlow d k f).fx = s.fx := rfl
@[simp] theorem State.updRxFlow_releases (s : State) (d k : Nat) (f : RxFlow → RxFlow) : (s.updRxFlow d k f).releases = s.releases := rfl
@[simp] theorem State.updRxFlow_cores (s : State) (d k : Nat) (f : RxFlow → RxFlow) : (s.updRxFlow d k f).cores = s.cores := rfl
@[simp] theorem State.updRxFlow_hoops (s : State) (d k : Nat) (f : RxFlow → RxFlow) : (s.updRxFlow d k f).hoops = s.hoops := rfl
@[simp] theorem State.updRxFlow_binders (s : State) (d k : Nat) (f : RxFlow → RxFlow) : (s.updRxFlow d k f).binders = s.binders := rfl
@[simp] theorem State.updRxFlow_folCmd (s : State) (d k : Nat) (f : RxFlow → RxFlow) : (s.updRxFlow d k f).folCmd = s.folCmd := rfl
@[simp] theorem State.updRxFlow_bnd (s : State) (d k : Nat) (f : RxFlow → RxFlow) : (s.updRxFlow d k f).bnd = s.bnd := rfl
@[simp] theorem State.updRxFlow_fuses (s : State) (d k : Nat) (f : RxFlow → RxFlow) : (s.updRxFlow d k f).fuses = s.fuses := rfl
@[simp] theorem State.updRxFlow_linkFw (s : State) (d k : Nat) (f : RxFlow → RxFlow) : (s.updRxFlow d k f).linkFw = s.linkFw := rfl
@[simp] theorem State.updRxFlow_links (s : State) (d k : Nat) (f : RxFlow → RxFlow) : (s.updRxFlow d k f).links = s.links := rfl
@[simp] theorem State.updRxFlow_engines (s : State) (d k : Nat) (f : RxFlow → RxFlow) : (s.updRxFlow d k f).engines = s.engines := rfl
@[simp] theorem State.updRxFlow_peers (s : State) (d k : Nat) (f : RxFlow → RxFlow) : (s.updRxFlow d k f).peers = s.peers := rfl
@[simp] theorem State.updRxFlow_txFlows (s : State) (d k : Nat) (f : RxFlow → RxFlow) : (s.updRxFlow d k f).txFlows = s.txFlows := rfl
@[simp] theorem State.updRxFlow_txns (s : State) (d k : Nat) (f : RxFlow → RxFlow) : (s.updRxFlow d k f).txns = s.txns := rfl
@[simp] theorem State.updRxFlow_nextTag (s : State) (d k : Nat) (f : RxFlow → RxFlow) : (s.updRxFlow d k f).nextTag = s.nextTag := rfl
@[simp] theorem State.updRxFlow_rxbuf (s : State) (d k : Nat) (f : RxFlow → RxFlow) : (s.updRxFlow d k f).rxbuf = s.rxbuf := rfl
@[simp] theorem State.updRxFlow_leases (s : State) (d k : Nat) (f : RxFlow → RxFlow) : (s.updRxFlow d k f).leases = s.leases := rfl
@[simp] theorem State.updRxFlow_images (s : State) (d k : Nat) (f : RxFlow → RxFlow) : (s.updRxFlow d k f).images = s.images := rfl
@[simp] theorem State.updRxFlow_myLeases (s : State) (d k : Nat) (f : RxFlow → RxFlow) : (s.updRxFlow d k f).myLeases = s.myLeases := rfl
@[simp] theorem State.updRxFlow_xrun (s : State) (d k : Nat) (f : RxFlow → RxFlow) : (s.updRxFlow d k f).xrun = s.xrun := rfl
@[simp] theorem State.updRxFlow_repart (s : State) (d k : Nat) (f : RxFlow → RxFlow) : (s.updRxFlow d k f).repart = s.repart := rfl
@[simp] theorem State.updRxFlow_shBase (s : State) (d k : Nat) (f : RxFlow → RxFlow) : (s.updRxFlow d k f).shBase = s.shBase := rfl
@[simp] theorem State.updRxFlow_lease (s : State) (d k : Nat) (f : RxFlow → RxFlow) : (s.updRxFlow d k f).lease = s.lease := rfl
@[simp] theorem State.updRxFlow_retire (s : State) (d k : Nat) (f : RxFlow → RxFlow) : (s.updRxFlow d k f).retire = s.retire := rfl
@[simp] theorem State.updRxFlow_sent (s : State) (d k : Nat) (f : RxFlow → RxFlow) : (s.updRxFlow d k f).sent = s.sent := rfl
@[simp] theorem State.updRxFlow_irqs (s : State) (d k : Nat) (f : RxFlow → RxFlow) : (s.updRxFlow d k f).irqs = s.irqs := rfl
@[simp] theorem State.updRxFlow_eccSrc (s : State) (d k : Nat) (f : RxFlow → RxFlow) : (s.updRxFlow d k f).eccSrc = s.eccSrc := rfl
@[simp] theorem State.updRxFlow_flows (s : State) (d k : Nat) (f : RxFlow → RxFlow) : (s.updRxFlow d k f).flows = s.flows := rfl
@[simp] theorem State.updRxFlow_abinds (s : State) (d k : Nat) (f : RxFlow → RxFlow) : (s.updRxFlow d k f).abinds = s.abinds := rfl
@[simp] theorem State.updRxFlow_agrps (s : State) (d k : Nat) (f : RxFlow → RxFlow) : (s.updRxFlow d k f).agrps = s.agrps := rfl
@[simp] theorem State.updRxFlow_saps (s : State) (d k : Nat) (f : RxFlow → RxFlow) : (s.updRxFlow d k f).saps = s.saps := rfl
@[simp] theorem State.updRxFlow_chans (s : State) (d k : Nat) (f : RxFlow → RxFlow) : (s.updRxFlow d k f).chans = s.chans := rfl
@[simp] theorem State.updRxFlow_outs (s : State) (d k : Nat) (f : RxFlow → RxFlow) : (s.updRxFlow d k f).outs = s.outs := rfl
@[simp] theorem State.updRxFlow_pwr (s : State) (d k : Nat) (f : RxFlow → RxFlow) : (s.updRxFlow d k f).pwr = s.pwr := rfl
@[simp] theorem State.updRxFlow_colo (s : State) (d k : Nat) (f : RxFlow → RxFlow) : (s.updRxFlow d k f).colo = s.colo := rfl
@[simp] theorem State.updRxFlow_flashA (s : State) (d k : Nat) (f : RxFlow → RxFlow) : (s.updRxFlow d k f).flashA = s.flashA := rfl
@[simp] theorem State.updRxFlow_flashB (s : State) (d k : Nat) (f : RxFlow → RxFlow) : (s.updRxFlow d k f).flashB = s.flashB := rfl
@[simp] theorem State.updRxFlow_optRecs (s : State) (d k : Nat) (f : RxFlow → RxFlow) : (s.updRxFlow d k f).optRecs = s.optRecs := rfl
@[simp] theorem State.updRxFlow_spine (s : State) (d k : Nat) (f : RxFlow → RxFlow) : (s.updRxFlow d k f).spine = s.spine := rfl
@[simp] theorem State.updRxFlow_jtag (s : State) (d k : Nat) (f : RxFlow → RxFlow) : (s.updRxFlow d k f).jtag = s.jtag := rfl
@[simp] theorem State.updRxFlow_att (s : State) (d k : Nat) (f : RxFlow → RxFlow) : (s.updRxFlow d k f).att = s.att := rfl
@[simp] theorem State.updRxFlow_attWait (s : State) (d k : Nat) (f : RxFlow → RxFlow) : (s.updRxFlow d k f).attWait = s.attWait := rfl
@[simp] theorem State.updRxFlow_i2cs (s : State) (d k : Nat) (f : RxFlow → RxFlow) : (s.updRxFlow d k f).i2cs = s.i2cs := rfl
@[simp] theorem State.updRxFlow_attached (s : State) (d k : Nat) (f : RxFlow → RxFlow) : (s.updRxFlow d k f).attached = s.attached := rfl
@[simp] theorem State.updRxFlow_eths (s : State) (d k : Nat) (f : RxFlow → RxFlow) : (s.updRxFlow d k f).eths = s.eths := rfl
@[simp] theorem State.updRxFlow_free (s : State) (d k : Nat) (f : RxFlow → RxFlow) : (s.updRxFlow d k f).free = s.free := rfl

end Sys2Proof.Machine
end

