-- ==== Sys2Proof/Laws/Frames.lean ====
section
/-! SUPPORT. The frames that every command's meaning stands in: what they answer once their conditions hold. -/
namespace Sys2Proof.Machine

/-- A list of bytes put one after the other is memory in canonical form. -/
theorem canon_wf (l : List Host.Cell) : SMap.wf 0 (l.foldr (fun p l => SMap.put 0 l p.1 p.2) []) = true := by
  induction l with
  | nil => rfl
  | cons p l ih => exact SMap.wf_put 0 _ _ _ ih

theorem canon_get (l : List Host.Cell) (a : Nat) :
    SMap.get 0 (l.foldr (fun p l => SMap.put 0 l p.1 p.2) []) a = SMap.get 0 l a := by
  induction l with
  | nil => rfl
  | cons p l ih =>
    rw [List.foldr_cons, SMap.get_cons]
    by_cases e : p.1 = a
    · rw [e, SMap.get_put_self, if_pos rfl]
    · rw [SMap.get_put_ne _ _ _ (Ne.symm e), ih, if_neg e]

/-- Memory after an effect is what the effect left, where that is in canonical form or nothing changed; else its canonical
form. -/
theorem keepForm_cases (m m' : List Host.Cell) :
    (SMap.wf 0 m' = true ∧ keepForm m m' = m') ∨ (m' = m ∧ keepForm m m' = m) ∨
      keepForm m m' = m'.foldr (fun p l => SMap.put 0 l p.1 p.2) [] := by
  unfold keepForm
  cases SMap.wf 0 m'
  · by_cases e : m' = m
    · exact .inr (.inl ⟨e, by rw [decide_eq_true e]; rfl⟩)
    · exact .inr (.inr (by rw [decide_eq_false e]; rfl))
  · exact .inl ⟨rfl, rfl⟩

theorem keepForm_of_wf (m : List Host.Cell) {m' : List Host.Cell} (h : SMap.wf 0 m' = true) : keepForm m m' = m' := by
  unfold keepForm
  rw [h]
  rfl

@[simp] theorem keepForm_self (m : List Host.Cell) : keepForm m m = m := by
  unfold keepForm
  cases SMap.wf 0 m <;> simp

/-- Memory after an effect is in canonical form where it was before. -/
theorem keepForm_wf {m : List Host.Cell} (h : Memory.wf m = true) (m' : List Host.Cell) : Memory.wf (keepForm m m') = true := by
  rcases keepForm_cases m m' with ⟨h1, h2⟩ | ⟨_, h2⟩ | h2
  · rw [h2]; exact h1
  · rw [h2]; exact h
  · rw [h2]; exact canon_wf m'

@[simp] theorem keepForm_keepForm (m m' : List Host.Cell) : keepForm m (keepForm m m') = keepForm m m' := by
  rcases keepForm_cases m m' with ⟨h1, h2⟩ | ⟨_, h2⟩ | h2
  · rw [h2, keepForm_of_wf m h1]
  · rw [h2, keepForm_self]
  · rw [h2, keepForm_of_wf m (canon_wf m')]

/-- Memory after an effect reads as the effect left it. -/
theorem keepForm_get (m m' : List Host.Cell) (a : Nat) : SMap.get 0 (keepForm m m') a = SMap.get 0 m' a := by
  rcases keepForm_cases m m' with ⟨_, h2⟩ | ⟨h1, h2⟩ | h2
  · rw [h2]
  · rw [h2, h1]
  · rw [h2, canon_get]

theorem State.closed_peek (s t : State) (a n : Nat) : (s.closed t).peek a n = t.peek a n := by
  simp only [State.peek, State.closed_mem, keepForm_get]

/-- An effect that leaves the HBM controller alone has lost no line. -/
theorem State.lostLines_same {s t : State} (h : t.hbm = s.hbm) : s.lostLines t = [] := by simp [State.lostLines, h]

/-- An effect that has lost no line is closed as it stands. -/
theorem State.within_sound {s t : State} (h : s.lostLines t = []) : s.within t = s.closed t := by
  simp [State.within, State.lostPages, h]

@[simp] theorem State.within_self (s : State) : s.within s = s := by
  rw [State.within_sound (State.lostLines_same rfl)]
  simp [State.closed]

/-- A frame within a frame is the frame once. -/
@[simp] theorem State.within_within (s t : State) : s.within (s.within t) = s.within t := by
  rw [State.within_sound (s := s) (t := s.within t) (by simp [State.lostLines, State.within])]
  simp only [State.within, State.closed, keepForm_keepForm]

/-- Every effect leaves memory in canonical form. -/
theorem State.within_wf {s : State} (h : Memory.wf s.mem = true) (t : State) : Memory.wf (s.within t).mem = true := by
  simpa [State.within] using keepForm_wf h _

@[simp] theorem State.clockRun_pending (s : State) : s.clockRun.pending = s.pending := rfl
@[simp] theorem State.clockRun_fuses (s : State) : s.clockRun.fuses = s.fuses := rfl
@[simp] theorem State.clockRun_clk (s : State) : s.clockRun.clk = s.clk := rfl

/-- A register command that its port may give takes effect. -/
theorem regCmd_ok {s : State} {p : Port} {a : Nat} {eff : State → State} (h : Permit s p a) :
    s.regCmd p a eff = s.within (eff s) := by
  obtain ⟨h1, h2, h3, h4⟩ := h
  have h5 : (s.spineDown && pausedReg a) = false := by
    cases hs : s.spineDown
    · rfl
    · rw [h3 hs]; rfl
  rcases h4 with h4 | h4 <;> simp [State.regCmd, h1, h2, h5, h4]

/-- A register command that the level of its port does not permit is refused. -/
theorem regCmd_denied {s : State} {p : Port} {a : Nat} {eff : State → State} (h : s.portQuiet p = false)
    (h2 : s.mayWrite p a = false) : s.regCmd p a eff = s.denied p := by simp [State.regCmd, h, h2]

/-- A port that gives no command changes nothing. -/
theorem regCmd_quiet {s : State} {p : Port} {a : Nat} {eff : State → State} (h : s.portQuiet p = true) :
    s.regCmd p a eff = s := by simp [State.regCmd, h]

/-- A command that a Spine restart pauses, or one of a domain without power, is lost. -/
theorem regCmd_lost {s : State} {p : Port} {a : Nat} {eff : State → State} (h1 : s.mayWrite p a = true)
    (h2 : (s.spineDown = true ∧ pausedReg a = true) ∨ (alwaysOn a = false ∧ s.mainOn = false)) : s.regCmd p a eff = s := by
  rcases h2 with ⟨h2, h3⟩ | ⟨h2, h3⟩ <;> simp [State.regCmd, h1, h2, h3]

/-- A port that gives no command; or one refused; or lost; or one that takes effect. -/
theorem permit_cases (s : State) (p : Port) (a : Nat) :
    s.portQuiet p = true ∨ (s.portQuiet p = false ∧ s.mayWrite p a = false) ∨
      (s.mayWrite p a = true ∧ ((s.spineDown = true ∧ pausedReg a = true) ∨ (alwaysOn a = false ∧ s.mainOn = false))) ∨
      Permit s p a := by
  unfold Permit
  cases s.portQuiet p <;> cases s.mayWrite p a <;> cases s.spineDown <;> cases pausedReg a <;> cases alwaysOn a <;>
    cases s.mainOn <;> simp

/-- The frame of a register command twice is the frame once. -/
theorem regCmd_regCmd {s : State} {p : Port} {a : Nat} {eff : State → State} :
    s.regCmd p a (fun s => s.regCmd p a eff) = s.regCmd p a eff := by
  rcases permit_cases s p a with h | ⟨h1, h2⟩ | ⟨h1, h2⟩ | h
  · rw [regCmd_quiet h, regCmd_quiet h]
  · rw [regCmd_denied h1 h2, regCmd_denied h1 h2]
  · rw [regCmd_lost h1 h2, regCmd_lost h1 h2]
  · rw [regCmd_ok h, regCmd_ok h, State.within_within]

/-- A whole-word write of a register is the frame of its command. -/
theorem regWrite_frame {p : Port} {v : W64} {s : State} {a : Nat} (h : a < 2 ^ 64) (h1 : a % 8 = 0) (h2 : inControl a = true) :
    exec (.regWrite p (BitVec.ofNat 64 a) 64 v) s = .next (s.regCmd p a (fun s => s.writeReg p a v)) := by
  have : (BitVec.ofNat 64 a).toNat = a := by simp; omega
  have h3 : a / 8 * 8 = a := by omega
  simp only [exec, execRegWrite, State.ctlWrite, this, h1, h2, h3]
  rcases permit_cases s p a with h4 | ⟨h4, h5⟩ | ⟨h4, h5⟩ | h4
  · rw [regCmd_quiet h4]; simp [h4]
  · rw [regCmd_denied h4 h5]; simp [h4, h5]
  · rw [regCmd_lost h4 h5]; simp [h4]
  · simp [h4.1, h4.2.1]

theorem mainEv_ok {s : State} {eff : State → State} (h : s.mainOn = true) : s.mainEv eff = s.within (eff s) := by
  simp [State.mainEv, h]

theorem mainEv_off {s : State} {eff : State → State} (h : s.mainOn = false) : s.mainEv eff = s := by
  simp [State.mainEv, h]

theorem aonEv_ok {s : State} {eff : State → State} (h : s.pwr.aon = true) : s.aonEv eff = s.within (eff s) := by
  simp [State.aonEv, h]

theorem aonEv_off {s : State} {eff : State → State} (h : s.pwr.aon = false) : s.aonEv eff = s := by
  simp [State.aonEv, h]

theorem secEv_ok {s : State} {eff : State → State} (h : s.pwr.aon = true) :
    s.secEv eff = s.fused (eff s) := by simp [State.secEv, h]

theorem secEv_off {s : State} {eff : State → State} (h : s.pwr.aon = false) : s.secEv eff = s := by simp [State.secEv, h]

/-- A core that takes up an instruction does its work. -/
theorem issue_ok {s : State} {c : CoreId} {w : W64} {z : Nat} {body : M (BitVec 52)} (h : Takes s c w z) :
    s.issue c w z body = s.within (s.settle c w body) := by
  obtain ⟨h1, h2, h3, h4, h5, h6, h7⟩ := h
  simp only [State.issue, State.issueNow, h1, h2, h3, h4, h5, State.fetched, h6, State.perform, h7]
  rfl

/-- An engine instruction whose work leaves t retires. -/
theorem settle_next {s t : State} {c : CoreId} {w : W64} {m : M Unit} (h : m s = .ok ((), t)) :
    s.settle c w (thenNext c m) = t.goOn c (t.pcOf c + 8) := by
  simp [State.settle, thenNext, bind, StateT.bind, Except.bind, h, get, getThe, MonadStateOf.get, StateT.get, pure,
    StateT.pure, Except.pure, State.goOn, State.pcOf]

@[simp] theorem State.core_updCore (s : State) (c : Nat) (f : Core → Core) : (s.updCore c f).core c = f (s.core c) := by
  simp [State.updCore, State.core]

theorem State.core_updCore_ne (s : State) {c d : Nat} (f : Core → Core) (h : d ≠ c) :
    (s.updCore c f).core d = s.core d := SMap.get_upd_ne _ _ _ h

@[simp] theorem State.hoop_updHoop (s : State) (h : Nat) (f : Hoop → Hoop) : (s.updHoop h f).hoop h = f (s.hoop h) := by
  simp [State.updHoop, State.hoop]

theorem State.hoop_updHoop_ne (s : State) {h d : Nat} (f : Hoop → Hoop) (e : d ≠ h) :
    (s.updHoop h f).hoop d = s.hoop d := SMap.get_upd_ne _ _ _ e

@[simp] theorem State.ent_updEnt (s : State) (n : Folio) (f : DirEntry → DirEntry) : (s.updEnt n f).ent n = f (s.ent n) := by
  simp [State.updEnt, State.ent]

@[simp] theorem State.fol_updFol (s : State) (n : Folio) (f : FolX → FolX) : (s.updFol n f).fol n = f (s.fol n) := by
  simp [State.updFol, State.fol]

/-- Every effect that `within` closes leaves the fuse array as it was. -/
theorem Fuses.kept_refl (a : Fuses) : a.kept a := ⟨le_rfl, le_rfl, by simp, rfl⟩

/-- A field written and read back, for a field that lies in its word and whose reset value fits. -/
theorem State.fld_put (s : State) (f : Fld) (v i j : Nat) (hw : f.lo + f.width ≤ 64) (hr : f.rst < 2 ^ f.width) :
    (s.put f v i j).fld f i j = v % 2 ^ f.width := by
  have hx : v % 2 ^ f.width ^^^ f.rst < 2 ^ f.width := Nat.xor_lt_two_pow (Nat.mod_lt _ (by positivity)) hr
  simp only [State.fld, State.put, SMap.get_upd_self]
  generalize SMap.get 0 s.ctl (f.addr i j) = w
  have : ((putBits w f.lo f.width (v % 2 ^ f.width ^^^ f.rst)).toNat >>> f.lo) % 2 ^ f.width = v % 2 ^ f.width ^^^ f.rst := by
    apply Nat.eq_of_testBit_eq
    intro k
    rw [Nat.testBit_mod_two_pow, Nat.testBit_shiftRight]
    by_cases hk : k < f.width
    · have h1 : f.lo + k < 64 := by omega
      have h2 : ¬ f.lo + k < f.lo := by omega
      rw [BitVec.testBit_toNat]
      have h3 : k < 64 := by omega
      have e (x : Nat) : (BitVec.ofNat 64 x)[k] = x.testBit k := by
        rw [← BitVec.getLsbD_eq_getElem, BitVec.getLsbD_ofNat]; simp [h3]
      simp [putBits, hk, h1, e, Nat.testBit_mod_two_pow, Nat.testBit_two_pow_sub_one]
    · rw [Nat.testBit_lt_two_pow (lt_of_lt_of_le hx (Nat.pow_le_pow_right (by norm_num) (by omega)))]
      simp [hk]
  rw [this, Nat.xor_assoc, Nat.xor_self, Nat.xor_zero]

/-- Where the directory words are sound an operation goes on after their checks, and a word that is not retires the device. -/
theorem State.reading_ok {s : State} {ns : List Folio} (h : ns.any (fun n => s.dirBad (dirAddr n) 16) = false)
    (eff : State → State) : s.reading ns eff = eff (ns.foldl (fun s n => s.checkLocal (dirAddr n) 16) s) := by
  simp [State.reading, h]

theorem State.reading_bad {s : State} {ns : List Folio} (h : ns.any (fun n => s.dirBad (dirAddr n) 16) = true)
    (eff : State → State) :
    s.reading ns eff = (ns.foldl (fun s n => s.checkLocal (dirAddr n) 16) s).retireNow true := by
  simp [State.reading, h]

/-- The device's own read of sound lines is what memory holds. -/
theorem State.hwN_ok {s : State} {a n : Nat} (h : s.linesOk a n = true) : s.hwN a n = s.peekN a n := by
  simp [State.hwN, h]

@[simp] theorem Hoop.setTiles_tiles (k : Hoop) (l : List Tile) : (k.setTiles l).tiles = l := rfl

/-- A tile after an edit of the first that meets p is one of before, or the edited one. -/
theorem mem_editTile {p : Tile → Bool} {f : Tile → Option Tile} {x : Tile} {l : List Tile} (h : x ∈ editTile p f l) :
    x ∈ l ∨ ∃ t ∈ l, p t ∧ f t = some x := by
  induction l with
  | nil => cases h
  | cons t l ih =>
    unfold editTile at h
    split at h
    · rcases List.mem_append.mp h with h | h
      · exact .inr ⟨t, by simp, ‹_›, by simpa using h⟩
      · exact .inl (by simp [h])
    · rcases List.mem_cons.mp h with rfl | h
      · exact .inl (by simp)
      · rcases ih h with h | ⟨u, hu, hp, hf⟩
        · exact .inl (by simp [h])
        · exact .inr ⟨u, by simp [hu], hp, hf⟩

end Sys2Proof.Machine
end

