-- ==== Sys2Proof/Laws/Reports.lean ====
section
/-! SUPPORT. What reports of errors and what the fabric's sending can change of the state: one relation for each, closed under
composition, from which every other field is read off. -/
namespace Sys2Proof.Machine

/-! ### Reports (R66, R67, R216, R330, R338) -/

/-- The second state differs from the first in what reporting errors may change: registers, memory and its check codes,
the controller's notes, the sources of ECC_CORR and the interrupts. -/
def Reported (s t : State) : Prop :=
  t = { s with ctl := t.ctl, mem := t.mem, hbmErr := t.hbmErr, sramErr := t.sramErr, hbm := t.hbm, eccSrc := t.eccSrc, irqs := t.irqs }

theorem Reported.refl (s : State) : Reported s s := rfl

theorem Reported.trans {s t u : State} (h : Reported s t) (g : Reported t u) : Reported s u := by
  unfold Reported at *
  rw [g, h]

theorem Reported.foldl {α : Type} {g : State → α → State} (hg : ∀ s x, Reported s (g s x)) (l : List α) (s : State) :
    Reported s (l.foldl g s) := by
  induction l generalizing s with
  | nil => exact .refl s
  | cons x l ih => exact (hg s x).trans (ih _)

theorem Reported.cores {s t : State} (h : Reported s t) : t.cores = s.cores := by rw [h]
theorem Reported.core {s t : State} (h : Reported s t) (c : Nat) : t.core c = s.core c := by rw [State.core, h.cores, State.core]
theorem Reported.pending {s t : State} (h : Reported s t) : t.pending = s.pending := by rw [h]
theorem Reported.fuses {s t : State} (h : Reported s t) : t.fuses = s.fuses := by rw [h]
theorem Reported.pwr {s t : State} (h : Reported s t) : t.pwr = s.pwr := by rw [h]
theorem Reported.dir {s t : State} (h : Reported s t) : t.dir = s.dir := by rw [h]
theorem Reported.hoops {s t : State} (h : Reported s t) : t.hoops = s.hoops := by rw [h]
theorem Reported.rxbuf {s t : State} (h : Reported s t) : t.rxbuf = s.rxbuf := by rw [h]
theorem Reported.txns {s t : State} (h : Reported s t) : t.txns = s.txns := by rw [h]
theorem Reported.leases {s t : State} (h : Reported s t) : t.leases = s.leases := by rw [h]
theorem Reported.clk {s t : State} (h : Reported s t) : t.clk = s.clk := by rw [h]

theorem reported_put (s : State) (f : Fld) (v i j : Nat) : Reported s (s.put f v i j) := rfl

theorem reported_count (s : State) (f : Fld) (n i j : Nat) : Reported s (s.count f n i j) := by
  unfold State.count
  split
  · exact .refl s
  · exact reported_put _ _ _ _ _

theorem reported_setLine (s : State) (l : Nat) (e : LineErr) : Reported s (s.setLine l e) := rfl

theorem reported_lose (s : State) (l : Nat) : Reported s (s.lose l) := rfl

theorem reported_errLog (s : State) (e : ErrRec) : Reported s (s.errLog e) := by
  unfold State.errLog
  extract_lets wr
  split
  · rename_i v u _
    have : Reported s u := Reported.foldl (fun s x => reported_put s _ _ _ _) _ s
    exact this.trans (reported_put _ _ _ _ _)
  · exact reported_count _ _ _ _ _

theorem reported_corrNote (s : State) (k cls inst folio : Nat) : Reported s (s.corrNote k cls inst folio).1 := by
  unfold State.corrNote
  extract_lets t p
  have : Reported s t := reported_count _ _ _ _ _
  split <;> exact this.trans rfl

theorem reported_uncorrNote (s : State) (k cls inst addr folio level : Nat) :
    Reported s (s.uncorrNote k cls inst addr folio level).1 :=
  (reported_count _ _ _ _ _).trans (reported_errLog _ _)

theorem reported_parityRetry (s : State) (line : Nat) : Reported s (s.parityRetry line) := by
  unfold State.parityRetry
  split
  · exact Reported.trans (t := { s with hbm := { s.hbm with parity := s.hbm.parity.erase line } }) rfl (reported_count _ _ _ _ _)
  · exact .refl s

theorem reported_lineCheck (s : State) (line : Nat) (b : Bool) : Reported s (s.lineCheck line b).1 := by
  unfold State.lineCheck
  extract_lets t
  have ht : Reported s t := reported_parityRetry _ _
  split
  · exact ht
  · exact ht
  · exact ht.trans (reported_count t R.HBM_ODC_count 1 0 0)
  · exact ((ht.trans (reported_setLine _ _ _)).trans (reported_count _ _ _ _ _)).trans
      ((reported_count _ _ _ _ _).trans (reported_corrNote _ _ _ _ _))
  · exact (((ht.trans (reported_setLine _ _ _)).trans (reported_lose _ _)).trans (reported_count _ _ _ _ _)).trans
      (((reported_put _ _ _ _ _).trans (reported_put _ _ _ _ _)).trans (reported_uncorrNote _ _ _ _ _ _ _))

theorem reported_eventPut (s : State) (e : Ev) : Reported s (s.eventPut e).1 := by
  unfold State.eventPut
  extract_lets t wr occ log2 a u v
  have ht : Reported s t := reported_count _ _ _ _ _
  split
  · exact ht
  · split
    · dsimp only
      split <;> exact ht.trans rfl
    · exact ht.trans (reported_count t R.FOL_EVT_DROPPED_count 1 0 0)

theorem reported_raiseAll (n : Nat) (s : State) (l : List Ev) : Reported s (s.raiseAll n l) := by
  induction n generalizing s l with
  | zero => exact .refl s
  | succ n ih =>
    cases l with
    | nil => exact .refl s
    | cons e es =>
      have h := reported_eventPut s e
      unfold State.raiseAll
      split
      · rename_i t heq; rw [heq] at h; exact h.trans (ih _ _)
      · rename_i t line heq
        rw [heq] at h
        exact (h.trans (reported_lineCheck t line false)).trans (ih _ _)

theorem reported_signal (s : State) (e : Ev) : Reported s (s.signal e) := reported_raiseAll _ _ _

theorem reported_signalled (s : State) (x : State × Option Ev) (h : Reported s x.1) : Reported s (State.signalled x) := by
  unfold State.signalled
  split
  · exact h.trans (reported_signal _ _)
  · exact h

theorem reported_event (s : State) (a b c d e : Nat) : Reported s (s.event a b c d e) := reported_signal _ _

theorem reported_eccCorr (s : State) (k cls inst folio : Nat) : Reported s (s.eccCorr k cls inst folio) :=
  reported_signalled _ _ (reported_corrNote _ _ _ _ _)

theorem reported_eccUncorr (s : State) (k cls inst addr folio level : Nat) :
    Reported s (s.eccUncorr k cls inst addr folio level) := (reported_uncorrNote _ _ _ _ _ _ _).trans (reported_signal _ _)

theorem reported_checkLine (s : State) (line : Nat) (b : Bool) : Reported s (s.checkLine line b) :=
  reported_signalled _ _ (reported_lineCheck _ _ _)

theorem reported_checkLines (s : State) (a n : Nat) : Reported s (s.checkLines a n) :=
  Reported.foldl (fun s l => reported_checkLine s l false) _ _

theorem reported_sramNote (s : State) (a : Nat) : Reported s (s.sramNote a) := by
  unfold State.sramNote
  dsimp only
  split
  · exact Reported.trans (t := s.setSram a .sound) rfl (reported_eccCorr _ _ _ _ _)
  · exact reported_eccUncorr _ _ _ _ _ _ _
  · exact .refl s

/-- A read's checks of on-chip words report, and change nothing else. -/
theorem reported_sramCheck (s : State) (a n : Nat) : Reported s (s.sramCheck a n) :=
  Reported.foldl (fun s k => reported_sramNote s k) _ _

/-- A read's checks of local memory report, and change nothing else. -/
theorem reported_checkLocal (s : State) (a n : Nat) : Reported s (s.checkLocal a n) := by
  unfold State.checkLocal
  split
  · exact reported_checkLines _ _ _
  · split
    · exact reported_sramCheck _ _ _
    · exact .refl s

theorem reported_touched (s : State) (a n : Nat) : Reported s (s.touched a n) := by
  unfold State.touched
  split
  · exact reported_checkLocal _ _ _
  · exact .refl s

/-! ### Sending (R246, R248, R255, R257 to R259) -/

/-- The second state differs from the first in what sending transactions may change: the links, the messages sent, and the
flows, tags and list of transactions. -/
def Sent (s t : State) : Prop :=
  t = { s with links := t.links, sent := t.sent, txFlows := t.txFlows, nextTag := t.nextTag, txns := t.txns }

theorem Sent.refl (s : State) : Sent s s := rfl

theorem Sent.trans {s t u : State} (h : Sent s t) (g : Sent t u) : Sent s u := by
  unfold Sent at *
  rw [g, h]

theorem Sent.foldl {α : Type} {g : State → α → State} (hg : ∀ s x, Sent s (g s x)) (l : List α) (s : State) :
    Sent s (l.foldl g s) := by
  induction l generalizing s with
  | nil => exact .refl s
  | cons x l ih => exact (hg s x).trans (ih _)

theorem Sent.mem {s t : State} (h : Sent s t) : t.mem = s.mem := by rw [h]
theorem Sent.hbmErr {s t : State} (h : Sent s t) : t.hbmErr = s.hbmErr := by rw [h]
theorem Sent.cores {s t : State} (h : Sent s t) : t.cores = s.cores := by rw [h]
theorem Sent.pending {s t : State} (h : Sent s t) : t.pending = s.pending := by rw [h]
theorem Sent.fuses {s t : State} (h : Sent s t) : t.fuses = s.fuses := by rw [h]
theorem Sent.ctl {s t : State} (h : Sent s t) : t.ctl = s.ctl := by rw [h]
theorem Sent.dir {s t : State} (h : Sent s t) : t.dir = s.dir := by rw [h]

theorem sent_drain (n : Nat) (s : State) (l : Nat) : Sent s (s.drain l n) := by
  induction n generalizing s with
  | zero => exact .refl s
  | succ n ih =>
    unfold State.drain
    split
    · exact .refl s
    · rename_i w _
      extract_lets m t
      have ht : Sent s t := rfl
      split
      · exact .refl s
      · split
        · exact ht.trans (Sent.trans (t := t.send w.msg) rfl (ih _))
        · exact ht

theorem sent_enqueue (s : State) (l cls tag n : Nat) (m : Msg) : Sent s (s.enqueue l cls tag n m) :=
  Sent.trans (t := s.updLink l _) rfl (sent_drain _ _ _)

theorem sent_emitTxn (s : State) (t : Txn) : Sent s (s.emitTxn t) := by
  unfold State.emitTxn
  split
  · exact .refl s
  · split
    · exact sent_enqueue _ _ _ _ _ _
    · exact .refl s

theorem sent_startTxn (s : State) (who : Requester) (dev typ cls off len sub : Nat) (opa opb : W64) (dat : List Byte)
    (body : Option Note) : Sent s (s.startTxn who dev typ cls off len sub opa opb dat body) := by
  unfold State.startTxn
  extract_lets key seq t u
  have hu : Sent s u := rfl
  split
  · exact hu
  · exact hu.trans (sent_emitTxn _ _)

theorem sent_post (s : State) (dev cls : Nat) (m : Note) : Sent s (s.post dev cls m) := by
  unfold State.post
  split
  · exact sent_startTxn _ _ _ _ _ _ _ _ _ _ _ _
  · exact .refl s

theorem sent_recallAll (s : State) (ls : List ReadLease) : Sent s (s.recallAll ls) :=
  Sent.foldl (fun s _ => sent_post s _ _ _) _ _

/-- Page images taken before a write: memory, its check codes and the cores stay. -/
theorem sent_keepImages (s : State) (a n : Nat) : Sent { s with images := (s.keepImages a n).images } (s.keepImages a n) := by
  have h : ∀ (t : State) (ls : List ReadLease), (t.recallAll ls).images = t.images := fun t ls => by rw [sent_recallAll t ls]
  unfold State.keepImages
  extract_lets ls ps
  rw [h]
  exact sent_recallAll _ _

end Sys2Proof.Machine
end

