-- ==== Sys2Proof/Laws/Memory.lean ====
section
/-! SUPPORT. The laws of local memory: reads after writes, bytes a write leaves alone, and that every memory operation
keeps the canonical form. -/
namespace Sys2Proof.Machine

/-- Bytes of a canonical memory, read in one pass. -/
theorem State.peek_walk : State.peek = fun s a n =>
    bif Memory.wf s.mem then SMap.walk 0 n a (s.mem.dropWhile (fun p => Nat.ble (p.1 + 1) a))
    else (List.range n).map (fun k => SMap.get 0 s.mem (a + k)) := by
  funext s a n
  cases h : Memory.wf s.mem with
  | false => rfl
  | true =>
    rw [cond_true, SMap.walk_eq 0 n (SMap.wfFrom_dropWhile 0 s.mem a (lo := 0) h)]
    exact List.map_congr_left fun k _ => (SMap.get_dropWhile 0 s.mem (by omega)).symm

/-- The value of one byte of local memory; an unlisted one reads as zero (log entry 1). -/
theorem State.peek_one (s : State) (a : Nat) : s.peek a 1 = [SMap.get 0 s.mem a] := by simp [State.peek]

theorem pokeBytes_wf (m : List Host.Cell) (a : Nat) (l : List Byte) (h : Memory.wf m = true) :
    Memory.wf (pokeBytes m a l) = true := by
  induction l generalizing m a with
  | nil => exact h
  | cons b l ih => exact ih _ _ (SMap.wf_put 0 m a b h)

/-- Bytes outside those written read as before. -/
theorem get_pokeBytes_out (m : List Host.Cell) (a : Nat) (l : List Byte) (x : Nat) (h : x < a ∨ a + l.length ≤ x) :
    SMap.get 0 (pokeBytes m a l) x = SMap.get 0 m x := by
  induction l generalizing m a with
  | nil => rfl
  | cons b l ih =>
    simp only [List.length_cons] at h
    simp only [pokeBytes]
    rw [ih _ _ (by omega), SMap.get_put_ne 0 m b (by omega)]

/-- Bytes written read as written. -/
theorem get_pokeBytes_in (m : List Host.Cell) (a : Nat) (l : List Byte) (k : Nat) (h : k < l.length) :
    SMap.get 0 (pokeBytes m a l) (a + k) = l[k] := by
  induction l generalizing m a k with
  | nil => simp at h
  | cons b l ih =>
    simp only [pokeBytes]
    cases k with
    | zero => rw [get_pokeBytes_out _ _ _ _ (by omega)]; exact SMap.get_put_self 0 m a b
    | succ k =>
      have := ih (SMap.put 0 m a b) (a + 1) k (by simpa using h)
      simpa [Nat.add_comm 1 k, Nat.add_assoc] using this

theorem State.poke_wf (s : State) (a : Nat) (l : List Byte) (h : Memory.wf s.mem = true) :
    Memory.wf (s.poke a l).mem = true := pokeBytes_wf _ _ _ h

@[simp] theorem State.count_mem (s : State) (f : Fld) (n i j : Nat) : (s.count f n i j).mem = s.mem := by
  unfold State.count; split <;> rfl

theorem foldl_mem {α : Type} (g : State → α → State) (hg : ∀ s x, (g s x).mem = s.mem) (l : List α) (s : State) :
    (l.foldl g s).mem = s.mem := by
  induction l generalizing s with
  | nil => rfl
  | cons x l ih => rw [List.foldl_cons, ih, hg]

@[simp] theorem State.errLog_mem (s : State) (e : ErrRec) : (s.errLog e).mem = s.mem := by
  unfold State.errLog
  extract_lets wr
  split
  · rename_i v u _
    have : u.mem = s.mem := foldl_mem _ (fun s x => State.put_mem s _ _ _ _) _ s
    rw [State.put_mem]; exact this
  · exact State.count_mem _ _ _ _ _

@[simp] theorem State.corrNote_mem (s : State) (k cls inst folio : Nat) : (s.corrNote k cls inst folio).1.mem = s.mem := by
  unfold State.corrNote
  extract_lets t p
  have : t.mem = s.mem := State.count_mem _ _ _ _ _
  split <;> exact this

@[simp] theorem State.uncorrNote_mem (s : State) (k cls inst addr folio level : Nat) :
    (s.uncorrNote k cls inst addr folio level).1.mem = s.mem := by simp [State.uncorrNote]

@[simp] theorem State.parityRetry_mem (s : State) (line : Nat) : (s.parityRetry line).mem = s.mem := by
  unfold State.parityRetry; split <;> simp

/-- The check of a line leaves every byte of memory. -/
@[simp] theorem State.lose_mem (s : State) (line : Nat) : (s.lose line).mem = s.mem := rfl

@[simp] theorem State.lineCheck_mem (s : State) (line : Nat) (b : Bool) : (s.lineCheck line b).1.mem = s.mem := by
  unfold State.lineCheck
  dsimp only
  split <;> simp

theorem State.eventPut_wf (s : State) (e : Ev) (h : Memory.wf s.mem = true) : Memory.wf (s.eventPut e).1.mem = true := by
  unfold State.eventPut
  extract_lets t wr occ log2 a u v
  have ht : Memory.wf t.mem = true := by rw [State.count_mem]; exact h
  split
  · exact ht
  · split
    · have hu : Memory.wf u.mem = true := State.poke_wf _ _ _ ht
      dsimp only
      split <;> exact hu
    · show Memory.wf (t.count R.FOL_EVT_DROPPED_count).mem = true
      rw [State.count_mem]; exact ht

theorem State.raiseAll_wf (n : Nat) (s : State) (l : List Ev) (h : Memory.wf s.mem = true) :
    Memory.wf (s.raiseAll n l).mem = true := by
  induction n generalizing s l with
  | zero => exact h
  | succ n ih =>
    cases l with
    | nil => exact h
    | cons e es =>
      have he := State.eventPut_wf s e h
      unfold State.raiseAll
      split
      · rename_i t heq; rw [heq] at he; exact ih _ _ he
      · rename_i t line heq
        rw [heq] at he
        exact ih _ _ ((congrArg Memory.wf (State.lineCheck_mem t line false)).trans he)

theorem State.signalled_wf (x : State × Option Ev) (h : Memory.wf x.1.mem = true) : Memory.wf (State.signalled x).mem = true := by
  unfold State.signalled
  split
  · exact State.raiseAll_wf _ _ _ h
  · exact h

theorem State.event_wf (s : State) (code cls inst folio detail : Nat) (h : Memory.wf s.mem = true) :
    Memory.wf (s.event code cls inst folio detail).mem = true := State.raiseAll_wf _ _ _ h

theorem State.eccCorr_wf (s : State) (k cls inst folio : Nat) (h : Memory.wf s.mem = true) :
    Memory.wf (s.eccCorr k cls inst folio).mem = true := State.signalled_wf _ (by rw [State.corrNote_mem]; exact h)

theorem State.eccUncorr_wf (s : State) (k cls inst addr folio level : Nat) (h : Memory.wf s.mem = true) :
    Memory.wf (s.eccUncorr k cls inst addr folio level).mem = true :=
  State.raiseAll_wf _ _ _ ((congrArg Memory.wf (State.uncorrNote_mem s k cls inst addr folio level)).trans h)

theorem State.checkLine_wf (s : State) (line : Nat) (b : Bool) (h : Memory.wf s.mem = true) :
    Memory.wf (s.checkLine line b).mem = true := State.signalled_wf _ (by rw [State.lineCheck_mem]; exact h)

theorem foldl_wf {α : Type} (g : State → α → State) (hg : ∀ s x, Memory.wf s.mem = true → Memory.wf (g s x).mem = true)
    (l : List α) (s : State) (h : Memory.wf s.mem = true) : Memory.wf (l.foldl g s).mem = true := by
  induction l generalizing s with
  | nil => exact h
  | cons x l ih => exact ih _ (hg s x h)

theorem State.checkLines_wf (s : State) (a n : Nat) (h : Memory.wf s.mem = true) :
    Memory.wf (s.checkLines a n).mem = true := foldl_wf _ (fun s l w => State.checkLine_wf s l false w) _ _ h

theorem State.mergeLine_wf (s : State) (a n l : Nat) (h : Memory.wf s.mem = true) :
    Memory.wf (s.mergeLine a n l).mem = true := by
  unfold State.mergeLine; split
  · show Memory.wf (s.parityRetry l).mem = true
    rw [State.parityRetry_mem]; exact h
  · unfold State.writtenBack; split <;> exact State.checkLine_wf s l false h

theorem State.hbmWrite_wf (s : State) (a : Nat) (bs : List Byte) (h : Memory.wf s.mem = true) :
    Memory.wf (s.hbmWrite a bs).mem = true :=
  State.poke_wf _ _ _ (foldl_wf _ (fun s l w => State.mergeLine_wf s a _ l w) _ _ h)

@[simp] theorem State.keepImages_mem (s : State) (a n : Nat) : (s.keepImages a n).mem = s.mem := by rw [(sent_keepImages s a n).mem]
@[simp] theorem State.keepImages_hbmErr (s : State) (a n : Nat) : (s.keepImages a n).hbmErr = s.hbmErr := by
  rw [(sent_keepImages s a n).hbmErr]

theorem State.writeLocal_wf (s : State) (a : Nat) (bs : List Byte) (h : Memory.wf s.mem = true) :
    Memory.wf (s.writeLocal a bs).mem = true := by
  unfold State.writeLocal; split
  · exact State.hbmWrite_wf _ _ _ (by rw [State.keepImages_mem]; exact h)
  · exact State.poke_wf _ _ _ h
  · exact State.poke_wf _ _ _ h
  · exact h

/-- Memory right after reset is in canonical form. -/
theorem State.reset_mem_wf : Memory.wf State.reset.mem = true := rfl

/-- The check of a sound line leaves memory and the check codes. -/
theorem State.checkLine_sound (s : State) (l : Nat) (h : SMap.get .sound s.hbmErr l = .sound) :
    (s.checkLine l).mem = s.mem ∧ (s.checkLine l).hbmErr = s.hbmErr := by
  have hp : (s.parityRetry l).hbmErr = s.hbmErr := by unfold State.parityRetry State.count; split <;> [(split <;> rfl); rfl]
  have he : s.lineCheck l = (s.parityRetry l, none) := by
    unfold State.lineCheck
    dsimp only
    rw [hp, h]
  unfold State.checkLine
  rw [he]
  exact ⟨State.parityRetry_mem _ _, hp⟩

/-- The merge of a sound line leaves memory and every sound line sound. -/
theorem State.mergeLine_sound (s : State) (a n l : Nat) (h : SMap.get .sound s.hbmErr l = .sound) :
    (s.mergeLine a n l).mem = s.mem ∧
      ∀ x, SMap.get .sound s.hbmErr x = .sound → SMap.get .sound (s.mergeLine a n l).hbmErr x = .sound := by
  have hp : (s.parityRetry l).hbmErr = s.hbmErr := by unfold State.parityRetry State.count; split <;> [(split <;> rfl); rfl]
  unfold State.mergeLine
  split
  · refine ⟨State.parityRetry_mem _ _, fun x hx => ?_⟩
    simp only [State.setLine, hp]
    by_cases e : x = l
    · subst e; simp
    · rw [SMap.get_put_ne _ _ _ e]; exact hx
  · obtain ⟨h1, h2⟩ := State.checkLine_sound s l h
    have h3 : (s.checkLine l).writtenBack l = s.checkLine l := by
      unfold State.writtenBack
      rw [h2, h]; rfl
    rw [h3, h1, h2]
    exact ⟨rfl, fun _ h => h⟩

/-- A write to HBM lines that are sound changes those bytes and nothing else of memory. -/
theorem State.hbmWrite_sound (s : State) (a : Nat) (bs : List Byte)
    (h : ∀ l ∈ linesOf a bs.length, SMap.get .sound s.hbmErr l = .sound) : (s.hbmWrite a bs).mem = pokeBytes s.mem a bs := by
  have key : ∀ (L : List Nat) (t : State), (∀ l ∈ L, SMap.get .sound t.hbmErr l = .sound) →
      (L.foldl (fun s l => s.mergeLine a bs.length l) t).mem = t.mem := by
    intro L
    induction L with
    | nil => intros; rfl
    | cons l L ih =>
      intro t ht
      obtain ⟨h1, h2⟩ := State.mergeLine_sound t a bs.length l (ht l (by simp))
      rw [List.foldl_cons, ih _ (fun x hx => h2 x (ht x (by simp [hx]))), h1]
  simp only [State.hbmWrite, State.poke]
  rw [key _ s h]

/-- A write to local memory whose lines are sound changes those bytes and nothing else of memory. -/
theorem State.writeLocal_sound (s : State) (a : Nat) (bs : List Byte) (h1 : areaOf a ≠ .dir) (h2 : areaOf a ≠ .ctl)
    (h3 : areaOf a ≠ .hole) (h : areaOf a = .hbm → ∀ l ∈ linesOf a bs.length, SMap.get .sound s.hbmErr l = .sound) :
    (s.writeLocal a bs).mem = pokeBytes s.mem a bs := by
  unfold State.writeLocal
  split
  · rename_i ha
    unfold State.hwWrite
    rw [State.hbmWrite_sound _ _ _ (by simpa using h ha), State.keepImages_mem]
  · rfl
  · rfl
  · rename_i ha hb hc
    cases e : areaOf a <;> simp_all

end Sys2Proof.Machine
end

