-- ==== Sys2Proof/Laws/PerInstr.lean ====
section
/-! SUPPORT. Per command: the register it writes is an aligned word of the control space (R8, R26). -/
namespace Sys2Proof.Laws.Regs
open Sys2Proof Sys2Proof.Machine

/-- The register a command is given by is an aligned word of the control space. -/
def Statement (i : Instr) : Prop := ∀ x, commandReg i = some x → x.2 % 8 = 0 ∧ inControl x.2 = true

/-- A command that no register write gives. -/
theorem of_none {i : Instr} (h : commandReg i = none) : Statement i := fun x e => by rw [h] at e; cases e

theorem of_some {i : Instr} {p : Port} {a : Nat} (h : commandReg i = some (p, a)) (h8 : a % 8 = 0) (hc : inControl a = true) :
    Statement i := fun x e => by rw [h] at e; cases e; exact ⟨h8, hc⟩

/-- The register of an instance of a field. -/
theorem of_fld {i : Instr} {p : Port} {f : Fld} {n : Nat} {k : Fin n} (h : commandReg i = some (p, f.addr k 0))
    (h8 : f.base % 8 = 0 ∧ f.s1 % 8 = 0) (hc : 0xF000000000 ≤ f.base ∧ f.base + f.s1 * n ≤ 0xF100000000) (hn : 0 < f.s1) :
    Statement i := by
  have hk : f.s1 * k.val + f.s1 ≤ f.s1 * n := by
    have := Nat.mul_le_mul_left f.s1 k.isLt; rwa [Nat.mul_succ] at this
  refine of_some h ?_ ?_
  · have := (Nat.dvd_of_mod_eq_zero h8.2).mul_right k.val
    simp only [Fld.addr, Nat.mul_zero]; omega
  · simp only [inControl, Fld.addr, Nat.mul_zero]; exact decide_eq_true (by omega)

theorem regWrite (p : Port) (addr : BitVec 64) (width : Nat) (v : BitVec 64) : Statement (.regWrite p addr width v) := of_none rfl
theorem folOpen (p : Port) (n : Folio) : Statement (.folOpen p n) := of_some rfl (by decide) (by decide)
theorem openComplete : Statement (.openComplete) := of_none rfl
theorem folClose (p : Port) (n : Folio) : Statement (.folClose p n) := of_some rfl (by decide) (by decide)
theorem folioCloseComplete (n : Folio) : Statement (.folioCloseComplete n) := of_none rfl
theorem folReset (p : Port) (n : Folio) : Statement (.folReset p n) := of_some rfl (by decide) (by decide)
theorem folMove (p : Port) (n : Folio) : Statement (.folMove p n) := of_some rfl (by decide) (by decide)
theorem stateSwapOut (n : Folio) : Statement (.stateSwapOut n) := of_none rfl
theorem stateLoad (h : HoopId) (ser : Nat) : Statement (.stateLoad h ser) := of_none rfl
theorem schedulerPick (h : HoopId) : Statement (.schedulerPick h) := of_none rfl
theorem sectionFillTimeout (h : HoopId) (ser : Nat) : Statement (.sectionFillTimeout h ser) := of_none rfl
theorem sectionDeadlineClose (h : HoopId) (ser : Nat) : Statement (.sectionDeadlineClose h ser) := of_none rfl
theorem sectionHandover (h : HoopId) (ser : Nat) : Statement (.sectionHandover h ser) := of_none rfl
theorem sectionCommit (h : HoopId) (ser : Nat) : Statement (.sectionCommit h ser) := of_none rfl
theorem commitComplete (h : HoopId) (ser : Nat) : Statement (.commitComplete h ser) := of_none rfl
theorem gatheringRelease (n : Folio) : Statement (.gatheringRelease n) := of_none rfl
theorem stNext (c : CoreId) (ops : BitVec 52) : Statement (.stNext c ops) := of_none rfl
theorem stEmit (c : CoreId) (ops : BitVec 52) : Statement (.stEmit c ops) := of_none rfl
theorem stReset (c : CoreId) (ops : BitVec 52) : Statement (.stReset c ops) := of_none rfl
theorem stCommit (c : CoreId) (ops : BitVec 52) : Statement (.stCommit c ops) := of_none rfl
theorem illegalInstruction (c : CoreId) (w : BitVec 64) : Statement (.illegalInstruction c w) := of_none rfl
theorem coreResumeWrite (p : Port) (c : CoreId) : Statement (.coreResumeWrite p c) := of_some rfl (by simp only [coreCtrlAddr]; omega)
    (by simp only [coreCtrlAddr, inControl]; exact decide_eq_true (by omega))
theorem coreResume (c : CoreId) : Statement (.coreResume c) := of_none rfl
theorem watchdog (c : CoreId) : Statement (.watchdog c) := of_none rfl
theorem scAdd (c : CoreId) (ops : BitVec 52) : Statement (.scAdd c ops) := of_none rfl
theorem scSub (c : CoreId) (ops : BitVec 52) : Statement (.scSub c ops) := of_none rfl
theorem scMul (c : CoreId) (ops : BitVec 52) : Statement (.scMul c ops) := of_none rfl
theorem scAnd (c : CoreId) (ops : BitVec 52) : Statement (.scAnd c ops) := of_none rfl
theorem scOr (c : CoreId) (ops : BitVec 52) : Statement (.scOr c ops) := of_none rfl
theorem scXor (c : CoreId) (ops : BitVec 52) : Statement (.scXor c ops) := of_none rfl
theorem scShl (c : CoreId) (ops : BitVec 52) : Statement (.scShl c ops) := of_none rfl
theorem scShr (c : CoreId) (ops : BitVec 52) : Statement (.scShr c ops) := of_none rfl
theorem scSra (c : CoreId) (ops : BitVec 52) : Statement (.scSra c ops) := of_none rfl
theorem scMin (c : CoreId) (ops : BitVec 52) : Statement (.scMin c ops) := of_none rfl
theorem scMax (c : CoreId) (ops : BitVec 52) : Statement (.scMax c ops) := of_none rfl
theorem scMinu (c : CoreId) (ops : BitVec 52) : Statement (.scMinu c ops) := of_none rfl
theorem scMaxu (c : CoreId) (ops : BitVec 52) : Statement (.scMaxu c ops) := of_none rfl
theorem scSlt (c : CoreId) (ops : BitVec 52) : Statement (.scSlt c ops) := of_none rfl
theorem scSltu (c : CoreId) (ops : BitVec 52) : Statement (.scSltu c ops) := of_none rfl
theorem scAddi (c : CoreId) (ops : BitVec 52) : Statement (.scAddi c ops) := of_none rfl
theorem scAndi (c : CoreId) (ops : BitVec 52) : Statement (.scAndi c ops) := of_none rfl
theorem scOri (c : CoreId) (ops : BitVec 52) : Statement (.scOri c ops) := of_none rfl
theorem scShli (c : CoreId) (ops : BitVec 52) : Statement (.scShli c ops) := of_none rfl
theorem scShri (c : CoreId) (ops : BitVec 52) : Statement (.scShri c ops) := of_none rfl
theorem scSrai (c : CoreId) (ops : BitVec 52) : Statement (.scSrai c ops) := of_none rfl
theorem scSlti (c : CoreId) (ops : BitVec 52) : Statement (.scSlti c ops) := of_none rfl
theorem scLi (c : CoreId) (ops : BitVec 52) : Statement (.scLi c ops) := of_none rfl
theorem scLih (c : CoreId) (ops : BitVec 52) : Statement (.scLih c ops) := of_none rfl
theorem scLd (c : CoreId) (ops : BitVec 52) : Statement (.scLd c ops) := of_none rfl
theorem scLdw (c : CoreId) (ops : BitVec 52) : Statement (.scLdw c ops) := of_none rfl
theorem scSt (c : CoreId) (ops : BitVec 52) : Statement (.scSt c ops) := of_none rfl
theorem scStw (c : CoreId) (ops : BitVec 52) : Statement (.scStw c ops) := of_none rfl
theorem scB (c : CoreId) (ops : BitVec 52) : Statement (.scB c ops) := of_none rfl
theorem scBeq (c : CoreId) (ops : BitVec 52) : Statement (.scBeq c ops) := of_none rfl
theorem scBne (c : CoreId) (ops : BitVec 52) : Statement (.scBne c ops) := of_none rfl
theorem scBlt (c : CoreId) (ops : BitVec 52) : Statement (.scBlt c ops) := of_none rfl
theorem scBge (c : CoreId) (ops : BitVec 52) : Statement (.scBge c ops) := of_none rfl
theorem scBltu (c : CoreId) (ops : BitVec 52) : Statement (.scBltu c ops) := of_none rfl
theorem scBgeu (c : CoreId) (ops : BitVec 52) : Statement (.scBgeu c ops) := of_none rfl
theorem scBf (c : CoreId) (ops : BitVec 52) : Statement (.scBf c ops) := of_none rfl
theorem scCall (c : CoreId) (ops : BitVec 52) : Statement (.scCall c ops) := of_none rfl
theorem scJr (c : CoreId) (ops : BitVec 52) : Statement (.scJr c ops) := of_none rfl
theorem scRdf (c : CoreId) (ops : BitVec 52) : Statement (.scRdf c ops) := of_none rfl
theorem scClf (c : CoreId) (ops : BitVec 52) : Statement (.scClf c ops) := of_none rfl
theorem scCrr (c : CoreId) (ops : BitVec 52) : Statement (.scCrr c ops) := of_none rfl
theorem scCrw (c : CoreId) (ops : BitVec 52) : Statement (.scCrw c ops) := of_none rfl
theorem scTime (c : CoreId) (ops : BitVec 52) : Statement (.scTime c ops) := of_none rfl
theorem scId (c : CoreId) (ops : BitVec 52) : Statement (.scId c ops) := of_none rfl
theorem scNop (c : CoreId) (ops : BitVec 52) : Statement (.scNop c ops) := of_none rfl
theorem dmCopy (c : CoreId) (ops : BitVec 52) : Statement (.dmCopy c ops) := of_none rfl
theorem dmPref (c : CoreId) (ops : BitVec 52) : Statement (.dmPref c ops) := of_none rfl
theorem dmPack (c : CoreId) (ops : BitVec 52) : Statement (.dmPack c ops) := of_none rfl
theorem dmTld (c : CoreId) (ops : BitVec 52) : Statement (.dmTld c ops) := of_none rfl
theorem dmTst (c : CoreId) (ops : BitVec 52) : Statement (.dmTst c ops) := of_none rfl
theorem dmTbase (c : CoreId) (ops : BitVec 52) : Statement (.dmTbase c ops) := of_none rfl
theorem dmTcap (c : CoreId) (ops : BitVec 52) : Statement (.dmTcap c ops) := of_none rfl
theorem dmRdw (c : CoreId) (ops : BitVec 52) : Statement (.dmRdw c ops) := of_none rfl
theorem dmWrw (c : CoreId) (ops : BitVec 52) : Statement (.dmWrw c ops) := of_none rfl
theorem dmVld (c : CoreId) (ops : BitVec 52) : Statement (.dmVld c ops) := of_none rfl
theorem dmVst (c : CoreId) (ops : BitVec 52) : Statement (.dmVst c ops) := of_none rfl
theorem syFence (c : CoreId) (ops : BitVec 52) : Statement (.syFence c ops) := of_none rfl
theorem syBar (c : CoreId) (ops : BitVec 52) : Statement (.syBar c ops) := of_none rfl
theorem mmGrp (c : CoreId) (ops : BitVec 52) : Statement (.mmGrp c ops) := of_none rfl
theorem mmLut (c : CoreId) (ops : BitVec 52) : Statement (.mmLut c ops) := of_none rfl
theorem mmCombine (c : CoreId) (ops : BitVec 52) : Statement (.mmCombine c ops) := of_none rfl
theorem combineRendezvous (c : CoreId) : Statement (.combineRendezvous c) := of_none rfl
theorem mmTalloc (c : CoreId) (ops : BitVec 52) : Statement (.mmTalloc c ops) := of_none rfl
theorem mmTfree (c : CoreId) (ops : BitVec 52) : Statement (.mmTfree c ops) := of_none rfl
theorem tileStaging (c : CoreId) : Statement (.tileStaging c) := of_none rfl
theorem tileExpanded (h : HoopId) (k : TileKey) : Statement (.tileExpanded h k) := of_none rfl
theorem tileUnpin (h : HoopId) (k : TileKey) : Statement (.tileUnpin h k) := of_none rfl
theorem coreSelfTest (c : CoreId) (pass : Bool) : Statement (.coreSelfTest c pass) := of_none rfl
theorem shadowArm (c : CoreId) : Statement (.shadowArm c) := of_none rfl
theorem shadowCheck (c : CoreId) : Statement (.shadowCheck c) := of_none rfl
theorem residueRecovery (c : CoreId) (pass : Bool) : Statement (.residueRecovery c pass) := of_none rfl
theorem rcGate (c : CoreId) (ops : BitVec 52) : Statement (.rcGate c ops) := of_none rfl
theorem rcScan (c : CoreId) (ops : BitVec 52) : Statement (.rcScan c ops) := of_none rfl
theorem rcLconv (c : CoreId) (ops : BitVec 52) : Statement (.rcLconv c ops) := of_none rfl
theorem rcAnchor (c : CoreId) (ops : BitVec 52) : Statement (.rcAnchor c ops) := of_none rfl
theorem vxAdd (c : CoreId) (ops : BitVec 52) : Statement (.vxAdd c ops) := of_none rfl
theorem vxSub (c : CoreId) (ops : BitVec 52) : Statement (.vxSub c ops) := of_none rfl
theorem vxMul (c : CoreId) (ops : BitVec 52) : Statement (.vxMul c ops) := of_none rfl
theorem vxFma (c : CoreId) (ops : BitVec 52) : Statement (.vxFma c ops) := of_none rfl
theorem vxMax (c : CoreId) (ops : BitVec 52) : Statement (.vxMax c ops) := of_none rfl
theorem vxMin (c : CoreId) (ops : BitVec 52) : Statement (.vxMin c ops) := of_none rfl
theorem vxAbs (c : CoreId) (ops : BitVec 52) : Statement (.vxAbs c ops) := of_none rfl
theorem vxLog (c : CoreId) (ops : BitVec 52) : Statement (.vxLog c ops) := of_none rfl
theorem vxShf (c : CoreId) (ops : BitVec 52) : Statement (.vxShf c ops) := of_none rfl
theorem vxCmp (c : CoreId) (ops : BitVec 52) : Statement (.vxCmp c ops) := of_none rfl
theorem vxSel (c : CoreId) (ops : BitVec 52) : Statement (.vxSel c ops) := of_none rfl
theorem vxSplat (c : CoreId) (ops : BitVec 52) : Statement (.vxSplat c ops) := of_none rfl
theorem vxIota (c : CoreId) (ops : BitVec 52) : Statement (.vxIota c ops) := of_none rfl
theorem vxCvt (c : CoreId) (ops : BitVec 52) : Statement (.vxCvt c ops) := of_none rfl
theorem vxFn (c : CoreId) (ops : BitVec 52) : Statement (.vxFn c ops) := of_none rfl
theorem vxCmpr (c : CoreId) (ops : BitVec 52) : Statement (.vxCmpr c ops) := of_none rfl
theorem vxExpd (c : CoreId) (ops : BitVec 52) : Statement (.vxExpd c ops) := of_none rfl
theorem vxPerm (c : CoreId) (ops : BitVec 52) : Statement (.vxPerm c ops) := of_none rfl
theorem vxRed (c : CoreId) (ops : BitVec 52) : Statement (.vxRed c ops) := of_none rfl
theorem vxQnt (c : CoreId) (ops : BitVec 52) : Statement (.vxQnt c ops) := of_none rfl
theorem vxDq (c : CoreId) (ops : BitVec 52) : Statement (.vxDq c ops) := of_none rfl
theorem vxHad (c : CoreId) (ops : BitVec 52) : Statement (.vxHad c ops) := of_none rfl
theorem vxRowg (c : CoreId) (ops : BitVec 52) : Statement (.vxRowg c ops) := of_none rfl
theorem vxRows (c : CoreId) (ops : BitVec 52) : Statement (.vxRows c ops) := of_none rfl
theorem atWin (c : CoreId) (ops : BitVec 52) : Statement (.atWin c ops) := of_none rfl
theorem atAppend (c : CoreId) (ops : BitVec 52) : Statement (.atAppend c ops) := of_none rfl
theorem atFree (p : Port) (h : HoopId) (leaf : BitVec 44) : Statement (.atFree p h leaf) := of_fld rfl (by decide) (by decide) (by decide)
theorem atFreeDone (h : HoopId) : Statement (.atFreeDone h) := of_none rfl
theorem patrolScrub : Statement (.patrolScrub) := of_none rfl
theorem recalAuto (pc : Fin 32) : Statement (.recalAuto pc) := of_none rfl
theorem hbmRecal (p : Port) (pc : Fin 32) (go : Bool) : Statement (.hbmRecal p pc go) := of_some rfl (by decide) (by decide)
theorem recalDone (conv : Bool) : Statement (.recalDone conv) := of_none rfl
theorem hbmTempReadout (temp : BitVec 8) : Statement (.hbmTempReadout temp) := of_none rfl
theorem tcInval (p : Port) (h : HoopId) (all : Bool) : Statement (.tcInval p h all) := of_fld rfl (by decide) (by decide) (by decide)
theorem dtLoad (p : Port) (h : HoopId) (addr : BitVec 45) (slot : Fin 4) : Statement (.dtLoad p h addr slot) := of_fld rfl (by decide) (by decide) (by decide)
theorem dtLoadComplete (h : HoopId) : Statement (.dtLoadComplete h) := of_none rfl
theorem bndRegister (p : Port) (b : BitVec 12) : Statement (.bndRegister p b) := of_some rfl (by decide) (by decide)
theorem bndDeregister (p : Port) (b : BitVec 12) : Statement (.bndDeregister p b) := of_some rfl (by decide) (by decide)
theorem bndLoad (p : Port) (b : BitVec 12) : Statement (.bndLoad p b) := of_some rfl (by decide) (by decide)
theorem bndUnload (p : Port) (b : BitVec 12) : Statement (.bndUnload p b) := of_some rfl (by decide) (by decide)
theorem bndSwap (p : Port) (b : BitVec 12) : Statement (.bndSwap p b) := of_some rfl (by decide) (by decide)
theorem peerRead (src : DevNum) (seq : BitVec 16) (tag : BitVec 16) (off : BitVec 40) (len : Nat) : Statement (.peerRead src seq tag off len) := of_none rfl
theorem peerWrite (src : DevNum) (seq : BitVec 16) (tag : BitVec 16) (off : BitVec 40) (dat : List Byte) : Statement (.peerWrite src seq tag off dat) := of_none rfl
theorem peerAtomic (src : DevNum) (seq : BitVec 16) (tag : BitVec 16) (sub : BitVec 8) (off : BitVec 40) (opa : BitVec 64) (opb : BitVec 64) : Statement (.peerAtomic src seq tag sub off opa opb) := of_none rfl
theorem completion (src : DevNum) (r : Ended) : Statement (.completion src r) := of_none rfl
theorem readLeaseExpiry (e : Fin 256) (holder : DevNum) (page : Nat) : Statement (.readLeaseExpiry e holder page) := of_none rfl
theorem transactionForward (hd : TxnHeader) : Statement (.transactionForward hd) := of_none rfl
theorem resendTimeout (tag : BitVec 16) : Statement (.resendTimeout tag) := of_none rfl
theorem transactionTimeout (tag : BitVec 16) : Statement (.transactionTimeout tag) := of_none rfl
theorem seqGapTimeout (src : DevNum) (cls : Fin 4) : Statement (.seqGapTimeout src cls) := of_none rfl
theorem laserLoss (e : Fin 8) (lane : Fin 8) : Statement (.laserLoss e lane) := of_none rfl
theorem laserRestore (e : Fin 8) : Statement (.laserRestore e) := of_none rfl
theorem flitReceived (l : LinkId) (content : BitVec 480) (crc : BitVec 32) (sym : Nat) (uncorr : Nat) : Statement (.flitReceived l content crc sym uncorr) := of_none rfl
theorem ackReceived (l : LinkId) (seq : BitVec 12) (c : Credits) : Statement (.ackReceived l seq c) := of_none rfl
theorem nakReceived (l : LinkId) (seq : BitVec 12) : Statement (.nakReceived l seq) := of_none rfl
theorem replayTimeout (l : LinkId) : Statement (.replayTimeout l) := of_none rfl
theorem replayLimit (l : LinkId) : Statement (.replayLimit l) := of_none rfl
theorem lossOfSignal (l : LinkId) : Statement (.lossOfSignal l) := of_none rfl
theorem fecErrorLimit (l : LinkId) : Statement (.fecErrorLimit l) := of_none rfl
theorem linkEnable (p : Port) (l : LinkId) (on : Bool) : Statement (.linkEnable p l on) := of_fld rfl (by decide) (by decide) (by decide)
theorem linkRetrain (p : Port) (l : LinkId) : Statement (.linkRetrain p l) := of_fld rfl (by decide) (by decide) (by decide)
theorem trainTimeout (l : LinkId) : Statement (.trainTimeout l) := of_none rfl
theorem retrainDelayEnd (l : LinkId) : Statement (.retrainDelayEnd l) := of_none rfl
theorem hello (l : LinkId) (m : HelloMsg) : Statement (.hello l m) := of_none rfl
theorem toileDevnumWrite (p : Port) (v : BitVec 64) : Statement (.toileDevnumWrite p v) := of_some rfl (by decide) (by decide)
theorem toileRtConfirm (p : Port) (dev : DevNum) (accept : Bool) : Statement (.toileRtConfirm p dev accept) := of_some rfl (by decide) (by decide)
theorem timeExchange (l : LinkId) : Statement (.timeExchange l) := of_none rfl
theorem timeMsg (l : LinkId) (m : TimeMsg) : Statement (.timeMsg l m) := of_none rfl
theorem beatSend : Statement (.beatSend) := of_none rfl
theorem beat (dev : DevNum) (h : FlowPos) (epoch : BitVec 32) : Statement (.beat dev h epoch) := of_none rfl
theorem beatTimeout (dev : DevNum) : Statement (.beatTimeout dev) := of_none rfl
theorem lineOpen (src : DevNum) (h : FlowPos) (n : Folio) (m : LineParams) : Statement (.lineOpen src h n m) := of_none rfl
theorem lineOpenTimeout (n : Folio) : Statement (.lineOpenTimeout n) := of_none rfl
theorem lineDelta (src : DevNum) (h : FlowPos) (n : Folio) (seq : BitVec 32) (next : BitVec 32) (crc : BitVec 32) (dat : List Byte) : Statement (.lineDelta src h n seq next crc dat) := of_none rfl
theorem lineFull (src : DevNum) (h : FlowPos) (n : Folio) (seq : BitVec 32) (next : BitVec 32) (crc : BitVec 32) (dat : List Byte) : Statement (.lineFull src h n seq next crc dat) := of_none rfl
theorem lineAck (src : DevNum) (h : FlowPos) (n : Folio) (seq : BitVec 32) (r : LineResult) : Statement (.lineAck src h n seq r) := of_none rfl
theorem deltaResend (n : Folio) : Statement (.deltaResend n) := of_none rfl
theorem lineRel (src : DevNum) (h : FlowPos) (n : Folio) (seq : BitVec 32) : Statement (.lineRel src h n seq) := of_none rfl
theorem lineClose (src : DevNum) (h : FlowPos) (n : Folio) (seq : BitVec 32) : Statement (.lineClose src h n seq) := of_none rfl
theorem lineAudio (src : DevNum) (h : FlowPos) (n : Folio) (st : StampEntry) (ssrc : BitVec 32) (ts : BitVec 32) (dat : List Byte) : Statement (.lineAudio src h n st ssrc ts dat) := of_none rfl
theorem repartner (p : Port) (n : Folio) (dev : DevNum) : Statement (.repartner p n dev) := of_some rfl (by decide) (by decide)
theorem rejoin (p : Port) : Statement (.rejoin p) := of_some rfl (by decide) (by decide)
theorem leaseRenewSend : Statement (.leaseRenewSend) := of_none rfl
theorem leaseRenew (src : DevNum) (h : FlowPos) (epoch : BitVec 32) (t : BitVec 64) : Statement (.leaseRenew src h epoch t) := of_none rfl
theorem leaseGrant (m : DevNum) (h : FlowPos) (r : LeaseReply) : Statement (.leaseGrant m h r) := of_none rfl
theorem grantExpiry (m : DevNum) : Statement (.grantExpiry m) := of_none rfl
theorem leaseExpiry : Statement (.leaseExpiry) := of_none rfl
theorem promoteResend (x : DevNum) : Statement (.promoteResend x) := of_none rfl
theorem leasePromote (src : DevNum) (h : FlowPos) (x : DevNum) (e : BitVec 32) : Statement (.leasePromote src h x e) := of_none rfl
theorem promoteHoldExpiry (x : DevNum) : Statement (.promoteHoldExpiry x) := of_none rfl
theorem leaseJoin (src : DevNum) (h : FlowPos) (epoch : BitVec 32) : Statement (.leaseJoin src h epoch) := of_none rfl
theorem joinAnswerDue (x : DevNum) : Statement (.joinAnswerDue x) := of_none rfl
theorem quorumQuietEnd : Statement (.quorumQuietEnd) := of_none rfl
theorem toileQuorumWrite (p : Port) (v : BitVec 64) : Statement (.toileQuorumWrite p v) := of_some rfl (by decide) (by decide)
theorem leaseResign (src : DevNum) (h : FlowPos) (e : BitVec 32) : Statement (.leaseResign src h e) := of_none rfl
theorem xcmdRead (p : Port) (len : BitVec 6) : Statement (.xcmdRead p len) := of_some rfl (by decide) (by decide)
theorem xcmdWrite (p : Port) (len : BitVec 6) : Statement (.xcmdWrite p len) := of_some rfl (by decide) (by decide)
theorem xcmdAdd (p : Port) (len : BitVec 6) : Statement (.xcmdAdd p len) := of_some rfl (by decide) (by decide)
theorem xcmdCas (p : Port) (len : BitVec 6) : Statement (.xcmdCas p len) := of_some rfl (by decide) (by decide)
theorem xcmdMax (p : Port) (len : BitVec 6) : Statement (.xcmdMax p len) := of_some rfl (by decide) (by decide)
theorem takeReadLease (p : Port) (len : BitVec 6) : Statement (.takeReadLease p len) := of_some rfl (by decide) (by decide)
theorem releaseReadLease (p : Port) (len : BitVec 6) : Statement (.releaseReadLease p len) := of_some rfl (by decide) (by decide)
theorem sapStart (p : Port) (a : SapId) (v : BitVec 64) : Statement (.sapStart p a v) := of_fld rfl (by decide) (by decide) (by decide)
theorem sapStop (p : Port) (a : SapId) (v : BitVec 64) : Statement (.sapStop p a v) := of_fld rfl (by decide) (by decide) (by decide)
theorem sapRestart (p : Port) (a : SapId) (v : BitVec 64) : Statement (.sapRestart p a v) := of_fld rfl (by decide) (by decide) (by decide)
theorem audGrpStart (p : Port) (k : GrpId) (t : BitVec 64) : Statement (.audGrpStart p k t) := of_fld rfl (by decide) (by decide) (by decide)
theorem groupFrameZero (k : GrpId) : Statement (.groupFrameZero k) := of_none rfl
theorem audGrpStop (p : Port) (k : GrpId) : Statement (.audGrpStop p k) := of_fld rfl (by decide) (by decide) (by decide)
theorem groupFrame (k : GrpId) (fr : List PortFrame) : Statement (.groupFrame k fr) := of_none rfl
theorem blockComplete (k : GrpId) : Statement (.blockComplete k) := of_none rfl
theorem portBlockWrite (k : GrpId) : Statement (.portBlockWrite k) := of_none rfl
theorem leadEnd (a : SapId) (heard : List LineLevels) : Statement (.leadEnd a heard) := of_none rfl
theorem tailEnd (a : SapId) : Statement (.tailEnd a) := of_none rfl
theorem fsyncLoss (a : SapId) : Statement (.fsyncLoss a) := of_none rfl
theorem relockDone (a : SapId) : Statement (.relockDone a) := of_none rfl
theorem rateWindow (a : SapId) (ns : Nat) : Statement (.rateWindow a ns) := of_none rfl
theorem mclkInLoss : Statement (.mclkInLoss) := of_none rfl
theorem audioPllRelock : Statement (.audioPllRelock) := of_none rfl
theorem csBlockEnd (a : SapId) : Statement (.csBlockEnd a) := of_none rfl
theorem audBind (p : Port) (n : Folio) : Statement (.audBind p n) := of_some rfl (by decide) (by decide)
theorem audUnbind (p : Port) (n : Folio) : Statement (.audUnbind p n) := of_some rfl (by decide) (by decide)
theorem audChGainWrite (p : Port) (ch : Fin 384) (v : BitVec 64) : Statement (.audChGainWrite p ch v) := of_fld rfl (by decide) (by decide) (by decide)
theorem audChSrcWrite (p : Port) (ch : Fin 384) (v : BitVec 64) : Statement (.audChSrcWrite p ch v) := of_fld rfl (by decide) (by decide) (by decide)
theorem zcTimeout (ch : Fin 384) : Statement (.zcTimeout ch) := of_none rfl
theorem rampEnd (ch : Fin 384) : Statement (.rampEnd ch) := of_none rfl
theorem audOutEnable (p : Port) (o : Fin 16) (v : BitVec 64) : Statement (.audOutEnable p o v) := of_fld rfl (by decide) (by decide) (by decide)
theorem prsntChange (a : SapId) (present : Bool) : Statement (.prsntChange a present) := of_none rfl
theorem moduleIdentityRead (a : SapId) (ack : Bool) (rec : List Byte) : Statement (.moduleIdentityRead a ack rec) := of_none rfl
theorem frameReceived (e : Fin 2) (f : EthFrame) : Statement (.frameReceived e f) := of_none rfl
theorem packetWrite (f : BitVec 16) : Statement (.packetWrite f) := of_none rfl
theorem concealmentWrite (f : BitVec 16) : Statement (.concealmentWrite f) := of_none rfl
theorem frameTransmit (e : Fin 2) (f : TxFrame) : Statement (.frameTransmit e f) := of_none rfl
theorem ethTimeAdj (p : Port) (v : BitVec 64) : Statement (.ethTimeAdj p v) := of_some rfl (by decide) (by decide)
theorem ingressAdd (p : Port) (f : BitVec 16) : Statement (.ingressAdd p f) := of_some rfl (by decide) (by decide)
theorem ingressDelete (p : Port) (f : BitVec 16) : Statement (.ingressDelete p f) := of_some rfl (by decide) (by decide)
theorem ingressBind (p : Port) (f : BitVec 16) (n : Folio) : Statement (.ingressBind p f n) := of_some rfl (by decide) (by decide)
theorem ingressUnbind (p : Port) (f : BitVec 16) : Statement (.ingressUnbind p f) := of_some rfl (by decide) (by decide)
theorem push (p : Port) (v : BitVec 64) : Statement (.push p v) := of_some rfl (by decide) (by decide)
theorem i2cWrite (p : Port) (g : Fin 4) (v : BitVec 64) : Statement (.i2cWrite p g v) := of_fld rfl (by decide) (by decide) (by decide)
theorem i2cRead (p : Port) (g : Fin 4) (v : BitVec 64) : Statement (.i2cRead p g v) := of_fld rfl (by decide) (by decide) (by decide)
theorem i2cWriteRead (p : Port) (g : Fin 4) (v : BitVec 64) : Statement (.i2cWriteRead p g v) := of_fld rfl (by decide) (by decide) (by decide)
theorem entdaa (p : Port) (g : Fin 4) (v : BitVec 64) : Statement (.entdaa p g v) := of_fld rfl (by decide) (by decide) (by decide)
theorem broadcastCcc (p : Port) (g : Fin 4) (v : BitVec 64) : Statement (.broadcastCcc p g v) := of_fld rfl (by decide) (by decide) (by decide)
theorem i2cTransferEnd (g : Fin 4) (r : BusResult) (dat : List Byte) : Statement (.i2cTransferEnd g r dat) := of_none rfl
theorem sclTimeout (g : Fin 4) : Statement (.sclTimeout g) := of_none rfl
theorem uartCfgWrite (p : Port) (v : BitVec 64) : Statement (.uartCfgWrite p v) := of_some rfl (by decide) (by decide)
theorem getChallenge (chal : BitVec 128) : Statement (.getChallenge chal) := of_none rfl
theorem getCert (chal : BitVec 128) : Statement (.getCert chal) := of_none rfl
theorem attest (chal : BitVec 128) (nonce : List Byte) : Statement (.attest chal nonce) := of_none rfl
theorem regRead (q : SignedReq) (addr : BitVec 64) (cnt : Nat) : Statement (.regRead q addr cnt) := of_none rfl
theorem mgmtRegWrite (q : SignedReq) (addr : BitVec 64) (vals : List (BitVec 64)) : Statement (.mgmtRegWrite q addr vals) := of_none rfl
theorem slotErase (q : SignedReq) : Statement (.slotErase q) := of_none rfl
theorem slotWrite (q : SignedReq) (off : SlotPlace) (dat : List Byte) : Statement (.slotWrite q off dat) := of_none rfl
theorem slotCommit (q : SignedReq) : Statement (.slotCommit q) := of_none rfl
theorem coloRestart (q : SignedReq) : Statement (.coloRestart q) := of_none rfl
theorem claim (chal : BitVec 128) (ticket : List Byte) : Statement (.claim chal ticket) := of_none rfl
theorem svnAdvance (q : SignedReq) : Statement (.svnAdvance q) := of_none rfl
theorem returnCmd (q : SignedReq) : Statement (.returnCmd q) := of_none rfl
theorem jtagUnlock (q : SignedReq) (token : List Byte) : Statement (.jtagUnlock q token) := of_none rfl
theorem challengeRefresh : Statement (.challengeRefresh) := of_none rfl
theorem jtagExpiry : Statement (.jtagExpiry) := of_none rfl
theorem idcode : Statement (.idcode) := of_none rfl
theorem bypass (tdi : Bool) : Statement (.bypass tdi) := of_none rfl
theorem samplePreload (pins : List Bool) (pre : List Bool) : Statement (.samplePreload pins pre) := of_none rfl
theorem extest (pins : List Bool) : Statement (.extest pins) := of_none rfl
theorem debugAccess (a : DebugOp) : Statement (.debugAccess a) := of_none rfl
theorem attReport (p : Port) : Statement (.attReport p) := of_some rfl (by decide) (by decide)
theorem attCert (p : Port) : Statement (.attCert p) := of_some rfl (by decide) (by decide)
theorem attDone : Statement (.attDone) := of_none rfl
theorem lockstepMismatch (pair : Fin 8) : Statement (.lockstepMismatch pair) := of_none rfl
theorem spineRestart : Statement (.spineRestart) := of_none rfl
theorem spineReady : Statement (.spineReady) := of_none rfl
theorem spineCarryTimeout : Statement (.spineCarryTimeout) := of_none rfl
theorem clockFault (k : ClockSource) : Statement (.clockFault k) := of_none rfl
theorem railFault (r : Fin 10) : Statement (.railFault r) := of_none rfl
theorem retire (p : Port) : Statement (.retire p) := of_some rfl (by decide) (by decide)
theorem retireFence : Statement (.retireFence) := of_none rfl
theorem resignAck (m : DevNum) (h : FlowPos) : Statement (.resignAck m h) := of_none rfl
theorem resignTimeout : Statement (.resignTimeout) := of_none rfl
theorem hoopDrain (p : Port) (h : HoopId) (on : Bool) : Statement (.hoopDrain p h on) := of_fld rfl (by decide) (by decide) (by decide)
theorem ucodeLoad (p : Port) (h : HoopId) : Statement (.ucodeLoad p h) := of_fld rfl (by decide) (by decide) (by decide)
theorem ucodeLoadDone (h : HoopId) : Statement (.ucodeLoadDone h) := of_none rfl
theorem colophonReady (provision : Bool) : Statement (.colophonReady provision) := of_none rfl
theorem colophonBootWatchdog : Statement (.colophonBootWatchdog) := of_none rfl
theorem spineOsLoaded : Statement (.spineOsLoaded) := of_none rfl
theorem standby (p : Port) : Statement (.standby p) := of_some rfl (by decide) (by decide)
theorem run (p : Port) : Statement (.run p) := of_some rfl (by decide) (by decide)
theorem deviceReset (p : Port) : Statement (.deviceReset p) := of_some rfl (by decide) (by decide)
theorem powerDown : Statement (.powerDown) := of_none rfl
theorem powerGood (r : Fin 8) : Statement (.powerGood r) := of_none rfl
theorem pgTimeout (r : Fin 8) : Statement (.pgTimeout r) := of_none rfl
theorem hbmTrained : Statement (.hbmTrained) := of_none rfl
theorem aonPor (high : Bool) (phyad : BitVec 5) : Statement (.aonPor high phyad) := of_none rfl
theorem rstN (high : Bool) : Statement (.rstN high) := of_none rfl
theorem avsRead (ma : AvsReading) : Statement (.avsRead ma) := of_none rfl
theorem avsTimeout : Statement (.avsTimeout) := of_none rfl
theorem pmbusPoll (vals : List RailReading) : Statement (.pmbusPoll vals) := of_none rfl
theorem pmbAlert (vals : List RailStatus) : Statement (.pmbAlert vals) := of_none rfl
theorem pwrArithWrite (p : Port) (v : BitVec 64) : Statement (.pwrArithWrite p v) := of_some rfl (by decide) (by decide)
theorem dvfsStep : Statement (.dvfsStep) := of_none rfl
theorem hoopPowerOff (h : HoopId) : Statement (.hoopPowerOff h) := of_none rfl
theorem hoopWakeGrant : Statement (.hoopWakeGrant) := of_none rfl
theorem hoopWakeDone (h : HoopId) : Statement (.hoopWakeDone h) := of_none rfl
theorem arithPllStop : Statement (.arithPllStop) := of_none rfl
theorem thermalSample (temps : List (BitVec 8)) : Statement (.thermalSample temps) := of_none rfl
theorem powerCapTick : Statement (.powerCapTick) := of_none rfl
theorem oscillatorTrim (edge : Bool) : Statement (.oscillatorTrim edge) := of_none rfl
theorem pwrRtcWrite (p : Port) (v : BitVec 64) : Statement (.pwrRtcWrite p v) := of_some rfl (by decide) (by decide)
theorem laneLock (l : LinkId) : Statement (.laneLock l) := of_none rfl
theorem linkStart (l : LinkId) : Statement (.linkStart l) := of_none rfl
theorem slaveFrame (a : SapId) (fr : PortFrame) (ps : Nat) : Statement (.slaveFrame a fr ps) := of_none rfl
theorem audioPllLock : Statement (.audioPllLock) := of_none rfl
theorem ethLinkChange (e : Fin 2) (up : Bool) : Statement (.ethLinkChange e up) := of_none rfl
theorem phyLinkChange (up : Bool) : Statement (.phyLinkChange up) := of_none rfl
theorem uartReceive (b : Byte) (stop : Bool) (taken : Bool) : Statement (.uartReceive b stop taken) := of_none rfl
theorem engineInstructionComplete (c : CoreId) (e : Engine) : Statement (.engineInstructionComplete c e) := of_none rfl
theorem readLeaseRequest (src : DevNum) (h : FlowPos) (addr : BitVec 40) (take : Bool) : Statement (.readLeaseRequest src h addr take) := of_none rfl
theorem memoryWrite (p : Port) (addr : BitVec 40) (dat : List Byte) : Statement (.memoryWrite p addr dat) := of_none rfl
theorem engineSwitchOff (e : Fin 8) : Statement (.engineSwitchOff e) := of_none rfl
theorem leadStart (a : SapId) : Statement (.leadStart a) := of_none rfl
theorem ethTimeFreq (p : Port) (v : BitVec 64) : Statement (.ethTimeFreq p v) := of_some rfl (by decide) (by decide)

end Sys2Proof.Laws.Regs

open Sys2Proof Sys2Proof.Machine

theorem Sys2Proof.Laws.Regs.recall (src : DevNum) (h : FlowPos) (addr : BitVec 52) : Sys2Proof.Laws.Regs.Statement (.recall src h addr) := Sys2Proof.Laws.Regs.of_none rfl
end

