-- ==== Sys2Proof/Laws/RegMap.lean ====
section
/-! SUPPORT. The register map is well formed: a register's fields share its address, lie in one word, hold their reset
value and do not overlap. -/
namespace Sys2Proof.Machine

/-- The layout of a family is well formed. -/
def Fam.formed (f : Fam) : Bool :=
  f.flds.all (fun x => x.base == f.base && x.s1 == f.s1 && x.s2 == f.s2 && decide (x.lo + x.width ≤ 64)
    && decide (x.rst < 2 ^ x.width) && decide (0 < x.width))
  && f.flds.zipIdx.all (fun p => f.flds.zipIdx.all (fun q =>
    p.2 == q.2 || decide (p.1.lo + p.1.width ≤ q.1.lo) || decide (q.1.lo + q.1.width ≤ p.1.lo)))

theorem fams_formed : R.fams.all Fam.formed = true := by decide +kernel

end Sys2Proof.Machine
end

