-- ==== Sys2Proof/Laws/Work.lean ====
section
/-! SUPPORT. What the work of an instruction answers, step by step, and what the instruction then leaves. -/
namespace Sys2Proof.Machine

theorem M.bind_ok {α β : Type} {m : M α} {f : α → M β} {s t : State} {a : α} (h : m s = .ok (a, t)) :
    (m >>= f) s = f a t := by simp [bind, StateT.bind, Except.bind, h]

theorem M.bind_error {α β : Type} {m : M α} {f : α → M β} {s : State} {e : Stop} (h : m s = .error e) :
    (m >>= f) s = .error e := by simp [bind, StateT.bind, Except.bind, h]

/-! The lemmas below rewrite a bind by an equation, not by unfolding: their proofs stand in parentheses so that simp keeps
them as rewrite steps and the kernel does not evaluate the work again. -/
@[simp] theorem M.pure_run {α : Type} (a : α) (s : State) : (pure a : M α) s = .ok (a, s) := (rfl)
@[simp] theorem M.get_bind {β : Type} (f : State → M β) (s : State) : ((get : M State) >>= f) s = f s s := (rfl)
@[simp] theorem M.modify_run (f : State → State) (s : State) : (modify f : M Unit) s = .ok ((), f s) := (rfl)
@[simp] theorem M.modify_bind {β : Type} (f : State → State) (g : Unit → M β) (s : State) :
    ((modify f : M Unit) >>= g) s = g () (f s) := (rfl)
@[simp] theorem M.getS_bind {β : Type} (c : CoreId) (r : Nat) (g : W64 → M β) (s : State) :
    (getS c r >>= g) s = g (s.sreg c r) s := (rfl)
@[simp] theorem M.peekV_bind {β : Type} (c : CoreId) (r : Nat) (g : BitVec 2048 → M β) (s : State) :
    (peekV c r >>= g) s = g (s.vreg c r) s := (rfl)
@[simp] theorem M.getT_bind {β : Type} (c : CoreId) (r : Nat) (g : BitVec 256 → M β) (s : State) :
    (getT c r >>= g) s = g (s.treg c r) s := (rfl)
@[simp] theorem M.getM_bind {β : Type} (c : CoreId) (r : Nat) (g : BitVec 256 → M β) (s : State) :
    (getM c r >>= g) s = g (s.mreg c r) s := (rfl)
@[simp] theorem M.setS_run (c : CoreId) (r : Nat) (v : W64) (s : State) :
    setS c r v s = .ok ((), s.updCore c (fun k => k.setS r v)) := (rfl)
@[simp] theorem M.setV_run (c : CoreId) (r : Nat) (v : BitVec 2048) (s : State) : setV c r v s = .ok ((), s.withV c r v) := (rfl)
@[simp] theorem M.setT_run (c : CoreId) (r : Nat) (v : BitVec 256) (s : State) : setT c r v s = .ok ((), s.withT c r v) := (rfl)
@[simp] theorem M.flt_run {α : Type} (code info : Nat) (a : Bool) (d o : Nat) (s : State) :
    (flt code info a d o : M α) s = .error (.flt { code := code, info := info, atIssue := a, dim := d, operand := o }) := (rfl)
@[simp] theorem M.flt_bind {α β : Type} (code info : Nat) (a : Bool) (d o : Nat) (g : α → M β) (s : State) :
    ((flt code info a d o : M α) >>= g) s
      = .error (.flt { code := code, info := info, atIssue := a, dim := d, operand := o }) := (rfl)
@[simp] theorem M.fltIf_false {β : Type} (code info : Nat) (a : Bool) (d o : Nat) (g : Unit → M β) (s : State) :
    (fltIf false code info a d o >>= g) s = g () s := (rfl)
@[simp] theorem M.fltIf_true {β : Type} (code info : Nat) (a : Bool) (d o : Nat) (g : Unit → M β) (s : State) :
    (fltIf true code info a d o >>= g) s
      = .error (.flt { code := code, info := info, atIssue := a, dim := d, operand := o }) := (rfl)

/-- Words that are all sound are checked without an effect. -/
theorem State.sramCheck_sound {s : State} {a n : Nat} (h : s.sramWords a n = []) : s.sramCheck a n = s := by
  simp [State.sramCheck, h]

/-- Words that are all sound have none uncorrectable among them. -/
theorem State.sramBad_sound {s : State} {a n : Nat} (h : s.sramWords a n = []) : s.sramBad a n = [] := by
  simp [State.sramBad, h]

/-- A vector register whose words are sound is read as it stands. -/
theorem M.getV_bind {β : Type} {c : CoreId} {r : Nat} (g : BitVec 2048 → M β) {s : State}
    (h : s.sramWords (vrfAddr c r 0) 256 = []) : (getV c r >>= g) s = g (s.vreg c r) s := by
  simp only [getV, bind_assoc, M.get_bind, State.sramBad_sound h, State.sramCheck_sound h]
  rfl

/-- A vector register of which lanes are kept is read as it stands where its words are sound. -/
theorem M.oldLanes_bind {β : Type} {c : CoreId} {ops : BitVec 52} (g : BitVec 2048 → M β) {s : State}
    (h : s.sramWords (vrfAddr c (fldA ops) 0) 256 = []) : (oldLanes c ops >>= g) s = g (s.vreg c (fldA ops)) s := by
  unfold oldLanes
  split
  · exact M.getV_bind g h
  · rfl

/-- A queue with room lets its instruction on. -/
theorem queueRoom_room {β : Type} {c : CoreId} {e : Engine} {s : State} (g : Unit → M β)
    (h : ((s.core c).queue e).length < 16) : (queueRoom c e >>= g) s = g () s := by
  have h' : ¬ 16 ≤ ((s.core c).queue e).length := by omega
  simp only [queueRoom, bind_assoc, M.get_bind, h', if_false, pure_bind]

/-- A full queue makes its instruction wait. -/
theorem queueRoom_full {β : Type} {c : CoreId} {e : Engine} {s : State} (g : Unit → M β)
    (h : 16 ≤ ((s.core c).queue e).length) : (queueRoom c e >>= g) s = .error .hold := by
  simp only [queueRoom, bind_assoc, M.get_bind, h, if_true]; rfl

/-- With no other engine at work a store of R107 goes on. -/
theorem beforeWrite_settled {β : Type} {c : CoreId} {s : State} (g : Unit → M β) (h : Settled c s) :
    (beforeWrite c >>= g) s = g () s := by
  obtain ⟨h1, h2, h3, h4, h5⟩ := h
  simp only [beforeWrite, bind_assoc, M.get_bind, h1, h2, h3, h4, h5]; rfl

/-- With the core's earlier writes acknowledged an access goes on. -/
theorem inOrder_settled {β : Type} {c : CoreId} {s : State} (g : Unit → M β) (h : s.settled c = true) :
    (inOrder c >>= g) s = g () s := by
  simp only [inOrder, bind_assoc, M.get_bind, h]; rfl

/-- A write that no shadow check holds goes on. -/
theorem notShadowed_free {β : Type} {c : CoreId} {a n : Nat} {s : State} (g : Unit → M β) (h : s.shadowHolds c a n = false) :
    (notShadowed c a n >>= g) s = g () s := by
  simp only [notShadowed, bind_assoc, M.get_bind, h]; rfl

/-- A core without a running shadow check has no place held. -/
theorem State.shadowHolds_none {s : State} {c : Nat} (a n : Nat) (h : (s.core c).shadowHold = []) :
    s.shadowHolds c a n = false := by simp [State.shadowHolds, h]

/-- Work that has what it needs at hand is done, its fault put aside. -/
theorem execPart_atHand {m : M Work} {s : State} (h : AtHand m s = true) : ∃ r t, execPart m s = .ok (r, t) := by
  unfold AtHand at h
  unfold execPart
  split at h
  · rename_i x hx; exact ⟨x.1, x.2, by rw [hx]⟩
  · rename_i f hf; exact ⟨_, _, by rw [hf]⟩
  · cases h

theorem settle_flt {s : State} {c : CoreId} {w : W64} {m : M Unit} {f : CFlt} (h : m s = .error (.flt f)) :
    s.settle c w (thenNext c m) = s.faulted c w f := by
  simp [State.settle, State.faulted, thenNext, bind, StateT.bind, Except.bind, h]

theorem settle_hold {s : State} {c : CoreId} {w : W64} {m : M Unit} (h : m s = .error .hold) :
    s.settle c w (thenNext c m) = s := by simp [State.settle, thenNext, bind, StateT.bind, Except.bind, h]

/-- An instruction whose work leaves t retires. -/
theorem retires_of {i : Instr} {c : CoreId} {w : W64} {s t : State} {z : Nat} {m : M Unit} (ht : Takes s c w z)
    (hi : exec i s = .next (s.issue c w z (thenNext c m))) (hm : m s = .ok ((), t)) : Retires i c s t := by
  rw [Retires, hi, issue_ok ht, settle_next hm]

/-- An instruction whose work faults raises the fault. -/
theorem raised_of {i : Instr} {c : CoreId} {w : W64} {s : State} {z : Nat} {m : M Unit} {f : CFlt} (ht : Takes s c w z)
    (hi : exec i s = .next (s.issue c w z (thenNext c m))) (hm : m s = .error (.flt f)) : Leads i s (s.faulted c w f) := by
  rw [Leads, hi, issue_ok ht, settle_flt hm]

/-- A write to local memory above HBM changes bytes of it and the soundness of its words at most. -/
theorem State.writeLocal_high (s : State) {a : Nat} (bs : List Byte) (h : hbmSize ≤ a) :
    s.writeLocal a bs = (s.poke a bs).sramClear a bs.length ∨ s.writeLocal a bs = s := by
  have h0 : ¬ a < hbmSize := by omega
  unfold State.writeLocal areaOf
  simp only [h0, if_false]
  split <;> first | exact .inl rfl | exact .inr rfl | skip
  rename_i h; split_ifs at h

@[simp] theorem State.core_writeLocal_opbuf (s : State) (c d o : Nat) (bs : List Byte) :
    (s.writeLocal (opbufAddr d o) bs).core c = s.core c := by
  rcases s.writeLocal_high bs (a := opbufAddr d o) (by unfold opbufAddr hbmSize; omega) with h | h
  · rw [h]; rfl
  · rw [h]

@[simp] theorem State.core_writeLocal_store (s : State) (c d o : Nat) (bs : List Byte) :
    (s.writeLocal (storeAddr d o) bs).core c = s.core c := by
  rcases s.writeLocal_high bs (a := storeAddr d o) (by unfold storeAddr hbmSize; omega) with h | h
  · rw [h]; rfl
  · rw [h]

/-- A write to on-chip memory of a core without a running shadow check always happens, and leaves none running. -/
theorem writeAt_onChip {c : CoreId} {w : W64} {t : Desc} {o : Nat} {bs : List Byte} {s : State} (h : 2 ≤ t.kind)
    (hs : (s.core c).shadowHold = []) : ∃ v, writeAt c w t o bs s = .ok ((), v) ∧ (v.core c).shadowHold = [] := by
  unfold writeAt
  generalize t.kind = k at h
  match k, h with
  | 2, _ =>
    simp only [notShadowed_free _ (State.shadowHolds_none _ _ hs), M.modify_run]
    exact ⟨_, rfl, by simpa using hs⟩
  | 3, _ =>
    simp only [notShadowed_free _ (State.shadowHolds_none _ _ hs), M.modify_run]
    exact ⟨_, rfl, by simpa [State.core, State.updCore, State.sramClear] using hs⟩
  | _ + 4, _ => exact ⟨_, rfl, by simpa using hs⟩

/-- Bytes that a core reads of a tensor's memory. -/
theorem readRanges_one {c : CoreId} {t : Desc} {a n : Nat} {l : List Byte} {s v : State}
    (h : s.tensorBytes c t a n = some (l, v)) : readRanges c t [(a, n)] s = .ok (([l], none), v) := by
  unfold State.tensorBytes at h
  by_cases hk : 2 ≤ t.kind
  · simp only [hk, if_true] at h
    split at h
    · rename_i hb
      simp only [Option.some.injEq, Prod.mk.injEq] at h
      obtain ⟨rfl, rfl⟩ := h
      simp only [readRanges, M.get_bind, hk, if_true, List.map_cons, List.map_nil, List.flatMap_cons, List.flatMap_nil, hb,
        List.append_nil]
      rfl
    · cases h
  · simp only [hk, if_false] at h
    simp only [readRanges, M.get_bind, hk, if_false]
    generalize hb : (if t.kind = 0 then localAddr a else a) = b at h
    cases hr : s.readToile c b n with
    | bytes x =>
      simp only [hr, Option.some.injEq, Prod.mk.injEq] at h
      obtain ⟨rfl, rfl⟩ := h
      simp only [List.flatMap_cons, List.flatMap_nil, hb, hr, List.append_nil, ne_eq, not_true, if_false]
      simp [List.mapM_cons, rdToile, hr, bind, StateT.bind, Except.bind, get, getThe, MonadStateOf.get, StateT.get, pure,
        StateT.pure, Except.pure, modify, modifyGet, MonadStateOf.modifyGet, StateT.modifyGet, hb]
    | _ => simp [hr] at h

/-- The common part of the engine instructions: a check, the queue, and the work with its dispatch. -/
theorem carried_of {α : Type} {i : Instr} {c : CoreId} {w : W64} {s : State} {check : M α} {eng : α → State → Engine}
    {empty : α → Bool} {work : α → State → M Work} {shad : α → State → Option Shad} {leaves : α → List Nat} {ready : State → Prop} {z : Nat}
    {m : M Unit} (ht : Takes s c w z) (hi : exec i s = .next (s.issue c w z (thenNext c m)))
    (herr : ∀ f, check s = .error (.flt f) → m s = .error (.flt f))
    (hok : ∀ o u, check s = .ok (o, u) → ready u → m s = (do
      queueRoom c (eng o u)
      if empty o then setFlag c 0
      else
        let r ← execPart (work o u)
        dispatchWork c (eng o u) w r (shad o u) (leaves o) : M Unit) u) :
    Carried i c w s check eng empty work shad leaves ready := by
  refine ⟨fun f hf => ?_, fun o u h hr => ⟨fun hq => ?_, fun hq => ⟨fun he => ?_, fun he ha => ?_⟩⟩⟩
  · rw [Leads, hi, issue_ok ht, settle_flt (herr f hf)]
  · have := hok o u h hr
    rw [queueRoom_full _ hq] at this
    rw [Leads, hi, issue_ok ht, settle_hold this]
  · have := hok o u h hr
    rw [queueRoom_room _ hq] at this
    simp only [he, if_true] at this
    rw [Retires, hi, issue_ok ht, settle_next (t := u.emptied c) this]
  · have := hok o u h hr
    obtain ⟨r, t, e⟩ := execPart_atHand ha
    rw [queueRoom_room _ hq] at this
    simp only [he, Bool.false_eq_true, if_false, M.bind_ok e] at this
    exact ⟨r, t, e, by rw [Retires, hi, issue_ok ht, settle_next (t := t.dispatched c (eng o u) w r (shad o u) (leaves o)) this]⟩

/-- Counted lane work runs, and its counts stand in the core's counters. -/
theorem nm_run {α : Type} (c : CoreId) (x : NM α) (s : State) :
    nm c x s = .ok ((x.run {}).1, s.counted c (x.run {}).2) := rfl

theorem mapM_pure_run (l : List Nat) (f : Nat → Nat) (k : Cnt) :
    ((l.mapM (fun i => (pure (f i) : NM Nat))) : NM (List Nat)).run k = (l.map f, k) := by
  induction l generalizing k with
  | nil => rfl
  | cons x l ih => simp only [List.mapM_cons, List.map_cons, pure_bind, StateT.run_bind] at *; rw [ih]; rfl

/-- A lane map leaves v[A] with its active lanes mapped. -/
theorem mapLanes_run (c : CoreId) (ops : BitVec 52) (f : Nat → Nat → NM Nat) {s : State}
    (hs : s.sramWords (vrfAddr c (fldA ops) 0) 256 = []) : mapLanes c ops f s = .ok ((), s.lanesMapped c ops f) := by
  unfold mapLanes activeLanes State.lanesMapped
  simp only [M.getM_bind, bind_assoc, pure_bind]
  rw [M.oldLanes_bind _ hs, M.bind_ok (nm_run _ _ _)]
  simp only [M.setV_run, State.laneOn, State.lanesAt, ite_apply]
  by_cases h : vxMasked ops <;> simp [h]

theorem lanesMapped_pure (c : CoreId) (ops : BitVec 52) (f : Nat → Nat) (s : State) :
    s.lanesMapped c ops (fun i _ => pure (f i)) = s.withV c (fldA ops) (ofLanes (elemBits (vxFmt ops))
      ((List.range (lanesOf (elemBits (vxFmt ops)))).map (fun i =>
        if s.laneOn c ops i then f i else (s.lanesAt c (fldA ops) ops).getD i 0))) := by
  unfold State.lanesMapped
  have : (fun i => if s.laneOn c ops i then pure (f i) else pure ((s.lanesAt c (fldA ops) ops).getD i 0) : Nat → NM Nat)
      = fun i => pure (if s.laneOn c ops i then f i else (s.lanesAt c (fldA ops) ops).getD i 0) := by
    funext i; split <;> rfl
  simp only [this, mapM_pure_run]
  rfl

/-- A lane instruction with room in its queue, whose work leaves t. -/
theorem lane_ok {i : Instr} {c : CoreId} {op : Nat} {ops : BitVec 52} {z : Nat} {takes : Nat → Bool} {m : M Unit} {s t : State}
    (hi : exec i s = laneOp c op ops z takes m s) (ht : Takes s c (word clsVX op ops) (zVX ||| zMaskReg ||| z))
    (hf : takes (vxFmt ops) = true) (hq : (s.core c).vx.length < 16) (h : m s = .ok ((), t)) :
    Retires i c s (t.dispatched c .vx (word clsVX op ops) {}) := by
  apply retires_of ht hi
  unfold laneWork vxGo
  simp only [hf, Bool.not_true, M.fltIf_false]
  rw [queueRoom_room _ (by simpa [Core.queue] using hq), M.bind_ok h]
  rfl

/-! ### Checks gathered and ranked (R122) -/

/-- A check that passes gathers nothing. -/
theorem gather_ok {α : Type} {o : Nat} {m : M α} {d : State → α} {l : List (Nat × CFlt)} {s t : State} {a : α}
    (h : m s = .ok (a, t)) : gather o m d l s = .ok ((a, l), t) := by simp [gather, h]

/-- A check that fails gathers its fault and leaves the state. -/
theorem gather_flt {α : Type} {o : Nat} {m : M α} {d : State → α} {l : List (Nat × CFlt)} {s : State} {f : CFlt}
    (h : m s = .error (.flt f)) : gather o m d l s = .ok ((d s, l ++ [(o, f)]), s) := by simp [gather, h]

/-- Checks that gather nothing answer. -/
theorem ranked_ok {α : Type} {k : K α} {s t : State} {a : α} (h : k [] s = .ok ((a, []), t)) : ranked k s = .ok (a, t) := by
  simp [ranked, h]

/-- Checks that gather one fault raise it. -/
theorem ranked_one {α : Type} {k : K α} {s t : State} {a : α} {p : Nat × CFlt} (h : k [] s = .ok ((a, [p]), t)) :
    ranked k s = .error (.flt p.2) := by
  simp [ranked, h]

/-- The descriptor of DM.RDW and DM.VLD evaluated, and an offset that fits, give the place of the access (R117). -/
theorem wordCheck_ok {c : CoreId} {ops : BitVec 52} {n m : Nat} {s u : State} {t : Tens}
    (h : evalT c (tOf (fldB ops)) 1 false s = .ok (t, u)) (ha : (u.sreg c (fldC ops)).toNat % m = 0)
    (hb : (u.sreg c (fldC ops)).toNat + n ≤ t.d.extent) :
    wordCheck c ops n m false s = .ok ((t, t.d.base + (u.sreg c (fldC ops)).toNat), u) := by
  apply ranked_ok
  have hb' : ¬ t.d.extent < (u.sreg c (fldC ops)).toNat + n := by omega
  simp [evalK, gather, h, chkIf, chk, fltIf, getS, State.sreg, bind, StateT.bind, Except.bind, pure, StateT.pure, Except.pure,
    StateT.lift, liftM, monadLift, MonadLift.monadLift, get, getThe, MonadStateOf.get, StateT.get] at *
  simp [StateT.pure, pure, Except.pure, ha, Nat.not_lt.mpr hb']

end Sys2Proof.Machine
end

