-- ==== Sys2Proof/Laws/Sure.lean ====
section
/-! SUPPORT. Work that always ends with a value while no shadow check of its core holds a place: computing on numbers, and
reading and writing on-chip memory. -/
namespace Sys2Proof.Machine

/-! ### Work that ends with a value -/

@[simp] theorem State.count_cores (s : State) (f : Fld) (n i j : Nat) : (s.count f n i j).cores = s.cores :=
  (reported_count s f n i j).cores

/-- The work ends with a value from every state in which no shadow check of the core holds a place, and leaves none. -/
def Sure {α : Type} (c : Nat) (m : M α) : Prop :=
  ∀ s, (s.core c).shadowHold = [] → ∃ a t, m s = .ok (a, t) ∧ (t.core c).shadowHold = []

/-- A change of the state that leaves alone what shadow checks of the core hold. -/
abbrev KeepsHold (c : Nat) (f : State → State) : Prop := ∀ s, ((f s).core c).shadowHold = (s.core c).shadowHold

theorem keepsHold_cores {c : Nat} {f : State → State} (h : ∀ s, (f s).cores = s.cores) : KeepsHold c f := fun s => by
  simp [State.core, h s]

theorem keepsHold_upd {c : Nat} {g : Core → Core} (d : Nat) (h : ∀ k, (g k).shadowHold = k.shadowHold) :
    KeepsHold c (fun s => s.updCore d g) := fun s => by
  by_cases e : c = d
  · subst e; simp [h]
  · rw [State.core_updCore_ne s g e]

theorem sure_pure {c : Nat} {α : Type} (a : α) : Sure c (pure a : M α) := fun s h => ⟨a, s, rfl, h⟩

theorem sure_bind {c : Nat} {α β : Type} {m : M α} {f : α → M β} (h : Sure c m) (hf : ∀ a, Sure c (f a)) : Sure c (m >>= f) :=
  fun s hs => by
    obtain ⟨a, t, e, ht⟩ := h s hs
    rw [M.bind_ok e]
    exact hf a t ht

theorem sure_get_bind {c : Nat} {β : Type} {f : State → M β} (hf : ∀ s, Sure c (f s)) : Sure c ((get : M State) >>= f) :=
  fun s h => hf s s h

theorem sure_modify {c : Nat} {f : State → State} (h : KeepsHold c f) : Sure c (modify f : M Unit) :=
  fun s hs => ⟨(), f s, rfl, by rw [h s, hs]⟩

theorem sure_nm {c : Nat} {α : Type} (d : Nat) (x : NM α) : Sure c (nm d x) := fun s h =>
  ⟨_, _, rfl, by
    show ((State.count _ _ _ _ _).core c).shadowHold = []
    simpa [State.core] using h⟩

theorem sure_mapM {c : Nat} {α β : Type} {f : α → M β} (hf : ∀ a, Sure c (f a)) : ∀ l : List α, Sure c (l.mapM f)
  | [] => by rw [List.mapM_nil]; exact sure_pure _
  | a :: l => by
    rw [List.mapM_cons]
    exact sure_bind (hf a) (fun b => sure_bind (sure_mapM hf l) (fun bs => sure_pure _))

theorem sure_forM {c : Nat} {α : Type} {f : α → M Unit} (hf : ∀ a, Sure c (f a)) : ∀ l : List α, Sure c (l.forM f)
  | [] => sure_pure _
  | a :: l => sure_bind (hf a) (fun _ => sure_forM hf l)

theorem sure_readRanges {c : CoreId} {t : Desc} (h : 2 ≤ t.kind) (rs : List (Nat × Nat)) : Sure c (readRanges c t rs) := by
  intro u hu
  refine ⟨(rs.map (fun r => u.sramRead c t.kind r.1 r.2), badFault (rs.flatMap (fun r => u.sramBad (placeOf c t.kind r.1) r.2))),
    rs.foldl (fun (s : State) r => s.sramCheck (placeOf c t.kind r.1) r.2) u, ?_, ?_⟩
  · unfold readRanges
    rw [M.get_bind, if_pos h]
    rfl
  · rw [(Reported.foldl (fun s r => reported_sramCheck s _ _) rs u).core]; exact hu

theorem sure_readSub {c : CoreId} {t : Desc} (h : 2 ≤ t.kind) (n0 n1 n2 n3 : Nat) : Sure c (readSub c t n0 n1 n2 n3) :=
  sure_bind (sure_readRanges h _) (fun _ => sure_pure _)

theorem sure_writeAt {c : CoreId} {w : W64} {t : Desc} (h : 2 ≤ t.kind) (o : Nat) (bs : List Byte) : Sure c (writeAt c w t o bs) :=
  fun _ hs => let ⟨v, e, hv⟩ := writeAt_onChip h hs; ⟨(), v, e, hv⟩

theorem sure_writeRow {c : CoreId} {w : W64} {t : Desc} (h : 2 ≤ t.kind) (i1 i2 i3 : Nat) (l : List Nat) :
    Sure c (writeRow c w t i1 i2 i3 l) := by
  unfold writeRow
  extract_lets o
  split
  · exact sure_bind (sure_readRanges h _) (fun _ => sure_bind (sure_pure _) (fun _ => sure_writeAt h _ _))
  · exact sure_bind (sure_pure _) (fun _ => sure_writeAt h _ _)

theorem sure_readFlat {c : CoreId} {t : Tens} (h : 2 ≤ t.d.kind) : Sure c (readFlat c t) :=
  sure_bind (sure_readSub h _ _ _ _) (fun _ => sure_pure _)

theorem sure_readRows {c : CoreId} {t : Tens} (h : 2 ≤ t.d.kind) (rows : Nat) : Sure c (readRows c t rows) :=
  sure_bind (sure_readSub h _ _ _ _) (fun _ => sure_pure _)

theorem sure_readState {c : CoreId} {t : Tens} (h : 2 ≤ t.d.kind) (p : Span) (i : Nat) : Sure c (readState c t p i) :=
  sure_bind (sure_readRanges h _) (fun _ => sure_pure _)

theorem sure_writeState {c : CoreId} {w : W64} {t : Tens} (h : 2 ≤ t.d.kind) (p : Span) (i : Nat) (v : List Nat) :
    Sure c (writeState c w t p i v) :=
  sure_forM (fun i2 => by
    dsimp only
    split
    · exact sure_pure _
    · exact sure_writeAt h _ _) _

theorem sure_writeElems {c : CoreId} {w : W64} {t : Tens} (h : 2 ≤ t.d.kind) (i : Nat) (v : List Nat) :
    Sure c (writeElems c w t i v) :=
  sure_forM (fun i2 => by
    dsimp only
    split
    · exact sure_pure _
    · exact sure_writeRow h _ _ _ _) _

theorem hold_of_cores {s t : State} (c : Nat) (h : t.cores = s.cores) : (t.core c).shadowHold = (s.core c).shadowHold := by
  simp [State.core, h]

theorem hold_updCore (s : State) (c d : Nat) {g : Core → Core} (h : ∀ k, (g k).shadowHold = k.shadowHold) :
    ((s.updCore d g).core c).shadowHold = (s.core c).shadowHold := keepsHold_upd d h s

theorem State.coreReady_cores (s : State) (c : Nat) (b : Bool) : (s.coreReady c b).cores = s.cores := by
  unfold State.coreReady; split <;> rfl

theorem hold_alarm (s : State) (c d detail : Nat) (again : Bool) :
    ((((((s.event 0x11 2 d 0xFFFFF detail).errLog { cls := 2, inst := d, level := 2, kind := 0x11, detail := detail }).put
      R.CORE_MM_CTRL_lut_mode 1 d).coreReady d false).updCore d (fun k =>
        { k with recovering := true, recoverAgain := again })).core c).shadowHold = (s.core c).shadowHold := by
  refine (hold_updCore _ c d ?_).trans (hold_of_cores c ?_)
  · exact fun _ => rfl
  · rw [State.coreReady_cores, State.put_cores, (reported_errLog _ _).cores, (reported_event _ _ _ _ _ _).cores]

theorem hold_residueAlarm (s : State) (c d cause : Nat) : ((s.residueAlarm d cause).core c).shadowHold = (s.core c).shadowHold := by
  have h := fun detail again => hold_alarm s c d detail again
  unfold State.residueAlarm
  exact h _ _

theorem hold_slipped (s : State) (c d : Nat) (l : List Slip) : ((s.slipped d l).core c).shadowHold = (s.core c).shadowHold := by
  unfold State.slipped
  induction l generalizing s with
  | nil => rfl
  | cons x l ih =>
    rw [List.foldl_cons, ih]
    split
    · unfold State.lutFix
      dsimp only
      rw [hold_residueAlarm]
      exact hold_of_cores c (by simp)
    · unfold State.maskedMismatch
      extract_lets l t u
      have hu : (u.core c).shadowHold = (s.core c).shadowHold := by
        rw [hold_of_cores (s := t) c (by simp [u])]
        exact hold_updCore s c d (fun _ => rfl)
      split
      · rw [hold_residueAlarm]; exact hu
      · exact hu

theorem sure_onArray {c : CoreId} {α : Type} (array : Bool) (x : List (Nat × Nat × Nat × Int × Int) → NM α) :
    Sure c (onArray c array x) := by
  unfold onArray
  refine sure_get_bind (fun s => ?_)
  extract_lets l
  split
  refine sure_bind (sure_nm _ _) (fun _ => ?_)
  split
  · exact sure_bind (sure_modify (fun s => (hold_slipped _ _ _ _).trans (hold_updCore _ _ _ (by exact fun _ => rfl)))) (fun _ => sure_pure _)
  · exact sure_bind (sure_pure _) (fun _ => sure_pure _)

theorem atHand_sure {α : Type} {c : Nat} {m : M α} (h : Sure c m) {s : State} (hs : (s.core c).shadowHold = []) :
    AtHand m s = true := by
  obtain ⟨a, t, e, _⟩ := h s hs
  simp [AtHand, e]

/-- An instruction that need not wait for tile space goes on from the state as it was. -/
theorem codedRoom_state {c : CoreId} {e : Engine} {l : List Tile} {s t : State} {x : Unit}
    (h : codedRoom c e l s = .ok (x, t)) : t = s := by
  unfold codedRoom at h
  rw [M.get_bind] at h
  split at h
  · cases h
  · cases h; rfl

/-- The tiles that RC.GATE stages. -/
def gateCells (o : GateOps) : List (Nat × Nat) :=
  (walkSteps 1 (cdiv (cdiv (o.tw.n 0) 64) (stepSlabs o.tw.d)) (cdiv (o.tw.n 1) (nslab o.tw.d.fmt))).flatMap (fun q =>
    (slabsOf o.tw.d (cdiv (o.tw.n 0) 64) q.1).map (fun x => (x, q.2)))

/-- RC.GATE without bias has what it needs at hand once its tiles are staged with space for those decoded by a slot, and its
other operands are on the chip. -/
theorem gateWork_atHand {c : CoreId} {w : W64} {o : GateOps} {three array : Bool} {u : State}
    (ht : ∃ x v, stageTiles c o.tw.d (o.ws.map (·.d)) (gateCells o) u = .ok (x, v) ∧
      codedRoom c .mm (x.map (·.2.tile)) v = .ok ((), v) ∧ (v.core c).shadowHold = [])
    (hi : 2 ≤ o.ti.d.kind) (hx : 2 ≤ o.tx.d.kind) (hh : 2 ≤ o.th.d.kind) (hs : 2 ≤ o.ts.d.kind) (hb : o.tb = none) :
    AtHand (gateWork c w o three array) u = true := by
  unfold gateWork
  extract_lets p t D N gk steps cells
  obtain ⟨x, v, e, er, hv⟩ := ht
  simp only [AtHand]
  have hc : gateCells o = cells := rfl
  have hd : o.tw.d = t := rfl
  rw [hc, hd] at e
  rw [M.bind_ok e, M.bind_ok er]
  refine atHand_sure (m := _) ?_ hv
  extract_lets
  split
  · exact sure_pure _
  · rw [hb]
    refine sure_bind (sure_readFlat hi) (fun _ => ?_)
    refine sure_bind (sure_pure _) (fun _ => ?_)
    refine sure_bind (sure_readRows hx _) (fun _ => ?_)
    refine sure_bind (sure_nm _ _) (fun _ => ?_)
    extract_lets
    refine sure_bind (sure_nm _ _) (fun _ => ?_)
    refine sure_bind (sure_mapM (fun im => sure_readState hs _ _) _) (fun _ => ?_)
    refine sure_bind (sure_onArray _ _) (fun _ => ?_)
    refine sure_bind (sure_forM (fun q => sure_bind (sure_forM (fun q => sure_writeElems hh _ _) _)
      (fun _ => sure_writeState hs _ _ _)) _) (fun _ => ?_)
    exact sure_bind (sure_modify (fun s => hold_of_cores c (by simp))) (fun _ => sure_pure _)

/-- Counting the resets of a member set needs nothing from outside the core. -/
theorem sure_countResets (c : CoreId) (p : Span) : Sure c (countResets c p) :=
  sure_modify (fun s => hold_of_cores c (by simp))

/-- RC.SCAN has what it needs at hand where its operands are on the chip. -/
theorem scanWork_atHand {c : CoreId} {w : W64} {o : ScanOps} {direct anch : Bool} {u : State}
    (h : ∀ t ∈ [o.td, o.tu, o.tz, o.ts, o.ti], 2 ≤ t.d.kind) (hu : (u.core c).shadowHold = []) :
    AtHand (scanWork c w o direct anch) u = true := by
  simp only [List.mem_cons, List.not_mem_nil, or_false, forall_eq_or_imp, forall_eq] at h
  obtain ⟨hd, hx, hz, hs, hi⟩ := h
  refine atHand_sure (m := _) ?_ hu
  unfold scanWork
  extract_lets
  refine sure_bind (sure_readFlat hi) (fun _ => ?_)
  refine sure_bind (sure_readRows hx _) (fun _ => ?_)
  refine sure_bind (sure_readRows hz _) (fun _ => ?_)
  extract_lets
  refine sure_bind (sure_mapM (fun im => sure_bind (sure_readState hs _ _) (fun _ =>
    sure_bind (sure_nm _ _) (fun _ => sure_pure _))) _) (fun _ => ?_)
  refine sure_bind (sure_forM (fun x => sure_bind (sure_forM (fun _ => sure_writeElems hd _ _) _)
    (fun _ => sure_writeState hs _ _ _)) _) (fun _ => ?_)
  exact sure_bind (sure_countResets c _) (fun _ => sure_pure _)

/-- RC.LCONV has what it needs at hand where its operands are on the chip. -/
theorem lconvWork_atHand {c : CoreId} {w : W64} {o : LconvOps} {anch : Bool} {u : State}
    (h : ∀ t ∈ [o.td, o.tx, o.tk, o.ts, o.ti], 2 ≤ t.d.kind) (hu : (u.core c).shadowHold = []) :
    AtHand (lconvWork c w o anch) u = true := by
  simp only [List.mem_cons, List.not_mem_nil, or_false, forall_eq_or_imp, forall_eq] at h
  obtain ⟨hd, hx, hk, hs, hi⟩ := h
  refine atHand_sure (m := _) ?_ hu
  unfold lconvWork
  extract_lets
  refine sure_bind (sure_readSub hk _ _ _ _) (fun _ => ?_)
  refine sure_bind (sure_readFlat hi) (fun _ => ?_)
  refine sure_bind (sure_readRows hx _) (fun _ => ?_)
  refine sure_bind (sure_nm _ _) (fun _ => ?_)
  refine sure_bind (sure_mapM (fun im => sure_bind (sure_readState hs _ _) (fun _ =>
    sure_bind (sure_nm _ _) (fun _ => sure_pure _))) _) (fun _ => ?_)
  refine sure_bind (sure_forM (fun x => sure_bind (sure_forM (fun _ => sure_writeElems hd _ _) _)
    (fun _ => sure_writeState hs _ _ _)) _) (fun _ => ?_)
  exact sure_bind (sure_countResets c _) (fun _ => sure_pure _)

/-- The leaves that AT.WIN reads. -/
def winLeaves (c : CoreId) (o : WinOps) : M (List (WinMember × List (Nat × LeafRes))) :=
  o.ms.mapM (fun x => do let l ← x.blocks.mapM (winLeaf c o.l.geo o.p.j0 x); pure (x, l))

/-- AT.WIN has what it needs at hand once its leaves are read and its other operands are on the chip. -/
theorem winWork_atHand {c : CoreId} {w : W64} {o : WinOps} {u : State}
    (ht : ∃ x v, winLeaves c o u = .ok (x, v) ∧ (v.core c).shadowHold = [])
    (hq : 2 ≤ o.tq.d.kind) (hd : 2 ≤ o.td.d.kind) : AtHand (winWork c w o) u = true := by
  obtain ⟨x, v, e, hv⟩ := ht
  unfold winLeaves at e
  unfold winWork
  extract_lets g
  have hg : o.l.geo = g := rfl
  rw [hg] at e
  simp only [AtHand]
  rw [M.bind_ok e]
  refine atHand_sure (m := _) ?_ hv
  refine sure_bind (sure_readRows hq _) (fun _ => ?_)
  refine sure_bind (sure_forM (fun q => sure_bind (sure_nm _ _) (fun _ =>
    sure_bind (sure_forM (fun _ => sure_writeElems hd _ _) _) (fun _ => ?_))) _) (fun _ => ?_)
  · split
    · exact sure_bind (sure_modify (fun s => hold_updCore s c c (fun _ => rfl)))
        (fun _ => sure_modify (fun s => hold_of_cores c (by simp)))
    · exact sure_modify (fun s => hold_of_cores c (by simp))
  · exact sure_pure _

end Sys2Proof.Machine
end

