-- ==== Sys2Proof/Tests/Slice0.lean ====
section
/-! SUPPORT. Tests on fixed values: small states that meet the hypotheses of the statements, clause by clause, the
well-formedness checks, and commands against values that the spec gives. -/
namespace Sys2Proof.Machine
set_option Elab.async false
set_option synthInstance.maxSize 1000
set_option synthInstance.maxHeartbeats 400000

/-! ### Small states -/

/-- The main domain runs. -/
def tUp : State := { pwr := { mainOn := true, aon := true } }

/-- A small binder: one channel, one frame of 64 samples, one core, a region to run from and one to write. -/
def tBinder : Binder :=
  { image := 0, par := { hop := 64, frames := 1, channels := 1, g := 1, size := 256, resSize := 256, waitUs := 10 },
    regions := [⟨0xFFF * 2 ^ 40, 0x1000, true, false, true⟩, ⟨0xFFF * 2 ^ 40 + 0x1000, 0x10000, true, true, false⟩],
    entry := BitVec.ofNat 52 (0xFFF * 2 ^ 40), sites := [], init := [], dtMask := 0, tables := [], base := none,
    measurement := 0, hoops := [0] }

/-- Hoop 0 is powered and holds the binder 5. -/
def tHoop : State :=
  { tUp.put R.PWR_HOOP_STAT_on 1 with binders := [(5, tBinder)], hoops := [(0, { loaded := [5] })] }

/-- Core 0 runs the binder 5. -/
def tCore : State :=
  ((tHoop.put R.CORE_STATUS_run_state 2 0).put R.CORE_STATUS_binder 5 0).updCore 0 (fun k =>
    { k with pc := BitVec.ofNat 52 (0xFFF * 2 ^ 40) })

/-- Core 0 with values in s1 and s2. -/
def tRegs (a b : W64) : State := tCore.updCore 0 (fun k => (k.setS 1 a).setS 2 b)

/-- Operand bits from the fields A, B, C, D and the bits below. -/
def tOps (a b c d low : Nat) : BitVec 52 := BitVec.ofNat 52 (a * 2 ^ 47 + b * 2 ^ 42 + c * 2 ^ 37 + d * 2 ^ 29 + low)

/-- A folio of the binder 5 on hoop 0 in a state. -/
def tFol (st : FolState) : State := { tHoop with dir := [(1, { st := st, binder := 5 })] }

/-! ### The step and the registers -/

theorem witness_StepRunsFrontCommand : ({ tUp with pending := [.openComplete, .idcode] } : State).pending
    = Instr.openComplete :: [.idcode] := rfl
theorem witness_EmptyQueueTicks : State.reset.pending = [] ∧ State.reset.pwr.aon = false ∧ State.reset.mainOn = false ∧
    (let s : State := { pwr := { mainOn := true } }
     s.pending = [] ∧ s.pwr.aon = false ∧ s.mainOn = true ∧ s.trim = 0 ∧ s.clk.freqAcc = 0 ∧ s.clk.slew = 0) := by
  decide +kernel
theorem witness_FuseArrayInvariant : State.reset.fuses.kept State.reset.fuses ∧ State.reset.fuses.legal := by decide +kernel
theorem witness_EventsNeedMainDomain : mainEvent .openComplete = true ∧ State.reset.mainOn = false := by decide +kernel
theorem witness_RefusedCommands :
    commandReg (.folOpen .p2 1) = some (.p2, folCmdAddr) ∧ tUp.portQuiet .p2 = false ∧ State.reset.portQuiet .p0 = true ∧
    commandReg (.standby .p2) = some (.p2, R.PWR_CMD_op.addr 0 0) ∧ tUp.mayWrite .p2 (R.PWR_CMD_op.addr 0 0) = false ∧
    (let s : State := { tUp with spine := { phase := .stopped } }
     s.spineDown = true ∧ s.portQuiet .p2 = true ∧ s.mayWrite .p0 folCmdAddr = true ∧ pausedReg folCmdAddr = true) ∧
    State.reset.mayWrite .p2 folCmdAddr = true ∧ alwaysOn folCmdAddr = false := by decide +kernel
theorem witness_RegisterWrites :
    inControl 0xEFFFFFFFFF = false ∧ inControl 0xF000000000 = true ∧ inControl 0xF0FFFFFFF8 = true ∧
    inControl 0xF100000000 = false ∧ tUp.portQuiet .p2 = false ∧ State.reset.portQuiet .p0 = true ∧
    tUp.mayWrite .p2 (0xF000100008 / 8 * 8) = false ∧ tUp.mayWrite .p0 (0xF000200009 / 8 * 8) = true ∧ 0xF000200009 % 8 ≠ 0 ∧
    Permit tUp .p0 0xF000200400 ∧ famAt 0xF000200400 = none ∧
    Permit tUp .p0 0xF000200048 ∧ famAt 0xF000200048 = some (R.FOL_EVT_MASK, 0, 0) ∧
    specialFams.contains R.FOL_EVT_MASK = false := by decide +kernel
theorem witness_RegisterFieldsByType : famAt 0xF000200040 = some (R.FOL_EVT_RD, 0, 0) ∧ tUp.colo.shown = none ∧
    (∀ x ∈ R.FOL_EVT_RD.flds, 32 < x.lo ∨ x.lo + x.width ≤ 32) := by decide +kernel
theorem witness_MemoryWrites :
    tUp.pwr.aon = true ∧ tUp.portQuiet .p1 = false ∧ tUp.mayMemory .p1 0 1 = false ∧ tUp.mayMemory .p0 0 1 = true ∧ tUp.mainOn = true ∧
    oneArea 0xBFFFFFFFF 2 = false ∧ oneArea 0xC00000000 1 = true ∧ areaOf 0xC00000000 = .hole ∧ areaOf 0xE000FFFFFF = .dir ∧
    oneArea 0xF000200040 8 = true ∧ areaOf 0xF000200040 = .ctl ∧
    areaOf 0xE200000000 = .opbuf 0 ∧ tUp.hoopOn 0 = false ∧ tHoop.hoopOn 0 = true ∧
    (let dat : List Byte := [1, 2, 3, 4]
     let a := opbufAddr 8 0 - 2
     oneArea a dat.length = true ∧ areaOf a = .opbuf 7 ∧ areaOf (a + (dat.length - 1)) = .opbuf 8 ∧ opbufAddr 8 0 - a = 2 ∧
     tHoop.hoopOn 0 = true ∧ tHoop.hoopOn 1 = false) ∧
    oneArea (storeAddr 1 0 - 2) 4 = true ∧ areaOf 0xBFFFFFFFF = .hbm ∧ areaOf 0xE103FFFFFF = .store 15 := by decide +kernel
theorem witness_LocalMemoryFrame : areaOf 0x40 = .hbm ∧ Memory.wf tUp.mem = true ∧
    (∀ l ∈ linesOf 0x41 4, SMap.get .sound tUp.hbmErr l = .sound) ∧ areaOf 0xE100000000 = .store 0 := by decide +kernel
theorem witness_HolesAndUnlistedAddresses :
    (let s := tRegs 0 (BitVec.ofNat 64 (0xFFF * 2 ^ 40 + 0xC000000000))
     let o := tOps 1 2 0 0 0
     (s.sreg 0 (fldB o) + (fldImm o).signExtend 64).toNat < 2 ^ 52 ∧ s.locate (0xFFF * 2 ^ 40 + 0xC000000000) = .here 0xC000000000 ∧
     areaOf 0xC000000000 = .hole ∧ Takes s 0 (word clsSC 0x20 o) zRI ∧ Takes s 0 (word clsSC 0x23 o) zRI ∧
     Takes s 0 (word clsDM 4 (tOps 2 2 0 0 0)) (zT ||| zbits 41 32)) ∧
    areaOf 0xD000000000 = .hole ∧ tUp.mainOn = true ∧ tUp.pwr.aon = true ∧ tUp.mayMemory .p2 0xD000000000 1 = true ∧ tUp.portQuiet .p2 = false ∧
    ({ tUp with jtag := { tUp.jtag with } }.put R.SEC_DEBUG_unlocked 1).unlocked = true ∧
    blockOf 0xF000300000 = .none ∧ inControl 0xF000300000 = true ∧ tUp.mayWrite .p0 0xF000300000 = true := by decide +kernel

/-! ### Folios and sections -/

theorem witness_FolioCommands :
    (Permit (tFol .idle) .p2 folCmdAddr ∧ (tFol .idle).bit R.FOL_STATUS_busy = false ∧ (tFol .idle).sramWords (dirAddr 1) 16 = []) ∧
    (let s : State := { tFol .idle with sramErr := [(dirAddr 1 + 8, .uncorr)] }
     Permit s .p2 folCmdAddr ∧ s.bit R.FOL_STATUS_busy = false ∧ s.sramBad (dirAddr 1) 16 ≠ []) ∧
    ({ tHoop with dir := [(1, { st := .idle, binder := 5, resident := true })] } : State).sramWords (dirAddr 1) 16 = [] ∧
    ((tFol .idle).ent 1).st = .idle ∧ ((tFol .ready).ent 1).st = .ready ∧ ((tFol .active).ent 1).st = .active ∧
    ((tFol .idle).hoopsFor 5).contains 0 = true ∧ ((tFol .idle).ent 1).resident = false ∧
    (Permit ((tFol .idle).put R.FOL_STATUS_busy 1) .p2 folCmdAddr ∧ ((tFol .idle).put R.FOL_STATUS_busy 1).bit R.FOL_STATUS_busy = true) := by
  decide +kernel

theorem witness_FolioCommands_open :
    let s := ({ tHoop with dir := [] } : State).put R.FOL_ARG0_binder 5
    let s := (s.put R.FOL_ARG1_state_page 0x100000).put R.FOL_ARG2_ring_base 0x200000
    (s.put R.FOL_ARG2_ring_log2 10).openCheck 1 = (0, 0) ∧ s.sramWords (dirAddr 1) 16 = [] := by decide +kernel

/-- A flight with one record, and an enabled egress ring 0 of 256 records. -/
def tFlight : Flight := { seq := 0, first := 0, ready := 0, deadline := 1, recs := [0] }
def tRing (s : State) : State := (s.put R.FOL_EGR_BASE_log2 8 0).put R.FOL_EGR_BASE_enable 1 0
def tRel (s : State) : State := { s with fx := [(1, { flight := some tFlight })], releases := [1] }

theorem witness_FolioEventsTakeEffect :
    ({ tUp with folCmd := some (.opening 1) } : State).folCmd = some (.opening 1) ∧ tUp.mainOn = true ∧
    ((tFol .closing).ent 1).st = .closing ∧ (tRing (tFol .closing)).egressRoom 0 1 = true ∧
    (tFol .idle).folCmd = none ∧
    ((tRel (tFol .active)).fol 1).flight = some tFlight ∧
    ((tRel (tFol .active)).put R.TOILE_LEASE_fenced 0).fenced = false ∧
    ((tRel (tFol .active)).put R.TOILE_LEASE_fenced 0).nextRelease 1 = true ∧
    (tRing (tRel (tFol .active))).egressRoom 0 1 = true ∧ tFlight.stalled = false ∧
    (tRel (tFol .active)).egressRoom 0 1 = false := by decide +kernel

/-- A section of the binder 5 in a phase, its one member ready at 0. -/
def tSection (ph : SecPhase) : Section :=
  { serial := 1, binder := 5, core0 := 0, g := 1, phase := ph, table := some 0,
    members := [{ folio := 1, seq := 0, first := 0, ready := 0, deadline := 100 }] }

/-- Hoop 0 with that section, a device in service, 20 µs after power-up. -/
def tSect (ph : SecPhase) : State :=
  let s : State := { tCore.put R.TOILE_LEASE_fenced 0 with clk := { time := 20000 } }
  s.updHoop 0 (fun k => { k with sections := [tSection ph] })

theorem witness_SectionsProgress :
    (∀ ph ∈ [SecPhase.forming, .loading, .formed, .commitWait, .committing], (tSect ph).sect 0 1 = some (tSection ph)) ∧
    (let s := tSect .forming
     s.mainOn = true ∧ s.forming = true ∧ s.hoopOn 0 = true ∧ s.bit R.HOOP_MAINT_drain 0 = false ∧ (s.hoop 0).ucode = false ∧
     (tSection .forming).earliest.1 + (s.bpar 5).waitUs * 1000 ≤ s.now ∧
     ((tSection .forming).earliest.2 - s.now) * 2 ^ 149 * s.fld R.PWR_ARITH_present ≤ sectionCost (s.bpar 5) (1 * (s.bpar 5).frames)) ∧
    (tSection .loading).table.isSome = true ∧
    (let s := (tSect .formed).updCore 0 (fun k => { k with wait := .stNext })
     s.sect 0 1 = some (tSection .formed) ∧ ((tSection .formed).cores 0).all (fun c => (s.core c).wait == .stNext) = true) ∧
    (let s := (tSect .commitWait).put R.TOILE_QUORUM_standalone 1
     s.sect 0 1 = some (tSection .commitWait) ∧ s.fenced = false ∧ s.commitReady 0 (tSection .commitWait) = true ∧
     s.binder 5 = some tBinder) := by decide +kernel

/-! ### Core instructions -/

theorem witness_ScalarRegisterForms :
    ∀ op ∈ [1, 2, 3, 4, 5, 6, 7, 8, 9, 10, 11, 12, 13, 14, 15], Takes (tRegs 3 5) 0 (word clsSC op (tOps 31 1 2 0 0)) zR3 ∧
      Takes (tRegs 3 5) 0 (word clsSC op (tOps 0 1 2 0 0)) zR3 := by decide +kernel
theorem witness_ScalarImmediateForms :
    (∀ op ∈ [16, 17, 18, 22], Takes (tRegs 3 5) 0 (word clsSC op (tOps 31 1 0 0 0xFFFFFFFF)) zRI) ∧
    (∀ op ∈ [19, 20, 21], Takes (tRegs 3 5) 0 (word clsSC op (tOps 31 1 0 0 63)) (zRI ||| zbits 31 6)) ∧
    (∀ op ∈ [0x18, 0x19], Takes (tRegs 3 5) 0 (word clsSC op (tOps 31 0 0 0 0xFFFFFFFF)) zI) := by decide +kernel
theorem witness_ScalarBranches :
    (∀ x ∈ [(0x29, 1, 1), (0x29, 1, 2), (0x2A, 1, 2), (0x2A, 1, 1), (0x2B, 0xFFFFFFFFFFFFFFFF, 0), (0x2B, 0, 0), (0x2C, 0, 0),
      (0x2C, 0xFFFFFFFFFFFFFFFF, 0), (0x2D, 0, 1), (0x2D, 1, 1), (0x2E, 1, 1), (0x2E, 0, 1)],
      Takes (tRegs x.2.1 x.2.2) 0 (word clsSC x.1 (tOps 1 2 0 0 0xFFFFFFFF)) zRI) ∧
    (tRegs 7 8).sreg 0 (fldA (tOps 1 2 0 0 0)) = 7 ∧ (tRegs 7 8).sreg 0 (fldB (tOps 1 2 0 0 0)) = 8 ∧
    (0xFFFFFFFFFFFFFFFF : W64).slt 0 = true ∧ (0 : W64).slt 0 = false ∧ (0 : W64).ult 1 = true ∧ (1 : W64).ult 1 = false ∧
    Takes tCore 0 (word clsSC 0x28 (tOps 0 0 0 0 1)) (zI ||| zA) ∧ Takes tCore 0 (word clsSC 0x2F (tOps 31 0 0 0 1)) zI ∧
    Takes tCore 0 (word clsSC 0x30 (tOps 31 0 0 0 1)) zI ∧ Takes (tRegs 0xFFFFFFFFFFFF8 0) 0 (word clsSC 0x31 (tOps 1 0 0 0 0)) (zI ||| zImm) ∧
    (0xFFFFFFFFFFFF8 : Nat) < 2 ^ 52 ∧ 0xFFFFFFFFFFFF8 % 8 = 0 := by decide +kernel
theorem witness_ScalarSpecialForms :
    (∀ op ∈ [0x38, 0x3C, 0x3D], Takes tCore 0 (word clsSC op (tOps 31 0 0 0 0)) (zI ||| zImm)) ∧
    Takes tCore 0 (word clsSC 0x39 (tOps 0 0 0 0 0xFFFFFFFF)) (zI ||| zA) ∧ Takes tCore 0 (word clsSC 0x7F 0) (zbits 51 0) ∧
    Takes tCore 0 (word clsSC 0x3A (tOps 1 0 0 0 0x32F8)) (zI ||| zbits 31 16) ∧ crrAllowed 0x32F8 = true ∧ crrAllowed 0x3300 = false ∧
    Takes tCore 0 (word clsSC 0x3B (tOps 1 0 0 0 0x32E0)) (zI ||| zbits 31 16) ∧ crwAllowed 0x32E0 = true ∧
    crwAllowed (0x32E8 / 8 * 8) = false ∧ Settled 0 tCore := by decide +kernel
theorem witness_IdentityAndControlOffsets :
    Takes tCore 0 (word clsSC 0x3D (tOps 1 0 0 0 0)) (zI ||| zImm) ∧
    Takes tCore 0 (word clsSC 0x3A (tOps 1 0 0 0 0x3009)) (zI ||| zbits 31 16) ∧ 0x3009 / 8 * 8 = 0x3008 ∧
    Takes tCore 0 (word clsSC 0x3B (tOps 1 0 0 0 0x32E1)) (zI ||| zbits 31 16) ∧ 0x32E1 / 8 * 8 = 0x3100 + 0x20 * 15 ∧
    Settled 0 tCore := by decide +kernel
theorem witness_ScalarMemory :
    let own := 0xFFF * 2 ^ 40
    let s := tRegs 0 (BitVec.ofNat 64 (own + 0x1FFC))
    let o := tOps 1 2 0 0 4
    ((s.sreg 0 (fldB o) + (fldImm o).signExtend 64).toNat = own + 0x2000) ∧ own + 0x2000 < 2 ^ 52 ∧
    (∀ op ∈ [0x20, 0x21, 0x22, 0x23], Takes s 0 (word clsSC op o) zRI) ∧
    s.reach 0 (own + 0x2000) 8 false = none ∧ s.reach 0 (own + 0x2000) 4 true = none ∧ s.reach 0 (own + 0x1FFC) 8 true = none ∧
    s.readToile 0 (own + 0x2000) 8 = .bytes (List.replicate 8 0) ∧ s.readToile 0 (own + 0x2000) 4 = .bytes (List.replicate 4 0) ∧
    s.locate (own + 0x2000) = .here 0x2000 ∧ Settled 0 s ∧ (s.core 0).shadowHold = [] ∧ s.leasesOn 0x2000 8 = [] ∧ (own + 0x1FFC) % 8 ≠ 0 := by decide +kernel
theorem witness_QueueAndMemoryForm : ∃ t, step { tUp with pending := [.idcode, .bypass true] } = .next t := ⟨_, rfl⟩
theorem witness_CommandRegisters :
    (∀ k ∈ [1, 2, 3, 4, 5, 6, 7], bits (BitVec.ofNat 64 (k + 0xFFFFF * 2 ^ 4)).toNat 0 4 = k) ∧
    (∀ k ∈ [1, 2, 3], bits (BitVec.ofNat 64 k).toNat 0 2 = k) ∧
    (∀ x ∈ [(R.FOL_CMD_op, 4), (R.FOL_BND_CMD_op, 5), (R.TOILE_CMD_op, 2), (R.INGRESS_CMD_op, 4), (R.AUD_BIND_CMD_op, 2)],
      Permit tUp .p2 (x.1.addr 0 0) ∧ ∀ k ∈ [0, x.2 + 1],
        (match exec (.regWrite .p2 (BitVec.ofNat 64 (x.1.addr 0 0)) 64 (BitVec.ofNat 64 k)) tUp with
          | .next t => decide (t = tUp)
          | _ => false) = true) := by decide +kernel
/-- Core 0 in that section, of g cores. -/
def tHeld (g : Nat := 1) : State :=
  ((tSect .running).updSect 0 1 (fun k => { k with g := g })).updCore 0 (fun k => { k with sect := some 1 })
/-- That core once it has issued SY.BAR. -/
def tBarred (g : Nat) : State :=
  ((tHeld g).updCore 0 (fun x => { x with wait := .syBar, waitWord := word clsSY 2 0 })).updSect 0 1
    (fun k => { k with barred := 0 :: k.barred })
theorem witness_SectionInstructions :
    (Takes tCore 0 (word clsST 1 (tOps 0 2 0 0 0)) (zbits 42 42 ||| zbits 41 0) ∧ (tCore.core 0).sect = none ∧
     (tCore.core 0).nextSect = none) ∧
    (let s := (tSect .loading).updCore 0 (fun k => { k with nextSect := some 1 })
     Takes s 0 (word clsST 1 0) (zbits 42 42 ||| zbits 41 0) ∧ (s.core 0).sect = none ∧ (s.core 0).nextSect = some 1) ∧
    (let s := tHeld.updCore 0 (fun k => k.setS 3 0xFFFE)
     Takes s 0 (word clsST 2 (tOps 1 2 3 255 0)) (zbits 28 0) ∧ (s.core 0).sect = some 1 ∧ s.sect 0 1 = some (tSection .running) ∧
     (tSection .running).members[0]? = some { folio := 1, seq := 0, first := 0, ready := 0, deadline := 100 } ∧
     (s.sreg 0 1).toNat = 0 ∧ (s.sreg 0 2).toNat < (s.bpar 5).frames ∧ (s.sreg 0 3).toNat % 2 ^ 20 ≠ 0xFFFFF ∧
     Takes s 0 (word clsST 3 (tOps 0 1 0 0 0)) (zbits 51 47 ||| zbits 41 0) ∧
     Takes s 0 (word clsST 4 0) (zbits 51 0) ∧ Takes s 0 (word clsSY 1 7) (zbits 51 3) ∧ s.fenceOk 0 7 = true) ∧
    (∀ g ∈ [1, 2], let s := tHeld g
     Takes s 0 (word clsSY 2 0) (zbits 51 0) ∧ (s.core 0).sect = some 1 ∧ (s.sect 0 1).isSome = true ∧ (s.core 0).barPass = false) ∧
    (tBarred 1).held 0 = some { tSection .running with barred := [0] } ∧
    (tBarred 2).held 0 = some { tSection .running with g := 2, barred := [0] } ∧
    (let s := tHeld.updCore 0 (fun k => { k with barPass := true })
     Takes s 0 (word clsSY 2 0) (zbits 51 0) ∧ (s.held 0).isSome = true ∧ (s.core 0).barPass = true ∧ s.fenceOk 0 0 = true) := by
  decide +kernel
theorem witness_CoreFaultsAndResume :
    (listedOps (bits (word clsSC 0x7E 0).toNat 60 4)).contains (bits (word clsSC 0x7E 0).toNat 52 8) = false ∧
    Takes tCore 0 (word clsSC 0x7E 0) 0 ∧ Permit tCore .p2 (coreCtrlAddr 0) ∧
    (tCore.put R.CORE_STATUS_run_state 3 0).fld R.CORE_STATUS_run_state 0 = 3 ∧ tCore.mainOn = true ∧
    (tCore.updCore 0 (fun k => { k with resuming := true })).mayResume 0 = true ∧
    (let s := tHeld.updCore 0 (fun k => { k with wdLimit := 1 })
     s.held 0 = some (tSection .running) ∧ (s.core 0).wdLimit ≠ 0 ∧ (s.core 0).wdStart + (s.core 0).wdLimit * 1000 ≤ s.now ∧
     (s.core 0).resuming = false) := by decide +kernel
theorem witness_TakingAFault :
    (tCore.core 0).sect = none ∧ (∀ b ∈ tCore.binders, b.2.swap = none) ∧
    (let s := tHeld 2
     (∀ b ∈ s.binders, b.2.swap = none) ∧ (tSection .running).phase ≠ .committing ∧ (s.core 0).sect = some 1 ∧ s.sect 0 1 = some { tSection .running with g := 2 } ∧
     1 ∈ ({ tSection .running with g := 2 } : Section).cores 0) := by decide +kernel

/-! ### Engine instructions -/

/-- A descriptor: base, kind, format, capacities and the stride of dimension 1. -/
def tDesc (base kind fmt c0 c1 st1 : Nat) (c2 : Nat := 1) (group : Nat := 0) : BitVec 256 :=
  BitVec.ofNat 256 (base + kind * 2 ^ 52 + fmt * 2 ^ 55 + group * 2 ^ 59 + (c0 - 1) * 2 ^ 84 + (c1 - 1) * 2 ^ 105 + st1 / 16 * 2 ^ 119
    + (c2 - 1) * 2 ^ 154)

/-- Core 0 with descriptors, and with accumulator tile 0 allocated. -/
def tDescs (l : List (Nat × BitVec 256)) : State :=
  (tCore.updCore 0 (fun k => { k with t := l.foldl (fun m p => SMap.put 0 m p.1 p.2) [] })).put R.CORE_MM_ALLOC_map 1 0

/-- Operand bits that name the t registers a, b, c. -/
def tTens (a b c d low : Nat) : BitVec 52 := tOps (2 * a) (2 * b) (2 * c) d low

/-- What an evaluation answers: 0 when it is done, else the code of its fault, or 99 when it waits. -/
def tCode {α : Type} (m : M α) (s : State) : Nat :=
  match m s with | .ok _ => 0 | .error (.flt f) => f.code | .error _ => 99

/-- The hypotheses of a carried instruction that does its work. -/
def tCarried {α : Type} (check : M α) (eng : α → State → Engine) (empty : α → Bool) (work : α → State → M Work) (s : State)
    (ready : State → Bool := fun _ => true) : Bool :=
  match check s with
  | .ok (o, u) => ready u && decide (((u.core 0).queue (eng o u)).length < 16) && !empty o && AtHand (work o u) u
  | .error _ => false
/-- A core's register s[r] set. -/
def tSet (s : State) (r v : Nat) : State := s.updCore 0 (fun k => k.setS r (BitVec.ofNat 64 v))
/-- An evaluation is done, and its value and state are so. -/
def tOk {α : Type} (m : M α) (s : State) (p : α → State → Bool) : Bool :=
  match m s with | .ok (o, u) => p o u | .error _ => false
/-- An evaluation ends in a fault, of this code where one is given. -/
def tFlt {α : Type} (m : M α) (s : State) (code : Option Nat := none) : Bool :=
  match m s with | .error (.flt f) => code.all (· == f.code) | _ => false
/-- Two tensors of 256 halfwords in the operand buffer and one in HBM, an accumulator tensor, and bytes in HBM and in
the operand store. -/
def tPlain : State :=
  tDescs [(0, tDesc 0 2 9 256 1 0), (1, tDesc 0x1000 2 9 256 1 0), (2, tDesc 0x2000 0 9 256 1 0), (3, tDesc 0 3 8 64 4 256),
    (4, tDesc 0x2000 0 3 512 1 0), (5, tDesc 0x2000 4 3 512 1 0), (6, BitVec.ofNat 256 (7 * 2 ^ 52))]
theorem witness_Descriptors :
    (∀ v ∈ [0, 1, 16384, 16385],
      let s := tSet tCore 1 v
      Takes s 0 (word clsDM 6 (tOps 2 1 0 0 0)) (zT ||| zbits 41 0) ∧
      Takes s 0 (word clsDM 7 (tOps 2 1 0 3 0)) (zT ||| zbits 41 37 ||| zbits 36 31 ||| zbits 28 0) ∧
      (s.sreg 0 (fldB (tOps 2 1 0 3 0))).toNat = v ∧ (s.core 0).dm.length < 16) ∧
    (let s := (tSet tCore 1 7).updCore 0 (fun k => { k with dm := List.replicate 16 { pc := 0, word := word clsDM 1 0 } })
     16 ≤ (s.core 0).dm.length ∧ Takes s 0 (word clsDM 6 (tOps 2 1 0 0 0)) (zT ||| zbits 41 0) ∧
     Takes s 0 (word clsDM 7 (tOps 2 1 0 3 0)) (zT ||| zbits 41 37 ||| zbits 36 31 ||| zbits 28 0)) ∧
    (let s := tSet tCore 1 (0xFFF * 2 ^ 40 + 0x2000)
     let o := tOps 2 1 0 0 0
     let a := (s.sreg 0 (fldB o) + (fldImm o).signExtend 64).toNat
     a < 2 ^ 52 ∧ a % 32 = 0 ∧ (s.core 0).dm.length < 16 ∧ (s.core 0).shadowHold = [] ∧ Takes s 0 (word clsDM 4 o) (zT ||| zbits 41 32) ∧ s.reach 0 a 32 false = none ∧
     s.readToile 0 a 32 = .bytes (List.replicate 32 0) ∧ Takes s 0 (word clsDM 5 o) (zT ||| zbits 41 32) ∧
     s.reach 0 a 32 true = none ∧ s.locate a = .here 0x2000 ∧ s.leasesOn 0x2000 32 = [] ∧ Settled 0 s) ∧
    (∀ off ∈ [0, 8, 12, 504, 512],
      let s := tSet tPlain 1 off
      let o := tOps 3 0 1 0 0
      Takes s 0 (word clsDM 8 o) (zTB ||| zbits 36 0) ∧
      tOk (evalT 0 (tOf (fldB o)) 1 false) s (fun t u => (u.sreg 0 (fldC o)).toNat == off && t.d.extent == 512 &&
        decide ((u.core 0).dm.length < 16) && u.settled 0 && (off == 512 || off == 12 || (u.tensorBytes 0 t.d (t.d.base + off) 8).isSome)) = true) ∧
    (∀ off ∈ [0, 256], ∀ b ∈ [0, 4],
      let s := tSet tPlain 1 off
      let o := tOps 3 b 1 0 0
      Takes s 0 (word clsDM 10 o) (zTB ||| zbits 36 0) ∧ Takes s 0 (word clsDM 9 o) (zTB ||| zbits 36 0) ∧
      Takes s 0 (word clsDM 11 o) (zTB ||| zbits 36 0) ∧
      tOk (evalT 0 (tOf (fldB o)) 1 false) s (fun t u => t.d.extent == 512 && (u.tensorBytes 0 t.d (t.d.base + off) 256).isSome) = true ∧
      s.sramWords (vrfAddr 0 3 0) 256 = [] ∧
      tOk (evalT 0 (tOf (fldB o)) 1 true) s (fun t u => t.d.extent == 512 && (t.d.kind == 2 || Settled 0 u) && u == s &&
        (u.core 0).shadowHold == [] && tOk (checkAlloc 0 t 1) u (fun _ v => v == u) &&
        tOk (writeAt 0 (word clsDM 9 o) t.d (t.d.base + off) (toLE 8 0)) u (fun _ _ => true) &&
        tOk (writeAt 0 (word clsDM 11 o) t.d (t.d.base + off) (toLE 256 0)) u (fun _ _ => true)) = true) := by decide +kernel
theorem witness_CopyingAndPacking :
    (let o := tTens 0 1 0 0 0
     Takes tPlain 0 (word clsDM 1 o) (zT ||| zbits 42 0) ∧
     tOk (copyCheck 0 o) tPlain (fun p u => ((u.core 0).queue .dm).length < 16 && p.1.d.kind == 2 && !p.1.empty && !overlaps u 0 p.1.d p.2.d &&
       tOk (readSub 0 p.2.d (p.2.within p.1 0) (p.2.within p.1 1) (p.2.within p.1 2) (p.2.within p.1 3)) u (fun r v => r.2.isNone &&
         (v.core 0).shadowHold == []) &&
       tOk (copyBody 0 (word clsDM 1 o) p.1 p.2) u (fun _ _ => true)) = true) ∧
    tFlt (copyCheck 0 (tTens 0 3 0 0 0)) tPlain = true ∧
    (let o := tTens 2 1 0 0 0
     tOk (copyCheck 0 o) tPlain (fun p u => p.1.d.kind == 0 && Settled 0 u && tOk (copyBody 0 (word clsDM 1 o) p.1 p.2) u (fun _ _ => true)) = true) ∧
    (∀ b ∈ [1, 2, 3], let o := tTens 0 b 0 0 0
     Takes tPlain 0 (word clsDM 2 o) (zbits 51 47 ||| zTB ||| zbits 41 0) ∧
     tOk (prefCheck 0 o) tPlain (fun p u => ((u.core 0).queue .dm).length < 16 && u.settled 0 && !p.1.empty && !weightOk p.1.d.fmt) = true) ∧
    (let o := tTens 0 4 0 0 0
     tOk (prefCheck 0 o) tPlain (fun p u => !p.1.empty && p.1.d.kind == 0 && weightOk p.1.d.fmt &&
       tOk (prefetch 0 p.1 p.2) u (fun _ _ => true)) = true) ∧
    tFlt (prefCheck 0 (tTens 0 6 0 0 0)) tPlain (some fDesc) = true := by decide +kernel
/-- A place for an object in HBM and a tensor of 64 weights in the operand buffer. -/
def tPacks : State := tDescs [(7, tDesc 0x2000 0 9 16384 1 0), (8, tDesc 0 2 3 64 1 64)]
theorem witness_CopyingAndPacking_pack :
    let o := tTens 7 8 0 0 0
    Takes tPacks 0 (word clsDM 3 o) (zT ||| zTB ||| zTC ||| zbits 36 35 ||| zbits 28 0 |||
      (if (fldD o).testBit 0 then 0 else zbits 41 37 ||| zbits 34 30)) ∧
    tOk (packCheck 0 o) tPacks (fun p u => Settled 0 u && ((u.core 0).queue .dm).length < 16 && !p.empty && p.td.d.base + 64 < 2 ^ 40 &&
      tOk (packObject 0 p) u (fun _ v => v.leases == [] && (v.core 0).shadowHold == [])) = true ∧
    tFlt (packCheck 0 (tTens 8 7 0 0 0)) tPacks = true := by decide +kernel
/-- An accumulator tensor, weights in HBM, activations in the operand buffer. -/
def tMats : State := tDescs [(3, tDesc 0 3 8 64 1 256), (4, tDesc 0x2000 0 0 16 1 64), (5, tDesc 0 2 3 16 1 64)]
theorem witness_MatrixInstructions :
    (let o := tTens 3 4 5 0 0
     Takes tMats 0 (word clsMM 1 o) zMM ∧ Takes tMats 0 (word clsMM 2 o) zMM ∧ Takes tMats 0 (word clsMM 1 (tTens 3 4 5 6 0)) zMM ∧
     tCarried (mmCheck 0 o false) (fun _ _ => .mm) MmOps.empty (fun p _ => mmWork 0 (word clsMM 1 o) p 0 false true) tMats = true ∧
     bits (fldD o) 1 2 ≠ 3 ∧ bits (fldD (tTens 3 4 5 6 0)) 1 2 = 3 ∧
     tCarried (mmCheck 0 o true) (fun _ _ => .vx) MmOps.empty (fun p _ => mmWork 0 (word clsMM 2 o) p 0 false false) tMats = true ∧
     tFlt (mmCheck 0 (tTens 4 3 5 0 0) false) tMats = true) ∧
    (∀ n ∈ [0, 1, 15, 16, 17],
     Takes tMats 0 (word clsMM 4 (tOps 2 0 0 n 0)) (zT ||| zbits 46 37 ||| zbits 36 34 ||| zbits 28 0)) ∧
    freeRun (tMats.fld R.CORE_MM_ALLOC_map 0) 15 = some 1 ∧ freeRun (tMats.fld R.CORE_MM_ALLOC_map 0) 16 = none ∧
    Takes tMats 0 (word clsMM 5 (tOps 0 6 0 0 0)) (zbits 51 47 ||| zTB ||| zbits 41 0) ∧
    tOk (evalT 0 (tOf (fldB (tOps 0 6 0 0 0))) 1 false) tMats (fun t _ => t.d.kind == 3) = true ∧
    tOk (evalT 0 (tOf (fldB (tOps 0 8 0 0 0))) 1 false) tMats (fun t _ => t.d.kind == 0) = true ∧
    (∀ a ∈ [0, 1 + 63 * 2 ^ 16], ∀ b ∈ [1, 3],
      let s := tSet (tSet ((tHeld 2).put R.CORE_MM_ALLOC_map 1 0) 1 a) 2 b
      let o := tOps 1 2 0 8 0
      let k := combOf a b (fldD o)
      Takes s 0 (word clsMM 3 o) (zbits 41 37 ||| zbits 36 33 ||| zbits 28 0) ∧ (s.sreg 0 (fldA o)).toNat = a ∧
      (s.sreg 0 (fldB o)).toNat = b ∧ k.parts = b ∧ (k.tiles = 0 ↔ a = 0) ∧ k.parts.testBit k.root = true ∧
      (∀ j, j < 8 → k.parts.testBit j = true → j ∈ (s.groupOf 0).map (· % 8)) ∧
      (∀ t, t < 16 → k.tiles.testBit t = true → (s.fld R.CORE_MM_ALLOC_map 0).testBit t = true)) := by decide +kernel
/-- Core 0 in its section with descriptors, s1 naming the one member, and accumulator tile 0 allocated. -/
def tSpan (l : List (Nat × BitVec 256)) : State :=
  tSet ((tHeld.updCore 0 (fun k => { k with t := l.foldl (fun m p => SMap.put 0 m p.1 p.2) [] })).put R.CORE_MM_ALLOC_map 1 0) 1 (2 ^ 16)
def tRec : State :=
  tSpan [(0, tDesc 0 2 8 1 1 0), (2, tDesc 0x100 2 8 1 1 0), (3, tDesc 0x200 2 8 1 1 0), (4, tDesc 0x300 2 8 2 1 0), (5, tDesc 0x400 2 8 2 1 0),
    (6, tDesc 0 3 8 1 1 0), (8, tDesc 0x500 2 7 1 1 0), (9, tDesc 0x600 2 10 36 1 144)]
def tGates : State :=
  tSpan [(0, tDesc 0 2 8 32 1 0), (1, tDesc 0x100 2 8 32 1 0), (2, tDesc 0x200 2 8 64 1 0), (3, tDesc 0x300 2 8 16 1 0), (4, tDesc 0x2000 0 3 16 64 16)]
/-- A core in a section with a layer record, a quire table of two slots and a leaf for block 0. -/
def tQuires : State :=
  { tSpan [(0, tDesc 0 2 8 32 1 0), (1, tDesc 0x100 2 8 32 1 0), (2, tDesc 0x1000 2 10 4 1 0), (3, tDesc 0x200 2 8 32 1 0)] with
    mem := [(0x1000, 2), (0x1001, 0x20), (0x1010, 0x30), (0x1014, 0xFF), (0x1015, 0x1F), (0x1020, 0x40), (0x1024, 0xFF), (0x1025, 0x1F), (0x300D, 0x20), (0xE100000041, 0x10),
      (0xE200001000, 1), (0xE200001001, 0x20), (0xE200001005, 0x20), (0xE20000100A, 0x80), (0xE20000100B, 0x3F), (0xE20000100C, 0x40)] }
/-- An evaluation found done has its value and state. -/
theorem tOk_elim {α : Type} {m : M α} {s : State} {p : α → State → Bool} (h : tOk m s p = true) :
    ∃ a u, m s = .ok (a, u) ∧ p a u = true := by
  unfold tOk at h
  split at h
  · rename_i o u e; exact ⟨o, u, e, h⟩
  · cases h

theorem witness_TensorInstructions_gate :
    let o := tTens 0 2 4 1 0
    Takes tGates 0 (word clsRC 1 o) (zPairA ||| zPairB ||| zPairC ||| zbits 36 35 ||| zbits 28 0) ∧
    ∃ p u, gateCheck 0 o tGates = .ok (p, u) ∧ ((u.core 0).queue .mm).length < 16 ∧
      (p.p.n == 0 || ([p.ts, p.ti, p.tx, p.th, p.tw] ++ p.tb.toList).any (·.empty)) = false ∧
      AtHand (gateWork 0 (word clsRC 1 o) p false true) u = true := by
  refine ⟨by decide +kernel, ?_⟩
  have h : tOk (gateCheck 0 (tTens 0 2 4 1 0)) tGates (fun p u => decide (((u.core 0).queue .mm).length < 16) &&
      !(p.p.n == 0 || ([p.ts, p.ti, p.tx, p.th, p.tw] ++ p.tb.toList).any (·.empty)) &&
      tOk (stageTiles 0 p.tw.d (p.ws.map (·.d)) (gateCells p)) u (fun x v => tOk (codedRoom 0 .mm (x.map (·.2.tile))) v (fun _ w =>
        decide ((w.core 0).shadowHold = []))) &&
      decide (2 ≤ p.ti.d.kind ∧ 2 ≤ p.tx.d.kind ∧ 2 ≤ p.th.d.kind ∧ 2 ≤ p.ts.d.kind ∧ p.tb = none)) = true := by decide +kernel
  obtain ⟨p, u, e, h⟩ := tOk_elim h
  simp only [Bool.and_eq_true, decide_eq_true_eq, Bool.not_eq_true'] at h
  obtain ⟨⟨⟨hq, he⟩, ht⟩, hk⟩ := h
  obtain ⟨x, v, ex, hv⟩ := tOk_elim ht
  obtain ⟨⟨⟩, w, er, hw⟩ := tOk_elim hv
  obtain rfl := codedRoom_state er
  exact ⟨p, u, e, hq, he, gateWork_atHand ⟨x, w, ex, er, of_decide_eq_true hw⟩ hk.1 hk.2.1 hk.2.2.1 hk.2.2.2.1 hk.2.2.2.2⟩

theorem witness_TensorInstructions_window :
    let o := tTens 0 1 2 1 0
    Takes tQuires 0 (word clsAT 1 o) (zT ||| zTB ||| zTC ||| zbits 36 34 ||| zbits 28 0) ∧
    ∃ p u, winCheck 0 o tQuires = .ok (some p, u) ∧ u.settled 0 = true ∧ ((u.core 0).queue .at).length < 16 ∧
      AtHand (winWork 0 (word clsAT 1 o) p) u = true := by
  refine ⟨by decide +kernel, ?_⟩
  have h : tOk (winCheck 0 (tTens 0 1 2 1 0)) tQuires (fun p u => decide (u.settled 0 = true ∧ ((u.core 0).queue .at).length < 16) &&
      p.elim false (fun p => tOk (winLeaves 0 p) u (fun _ v => decide ((v.core 0).shadowHold = [])) && decide (2 ≤ p.tq.d.kind) && decide (2 ≤ p.td.d.kind))) = true := by
    decide +kernel
  obtain ⟨p, u, e, h⟩ := tOk_elim h
  simp only [Bool.and_eq_true, decide_eq_true_eq] at h
  obtain ⟨hq, h⟩ := h
  cases p with
  | none => cases h
  | some p =>
    simp only [Option.elim_some, Bool.and_eq_true, decide_eq_true_eq] at h
    obtain ⟨⟨ht, h1⟩, h2⟩ := h
    obtain ⟨x, v, ex, hv⟩ := tOk_elim ht
    exact ⟨p, u, e, hq.1, hq.2, winWork_atHand ⟨x, v, ex, of_decide_eq_true hv⟩ h1 h2⟩

theorem witness_TensorInstructions_append :
    let o := tTens 0 0 2 1 0
    Takes tQuires 0 (word clsAT 2 o) (zbits 51 47 ||| zTB ||| zPairB ||| zTC ||| zbits 36 34 ||| zbits 28 0) ∧
    tCarried (appendCheck 0 o) (fun _ _ => .at) Option.isNone
      (fun p _ => p.elim (pure {}) (appendWork 0 (word clsAT 2 o))) tQuires (Settled 0) = true := by decide +kernel

theorem witness_TensorInstructions_scan :
    let o := tTens 0 2 4 1 0
    Takes tRec 0 (word clsRC 2 o) (zT ||| zPairB ||| zPairC ||| zbits 36 36 ||| zbits 28 0) ∧
    ∃ p u, scanCheck 0 o tRec = .ok (p, u) ∧ ((u.core 0).queue .rc).length < 16 ∧
      (p.p.n == 0 || [p.td, p.tu, p.tz, p.ts, p.ti].any (·.empty)) = false ∧
      AtHand (scanWork 0 (word clsRC 2 o) p false false) u = true := by
  refine ⟨by decide +kernel, ?_⟩
  have h : tOk (scanCheck 0 (tTens 0 2 4 1 0)) tRec (fun p u => decide ((((u.core 0).queue .rc).length < 16 ∧
      (p.p.n == 0 || [p.td, p.tu, p.tz, p.ts, p.ti].any (·.empty)) = false) ∧
      (∀ t ∈ [p.td, p.tu, p.tz, p.ts, p.ti], 2 ≤ t.d.kind) ∧ (u.core 0).shadowHold = [])) = true := by decide +kernel
  obtain ⟨p, u, e, h⟩ := tOk_elim h
  obtain ⟨⟨hq, he⟩, hk, hs⟩ := of_decide_eq_true h
  exact ⟨p, u, e, hq, he, scanWork_atHand hk hs⟩

theorem witness_TensorInstructions_lconv :
    let o := tTens 6 8 4 1 0
    Takes tRec 0 (word clsRC 3 o) (zT ||| zPairB ||| zPairC ||| zbits 34 34 ||| zbits 36 36 ||| zbits 28 0) ∧
    ∃ p u, lconvCheck 0 o tRec = .ok (p, u) ∧ ((u.core 0).queue .mm).length < 16 ∧
      (p.p.n == 0 || [p.td, p.tx, p.tk, p.ts, p.ti].any (·.empty)) = false ∧
      AtHand (lconvWork 0 (word clsRC 3 o) p false) u = true := by
  refine ⟨by decide +kernel, ?_⟩
  have h : tOk (lconvCheck 0 (tTens 6 8 4 1 0)) tRec (fun p u => decide ((((u.core 0).queue .mm).length < 16 ∧
      (p.p.n == 0 || [p.td, p.tx, p.tk, p.ts, p.ti].any (·.empty)) = false) ∧
      (∀ t ∈ [p.td, p.tx, p.tk, p.ts, p.ti], 2 ≤ t.d.kind) ∧ (u.core 0).shadowHold = [])) = true := by decide +kernel
  obtain ⟨p, u, e, h⟩ := tOk_elim h
  obtain ⟨⟨hq, he⟩, hk, hs⟩ := of_decide_eq_true h
  exact ⟨p, u, e, hq, he, lconvWork_atHand hk hs⟩

theorem witness_TensorInstructions_recurrence :
    (let o := tTens 0 4 0 1 0
     Takes tRec 0 (word clsRC 4 o) (zbits 51 47 ||| zTB ||| zbits 41 37 ||| zbits 36 34 ||| zbits 28 0) ∧
     tCarried (anchorCheck 0 o) (fun _ _ => .rc) (fun o => o.2.n == 0 || o.1.empty)
       (fun p _ => anchorWork 0 (word clsRC 4 o) p.1 p.2) tRec = true) ∧
    tFlt (gateCheck 0 (tTens 0 6 6 1 0)) tGates = true ∧ tFlt (scanCheck 0 (tTens 6 6 6 1 0)) tRec = true ∧
    tFlt (lconvCheck 0 (tTens 0 6 6 1 0)) tRec = true ∧ tFlt (anchorCheck 0 (tTens 6 6 6 1 0)) tRec = true ∧
    tFlt (winCheck 0 (tTens 2 1 2 1 0)) tQuires = true ∧ tFlt (appendCheck 0 (tTens 0 1 2 1 0)) tQuires = true := by decide +kernel
/-- Tensors of one row for the vector engine: words and bytes, the bytes with scales in t9, and a row map in t10. -/
def tVecs : State :=
  let s := tSpan [(0, tDesc 0 2 8 16 1 0), (1, tDesc 0x100 2 8 16 1 0), (2, tDesc 0x200 2 3 16 1 0 ||| BitVec.ofNat 256 (2 ^ 63 + 9 * 2 ^ 64)),
    (9, tDesc 0x300 2 10 1 1 0), (10, tDesc 0x400 2 9 1 1 0)]
  { s with binders := [(5, { tBinder with sites := [BitVec.ofNat 64 (3 * 2 ^ 24)] })] }
theorem witness_TensorInstructions_vector :
    (let o := tTens 2 0 0 0 0
     Takes tVecs 0 (word clsVX 0x20 o) (zVX ||| zT ||| zTB ||| zTC ||| zFldD ||| zLane) ∧
     tCarried (qntCheck 0 o) (fun _ _ => .vx) (fun o => o.td.empty || o.ta.empty || o.ts.empty)
       (fun p _ => qntWork 0 (word clsVX 0x20 o) p) tVecs = true) ∧
    (let o := tTens 0 2 0 0 0
     Takes tVecs 0 (word clsVX 0x21 o) (zVX ||| zT ||| zTB ||| zFldC ||| zFldD ||| zFldF ||| zLane) ∧
     tCarried (dqCheck 0 o) (fun _ _ => .vx) (fun o => o.td.empty || o.ta.empty || o.ts.empty)
       (fun p _ => dqWork 0 (word clsVX 0x21 o) p) tVecs = true) ∧
    (let o := tTens 0 1 0 4 0
     Takes tVecs 0 (word clsVX 0x22 o) (zVX ||| zT ||| zTB ||| zFldC ||| zbits 36 34 ||| zFldF ||| zLane) ∧
     tCarried (hadCheck 0 o) (fun _ _ => .vx) (fun o => o.1.empty || o.2.empty)
       (fun p _ => hadWork 0 (word clsVX 0x22 o) p.1 p.2 4 false) tVecs = true) ∧
    (let o := tTens 0 1 10 0 0
     Takes tVecs 0 (word clsVX 0x23 o) (zVX ||| zT ||| zTB ||| zTC ||| zFldD ||| zLane) ∧
     tCarried (rowCheck 0 o false) (fun _ _ => .vx) (fun o => o.td.empty || o.ta.empty)
       (fun p _ => rowgWork 0 (word clsVX 0x23 o) p) tVecs = true) ∧
    (let o := tTens 0 1 10 1 0
     Takes tVecs 0 (word clsVX 0x24 o) (zVX ||| zT ||| zTB ||| zTC ||| zbits 36 30 ||| zLane) ∧
     tCarried (rowCheck 0 o true) (fun _ _ => .vx) (fun o => o.td.empty || o.ta.empty)
       (fun p _ => rowsWork 0 (word clsVX 0x24 o) p true) tVecs = true) ∧
    tFlt (qntCheck 0 (tTens 0 0 0 0 0)) tVecs = true ∧ tFlt (dqCheck 0 (tTens 0 1 0 0 0)) tVecs = true ∧
    tFlt (hadCheck 0 (tTens 0 1 0 3 0)) tVecs (some fIllegal) = true ∧ tFlt (rowCheck 0 (tTens 0 2 10 0 0) false) tVecs = true := by
  decide +kernel
/-- The bits below D of a lane instruction: masked by m0 or not, and its format. -/
def tLane (masked : Bool) (fmt : Nat) : Nat := masked.toNat * 2 ^ 23 + fmt * 2 ^ 19
theorem witness_VectorLanes :
    (tCore.core 0).vx.length < 16 ∧ LanesSound tCore 0 (tOps 31 1 2 0 0) ∧
    (∀ m ∈ [false, true],
      (∀ op ∈ [8, 9, 0xC, 0xD], let o := tOps 31 1 0 0 (tLane m 9)
        Takes tCore 0 (word clsVX op o) (zVX ||| zMaskReg ||| (zFldC ||| zFldD ||| zFldF)) ∧ fmtInt (vxFmt o) = true ∧ fldD o ≠ 3 ∧
        vxMasked o = m) ∧
      (∀ op ∈ [1, 2, 3, 4, 5, 6, 7], let o := tOps 31 1 0 0 (tLane m 8)
        Takes tCore 0 (word clsVX op o) (zVX ||| zMaskReg ||| (zFldC ||| zFldD ||| zFldF)) ∧ fmtLane (vxFmt o) = true ∧
        fmtFloat (vxFmt o) = true)) ∧
    (let o := tOps 31 1 2 0 (tLane true 8)
     Takes tCore 0 (word clsVX 0xB o) (zVX ||| zMaskReg ||| (zFldD ||| zFldF)) ∧ fmtLane (vxFmt o) = true ∧ vxMasked o = true) ∧
    (let o := tOps 31 1 2 0 (tLane false 8)
     Takes tCore 0 (word clsVX 8 o) (zVX ||| zMaskReg ||| (zbits 36 31 ||| zFldF)) ∧ fmtInt (vxFmt o) = false) := by decide +kernel
theorem witness_VectorLanesComplete :
    (tCore.core 0).vx.length < 16 ∧
    (let o := tOps 4 1 2 5 (tLane true 8)
     Takes tCore 0 (word clsVX 0xA o) (zVX ||| zMaskReg ||| (zbits 48 47 ||| zbits 36 32 ||| zFldF)) ∧ fmtLane (vxFmt o) = true ∧ fldD o < 6) ∧
    (let o := tOps 31 1 0 6 (tLane true 8)
     Takes tCore 0 (word clsVX 0xE o) (zVX ||| zMaskReg ||| (zFldC ||| zbits 36 35 ||| zFldF)) ∧ fmtCvt (vxFmt o) = true ∧
     fmtCvt (fldD o % 16) = true ∧ vxPartOk (elemBits (vxFmt o)) (elemBits (fldD o % 16)) (bits (fldD o) 4 2) = true) ∧
    (let o := tOps 31 1 0 8 (tLane true 8)
     Takes tCore 0 (word clsVX 0x10 o) (zVX ||| zMaskReg ||| (zFldC ||| zbits 36 33 ||| zFldF)) ∧ fmtFloat (vxFmt o) = true ∧ fldD o < 9) ∧
    (∀ op ∈ [0x11, 0x12], let o := tOps 31 1 0 0 (tLane true 8)
     Takes tCore 0 (word clsVX op o) (zVX ||| zMaskReg ||| (zFldC ||| zFldD ||| zFldF)) ∧ fmtLane (vxFmt o) = true ∧ vxMasked o = true) ∧
    (let o := tOps 31 1 2 0 (tLane true 8)
     Takes tCore 0 (word clsVX 0x13 o) (zVX ||| zMaskReg ||| (zFldD ||| zFldF)) ∧ fmtLane (vxFmt o) = true) ∧
    (∀ d ∈ [0, 1, 2, 255], ∀ r ∈ [0, 1], let o := tOps 31 1 r d (tLane true 8)
     let s := tSet tCore 1 64
     Takes s 0 (word clsVX 0x14 o) (zVX ||| zMaskReg ||| (if fldD o % 4 = 0 ∨ fldD o % 4 = 3 then zFldF else zbits 14 14)) ∧
     fmtLane (vxFmt o) = true ∧ (fldC o = 0 ∨ (s.sreg 0 (fldC o)).toNat ≤ lanesOf (elemBits (vxFmt o)))) := by decide +kernel
/-! ### Signatures

The point with y = 1 and x = 0 is the identity of the curve, so with it as key and as R, and S = 0, every message verifies. -/

/-- SHAKE256 of no bytes and of 136 zero bytes begin as FIPS 202 gives them (R350). -/
theorem test_shake256 :
    (shake256 [] 8).map BitVec.toNat = [70, 185, 221, 43, 11, 168, 141, 19] ∧
    (shake256 (List.replicate 136 0) 8).map BitVec.toNat = [234, 148, 123, 131, 95, 236, 31, 155] := by decide +kernel

/-- That key, and its digest. -/
def tKey : List Byte := toLE 57 1
def tRoot : BitVec 512 := BitVec.ofNat 512 (leNat (digest tKey))
/-- A manifest under that key. -/
def tManifest (kind size : Nat) (dig bind : List Byte) : List Byte :=
  toLE 4 0x4E4D4D47 ++ toLE 2 1 ++ toLE 1 kind ++ toLE 9 0 ++ toLE 8 size ++ dig ++ bind ++ toLE 8 0 ++ tKey ++ toLE 7 0 ++ toLE 114 1 ++ toLE 30 0
/-- The bytes of a list as cells of memory from an address. -/
def tCells (a : Nat) (l : List Byte) : List Host.Cell := (l.zipIdx.filter (fun p => p.1 ≠ 0)).map (fun p => (a + p.2, p.1))

/-! ### Binders -/

/-- A binder image of 4,096 bytes at 0x4000 but for its manifest, which stands at 0xEC0. -/
def tLink : Nat := 0xFFF * 2 ^ 40 + 0x4000
def tHead : List Byte :=
  toLE 4 0x49424D47 ++ toLE 2 1 ++ toLE 2 0 ++ toLE 8 4096 ++ toLE 8 tLink ++ toLE 8 (tLink + 0x800) ++ toLE 8 0x100 ++ toLE 8 0x140 ++ toLE 8 1
    ++ toLE 8 0x150 ++ toLE 8 0x200 ++ toLE 8 0x150 ++ toLE 8 0 ++ toLE 8 0xEC0 ++ toLE 160 0
def tParams : List Byte :=
  toLE 2 64 ++ toLE 1 1 ++ toLE 1 1 ++ toLE 6 0 ++ toLE 2 1 ++ toLE 4 256 ++ toLE 4 0 ++ toLE 2 0 ++ toLE 2 1 ++ toLE 4 0 ++ toLE 4 1000 ++ toLE 8 0
    ++ toLE 4 48000 ++ toLE 20 0
def tRegion : List Byte := toLE 16 (tLink + 4096 * 2 ^ 64 + 2 ^ 104 + 2 ^ 106)
def tImageDigest : Nat :=
  11945224699489551189345493411379949218847689299070647510921855181404356696049190931021668212154299375004939118167131758784024999419349655810886680048733076
/-- The image in HBM, and FOL_BND_ARG0 naming it. -/
def tImaged : State :=
  ({ tUp with fuses := { rootDigest := tRoot }, mem := tCells 0x4000 tHead ++ tCells 0x4100 tParams ++ tCells 0x4140 tRegion
      ++ tCells 0x4EC0 (tManifest 5 4096 (toLE 64 tImageDigest) (toLE 16 0)) } : State).put R.FOL_BND_ARG0_image tLink
/-- The image checks with memory read in one pass, and that they are the image checks. -/
def tChecks : { f : Nat → Chk Binder // checkImage = f } := by
  refine ⟨?f, ?h⟩
  case h =>
    delta checkImage readImg State.readToile State.readLocal
    rw [State.peek_walk]
theorem witness_BinderCommands_register :
    Permit tImaged .p2 (R.FOL_BND_CMD_op.addr 0 0) ∧ tImaged.bit R.FOL_BND_STATUS_busy = false ∧ (tImaged.bndBusy 1 5).binder 5 = none ∧
    (match (checkImage (tImaged.fld R.FOL_BND_ARG0_image)).run (tImaged.bndBusy 1 5) with
      | .ok x _ => x.entry == BitVec.ofNat 52 (tLink + 0x800) && x.par.fs == 48000 && x.hoops == []
      | .error _ _ => false) = true := by
  rw [tChecks.2]
  decide +kernel
theorem witness_BinderCommands :
    (tHoop.put R.FOL_BND_STATUS_busy 1).bit R.FOL_BND_STATUS_busy = true ∧
    (let s : State := { tUp with binders := [(5, { tBinder with hoops := [] })] }
     Permit s .p2 (R.FOL_BND_CMD_op.addr 0 0) ∧ s.bit R.FOL_BND_STATUS_busy = false ∧
     (s.bndBusy 2 5).binder 5 = some { tBinder with hoops := [] } ∧ (s.bndBusy 2 5).isBase 5 = false ∧
     (s.bndBusy 3 5).binder 5 = some { tBinder with hoops := [] } ∧
     (s.bndBusy 3 5).loadChecks 5 { tBinder with hoops := [] } (hoopsOf (s.fld R.FOL_BND_ARG1_hoops)) = none) ∧
    (tHoop.bndBusy 4 5).binder 5 = some tBinder ∧ (tHoop.put R.FOL_BND_ARG1_hoops 1).bit R.FOL_BND_STATUS_busy = false ∧
    (hoopsOf ((tHoop.put R.FOL_BND_ARG1_hoops 1).fld R.FOL_BND_ARG1_hoops)).all
      (fun h => ((tHoop.put R.FOL_BND_ARG1_hoops 1).bndBusy 4 5).openFolios 5 h == 0) = true ∧
    (let y : Binder := { tBinder with hoops := [] }
     let s := ({ tHoop with binders := [(5, tBinder), (6, y)] } : State).put R.FOL_BND_ARG1_binder2 6
     BitVec.ofNat 12 (s.fld R.FOL_BND_ARG1_binder2) = 6 ∧ (s.bndBusy 5 5).binder 5 = some tBinder ∧ (s.bndBusy 5 5).binder 6 = some y ∧
     tBinder.hoops ≠ [] ∧ tBinder.swap = none ∧ (s.bndBusy 5 5).binders.any (fun p => p.2.swap == some 5) = false ∧
     (s.bndBusy 5 5).loadChecks 6 y tBinder.hoops = none ∧ swapDiff tBinder y = none) := by decide +kernel

/-! ### Engines, caches and HBM -/

/-- An MM.GRP of that core, with the operands that an armed shadow check keeps. -/
def tKept : InFlight :=
  { pc := 0, word := word clsMM 1 (tTens 3 4 5 0 0),
    shad := some { td := (tDesc 0 3 8 64 1 256, []), tw := (tDesc 0x2000 0 0 16 1 64, []), ta := (tDesc 0 2 3 16 1 64, []),
                   ws := (0, []), rs := (0, []), walk := 0 } }
/-- That core with its check running, its accumulator's first word as given. -/
def tChecked (x : Nat) : State :=
  tMats.updCore 0 (fun k => { k with shadowRun := some (tKept, 0, 0), acc := SMap.put 0 k.acc 0 (BitVec.ofNat 8 x) })
/-- Where the check finds a difference. -/
def tDiffers (s : State) : Option (Nat × Nat) :=
  match (s.core 0).shadowRun with
  | some (q, b, r) => q.shad.bind (fun h =>
      s.shadowDiffers 0 h.ops.td.d (blockPieces h.ops.N h.ops.M b r) (s.shadowValues 0 q h (blockPieces h.ops.N h.ops.M b r)))
  | none => none
theorem witness_EngineEvents :
    (let s := tCore.updCore 0 (fun k => { k with wait := .combine, waitArg := (1, 1) })
     s.mainOn = true ∧ (s.core 0).wait = .combine ∧ (s.core 0).combSeen = none ∧ (s.core 0).comb.root = 0 ∧
     (s.combineCores 0).all s.combReady = true ∧ s.cores.all (fun p => p.2.shadowHold == []) = true ∧
     (let t := s.updCore 0 (fun k => { k with waitArg := (1, 3), combSeen := some 1 })
      (t.core 0).combSeen = some 1 ∧ (1 : Nat).testBit 0 = true ∧ (t.core 0).comb.parts.testBit 1 = true ∧ t.combReady 1 = false ∧
      (t.updCore 1 (fun k => { k with wait := .combine })).combReady (8 * (0 / 8) + 1) = true)) ∧
    (let q : InFlight := { pc := 0, word := word clsVX 1 0 }
     let s := tCore.updCore 0 (fun k => { k with vx := [q] })
     (s.core 0).queue .vx = [q] ∧ s.staged 0 q = true ∧ (s.core 0).rcTurn .vx q = true ∧ (s.core 0).shadowRun = none ∧ s.txns = []) ∧
    (let q : InFlight := { pc := 0, word := word clsRC 2 0, ord := 3 }
     ((tCore.updCore 0 (fun k => { k with rc := [q], mm := [{ q with word := word clsRC 1 0, ord := 4 }] })).core 0).rcTurn .rc q = true) ∧
    tCore.hoopOn 0 = true ∧ (tCore.core 0).recovering = false ∧ (tCore.fld R.COLO_READY2_cores).testBit 0 = false ∧
    (tCore.fld R.COLO_READY3_cores).testBit (64 - 64) = false ∧
    (let s := (tCore.put R.CORE_MM_SHADOW_CFG_shadow_period 1 0).put R.CORE_MM_CTRL_lut_mode 0 0
     s.bit R.CORE_MM_CTRL_lut_mode 0 = false ∧ s.fld R.CORE_MM_SHADOW_CFG_shadow_period 0 ≠ 0 ∧ (s.core 0).shadowDue ≤ s.now) ∧
    ((tChecked 0).core 0).shadowRun = some (tKept, 0, 0) ∧ tDiffers (tChecked 0) = none ∧ tDiffers (tChecked 1) = some (0, 0) ∧
    (let s := tCore.updCore 0 (fun k => { k with recovering := true })
     (s.core 0).recovering = true ∧ (s.core 0).recoverAgain = false ∧
     ((s.updCore 0 (fun k => { k with recoverAgain := true })).core 0).recoverAgain = true) := by decide +kernel
theorem witness_EngineEvents_tiles :
    (∀ bad ∈ [false, true],
      let x : Tile := { addr := 0x1000, blk := 0, valid := true }
      let t : Tile := { addr := 0x2000, blk := 0, bad := bad }
      let s := tHoop.updTiles 0 (fun _ => [x, t])
      (s.hoop 0).tiles = [x] ++ t :: [] ∧ x.expanding = false ∧ t.expanding = true ∧
      t.pins = 0 ∧ { t with pins := 1 }.pins ≠ 0) ∧
    (∀ n ∈ [1, 2],
     let x : Tile := { addr := 0x2000, blk := 0, valid := true }
     let t : Tile := { addr := 0x2000, blk := 0, valid := true, pins := n }
     let s := tHoop.updTiles 0 (fun _ => [x, t])
     (s.hoop 0).tiles = [x] ++ t :: [] ∧ ¬ (x.addr = t.addr ∧ x.blk = t.blk ∧ (0 < x.pins ∨ x.inval = true)) ∧
     t.pins = n ∧ s.tileHolders 0 (0x2000, 0) = 0) ∧
    (let t : Tile := { addr := 0x2000, blk := 0, valid := true, pins := 1 }
     let s := tHoop.updTiles 0 (fun _ => [t])
     let s := s.updCore 0 (fun k => { k with mm := [{ pc := 0, word := 0, tiles := [(0x2000, 0)] }] })
     t.pins ≤ s.tileHolders 0 (0x2000, 0)) ∧
    (let t : Tile := { addr := 0x2000, blk := 0, valid := true, inval := true }
     let s := tHoop.updTiles 0 (fun _ => [t])
     (s.hoop 0).tiles = [] ++ t :: [] ∧ t.pins = 0 ∧ t.inval = true) := by decide +kernel
/-- A core with an attention instruction in flight that holds a pin on leaf 3. -/
def tFree (op : Nat) : State := tCore.updCore 0 (fun k => { k with at' := [{ pc := 0, word := word clsAT op 0, leaves := [3] }] })
theorem witness_MemoryControllers :
    tUp.hbmUp = false ∧
    (let s := (tUp.put R.COLO_READY0_ready 32).put R.HBM_CTRL_scrub_en 1
     s.hbmUp = true ∧ s.bit R.HBM_CTRL_scrub_en = true ∧ Permit s .p2 (R.HBM_RECAL_pc.addr 0 0) ∧ s.bit R.HBM_STAT_recal_busy = false) ∧
    (let s := (tUp.put R.COLO_READY0_ready 32).put R.HBM_CTRL_recal_auto 1
     s.hbmUp = true ∧ s.bit R.HBM_CTRL_recal_auto = true ∧ s.bit R.HBM_STAT_recal_busy = false ∧ s.turnDue 1 = false ∧ s.driftDue 1 = false ∧
     ({ s with clk := { time := 1000000000000 } } : State).turnDue 0 = true ∧ (s.put R.HBM_STAT_temp 200).turnDue 1 = false ∧
     (s.put R.HBM_STAT_temp 200).driftDue 1 = true) ∧
    (tUp.put R.HBM_STAT_recal_busy 1).bit R.HBM_STAT_recal_busy = true ∧ Permit tUp .p2 (R.HBM_RECAL_pc.addr 0 0) ∧
    Permit tUp .p2 (R.HOOP_TC_INVAL_all.addr 15 0) ∧ Permit tUp .p2 (R.HOOP_AT_FREE_leaf.addr 15 0) ∧
    tUp.bit R.HOOP_AT_FREE_STAT_busy 15 = false ∧ tUp.freeing 15 = false ∧
    (tUp.atMark 15 3).freeing 15 = false ∧
    ((tFree 1).atMark 0 3).freeing 0 = true ∧ ((tFree 1).atMark 0 3).freeHeld 0 = false ∧ ((tFree 2).atMark 0 3).freeHeld 0 = true ∧
    (((tFree 1).atMark 0 3).put R.HOOP_AT_FREE_STAT_busy 1 0).bit R.HOOP_AT_FREE_STAT_busy 0 = true ∧
    (((tFree 2).atMark 0 3).put R.HOOP_AT_FREE_STAT_busy 1 0).bit R.HOOP_AT_FREE_STAT_busy 0 = true ∧
    Permit tUp .p2 (R.HOOP_DT_LOAD_addr.addr 15 0) ∧ tUp.bit R.HOOP_DT_STAT_busy 15 = false := by decide +kernel
theorem witness_MemoryControllers_tables :
    (tUp.updHoop 15 (fun k => { k with dtLoad := some (0x2000, 3) }) |>.dtDrain 15 |>.fld R.COLO_READY0_ready).testBit (24 + 15) = false ∧
    (let s := (tUp.put R.COLO_READY0_ready (2 ^ (24 + 15))).updHoop 15 (fun k => { k with dtLoad := some (0x2000, 3) })
     ((s.dtDrain 15).fld R.COLO_READY0_ready).testBit (24 + 15) = true ∧ ((s.dtDrain 15).hoop 15).dtLoad = some (0x2000, 3) ∧ (s.dtDrain 15).dtInflight 15 3 = 0 ∧
     (s.dtDrain 15).readToile (256 + 15) (0xFFF * 2 ^ 40 + 0x2000) 128 = .bytes (List.replicate 128 0)) := by decide +kernel
/-! ### Fabric -/

/-- Peer 2 may go on with a transaction of a class that is no memory request. -/
def tTurn (s : State) (cls : Nat) (m : Note) : Bool := s.turnOf 2 cls { seq := 0, tag := 7, op := .note m }
/-- The device has number 1, link 0 is up and leads to device 2; export entry 0 covers 64 KiB of HBM, owned by device 2. -/
def tFab : State :=
  let s := ((tUp.put R.TOILE_DEVNUM_devnum 1).put R.FLNK_STAT_state 3 0).put R.TOILE_RT_cand0 (2 ^ 6) 2
  ((((s.put R.TOILE_EXP_ATTR_valid 1 0).put R.TOILE_EXP_ATTR_pages 16 0).put R.TOILE_EXP_ATTR_owned 1 0).put R.TOILE_EXP_ATTR_owner 2 0)
theorem witness_PeerRequests :
    tFab.mainOn = true ∧
    (∀ op ∈ [PeerOp.read 0x40 64, .write 0x40 [1, 2], .atomic 0 0x40 1 2], tFab.turnOf 2 0 { seq := 0, tag := 7, op := op } = true) ∧
    (let s := tFab.updRxFlow 2 0 (fun f => { f with kept := [(0, .say 1 (.reply 7 .refused))] })
     (s.rxFlow 2 0).kept.find? (fun k => k.1 == 0) = some (0, .say 1 (.reply 7 .refused))) ∧
    tFab.allows 2 0xFFC0 64 false = true ∧ (tFab.hbmRead 0xFFC0 64).2 = some (List.replicate 64 0) ∧ tFab.allows 2 0xFFC0 64 true = true ∧
    (({ tFab with hbmErr := [(0xFFC0 / 64, .uncorr)] } : State).hbmRead 0xFFC0 64).2 = none ∧
    tFab.allows 2 (0xFFC7 / 8 * 8) 8 true = true ∧ (tFab.hbmRead (0xFFC7 / 8 * 8) 8).2 = some (toLE 8 (0 : BitVec 64).toNat) ∧
    tFab.allows 3 (0x47 / 8 * 8) 8 true = false ∧ tFab.allows 2 0xFFC0 65 false = false ∧ tFab.allows 3 0 64 true = false ∧ tFab.allows 3 0 64 false = false := by decide +kernel
theorem witness_Transactions :
    (∀ r ∈ [false, true],
      let t : Txn := { tag := 7, dest := 2, typ := 0, cls := 0, seq := 0, off := 0, len := 64, sub := 0, opa := 0, opb := 0, dat := [],
                       who := .core 0 0 0, sentAt := 0, resent := r }
      let s : State := { tFab with txns := [t], clk := { time := 1000000000 } }
      s.txns.find? (fun t => t.tag = 7 ∧ t.dest = 2 ∧ !t.held) = some t ∧ tTurn s 1 (.reply 7 .ecc) = true ∧ tTurn s 3 (.leaseAns 7 true) = true ∧
      s.txns.find? (fun t => t.tag = 7) = some t ∧ t.held = false ∧
      t.resent = r ∧ t.sentAt + s.timeout / 2 ≤ s.now ∧ t.sentAt + s.timeout ≤ s.now) ∧
    (let t : Txn := { tag := 7, dest := 2, typ := 8, cls := 3, seq := 5, off := 0, len := 0, sub := 0, opa := 0, opb := 0, dat := [],
                      body := some (.beat 0), who := .note, sentAt := 0 }
     let s : State := { tFab with txns := [t] }
     s.txns.find? (fun t => t.body.isSome ∧ t.cls = 3 ∧ t.seq = 5 ∧ t.dest.toNat = 2 ∧ !t.held) = some t) ∧
    (∀ take ∈ [false, true], tTurn tFab 3 (.readLease 0xF000 take) = true) ∧ tTurn tFab 3 (.recall 0xF000) = true ∧
    tFab.leaseEntry 2 0xF000 = some 0 ∧ tFab.leaseEntry 3 0xF000 = none ∧ tFab.leaseEntry 2 0x10000 = none ∧
    (let s := ({ tFab with clk := { time := 1000000000 } } : State).updRxFlow 2 3 (fun f => { f with gapAt := some 0 })
     (s.rxFlow 2 3).gapAt = some 0 ∧ 0 + s.timeout ≤ s.now) ∧
    (let hd : TxnHeader := { typ := 1, cls := 0, dest := 2, src := 3, seq := 0, hops := 6, len := 0, offset := 0, sub := 0, tag := 0, opa := 0, opb := 0 }
     hd.dest.toNat ≠ tFab.devnum ∧ hd.dest.toNat ≠ ownDev ∧ hd.hops ≠ 7 ∧ tFab.routed hd.dest.toNat hd.cls.toNat = true ∧
     tFab.pickLink hd.dest.toNat hd.cls.toNat = some 0 ∧ tFab.routed 3 0 = false ∧ (0xFFF : DevNum).toNat = ownDev ∧ ownDev ≠ tFab.devnum) := by
  decide +kernel
theorem witness_Links :
    tFab.mainOn = true ∧ tFab.linkState 0 = 3 ∧ tFab.linkState 1 ≠ 3 ∧
    (let s := tFab.updLink 0 (fun k => { k with uncorrs := [(999999999, 60), (1000000000, 4)], replays := 16, started := true, replay := [(4095, 0), (0, 0)] })
     let s : State := { s with clk := { time := 1000000000 } }
     64 ≤ (s.link 0).uncorr ∧ 16 ≤ (s.link 0).replays ∧ s.linkState 0 = 3 ∧ (s.link 0).started = true ∧
     afterSeq 4095 (s.link 0).replay = some [(0, 0)] ∧ afterSeq 0 (s.link 0).replay = some [] ∧
     (s.link 0).lastSend + 4 * us + 2 * s.fld R.FLNK_DELAY_delay 0 ≤ s.now) ∧
    (let s : State := { tFab.put R.FLNK_STAT_state 1 5 with clk := { time := 20000000 } }
     s.linkState 5 = 1 ∧ (s.link 5).trainAt + 20 * ms ≤ s.now ∧
     (let t := (s.put R.FLNK_STAT_lock 0xFF 5).updLink 5 (fun k => { k with locked := true })
      t.bit R.FLNK_STAT_laser_ok 5 = false ∧
      (let u := ((s.put R.FLNK_STAT_laser_ok 1 5).put R.FLNK_STAT_lock 0xFF 5).updLink 5 (fun k => { k with locked := true })
       u.bit R.FLNK_STAT_laser_ok 5 = true ∧ u.linkState 5 = 1 ∧ (u.link 5).locked = true))) ∧
    (let s : State := { tFab.put R.FLNK_STAT_state 4 5 with clk := { time := 100000000 } }
     s.linkState 5 = 4 ∧ (s.link 5).trainAt + 100 * ms ≤ s.now) ∧
    (let s := ({ tFab with clk := { time := 1000000 } } : State).updEngine 7 (fun e => { e with idleAt := some 0 })
     (s.engine 7).idleAt = some 0 ∧ 0 + ms ≤ s.now ∧ (linksOf 7).any (fun l => s.linkOn l) = false) ∧
    Permit tFab .p2 (R.FLNK_CTRL_enable.addr 63 0) ∧
    (let s := tFab.put R.FLNK_CTRL_enable 1 0
     s.linkOn 0 = true ∧ s.linkState 0 = 3 ∧ (s.put R.FLNK_STAT_state 1 0).linkOn 0 = true ∧ (s.put R.FLNK_STAT_state 1 0).linkState 0 ≠ 3) ∧
    tFab.linkOn 63 = false ∧
    (let s := tFab.updLink 0 (fun k => { k with started := true })
     let x : BitVec 480 := 1
     (s.link 0).started = true ∧ (s.link 0).rxLeft = 0 ∧ bits x.toNat 0 4 = 1 ∧ bits (2 : BitVec 480).toNat 0 4 ≠ 1 ∧
     flitCrc x (s.link 0).rxSeq ≠ flitCrc x (s.link 0).rxSeq + 1 ∧
     ((s.updLink 0 (fun k => { k with rxLeft := 2 })).link 0).rxLeft ≠ 0) := by decide +kernel
theorem witness_HelloRoutesAndTime :
    (let s := tFab.put R.FLNK_STAT_state 2 5
     s.linkState 5 = 2 ∧ s.devnum = 1 ∧ s.devnum ≠ ownDev ∧ s.fld R.TOILE_DEVNUM_fabric_id = 0 ∧ s.lifecycle = 0) ∧
    Permit tUp .p2 (R.TOILE_DEVNUM_devnum.addr 0 0) ∧ (List.range 64).all (fun l => tUp.linkState l == 0) = true ∧
    (List.range 64).all (fun l => tFab.linkState l == 0) = false ∧ Permit tUp .p2 (R.TOILE_RT_CONFIRM_dev.addr 0 0) ∧
    (tFab.put R.TOILE_RT_pending 1 2).bit R.TOILE_RT_pending 2 = true ∧ tFab.linkState 0 = 3 ∧ (tFab.link 0).timeAt ≤ tFab.now ∧
    (let s := (tFab.put R.FLNK_STAT_state 1 5).updLink 5 (fun k => { k with started := true })
     s.linkState 5 = 1 ∧ (s.link 5).started = true ∧ (s.link 5).timeAt ≤ s.now) := by decide +kernel
theorem witness_ToileCommands :
    Permit tFab .p2 (R.TOILE_XCMD_op.addr 0 0) ∧ tFab.bit R.TOILE_XSTAT_busy = false ∧
    (tFab.put R.TOILE_XSTAT_busy 1).bit R.TOILE_XSTAT_busy = true ∧
    (∀ op ∈ [1, 2, 3, 4, 5, 6, 7], ∀ b ∈ [0xBFFFFFFC0, 0xC00000000, 0x20],
      let s := (tFab.put R.TOILE_XADDR_addr (2 * 2 ^ 40 + 0x3000)).put R.TOILE_XBUF_buf b
      let x : XRun := { op := op, addr := s.norm (s.fld R.TOILE_XADDR_addr), len := 64 * ((0 : BitVec 6).toNat + 1), buf := s.fld R.TOILE_XBUF_buf }
      xAligned x = true ∧ x.buf = b ∧ xAligned { x with addr := x.addr + 4 } = false) ∧
    0xBFFFFFFC0 + 64 = hbmSize ∧ hbmSize < 0xC00000000 + 64 := by decide +kernel
/-! ### Lining and leases -/

/-- That device with a quorum set of the devices 1, 2 and 3, and folio 1 lined to device 2. -/
def tQuorum : State :=
  let s := (tFab.put R.TOILE_QUORUM_count 3).put R.TOILE_QUORUM_members (1 + 2 * 2 ^ 12 + 3 * 2 ^ 24)
  { s with dir := [(1, { st := .idle, binder := 5, partner := 2, lined := true })] }
def tLined (f : HomeLine → HomeLine) : State :=
  { tQuorum.updFol 1 (fun x => { x with line := f x.line }) with clk := { time := 1000000000 } }
theorem witness_LiningAtHome :
    (let s := tLined (fun l => { l with openAt := some 0 })
     tTurn s 2 (.lineAck 7 1 0 .ack) = true ∧ ((s.answered 2 7 (.done [] 0)).ent 1).partner = 2 ∧
     ((s.answered 2 7 (.done [] 0)).ent 1).st ≠ .free ∧ ((s.answered 2 7 (.done [] 0)).fol 1).line.openAt.isSome = true ∧ s.mainOn = true ∧ (s.ent 1).st ≠ .free ∧ (s.ent 1).partner = 2 ∧ (s.fol 1).line.openAt = some 0 ∧
     0 + max 100 (s.fld R.TOILE_CFG_timeout_us) * us ≤ s.now) ∧
    (let s := ((tLined (fun l => { l with unacked := some (7, 8, true, 0, [1]) })).updFol 1 (fun x => { x with
        flight := some { seq := 7, first := 0, ready := 0, deadline := 0, committed := true, waitLine := true } })).put R.TOILE_LEASE_fenced 0
     tTurn s 2 (.lineAck 7 1 7 .ack) = true ∧ ((s.answered 2 7 (.done [] 0)).fol 1).line.openAt = none ∧
     ((s.answered 2 7 (.done [] 0)).fol 1).line.unacked = some (7, 8, true, 0, [1]) ∧ ((s.fol 1).line.unacked == some (7, 8, true, 0, [1])) = true ∧ s.fenced = false ∧ s.lineWaits 1 = true ∧
     (s.fol 1).line.sentAt + max 100 (s.fld R.TOILE_LINE_CFG_ack_timeout_us) * us ≤ s.now) ∧
    Permit tQuorum .p2 (R.TOILE_CMD_op.addr 0 0) ∧ (tQuorum.put R.TOILE_CMD_STATUS_busy 1).bit R.TOILE_CMD_STATUS_busy = true ∧
    tQuorum.bit R.TOILE_CMD_STATUS_busy = false ∧ (tQuorum.ent 1).st = .idle ∧ tQuorum.standalone = false ∧ tQuorum.routed 2 2 = true ∧
    (tQuorum.ent 2).st ≠ .idle ∧ (tQuorum.ent 2).st ≠ .ready := by decide +kernel
def tLineP : LineParams :=
  { binder := 5, size := 256, external := false, hop := 64, frames := 1, lookback := 0, channels := 1, fs := 48000, hoop := 0, egress := 0, base := none }
/-- A partner with room for two shadows: a table at 0x8000, two slots at 0x10000, folios 0x100 and 0x101. -/
def tPartner : State :=
  (((((tFab.put R.TOILE_SHADOW_base 0x8000).put R.TOILE_LINE_CFG_shadow_first 0x100).put R.TOILE_LINE_CFG_shadow_count 2).put
    R.TOILE_POOL_base 0x10000).put R.TOILE_POOL_slot_log2 12).put R.TOILE_POOL_slots 2
/-- That partner with shadow 0, of folio 9 of device 2, fresh after sequence 7. -/
def tShadow : State :=
  tPartner.setSh 0 { homeFolio := 9, valid := true, stale := false, home := 2, binder := 5, lastSeq := 7, relSeq := 7, nextFirst := 0, egress := 0,
                       hoop := 0, slot := 0x10000, hop := 64, frames := 1, channels := 1, lookback := 0, fs := 48000, size := 256, external := false }
theorem witness_LiningAtPartner :
    (∀ m ∈ [Note.lineOpen 9 tLineP, .lineDelta 9 8 0 0 [], .lineFull 9 8 0 0 [], .lineRel 9 8, .lineClose 9 8,
      .lineAudio 9 { time := 0, first := 0, count := 0, invalid := false, resetMark := true, slip := false, gap := false } 0 0 []],
      tTurn tPartner 2 m = true ∧ tTurn tShadow 2 m = true) ∧ 9 ≠ ((tShadow.sh 0).lastSeq + 1) % 2 ^ 32 ∧
    tPartner.mainOn = true ∧ (tPartner.dropOldShadow 2 9).standalone = false ∧ (tPartner.dropOldShadow 2 9).freeShadowIndex = some 0 ∧
    (tPartner.dropOldShadow 2 9).freeSlot tLineP.size.toNat = some 0x10000 ∧
    ((tPartner.put R.TOILE_LINE_CFG_shadow_count 0).dropOldShadow 2 9).freeShadowIndex = none ∧
    tShadow.shadowOf 2 9 = some 0 ∧ tShadow.shadowOf 2 8 = none ∧ (tShadow.sh 0).lastSeq ≠ 8 ∧ 8 = ((tShadow.sh 0).lastSeq + 1) % 2 ^ 32 ∧
    (tShadow.sh 0).lastSeq < 2 ^ 32 ∧ (tShadow.sh 0).stale = false ∧ (tShadow.sh 0).size = 256 ∧
    tShadow.readLocal (tShadow.sh 0).slot (tShadow.sh 0).size = .bytes (List.replicate 256 0) := by decide +kernel
/-- The quorum member in service, with time 100 ms. -/
def tMember : State := { tQuorum with clk := { time := 100000000 } }
theorem witness_Leases :
    (let s : State := { tMember with lease := { tMember.lease with autoJoin := false } }
     s.mainOn = true ∧ s.renews = true ∧ s.lease.autoJoin = false ∧ s.lease.renewAt ≤ s.now ∧ s.quorum.contains 3 = true) ∧
    (let s := (tMember.put R.TOILE_LEASE_leased 1).put R.TOILE_LEASE_EXP_expiry 100000000
     s.standalone = false ∧ s.bit R.TOILE_LEASE_leased = true ∧ s.fld R.TOILE_LEASE_EXP_expiry ≤ s.now) ∧
    Permit tMember .p2 (R.TOILE_CMD_op.addr 0 0) ∧ tMember.bit R.TOILE_CMD_STATUS_busy = false ∧
    tFab.endFolCmd.forgetFolios.quorum = [] ∧ tMember.endFolCmd.forgetFolios.quorum ≠ [] ∧
    Permit tMember .p2 (R.TOILE_QUORUM_members.addr 0 0) ∧ (3 : BitVec 64).getLsbD 63 = tMember.standalone ∧
    (BitVec.ofNat 64 (2 ^ 63)).getLsbD 63 ≠ tMember.standalone ∧ tFab.dir.all (fun d => d.2.st == .free) = true ∧
    tMember.dir.all (fun d => d.2.st == .free) = false ∧ tMember.serves = true ∧ tFab.serves = false ∧
    (∀ m ∈ [Note.leaseReply 7 (.promoteRefused 3), .leaseRenew 1 1, .leasePromote 2 4, .leaseJoin 4, .leaseResign 4],
      tTurn tMember 3 m = true ∧ tTurn tFab 3 m = true) ∧ (tMember.answered 2 7 (.done [] 0)).quorum.contains 2 = true ∧
    (let s := tMember.setQrec 2 { epoch := 4, revoked := false, valid := true, expiry := 95000000 }
     (s.qrec 2).valid = true ∧ (3 : BitVec 32).toNat < (s.qrec 2).epoch ∧ (s.qrec 2).epoch = (4 : BitVec 32).toNat ∧
     (s.qrec 2).epoch < (5 : BitVec 32).toNat ∧ (s.qrec 2).revoked = false ∧ s.now < (s.qrec 2).expiry + 10 * ms) ∧
    (tMember.qrec 3).valid = false ∧
    (let s : State := { tMember with lease := { tMember.lease with
       heldPromotes := [{ x := 2, e := 4, src := 3, tag := 0 }], heldJoins := [(2, 5)], grants := [(2, 5)], quietUntil := 9 } }
     s.lease.heldPromotes.any (fun g => g.x == 2) = true ∧ (s.qrec 2).expiry + 10 * ms ≤ s.now ∧
     s.lease.heldJoins.find? (fun g => g.1 = 2) = some (2, 5) ∧
     (s.lease.grants.find? (fun g => g.1 = 2 ∧ g.2 ≤ s.now)).isSome = true ∧ s.lease.quietUntil ≠ 0 ∧ s.lease.quietUntil ≤ s.now) := by
  decide +kernel
theorem witness_PeerWatch :
    tMember.mainOn = true ∧ tMember.lease.beatAt ≤ tMember.now ∧ tTurn tMember 3 (.beat 4) = true ∧
    (let s := tMember.updPeer 2 (fun p => { p with watched := true, promoteAt := some 0 })
     (s.peer 2).watched = true ∧ s.watches 2 = true ∧ (s.peer 2).lastBeat + 2 * ms ≤ s.now ∧ (s.peer 2).promoteAt = some 0 ∧
     ((s.updPeer 2 (fun p => { p with lost := true })).peer 2).lost = true ∧ 0 + ms ≤ s.now ∧ tMember.candidates 3 = []) := by decide +kernel
/-! ### Audio -/

/-- Group 0 runs at 48 kHz; port 0 is a master of it in mode 1, port 1 a slave, port 12 an IEC receiver. -/
def tAud : State :=
  let s := (tUp.put R.AUD_GRP_CFG_rate_hz 48000 0).put R.AUD_GRP_CFG_div_n 4096 0
  let s := ((s.put R.SAP_FMT_mode 1 0).put R.SAP_CLK_master 1 0).put R.SAP_CLK_div_n 128 0
  (s.put R.SAP_FMT_mode 1 1).put R.SAP_FMT_mode 5 12
theorem witness_PortStartStop :
    Permit tAud .p2 (R.SAP_CTRL_start.addr 0 0) ∧ (tAud.sapCtrl 0 1).sapState 0 = 0 ∧ (tAud.sapCtrl 0 1).bit R.SAP_STAT_pending 0 = false ∧
    (tAud.sapCtrl 0 1).startErr 0 = 0 ∧ (tAud.sapCtrl 2 1).startErr 2 = 1 ∧ ((tAud.setSap 0 6).sapCtrl 0 4).sapState 0 = 6 ∧
    (tAud.sapCtrl 0 4).sapState 0 ≠ 6 ∧
    (let u := ((tAud.put R.AUD_GRP_STAT_state 2 0).sapCtrl 1 1)
     u.startErr 1 = 0 ∧ u.grpState (u.grpOf 1) = 2 ∧ u.slave 1 = true) ∧
    (let s := ((tAud.put R.SAP_STAT_pending 1 0).put R.AUD_GRP_STAT_state 1 0).put R.SAP_LEAD_clk_lead 8 0
     s.bit R.SAP_STAT_pending 0 = true ∧ s.slave 0 = false ∧ s.grpState (s.grpOf 0) = 1 ∧ s.fld R.SAP_LEAD_clk_lead 0 ≠ 0 ∧
     (s.agrp (s.grpOf 0)).start ≤ s.now + s.framesNs (s.grpOf 0) (s.fld R.SAP_LEAD_clk_lead 0) ∧
     (let t : State := { s.setSap 0 1 with clk := { time := 1000000 } }
      t.sapState 0 = 1 ∧ (t.sap 0).leadAt + t.framesNs (t.grpOf 0) (t.fld R.SAP_LEAD_clk_lead 0) ≤ t.now) ∧
     (let t : State := { s.setSap 0 3 with clk := { time := 1000000 } }
      t.sapState 0 = 3 ∧ (t.sap 0).leadAt + t.framesNs (t.grpOf 0) (t.fld R.SAP_LEAD_clk_tail 0) ≤ t.now)) ∧
    tAud.sapState 0 = 0 ∧ (tAud.sap 0).master = false ∧ ((tAud.updSap 0 (fun x => { x with master := true })).sap 0).master = true ∧
    (tAud.setSap 0 2).sapState 0 ≠ 0 ∧ (tAud.setSap 0 2).slave 0 = false ∧ (tAud.setSap 0 2).mode 0 < 4 ∧ State.reset.mainOn = false := by decide +kernel
theorem witness_AlignmentGroups :
    Permit tAud .p2 (R.AUD_GRP_START_time.addr 0 0) ∧ tAud.grpState 0 = 0 ∧ tAud.now + 100 * us ≤ (100000 : BitVec 64).toNat ∧
    (99999 : BitVec 64).toNat < tAud.now + 100 * us ∧ tAud.rateOk 0 = true ∧ (tAud.put R.AUD_GRP_STAT_late 1 0).rateOk 0 = true ∧
    Permit tAud .p2 (R.AUD_GRP_CTRL_stop.addr 0 0) ∧
    (let s := tAud.put R.AUD_GRP_STAT_state 1 0
     s.grpState 0 = 1 ∧ (s.agrp 0).start ≤ s.now ∧ s.grpState 0 ≠ 2) ∧
    (let s := tAud.put R.AUD_GRP_STAT_state 2 0
     s.grpState 0 = 2 ∧ ((s.blockEnd 0).agrp 0).stopping = false ∧
     (let t := s.updAgrp 0 (fun g => { g with stopping := true, frame := 64 })
      ((t.blockEnd 0).agrp 0).stopping = true ∧ ((t.blockEnd 0).agrp 0).frame % 64 = 0)) ∧
    (let s := tAud.updAgrp 0 (fun g => { g with queue := [{ time := 0, parts := [], gap := false }] })
     (s.agrp 0).queue = [{ time := 0, parts := [], gap := false }]) := by decide +kernel
theorem witness_AudioReception :
    (∀ x ∈ [2, 4, 5], let s := tAud.setSap 1 x
     let fr : PortFrame := { port := 1, sync := [false, true, false], lines := [[], [], [], []], iec := none }
     s.mainOn = true ∧ s.slave 1 = true ∧ s.sapState 1 = x ∧ (s.capture 1 fr).2.isSome = true ∧
     (((s.capture 1 fr).1.csCollect 1 fr).sapState 1 = x) ∧ (s.capture 1 { fr with sync := [] }).2 = none) ∧
    tAud.rate (tAud.grpOf 1) ≠ 0 ∧ (tAud.setSap 1 2).windowOff 1 20000000 = true ∧ (tAud.setSap 1 2).windowOff 1 5333333 = false ∧
    (let s := ((tAud.setSap 1 5).put R.SAP_STAT_good 256 1).updSap 1 (fun x => { x with fifo := List.replicate 4 [] })
     s.sapState 1 = 5 ∧ 256 ≤ s.fld R.SAP_STAT_good 1 ∧ (s.sap 1).fifo.length = 4) ∧
    (let s := tAud.setSap 12 2
     s.mode 12 = 5 ∧ s.sapState 12 ≠ 0) ∧
    (∀ l ∈ [List.replicate 191 (false, false), List.replicate 192 (true, false), List.replicate 192 (false, false)],
      ((tAud.updSap 12 (fun x => { x with csDone := some l })).sap 12).csDone = some l) ∧
    crccBad (csBytes (List.replicate 192 true)) = true ∧
    crccBad (csBytes (List.replicate 192 false)) = false ∧
    (let s := (tAud.put R.AUD_PLL_CFG_enable 1).put R.AUD_PLL_CFG_ref 1
     s.bit R.AUD_PLL_CFG_enable = true ∧ s.bit R.AUD_PLL_CFG_ref = true ∧ s.bit R.AUD_PLL_STAT_holdover = false) := by decide +kernel
/-- Folio 1 of the binder 5, and capture entry 0 enabled on port 0. -/
def tCapture : State :=
  { tAud.put R.AUD_CH_SRC_enable 1 0 with binders := [(5, { tBinder with par := { tBinder.par with fs := 48000 } })],
                                          dir := [(1, { st := .idle, binder := 5 })] }
theorem witness_AudioBindingsAndChannels :
    Permit tCapture .p2 (R.AUD_BIND_CMD_op.addr 0 0) ∧
    tCapture.bindCheck 1 (tCapture.fld R.AUD_BIND_ARG_group) (tCapture.fld R.AUD_BIND_ARG_c0) (tCapture.fld R.AUD_BIND_ARG_count + 1) = 0 ∧
    tCapture.bindCheck 2 0 0 1 = 1 ∧ tCapture.abinds.find? (fun b => b.folio = 1) = none ∧
    (let b : ABind := { folio := 1, grp := 0, c0 := 0, count := 1 }
     let s : State := { tCapture with abinds := [b] }
     s.abinds.find? (fun b => b.folio = 1) = some b ∧ s.grpState 0 ≠ 2 ∧ (s.put R.AUD_GRP_STAT_state 2 0).grpState 0 = 2) ∧
    Permit tCapture .p2 (R.AUD_CH_GAIN_gain.addr 383 0) ∧ Permit tCapture .p2 (R.AUD_CH_SRC_port.addr 383 0) ∧
    Permit tCapture .p2 (R.AUD_OUT_BASE_base.addr 15 0) ∧ tCapture.mainOn = true := by decide +kernel

/-! ### Modules and Ethernet -/

theorem witness_ModuleBus :
    tUp.mainOn = true ∧
    (let s := tUp.updI2c 1 (fun x => { x with ident := [7, 5] })
     (s.i2c ((7 : SapId).val / 4)).run = none ∧ (s.i2c 1).ident.head? = some 7) ∧
    Permit tUp .p2 (R.MISC_I2C_CMD_op.addr 3 0) ∧ (tUp.put R.MISC_I2C_STAT_busy 1 3).bit R.MISC_I2C_STAT_busy 3 = true ∧
    tUp.bit R.MISC_I2C_STAT_busy 3 = false ∧
    (∀ op ∈ [1, 2, 3, 4, 5], bits (BitVec.ofNat 64 (op + 0x20 * 2 ^ 3 + 2 ^ 10)).toNat 0 3 = op ∧
      tUp.i2cRefused 3 (op + 0x20 * 2 ^ 3 + 2 ^ 10) = false ∧ tUp.i2cRefused 3 (op + 0x57 * 2 ^ 3 + 2 ^ 10) = true) ∧
    ((tUp.updI2c 3 (fun x => { x with wait := some 1 })).i2c 3).wait = some 1 ∧
    ((tUp.updI2c 3 (fun x => { x with run := some 1 })).i2c 3).run = some 1 := by decide +kernel
/-- A flow of folio 1 that has started, with a packet at index 64. -/
def tPkt : HeldPkt := { idx := 64, ssrc := 0, ts := 0, recv := 0, count := 1, dat := [0, 0], mark := false }
def tFlow : State :=
  { tCapture with flows := [(9, { valid := true, folio := 1, bound := true, started := true, held := [tPkt] })], clk := { time := 1000000000 } }
theorem witness_EthernetAndClassifier :
    (let s := tUp.put R.ETH_CTRL_enable 1 1
     ¬(s.bit R.ETH_CTRL_enable 1 = true ∧ (s.fld R.COLO_READY0_ready).testBit (6 + 1) = true) ∧ s.ethPowered 1 = false) ∧
    (let s := (({ tUp with clk := { time := 200 * us } } : State).put R.ETH_CTRL_enable 1 1).put R.COLO_READY0_ready 128
     s.ethPowered 1 = true ∧ (s.fld R.COLO_READY0_ready).testBit (6 + 1) = true ∧
     s.frameTaken 1 { bytes := List.replicate 6 0xFF ++ List.replicate 54 0, fcsOk := true } = true ∧ s.bit R.ETH_CTRL_enable 1 = true ∧
     s.spineDown = false ∧ 64 ≤ (List.replicate 60 (0 : Byte)).length + 4 ∧
     (List.replicate 60 (0 : Byte)).length + 4 ≤ min (s.fld R.ETH_CTRL_mtu 1) 9216) ∧
    (let w := tFlow.flowPos (tFlow.flow 9).folio
     let g := (tFlow.flow 9).purge w
     g.bound = true ∧ g.started = true ∧ g.hole w = 64 ∧ g.heldAt 64 = some tPkt ∧ g.play (tFlow.flowFs g) w ≤ tFlow.now ∧
     g.play (tFlow.flowFs { g with anchorI := 64 }) 0 ≤ tFlow.now) ∧
    Permit tFlow .p2 ingressCmdAddr ∧ tFlow.bit R.INGRESS_STATUS_busy = false ∧
    ((tUp.put R.INGRESS_ARG1_entry_hi (20 * 2 ^ 24)).addCheck 3 = 0 ∧ tUp.addCheck 3 = 2) ∧
    (let s : State := { tFlow with flows := [(9, { valid := true })] }
     (s.flow 9).valid = true ∧ (s.flow 9).bound = false ∧ s.flowBindCheck 9 1 = 0 ∧ s.flowBindCheck 9 2 = 1) ∧
    (tFlow.flow 9).valid = true ∧ (tFlow.flow 9).bound = true ∧ (tFlow.flow 8).valid = false ∧
    Permit tFlow .p2 (R.INGRESS_PUSH0_folio.addr 0 0) ∧ (tFlow.ent 2).sourceBound = false ∧
    (let s : State := { tFlow with dir := [(1, { st := .idle, binder := 5, sourceBound := true }), (2, { st := .closing, sourceBound := true })] }
     (s.ent 1).sourceBound = true ∧ s.takes 1 = true ∧ (s.ent 2).sourceBound = true ∧ s.takes 2 = false) := by decide +kernel
theorem witness_TimeTrimAndBoardLinks :
    Permit tUp .p2 (R.ETH_TIME_ADJ_offset_ns.addr 0 0) ∧ Permit tUp .p2 (R.ETH_TIME_FREQ_ppb.addr 0 0) ∧
    Permit tUp .p1 (R.MISC_UART_CFG_baud.addr 0 0) ∧ tUp.timeOwn = true ∧ tUp.pwr.aon = true ∧ tUp.colo.shown = none ∧
    (let s : State := { tUp with colo := { shown := some [] } }
     s.colo.shown.isSome = true ∧ Permit s .p1 (R.MISC_UART_CFG_baud.addr 0 0)) ∧
    (tFab.updLink 0 (fun k => { k with root := some (0, 2, 0) })).timeOwn = false := by decide +kernel

/-! ### Security and service -/

/-- A provisioned device whose root key is the identity point, with its management service running. -/
def tMgmt : State :=
  ({ tUp with fuses := { rootDigest := tRoot, lifecycle := 1 }, colo := { phase := .running } } : State).put R.SEC_LIFECYCLE_state 1
/-- A request with the present challenge, and a signature of the identity point. -/
def tReq : SignedReq := { chal := 0, key := 1, sig := 1 }
/-- An uncorrectable line of folio 7's state page is reported with that folio, another line with none (R330). -/
theorem test_ecc_folio :
    let s : State := { tHoop with dir := [(7, { st := .idle, binder := 5, statePage := 0xFFF0000100 })] }
    s.hbmFolio 0x100000 = 7 ∧ s.hbmFolio 0x1000FF = 7 ∧ s.hbmFolio 0x100100 = 0xFFFFF := by decide

/-- 1,024 arithmetic clocks of an instruction in the recurrence queue make one unit of COREc_RC_BUSY (chapter 6, R68), and
1,023 clocks none. -/
theorem test_rc_busy :
    let s := tUp.updCore 3 (fun k => { k with rc := [{ pc := 0, word := 0 }] })
    (s.coreClocks 3 1024).fld R.CORE_RC_BUSY_count 3 = 1 ∧ (s.coreClocks 3 1023).fld R.CORE_RC_BUSY_count 3 = 0 ∧
    (s.coreClocks 3 1024).fld R.CORE_AT_BUSY_count 3 = 0 := by decide

/-- A ticket or a token for a device whose public key is zero. -/
def tTicket (kind : Nat) (more : List Byte) : List Byte := tManifest kind 0 more ((digest (List.replicate 57 0)).take 16)
/-- A token that expires at 99. -/
def tToken : List Byte := tTicket 7 (toLE 16 0 ++ toLE 8 99 ++ toLE 40 0)
/-- The device with a second flash. -/
def tFlash : State := { tMgmt with flashB := { answers := true, sizeMib := 256 } }
theorem witness_SignedRequests :
    tFlash.pwr.aon = true ∧ tFlash.coloCheck = tFlash ∧ tFlash.mgmtOn false = true ∧ tReq.chal = tFlash.colo.chal ∧ { tReq with chal := 1 }.chal ≠ tFlash.colo.chal ∧
    tFlash.reqSigned 0x10 (toLE 8 0xF000200000 ++ toLE 2 1) { tReq with sig := 2 } = false ∧
    tFlash.reqSigned 0x10 (toLE 8 0xF000200000 ++ toLE 2 1) tReq = true ∧ 0xF000200000 % 8 = 0 ∧
    tFlash.reqSigned 0x11 (toLE 8 0xF000200000 ++ [0#64].flatMap (fun v => toLE 8 v.toNat)) tReq = true ∧
    inControl 0xF000200000 = true := by decide +kernel
theorem witness_SignedRequests_unlock :
    tFlash.reqSigned 0x40 tToken tReq = true ∧ tFlash.ticketOk tToken 7 = true ∧ mfield tToken 24 16 = tFlash.colo.chal.toNat ∧
    tFlash.now < mfield tToken 40 8 ∧ allZero ((tToken.drop 48).take 40) = true := by decide +kernel
theorem witness_SignedRequests_slots :
    tFlash.mgmtOn true = true ∧ (tFlash.flash tFlash.otherSlot).present = true ∧ tFlash.reqSigned 0x20 [] tReq = true ∧
    tFlash.reqSigned 0x21 (toLE 4 0x1000 ++ [0x55]) tReq = true ∧ [(0x55 : Byte)].length ≤ 1024 ∧ 0x1000 + [(0x55 : Byte)].length ≤ identityAt ∧
    tFlash.reqSigned 0x22 [] tReq = true ∧ tFlash.reqSigned 0x23 [] tReq = true ∧ tFlash.colo.phase = .running := by decide +kernel
theorem witness_FuseCommands :
    tMgmt.mgmtOn false = true ∧ tMgmt.lifecycle = 1 ∧ tMgmt.bit R.SEC_LIFECYCLE_pending = false ∧
    tMgmt.ticketOk (tTicket 6 (toLE 64 0)) 6 = true ∧ tMgmt.reqSigned 0x31 [] tReq = true ∧ tMgmt.reqSigned 0x32 [] tReq = true ∧
    (let s : State := tMgmt.put R.SEC_LIFECYCLE_state 0
     s.lifecycle ≠ 1 ∧ s.lifecycle ≠ 2 ∧ s.reqSigned 0x32 [] tReq = true ∧ s.bit R.SEC_LIFECYCLE_pending = false) ∧
    tMgmt.pwr.aon = true ∧ tMgmt.coloCheck = tMgmt ∧
    (let f : Flash := { answers := true, sizeMib := 256, bytes := tCells identityAt (toLE 4 0x54434D47) }
     let s : State := { tUp with colo := { phase := .starting, uartTx := [0x41] }, flashA := f, flashB := f }
     s.mayStart = true ∧ s.coloRunning.mayProvision = true) := by decide +kernel
/-- A step answers a next state that meets a test. -/
def tStep (s : State) (p : State → Bool) : Bool := match step s with | .next t => p t | _ => false
theorem witness_OnlyFuseCommandsBlowFuses :
    tStep { tMgmt with pending := [.returnCmd tReq] } (fun t => decide (t.fuses ≠ tMgmt.fuses)) = true := by decide +kernel
theorem witness_UnsignedRequests :
    tMgmt.pwr.aon = true ∧ tMgmt.coloCheck = tMgmt ∧ tMgmt.mgmtOn true = true ∧ tMgmt.mgmtOn false = true ∧ (1 : BitVec 128) ≠ tMgmt.colo.chal ∧ tMgmt.att = none ∧
    ({ tMgmt with att := some { buf := 0, dat := [], result := 0 } } : State).att = some { buf := 0, dat := [], result := 0 } ∧
    State.reset.colo.phase = .off ∧ Permit tMgmt .p1 (R.SEC_ATT_CMD_op.addr 0 0) ∧
    (tMgmt.put R.SEC_ATT_STAT_busy 1).bit R.SEC_ATT_STAT_busy = true ∧ tMgmt.bit R.SEC_ATT_STAT_busy = false ∧
    (tMgmt.put R.SEC_ATT_BUF_buf 1).fld R.SEC_ATT_BUF_buf % 64 ≠ 0 ∧ tMgmt.fld R.SEC_ATT_BUF_buf % 64 = 0 ∧ tMgmt.mainOn = true ∧
    ((tMgmt.put R.SEC_ATT_STAT_busy 1).hbmRead 0 32).2 = some (List.replicate 32 0) ∧
    0 + (256 + 96 * tMgmt.attEntries.length) ≤ hbmSize := by decide +kernel
/-- The device with its test port unlocked until 5. -/
def tJtag : State := { tUp.put R.SEC_DEBUG_unlocked 1 with jtag := { expiry := some 5 }, clk := { time := 6 } }
theorem witness_TestPort :
    tUp.bit R.SEC_DEBUG_unlocked = false ∧ tJtag.bit R.SEC_DEBUG_unlocked = true ∧ inControl 0xF000200000 = true ∧ 0xF000200000 % 8 = 0 ∧
    tUp.pwr.aon = true ∧ tJtag.pwr.aon = true ∧ tJtag.mainOn = true ∧ areaOf 0x1000 = .hbm ∧ oneArea 0x1000 8 = true ∧ tJtag.bufOff 0x1000 8 = false ∧
    tJtag.readLocal 0x1000 8 = .bytes (List.replicate 8 0) ∧ Land.uartTx ≠ .tdo ∧
    tJtag.jtag.expiry = some 5 ∧ 5 < tJtag.now ∧ ({ tJtag with clk := {} } : State).now ≤ 5 := by decide +kernel
/-- The Spine in a phase since time 0, at 20 s. -/
def tSpine (x : SpinePhase) : State := { tMgmt with spine := { phase := x, since := 0 }, clk := { time := 20000000000 } }
theorem witness_SpineAndRetire :
    (tSpine .running).spine.phase ≠ .off ∧ (tSpine .running).spine.phase ≠ .stopped ∧ (tSpine .starting).spine.phase = .starting ∧
    (tSpine .restarting).spine.phase = .restarting ∧ 0 + (tSpine .restarting).carryNs ≤ (tSpine .restarting).now ∧
    (∀ p ∈ [Port.p0, .p1], Permit tMgmt p (R.COLO_SERVICE_retire.addr 0 0)) ∧
    (tMgmt.put R.COLO_SERVICE_state 1).fld R.COLO_SERVICE_state = 1 ∧ tMgmt.retire.resignAt = none ∧ tMgmt.drainedAll = true ∧
    0 + 5 * ms ≤ (tSpine .off).now ∧
    (let s : State := { tMember with retire := { resignAt := some 0 } }
     let u := s.answered 2 7 (.done [] 0)
     tTurn s 3 (.resignAck 7) = true ∧ u.retire.resignAt.isSome = true ∧ u.quorum.contains 2 = true ∧ u.retire.acks.contains 2 = false ∧
     s.retire.resignAt = some 0 ∧ 0 + ms ≤ s.now ∧
     s.retire.silent = false ∧ s.standalone = false) ∧
    tUp.pwr.aon = true ∧ (tUp.put R.PWR_STAT_state 3).clockRuns .refclk = true ∧ tUp.clockRuns .arith = false ∧ Permit tHoop .p2 (R.HOOP_MAINT_drain.addr 0 0) ∧
    (tHoop.put R.HOOP_MAINT_busy 1 0).bit R.HOOP_MAINT_busy 0 = true ∧ tHoop.bit R.HOOP_MAINT_busy 0 = false ∧
    tHoop.bit R.HOOP_MAINT_drained 0 = false ∧ (tHoop.put R.HOOP_MAINT_drained 1 0).bit R.HOOP_MAINT_drained 0 = true := by decide +kernel
/-- A flash with Spine OS in its slot, without an image. -/
def tSlot (kind : Nat) : Flash :=
  { answers := true, sizeMib := 256, bytes := (tManifest kind 0 (digest []) (toLE 16 0)).zipIdx.map (fun p => ((component kind).1 + p.2, p.1)) }
theorem witness_SpineAndRetire_loads :
    (let s : State := { tMgmt.put R.COLO_READY0_ready 32 with flashA := tSlot 2 }
     s.colo.phase = .running ∧ (s.fld R.COLO_READY0_ready).testBit 5 = true ∧ s.spine.phase = .off ∧ (s.loadPart 2).2.isSome = true) ∧
    (let mf := tManifest 3 0 (digest []) (toLE 16 0)
     let s : State := { tMgmt with mem := tCells 0x4000 mf }
     let s := (s.put R.HOOP_MAINT_busy 1 0).put R.HOOP_UCODE_addr (0xFFF * 2 ^ 40 + 0x4000) 0
     s.bit R.HOOP_MAINT_busy 0 = true ∧ s.fld R.HOOP_UCODE_addr 0 % 4096 = 0 ∧ (s.put R.HOOP_UCODE_addr 1 0).fld R.HOOP_UCODE_addr 0 % 4096 ≠ 0 ∧
     (let x := s.ucodeRead 0 (0xFFF * 2 ^ 40 + 0x4000) 320
      x.1 = some mf ∧ x.2.2 = false ∧ x.2.1.manifestSigned mf 3 = true ∧ mfield mf 16 8 ≤ hbmSize ∧
      (let y := x.2.1.ucodeRead 0 (0xFFF * 2 ^ 40 + 0x4000 + 4096) (mfield mf 16 8)
       y.1 = some [] ∧ y.2.2 = false ∧ digestOk mf [] = true)) ∧
     (s.ucodeRead 0 (0xFFF * 2 ^ 40 + 0x5000) 320).1 = some (List.replicate 320 0) ∧ (s.ucodeRead 0 (0xFFF * 2 ^ 40 + 0x5000) 320).2.2 = false ∧
     (s.ucodeRead 0 (0xFFF * 2 ^ 40 + 0x5000) 320).2.1.manifestSigned (List.replicate 320 0) 3 = false) := by decide +kernel

/-! ### Boot and power -/

theorem witness_BootAndResets :
    State.reset.pwr.aon = false ∧ tUp.pwr.aon = true ∧ ({ pwr := { rstHigh := true } } : State).pwr.rstHigh = true ∧
    ({ pwr := { rstHigh := false } } : State).pwr.rstHigh = false ∧
    (let s : State := { colo := { phase := .starting, trying := true, age := 3000 * ms, uartTx := [0x41] }, pwr := { aon := true, rstHigh := true } }
     s.colo.phase = .starting ∧ s.colo.shown = none ∧ s.coloRunning.pwrState = 1 ∧ s.coloRunning.pwr.rstHigh = true ∧ s.colo.trying = true ∧ s.colo.age ≤ 3000 * ms ∧ 3000 * ms ≤ s.colo.age ∧ s.pwr.aon = true) ∧
    (let s : State := { colo := { phase := .starting, shown := some [] } }
     s.colo.phase = .starting ∧ s.colo.trying = false ∧ s.colo.shown.isSome = true) ∧ State.reset.colo.phase ≠ .starting ∧
    (tUp.fld R.COLO_READY0_ready).testBit 5 = false ∧ Permit tUp .p1 (R.PWR_CMD_op.addr 0 0) ∧
    tUp.pwrState = 1 ∧ (∀ x ∈ [1, 2, 3, 4], (tUp.put R.PWR_STAT_state x).pwrState = x) := by decide +kernel
theorem witness_PowerStates :
    Permit tUp .p1 (R.PWR_CMD_op.addr 0 0) ∧ (∀ x ∈ [2, 3, 4], (tUp.put R.PWR_STAT_state x).pwrState = x) ∧
    tUp.dir.all (fun d => d.2.st == .free) = true ∧ (tFol .idle).dir.all (fun d => d.2.st == .free) = false ∧
    (tFol .idle).fld R.COLO_SERVICE_state ≠ 2 ∧ tUp.pwrState = 1 ∧ ({ pwr := { rstHigh := true } } : State).pwr.rstHigh = true ∧
    (∀ x ∈ [0, 4, 6], let s := ((tUp.put R.PWR_STAT_state 2).enableRail x); s.pwrState = 2 ∧ s.pwr.awaits = some x) ∧
    railAfter 0 = some 1 ∧ railAfter 4 = some 7 ∧ railAfter 6 = none ∧ tUp.pwr.awaits ≠ some 0 ∧
    (tUp.put R.PWR_STAT_state 4).downMay = true ∧ tUp.downMay = false ∧ (tUp.enableRail 0).pwr.enables.getLsbD 0 = true := by decide +kernel
theorem witness_PowerControl :
    Permit tUp .p1 (R.PWR_ARITH_target.addr 0 0) ∧ Permit tUp .p1 (R.PWR_RTC_ticks.addr 0 0) ∧ tUp.pwrState = 1 ∧
    (tUp.put R.PWR_STAT_state 3).pwrState ≠ 1 ∧
    (let t := (tUp.put R.PWR_ARITH_present 7).arithSet 7; t.fld R.PWR_ARITH_present = t.arithTarget ∧ t.bit R.PWR_ARITH_busy = false) ∧
    (let t := (tUp.put R.PWR_ARITH_present 7).arithSet 9; t.fld R.PWR_ARITH_present ≠ t.arithTarget) ∧
    (tUp.put R.PWR_ARITH_busy 1).bit R.PWR_ARITH_busy = true ∧ tUp.bit R.PWR_ARITH_busy = false ∧
    ({ tUp with pwr := { tUp.pwr with avsPrev := some 700 } } : State).pwr.avsPrev = some 700 ∧
    (let s : State := { tUp.put R.PWR_ARITH_pll_auto 1 with pwr := { tUp.pwr with arithIdle := some 0 }, clk := { time := 100000000 } }
     s.pwr.arithIdle = some 0 ∧ s.bit R.PWR_ARITH_pll_auto = true ∧ s.hoopsOff = true ∧ 0 + 100 * ms ≤ s.now) ∧
    (tUp.enableRail 0).pwr.enables.getLsbD 0 = true ∧ tUp.pwr.enables.getLsbD 0 = false ∧
    (let s := (tHoop.put R.PWR_HOOP_CFG_idle_ms 1).put R.PWR_HOOP_CFG_keep_on 0
     let t : State := { s with clk := { time := 1000000 } }
     t.hoopMayOff 0 = true) ∧ tHoop.hoopMayOff 1 = false ∧
    (let s := tUp.updHoop 3 (fun k => { k with waking := some 0 })
     (s.hoop 3).waking = some 0 ∧ 0 + 40 * us ≤ ({ s with clk := { time := 40000 } } : State).now ∧ s.now < 0 + 40 * us) := by decide +kernel
theorem witness_CapDutyInRange :
    let s := (({ tUp with clk := { time := 10 * ms } } : State).enableRail 0)
    let at' := fun (d top mw : Nat) (l : List (Nat × Nat)) =>
      ({ s with pwr := { s.pwr with capDuty := d, slowTop := top, avsMv := mw, samples := l } } : State)
    let read := fun (s : State) (mA : Nat) => tStep { s with pending := [.avsRead ⟨mA, true⟩] }
    let turn := fun (s : State) => tStep { s with pending := [.powerCapTick] }
    s.pwr.aon = true ∧ s.pwr.enables.getLsbD 0 = true ∧
    (∀ d ∈ [1, 16], let t := at' d 16 1000 []
      1 ≤ t.pwr.capDuty ∧ t.pwr.capDuty ≤ t.pwr.slowTop ∧ t.pwr.slowTop ≤ 16 ∧
      t.peakW * 1000000 < ({ t with pwr := { t.pwr with coreMa := 1200000 } } : State).power) ∧
    read (at' 8 16 1000 []) 100000 (fun t => t.pwr.capDuty == 9) = true ∧
    read (at' 8 8 1000 []) 100000 (fun t => t.pwr.capDuty == 8) = true ∧
    turn (at' 8 16 0 [(10 * ms, 10 ^ 9)]) (fun t => t.pwr.capDuty == 7 && t.pwr.slowTop == 15) = true ∧
    turn (at' 8 12 0 [(10 * ms, 10 ^ 8)]) (fun t => t.pwr.capDuty == 9 && t.pwr.slowTop == 13) = true ∧
    turn (at' 8 16 0 []) (fun t => t.pwr.capDuty == 8) = true := by decide +kernel

/-! ### Further clauses of the statements: what each asks of a state, met -/

theorem witness_QueueAndMemoryForm_memory : Memory.wf tUp.mem = true ∧ Memory.wf tPartner.mem = true := by decide +kernel
theorem witness_FolioCommands_refused :
    ((tFol .idle).openCheck 1).1 ≠ 0 ∧ ((tFol .idle).ent 2).st ≠ .idle ∧ ((tFol .idle).ent 2).st ≠ .ready ∧
    ((tFol .idle).ent 2).st ≠ .active ∧ (tFol .idle).sramWords (dirAddr 2) 16 = [] ∧
    (let s := (tFol .idle).put R.FOL_ARG0_hoop 1
     Permit s .p2 folCmdAddr ∧ (s.hoopsFor (s.ent 1).binder).contains (s.fld R.FOL_ARG0_hoop % 16) = false) := by decide +kernel
theorem witness_FolioEventsTakeEffect_move :
    let s : State := { tFol .idle with folCmd := some (.moving 1 0) }
    s.mainOn = true ∧ (s.ent 1).st = .idle ∧ s.sramWords (dirAddr 1) 16 = [] ∧ s.folCmd = some (.moving 1 0) := by decide +kernel
theorem witness_SectionsProgress_pick :
    let s : State := { (tFol .ready).put R.TOILE_LEASE_fenced 0 with clk := { time := 20000 } }
    s.mainOn = true ∧ s.forming = true ∧ s.hoopOn 0 = true ∧ s.bit R.HOOP_MAINT_drain 0 = false ∧ (s.hoop 0).ucode = false ∧
    s.sect 0 1 = none ∧ s.readyOn 0 = [1] ∧ s.sramWords (dirAddr 1) 16 = [] := by decide +kernel
/-- Core 0 in its section with a token that is not allowed in s3 and 1 in s4. -/
def tEmits : State := tHeld.updCore 0 (fun k => (k.setS 3 0xFFFFF).setS 4 1)
/-- That core with 64 records in the section's member. -/
def tFull : State := tEmits.updSect 0 1 (fun k => k.updMember 0 (fun x => { x with recs := List.replicate 64 0 }))
theorem witness_SectionInstructions_bounds :
    Takes tEmits 0 (word clsST 1 0) (zbits 42 42 ||| zbits 41 0) ∧ (tEmits.core 0).sect.isSome = true ∧
    Takes tEmits 0 (word clsST 2 (tOps 4 0 0 0 0)) (zbits 28 0) ∧ Takes tEmits 0 (word clsST 2 (tOps 0 4 0 0 0)) (zbits 28 0) ∧
    Takes tEmits 0 (word clsST 2 (tOps 0 0 3 0 0)) (zbits 28 0) ∧ Takes tEmits 0 (word clsST 3 (tOps 0 4 0 0 0)) (zbits 51 47 ||| zbits 41 0) ∧
    (tSection .running).members.length = 1 ∧ (tEmits.bpar 5).frames = 1 ∧ (tEmits.sreg 0 4).toNat = 1 ∧ (tEmits.sreg 0 3).toNat % 2 ^ 20 = 0xFFFFF ∧
    Takes tFull 0 (word clsST 2 (tOps 0 0 4 0 0)) (zbits 28 0) ∧ (tFull.sreg 0 4).toNat % 2 ^ 20 ≠ 0xFFFFF := by decide +kernel
theorem witness_SectionInstructions_full :
    ((tFull.sect 0 1).bind (fun k => k.members[0]?)).any (fun x => x.recs.length == 64) = true := by decide +kernel
theorem witness_ScalarBranches_jump :
    (let s := tRegs (BitVec.ofNat 64 (2 ^ 52)) 0
     Takes s 0 (word clsSC 0x31 (tOps 1 0 0 0 0)) (zI ||| zImm) ∧ 2 ^ 52 ≤ (s.sreg 0 1).toNat) ∧
    (let s := tRegs 0xFFFFFFFFFFFFC 0
     Takes s 0 (word clsSC 0x31 (tOps 1 0 0 0 0)) (zI ||| zImm) ∧ (s.sreg 0 1).toNat < 2 ^ 52 ∧ (s.sreg 0 1).toNat % 8 ≠ 0) := by decide +kernel
theorem witness_Descriptors_bounds :
    ∀ off ∈ [4, 8, 264, 272, 512],
      let s := tSet tPlain 1 off
      let o := tOps 3 0 1 0 0
      (∀ op ∈ [8, 9, 10, 11], Takes s 0 (word clsDM op o) (zTB ||| zbits 36 0)) ∧
      tOk (evalT 0 (tOf (fldB o)) 1 false) s (fun t u => (u.sreg 0 (fldC o)).toNat == off && t.d.extent == 512) = true ∧
      tOk (evalT 0 (tOf (fldB o)) 1 true) s (fun t u => (u.sreg 0 (fldC o)).toNat == off && t.d.extent == 512 && u == s &&
        tOk (checkAlloc 0 t 1) u (fun _ v => v == u)) = true := by decide +kernel
theorem witness_Transactions_forward :
    let hd : TxnHeader := { typ := 1, cls := 0, dest := 2, src := 3, seq := 0, hops := 7, len := 0, offset := 0, sub := 0, tag := 0, opa := 0, opb := 0 }
    hd.hops = 7 ∧ hd.dest.toNat ≠ tFab.devnum ∧ hd.dest.toNat ≠ ownDev ∧
    (let s := tFab.put R.FLNK_STAT_state 0 0
     s.pickLink 2 0 = none ∧ s.mainOn = true) := by decide +kernel
theorem witness_LiningAtPartner_results :
    let s := tShadow.setSh 0 { tShadow.sh 0 with stale := true }
    tShadow.readShadows.shadowOf 2 9 = some 0 ∧ tShadow.readShadows.shadowOf 2 8 = none ∧
    (tShadow.readShadows.sh 0).lastSeq = 7 ∧ (tShadow.readShadows.sh 0).stale = false ∧
    s.readShadows.shadowOf 2 9 = some 0 ∧ (s.readShadows.sh 0).stale = true ∧ (8 : BitVec 32).toNat = ((s.readShadows.sh 0).lastSeq + 1) % 2 ^ 32 ∧
    (let st : StampEntry := { time := 0, first := 0, count := 0, invalid := false, resetMark := true, slip := false, gap := false }
     st.count = 0 ∧ st.resetMark = true ∧ { st with count := 1 }.count ≠ 0) := by decide +kernel
theorem witness_Leases_records :
    let s := tMember.setQrec 2 { epoch := 4, revoked := false, valid := true, expiry := 95000000 }
    ((s.readQrec 2).qrec 2).valid = true ∧ ((s.readQrec 2).qrec 2).epoch = 4 ∧ ((s.readQrec 2).qrec 2).revoked = false ∧
    (s.readQrec 2).now < ((s.readQrec 2).qrec 2).expiry + 10 * ms ∧ ((s.readQrec 3).qrec 3).valid = false ∧
    (let t := tMember.setQrec 2 { epoch := 4, revoked := true, valid := true, expiry := 1000000 }
     ((t.readQrec 2).qrec 2).revoked = true ∧ ((t.readQrec 2).qrec 2).expiry + 10 * ms ≤ (t.readQrec 2).now ∧ (2 : BitVec 32).toNat ≠ ((t.readQrec 2).qrec 2).epoch) := by
  decide +kernel
/-- The audio device with every port ready. -/
def tReadyPorts : State := tAud.put R.COLO_READY0_ready 0xFFFF00
theorem witness_PortStartStop_ready :
    tAud.sapUsable 0 = false ∧ (tAud.fld R.COLO_READY0_ready).testBit (8 + 0) = false ∧
    (let u := ((tReadyPorts.put R.AUD_GRP_STAT_state 2 0).sapCtrl 1 1)
     u.startErr 1 = 0 ∧ u.grpState (u.grpOf 1) = 2 ∧ u.slave 1 = true ∧ u.sapUsable 1 = true) ∧
    (let s := ((tReadyPorts.put R.SAP_STAT_pending 1 0).put R.AUD_GRP_STAT_state 1 0).put R.SAP_LEAD_clk_lead 8 0
     (s.fld R.COLO_READY0_ready).testBit (8 + 0) = true ∧ s.bit R.SAP_STAT_pending 0 = true ∧ s.slave 0 = false ∧
     s.grpState (s.grpOf 0) = 1 ∧ s.fld R.SAP_LEAD_clk_lead 0 ≠ 0 ∧
     (s.agrp (s.grpOf 0)).start ≤ s.now + s.framesNs (s.grpOf 0) (s.fld R.SAP_LEAD_clk_lead 0)) := by decide +kernel
theorem witness_AudioReception_ready :
    ∀ x ∈ [2, 4, 5], let s := tReadyPorts.setSap 1 x
      let fr : PortFrame := { port := 1, sync := [false, true, false], lines := [[], [], [], []], iec := none }
      s.mainOn = true ∧ s.slave 1 = true ∧ (s.fld R.COLO_READY0_ready).testBit (8 + 1) = true ∧ s.sapState 1 = x ∧
      (s.capture 1 fr).2.isSome = true ∧ ((s.capture 1 fr).1.csCollect 1 fr).sapState 1 = x ∧
      (tAud.fld R.COLO_READY0_ready).testBit (8 + 1) = false := by decide +kernel
theorem witness_HelloRoutesAndTime_state :
    let s := tFab.put R.FLNK_STAT_state 2 5
    s.mainOn = true ∧ s.linkState 5 = 2 ∧ (∀ m ∈ [(1, 2), (0, 0), (5, 5)],
      let x : TimeMsg := { t1 := 0, t2 := BitVec.ofNat 64 m.1, t3 := BitVec.ofNat 64 m.2, t4 := 0, rootPrio := 0, root := 0, hops := 0 }
      (x.t2 = 0 ∧ x.t3 = 0) ∨ (x.t2 ≠ 0 ∨ x.t3 ≠ 0)) ∧ (s.put R.FLNK_STAT_state 1 5).linkState 5 = 1 ∧ s.parentLink ≠ some 5 := by decide +kernel
theorem witness_TimeTrimAndBoardLinks_lock :
    let s := tUp.put R.TOILE_TIME_CFG_root_ok 1
    s.bit R.TOILE_TIME_CFG_root_ok = true ∧ s.bit R.ETH_PTP_STAT_lock 0 = false ∧ s.bit R.ETH_PTP_STAT_lock 1 = false ∧ s.timeOwn = true ∧
    (∀ e ∈ [0, 1], (s.put R.ETH_PTP_STAT_lock 1 e).bit R.ETH_PTP_STAT_lock e = true) ∧ tUp.bit R.TOILE_TIME_CFG_root_ok = false := by decide +kernel
theorem witness_UnsignedRequests_times :
    (let s : State := { tMgmt with pwr := { tMgmt.pwr with up := 60000 * ms } }
     s.mgmtOn true = true ∧ s.colo.chalAt + 60000 * ms ≤ s.pwr.up) ∧ tMgmt.pwr.up < tMgmt.colo.chalAt + 60000 * ms ∧
    (∀ r ∈ [0, 1, 2], ({ tMgmt with att := some { buf := 0, dat := [], result := r } } : State).att.any (fun x => x.result == r) = true) ∧
    (let s : State := { tMgmt with pwr := { tMgmt.pwr with mainOn := false } }
     s.mainOn = false ∧ s.pwr.aon = true ∧ Permit s .p1 (R.SEC_ATT_CMD_op.addr 0 0)) ∧
    (let s : State := { (tMgmt.put R.SEC_ATT_STAT_busy 1) with hbmErr := [(0, .uncorr)] }
     (s.hbmRead 0 32).2 = none) := by decide +kernel
theorem witness_SignedRequests_refused :
    let q : SignedReq := { tReq with sig := 2 }
    tFlash.mgmtOn true = true ∧ q.chal = tFlash.colo.chal ∧
    (∀ x ∈ [(0x20, []), (0x21, toLE 1 1 ++ toLE 4 0x1000 ++ [(0x55 : Byte)]), (0x22, []), (0x23, []), (0x40, tToken)],
      tFlash.reqSigned x.1 x.2 q = false) ∧
    tFlash.reqSigned 0x11 (toLE 8 0xF000200000 ++ [0#64].flatMap (fun v => toLE 8 v.toNat)) q = false ∧
    tFlash.otherSlot = 1 ∧ (∀ x ∈ [(0, 0x1000), (1, identityAt)],
      tFlash.reqSigned 0x21 (toLE 1 x.1 ++ toLE 4 x.2 ++ [0x55]) tReq = true ∧ (x.1 ≠ tFlash.otherSlot ∨ identityAt < x.2 + 1)) ∧
    tFlash.reqSigned 0x21 (toLE 1 1 ++ toLE 4 (identityAt - 1) ++ [0x55]) tReq = true ∧ identityAt - 1 + 1 ≤ identityAt := by decide +kernel
theorem witness_TestPort_cells :
    (tJtag.enableRail 2).cellOn (.bclk 0) = true ∧ State.reset.cellOn (.bclk 0) = false ∧ tUp.bit R.SEC_DEBUG_unlocked = false := by decide +kernel
theorem witness_PowerStates_rails :
    tUp.pwr.enables.getLsbD 7 = false ∧ ((tUp.put R.PWR_STAT_state 4).enableRail 7).pwr.enables.getLsbD 7 = true ∧ tUp.pwr.aon = true := by
  decide +kernel

/-! ### Well-formedness: each check refuses a term -/

theorem illformed_widths_and_lines :
    (Instr.regWrite .p0 0xF000200000 24 0).wellFormed = false ∧ (Instr.regWrite .p0 0xF000200000 32 0).wellFormed = true ∧
    (Instr.peerRead 2 0 0 0 63).wellFormed = false ∧ (Instr.peerRead 2 0 0 0 4160).wellFormed = false ∧
    (Instr.peerRead 2 0 0 0 4096).wellFormed = true ∧ (Instr.peerWrite 2 0 0 0 []).wellFormed = false ∧
    (Instr.completion 2 (.reply ⟨0, 0⟩ (.done [0] 0))).wellFormed = false ∧ (Instr.completion 2 (.reply ⟨0, 0⟩ (.done [] 7))).wellFormed = true ∧
    (Instr.readLeaseExpiry 0 2 (2 ^ 28)).wellFormed = false ∧ (Instr.flitReceived 0 0 0 16 0).wellFormed = false := by decide +kernel
theorem illformed_audio_and_frames :
    (Instr.groupFrame 0 [⟨3, [], [], none⟩, ⟨3, [], [], none⟩]).wellFormed = false ∧
    (Instr.moduleIdentityRead 7 true (List.replicate 513 0)).wellFormed = false ∧
    (Instr.frameReceived 0 ⟨List.replicate 16385 0, true⟩).wellFormed = false ∧
    (Instr.frameTransmit 0 ⟨List.replicate 16385 0, false⟩).wellFormed = false ∧
    (Instr.i2cTransferEnd 0 .ok (List.replicate 64 0)).wellFormed = false := by decide +kernel
theorem illformed_management :
    (Instr.attest 0 (List.replicate 1025 0)).wellFormed = false ∧ (Instr.regRead tReq 0 65536).wellFormed = false ∧
    (Instr.mgmtRegWrite tReq 0 (List.replicate 128 0)).wellFormed = false ∧ (Instr.slotWrite tReq ⟨0, 2 ^ 32⟩ []).wellFormed = false ∧
    (Instr.claim 0 (List.replicate 1025 0)).wellFormed = false ∧ (Instr.jtagUnlock tReq (List.replicate 1025 0)).wellFormed = false ∧
    (Instr.debugAccess (.readMem 0xFFFFFFFFFF 2)).wellFormed = false ∧ (Instr.debugAccess (.writeMem 0xFFFFFFFFFF [0, 0])).wellFormed = false ∧
    (Instr.memoryWrite .p0 0xFFFFFFFFFF [0, 0]).wellFormed = false := by decide +kernel
theorem illformed_power :
    (Instr.pmbusPoll [⟨1, 0, 0⟩, ⟨1, 0, 0⟩]).wellFormed = false ∧ (Instr.pmbAlert [⟨1, 0⟩, ⟨1, 0⟩]).wellFormed = false ∧
    (Instr.thermalSample (List.replicate 48 25)).wellFormed = false ∧ (Instr.thermalSample (List.replicate 49 25)).wellFormed = true := by
  decide +kernel

/-! ### Values that the spec gives -/

/-- The commands in order, one step each. -/
def tRun (s : State) (l : List Instr) : State := l.foldl (fun (s : State) i => match step { s with pending := [i] } with | .next t => t | _ => s) s
/-- A scalar instruction on s1 = a and s2 = b leaves v in s3. -/
def tScal (i : BitVec 52 → Instr) (a b : W64) (low : Nat) (v : W64) : Bool :=
  ((tRun (tRegs a b) [i (tOps 3 1 2 0 low)]).core 0).getS 3 == v

/-- R109: 64-bit wrapping arithmetic, signed and unsigned orders, shift counts modulo 64. -/
theorem test_scalar_arithmetic :
    tScal (.scSub 0) 1 2 0 0xFFFFFFFFFFFFFFFF ∧ tScal (.scMul 0) 0x100000001 0x100000001 0 0x200000001 ∧
    tScal (.scMin 0) 1 0x8000000000000000 0 0x8000000000000000 ∧ tScal (.scMinu 0) 1 0x8000000000000000 0 1 ∧
    tScal (.scSlt 0) 0x8000000000000000 1 0 1 ∧ tScal (.scSltu 0) 0x8000000000000000 1 0 0 ∧
    tScal (.scShl 0) 3 65 0 6 ∧ tScal (.scSra 0) 0x8000000000000000 4 0 0xF800000000000000 := by decide +kernel
/-- R109: immediates are sign extended, but not in ANDI and ORI; LIH keeps the low word. -/
theorem test_scalar_immediates :
    ((tRun (tRegs 5 0) [.scAddi 0 (tOps 3 1 0 0 0xFFFFFFFF)]).core 0).getS 3 = 4 ∧
    ((tRun (tRegs 0xFFFFFFFFFFFFFFFF 0) [.scAndi 0 (tOps 3 1 0 0 0xFFFFFFFF)]).core 0).getS 3 = 0xFFFFFFFF ∧
    ((tRun (tRegs 5 0) [.scLi 0 (tOps 1 0 0 0 0x80000000)]).core 0).getS 1 = 0xFFFFFFFF80000000 ∧
    ((tRun (tRegs 0x12345678 0) [.scLih 0 (tOps 1 0 0 0 0xABCD)]).core 0).getS 1 = 0xABCD12345678 ∧
    ((tRun (tRegs 5 6) [.scAdd 0 (tOps 0 1 2 0 0)]).core 0).getS 0 = 0 := by decide +kernel
/-- R109: branch targets count words of 8 bytes from the instruction. -/
theorem test_branch :
    ((tRun (tRegs 5 5) [.scBeq 0 (tOps 1 2 0 0 0xFFFFFFFE)]).core 0).pc = BitVec.ofNat 52 (0xFFF * 2 ^ 40) - 16 ∧
    ((tRun (tRegs 5 6) [.scBeq 0 (tOps 1 2 0 0 0xFFFFFFFE)]).core 0).pc = BitVec.ofNat 52 (0xFFF * 2 ^ 40) + 8 := by decide +kernel
/-- The instruction words of the worked examples of chapters 5 to 8: class, operation and operand fields. -/
theorem test_words :
    word clsMM 1 (tOps 8 12 16 3 0) = 0x2014320060000000 ∧ word clsRC 2 (tOps 24 12 20 9 0) = 0x402C328120000000 ∧
    word clsAT 2 (tOps 0 16 28 9 0) = 0x5020438120000000 ∧ word clsAT 1 (tOps 24 20 28 9 0) = 0x501C538120000000 ∧
    word clsVX 0x20 (tOps 16 8 28 0 (9 * 2 ^ 14)) = 0x3208238000024000 := by decide +kernel

/-- Site 17 of the worked example of chapter 3. -/
def tSite : Site := { seedMax := 0x4800, floor := 4, fmt := 3, z := 0, fixed := false }
/-- Its activations 1.0, -2.3 and 0.06 as near as BF16 holds them, and 20.0. -/
def tActs : List Dy := [⟨false, 1, 0, false⟩, ⟨true, 147, -6, false⟩, ⟨false, 123, -11, false⟩, ⟨false, 20, 0, false⟩]
/-- R84 to R87: the scales 0.125 and 1,291 × 2^-13, the codes of both passes, the commit to 20.0 and then 18.0. -/
theorem test_quantise :
    ((tSite.scale 0x14BF0 false).run {}).1 = 0x3000 ∧ ((tSite.scale 0x14D00 false).run {}).1 = 0x310B ∧
    ((tSite.row 0x3000 tActs).run {}).1 = [(8, false), (238, false), (0, false), (127, true)] ∧
    ((tSite.row 0x310B tActs).run {}).1 = [(6, false), (241, false), (0, false), (127, false)] ∧
    ((runMax 0 tActs).run {}).1 = 0x4D00 ∧
    ((smoothEntry 0x14BF0 0x4D00 false 3).run {}).1 = 0x14D00 ∧ ((smoothEntry 0x14D00 0x4400 false 3).run {}).1 = 0x14C80 := by
  decide +kernel
/-- R77: the contribution of the group is -3,740,027 × 2^-18. -/
theorem test_group_product :
    (((addGroup false { ints := #[6, -15, 0, 127], flts := #[], scale := ⟨false, 1291, -13, false⟩ } [] 0 0
      { k0 := 0, g := 0, vals := [.int 3, .int (-2), .int 7, .tip ⟨true, 23, -5, false⟩], scale := ⟨false, 1, -6, false⟩ } Dy.zero).run {}).1).at (-20)
      = -3740027 * 4 := by decide +kernel
/-- R162: the elements that the worked example of chapter 6 combines. -/
theorem test_scan_elements :
    (let x := ((lcomb (⟨false, 1, -1, false⟩, ⟨false, 2, 0, false⟩) (⟨false, 3, -2, false⟩, ⟨false, 1, 0, false⟩)).run {}).1
     x.1.at (-25) = 3 * 2 ^ 22 ∧ x.2.at (-22) = 5 * 2 ^ 21) ∧
    (let x := ((lcomb (⟨false, 3, -2, false⟩, ⟨false, 1, -2, false⟩) (Dy.zero, ⟨true, 1, -1, false⟩)).run {}).1
     x.1.m = 0 ∧ x.2.at (-26) = -2 ^ 23) := by decide +kernel
/-- R192, R193, R196: the leaf, the mask and the walk of the worked example of chapter 8. -/
theorem test_window :
    (let g : Geo := { hkv := 1, dh := 64, fmt := 1, gs := 32 }
     g.V0 = 2112 ∧ g.S0 = 4160 ∧ g.LB = 4864) ∧
    (let m : Member := { folio := 1, seq := 0, first := 0, ready := 0, deadline := 0, pos0 := 16800, resetWord := 4 }
     (List.range 4).map (loOf m 256 16500) = [16545, 16546, 16802, 16802] ∧ blocksOf m 256 16500 4 = [258, 259, 260, 261, 262]) := by
  decide +kernel
/-- R290, R291, R299, Table 11-7: the portal array's group runs at 48 kHz and its port starts. -/
theorem test_portal_array :
    (let t := tRun tUp [.regWrite .p2 (BitVec.ofNat 64 (R.AUD_GRP_CFG_family.addr 1 0)) 64 0x0A17700000002000,
       .regWrite .p2 (BitVec.ofNat 64 (R.SAP_FMT_mode.addr 3 0)) 64 0x03E00004, .regWrite .p2 (BitVec.ofNat 64 (R.SAP_CLK_master.addr 3 0)) 64 0x101,
       .regWrite .p2 (BitVec.ofNat 64 (R.SAP_LEAD_clk_lead.addr 3 0)) 64 0x00300600,
       .regWrite .p2 (BitVec.ofNat 64 (R.SAP_CTRL_start.addr 3 0)) 64 0x49]
     t.bit R.SAP_STAT_pending 3 = true ∧ t.fld R.SAP_STAT_err 3 = 0 ∧ t.fld R.SAP_FMT_mode 3 = 4 ∧
     t.fld R.AUD_GRP_CFG_zc_timeout_ms 1 = 20 ∧ t.rate 1 = 48000 ∧ t.fld R.SAP_LEAD_clk_lead 3 = 1536) := by decide +kernel
/-- R363: the IDCODE. -/
theorem test_idcode : (tRun tUp [.idcode]).jtag.out.zipIdx.foldl (fun n p => n + p.1.toNat * 2 ^ p.2) 0 = 0x14620B67 := by decide +kernel
/-- Table 15-3, step 1: RUN in STANDBY raises the enable of VDD_CORE at 0.75 V. -/
theorem test_run_starts : (let t := tRun tUp [.run .p1]
    t.pwrState = 2 ∧ t.pwr.enables = 1 ∧ t.pwr.awaits = some 0 ∧ t.pwr.avsMv = 750) := by decide +kernel

end Sys2Proof.Machine
end

section
/-! PROOFS. The fields of a register: where they lie, what a write leaves in them, and what a read shows (R5, R7). -/

open Sys2Proof Sys2Proof.Machine
-- One declaration after the other, as in the tests: the threads of one compile share its memory limit.
set_option Elab.async false

namespace Sys2Proof.Machine

/-! ### Where the fields of a register lie -/

/-- A family that has a register at an address has it at its base plus the strides. -/
theorem Fam.instAt_addr {f : Fam} {a i j : Nat} (h : f.instAt a = some (i, j)) : a = f.base + f.s1 * i + f.s2 * j := by
  unfold Fam.instAt at h
  extract_lets o i' r j' q at h
  have hr : o = f.s1 * i' + r := by
    simp only [i', r]; split
    · simp [*]
    · exact (Nat.div_add_mod o f.s1).symm
  have hq : r = f.s2 * j' + q := by
    simp only [j', q]; split
    · simp [*]
    · exact (Nat.div_add_mod r f.s2).symm
  split at h
  · cases h
  · split at h
    · rename_i hlt hin
      obtain ⟨-, -, hq0⟩ := hin
      obtain ⟨rfl, rfl⟩ := Prod.mk.inj (Option.some.inj h)
      omega
    · cases h

/-- The search through the families finds one of them. -/
theorem famAtIn_sound {l : List Fam} {a i j : Nat} {f : Fam} (h : famAtIn l a = some (f, i, j)) :
    f ∈ l ∧ f.instAt a = some (i, j) := by
  induction l with
  | nil => cases h
  | cons g l ih =>
    unfold famAtIn at h
    cases hg : g.instAt a with
    | none =>
      rw [hg] at h
      obtain ⟨hf, ha⟩ := ih h
      exact ⟨List.mem_cons_of_mem g hf, ha⟩
    | some p =>
      rw [hg] at h
      obtain ⟨rfl, rfl⟩ : g = f ∧ p = (i, j) := by simpa using h
      exact ⟨List.mem_cons_self, hg⟩

/-- A field of the register at `a` that lies in its word and whose reset value fits. -/
def Fld.Sits (x : Fld) (a i j : Nat) : Prop := x.addr i j = a ∧ x.lo + x.width ≤ 64 ∧ x.rst < 2 ^ x.width

/-- Two fields of one word that share no bit. -/
def Fld.Apart (x y : Fld) : Prop := x.lo + x.width ≤ y.lo ∨ y.lo + y.width ≤ x.lo

theorem Fld.apart_symm : Std.Symm Fld.Apart := ⟨fun _ _ => Or.symm⟩

theorem Fam.formed_apart {f : Fam} (h : f.formed = true) : f.flds.Pairwise Fld.Apart := by
  rw [List.pairwise_iff_getElem]
  intro m n hm hn hmn
  have h2 := (Bool.and_eq_true_iff.1 h).2
  simp only [List.all_eq_true] at h2
  have := h2 (f.flds[m], m) (by simp [List.mem_zipIdx_iff_getElem?]) (f.flds[n], n) (by simp [List.mem_zipIdx_iff_getElem?])
  simp only [Bool.or_eq_true, beq_iff_eq, decide_eq_true_eq] at this
  unfold Fld.Apart
  omega

theorem Fam.formed_sits {f : Fam} (h : f.formed = true) {x : Fld} (hx : x ∈ f.flds) (i j : Nat) :
    x.Sits (f.base + f.s1 * i + f.s2 * j) i j := by
  have h1 := List.all_eq_true.1 (Bool.and_eq_true_iff.1 h).1 x hx
  simp only [Bool.and_eq_true, beq_iff_eq, decide_eq_true_eq] at h1
  obtain ⟨⟨⟨⟨⟨hb, h1⟩, h2⟩, hw⟩, hr⟩, -⟩ := h1
  exact ⟨by rw [Fld.addr, hb, h1, h2], hw, hr⟩

/-- The fields of the register at an address sit there and are apart, by the well-formed register map. -/
theorem famAt_laid {a i j : Nat} {f : Fam} (h : famAt a = some (f, i, j)) :
    (∀ x ∈ f.flds, x.Sits a i j) ∧ f.flds.Pairwise Fld.Apart ∧ f.base + f.s1 * i + f.s2 * j = a := by
  obtain ⟨hf, ha⟩ := famAtIn_sound h
  have hform := List.all_eq_true.1 fams_formed f hf
  rw [Fam.instAt_addr ha]
  exact ⟨fun x hx => Fam.formed_sits hform hx i j, Fam.formed_apart hform, rfl⟩

/-! ### Writing fields -/

/-- `putBits` replaces the bits of its range and no other. -/
theorem getLsbD_putBits (w : W64) (lo width v k : Nat) (hk : k < 64) :
    (putBits w lo width v).getLsbD k = if lo ≤ k ∧ k < lo + width then v.testBit (k - lo) else w.getLsbD k := by
  have hkl : k - lo < 64 := by omega
  have hin : k - lo < width ∧ lo ≤ k ↔ lo ≤ k ∧ k < lo + width := by omega
  simp only [putBits, BitVec.getLsbD_or, BitVec.getLsbD_and, BitVec.getLsbD_not, BitVec.getLsbD_shiftLeft,
    BitVec.getLsbD_ofNat, Nat.testBit_mod_two_pow, Nat.testBit_two_pow_sub_one, ← hin]
  by_cases hlo : lo ≤ k
  · by_cases hw : k - lo < width <;> simp [hk, hkl, hlo, hw, Nat.not_lt.2 hlo]
  · simp [hk, hlo, Nat.lt_of_not_le hlo]

/-- A field's value bit by bit: the difference kept in `ctl` against the reset value. -/
theorem State.testBit_fld (s : State) {x : Fld} (hr : x.rst < 2 ^ x.width) (i j k : Nat) :
    (s.fld x i j).testBit k =
      (decide (k < x.width) && ((SMap.get 0 s.ctl (x.addr i j)).getLsbD (x.lo + k) ^^ x.rst.testBit k)) := by
  by_cases hk : k < x.width
  · simp [State.fld, hk, Nat.testBit_mod_two_pow, Nat.testBit_shiftRight, BitVec.testBit_toNat]
  · have h0 : x.rst.testBit k = false :=
      Nat.testBit_lt_two_pow (hr.trans_le (Nat.pow_le_pow_right (by norm_num) (Nat.le_of_not_lt hk)))
    simp [State.fld, hk, h0, Nat.testBit_mod_two_pow]

theorem State.fld_lt (s : State) {x : Fld} (hr : x.rst < 2 ^ x.width) (i j : Nat) : s.fld x i j < 2 ^ x.width :=
  Nat.xor_lt_two_pow (Nat.mod_lt _ (by positivity)) hr

/-- A write of one field leaves the fields apart from it. -/
theorem State.fld_put_apart (s : State) {x y : Fld} {a i j : Nat} (hx : x.Sits a i j) (hy : y.Sits a i j) (h : y.Apart x)
    (v : Nat) : (s.put y v i j).fld x i j = s.fld x i j := by
  obtain ⟨hxa, hxw, hxr⟩ := hx
  apply Nat.eq_of_testBit_eq
  intro k
  rw [State.testBit_fld _ hxr, State.testBit_fld _ hxr]
  by_cases hk : k < x.width
  · have hout : ¬ (y.lo ≤ x.lo + k ∧ x.lo + k < y.lo + y.width) := by unfold Fld.Apart at h; omega
    have same : x.addr i j = y.addr i j := hxa.trans hy.1.symm
    rw [State.put, same, SMap.get_upd_self, getLsbD_putBits _ _ _ _ _ (by omega), if_neg hout]
  · simp [hk]

theorem Fld.written_lt (x : Fld) {old new : Nat} (ho : old < 2 ^ x.width) (hn : new < 2 ^ x.width) :
    x.written old new < 2 ^ x.width := by
  unfold Fld.written
  split
  · exact hn
  · exact ho
  · exact ho
  · exact Nat.and_le_left.trans_lt ho
  · split
    · positivity
    · exact ho

/-- A field written holds what its type gives of its old and its written value (Table 0-4). -/
theorem State.fld_writeFld (s : State) {x : Fld} {a i j : Nat} (hx : x.Sits a i j) (v : W64) :
    (s.writeFld x v i j).fld x i j = x.written (s.fld x i j) (bits v.toNat x.lo x.width) := by
  obtain ⟨-, hw, hr⟩ := hx
  have hv : v.toNat >>> x.lo % 2 ^ x.width = bits v.toNat x.lo x.width := by rw [bits, Nat.shiftRight_eq_div_pow]
  rw [State.writeFld, State.fld_put _ _ _ _ _ hw hr, hv]
  exact Nat.mod_eq_of_lt (x.written_lt (s.fld_lt hr i j) (Nat.mod_lt _ (by positivity)))

/-- The fields of a list written one after the other: what `regStore` does with the fields of its register. -/
def State.writeFlds (s : State) (l : List Fld) (v : W64) (i j : Nat) : State :=
  l.foldl (fun s x => s.writeFld x v i j) s

theorem State.regStore_eq {a i j : Nat} {f : Fam} (h : famAt a = some (f, i, j)) (s : State) (v : W64) :
    s.regStore a v = s.writeFlds f.flds v i j := by
  unfold State.regStore; rw [h]; rfl

theorem State.writeFlds_fld_apart {x : Fld} {a i j : Nat} (hx : x.Sits a i j) (v : W64) (l : List Fld) (s : State)
    (hs : ∀ y ∈ l, y.Sits a i j) (h : ∀ y ∈ l, x.Apart y) : (s.writeFlds l v i j).fld x i j = s.fld x i j := by
  induction l generalizing s with
  | nil => rfl
  | cons y l ih =>
    rw [List.forall_mem_cons] at hs h
    exact (ih (s.writeFld y v i j) hs.2 h.2).trans (s.fld_put_apart hx hs.1 (Fld.apart_symm.symm _ _ h.1) _)

/-- Each of several fields written holds its own value: those written before and after it are apart from it. -/
theorem State.writeFlds_fld {x : Fld} {a i j : Nat} (v : W64) (l : List Fld) (s : State)
    (hs : ∀ y ∈ l, y.Sits a i j) (h : l.Pairwise Fld.Apart) (hx : x ∈ l) :
    (s.writeFlds l v i j).fld x i j = x.written (s.fld x i j) (bits v.toNat x.lo x.width) := by
  induction l generalizing s with
  | nil => cases hx
  | cons y l ih =>
    rw [List.pairwise_cons] at h
    rw [List.forall_mem_cons] at hs
    rcases List.mem_cons.1 hx with rfl | hx
    · exact (State.writeFlds_fld_apart hs.1 v l _ hs.2 h.1).trans (s.fld_writeFld hs.1 v)
    · have kept : (s.writeFld y v i j).fld x i j = s.fld x i j := s.fld_put_apart (hs.2 x hx) hs.1 (h.1 x hx) _
      exact (ih (s.writeFld y v i j) hs.2 h.2 hx).trans (by rw [kept])

theorem State.writeFld_frame (s : State) (x : Fld) (v : W64) {i j b : Nat} (hb : b ≠ x.addr i j) :
    SMap.get 0 (s.writeFld x v i j).ctl b = SMap.get 0 s.ctl b := by
  rw [State.writeFld, State.put, SMap.get_upd_ne _ _ _ hb]

theorem State.writeFlds_frame {a i j b : Nat} (v : W64) (l : List Fld) (s : State) (hs : ∀ y ∈ l, y.Sits a i j)
    (hb : b ≠ a) :
    SMap.get 0 (s.writeFlds l v i j).ctl b = SMap.get 0 s.ctl b := by
  induction l generalizing s with
  | nil => rfl
  | cons y l ih =>
    rw [List.forall_mem_cons] at hs
    have hy : b ≠ y.addr i j := fun e => hb (e.trans hs.1.1)
    exact (ih (s.writeFld y v i j) hs.2).trans (s.writeFld_frame y v hy)

theorem State.writeFlds_ctl (v : W64) (i j : Nat) (l : List Fld) (s : State) :
    s.writeFlds l v i j = { s with ctl := (s.writeFlds l v i j).ctl } := by
  induction l generalizing s with
  | nil => rfl
  | cons y l ih => exact ih (s.writeFld y v i j)

/-! ### Reading a register -/

theorem Fld.getLsbD_readMask {x : Fld} (k : Nat) (hk : k < 64) :
    x.readMask.getLsbD k = (decide (x.kind ≠ .wo) && decide (x.lo ≤ k ∧ k < x.lo + x.width)) := by
  unfold Fld.readMask
  have hkl : k - x.lo < 64 := by omega
  have : k - x.lo < x.width ∧ x.lo ≤ k ↔ x.lo ≤ k ∧ k < x.lo + x.width := by omega
  by_cases hw : x.kind = .wo
  · simp [hw]
  · simp only [hw, if_false, BitVec.getLsbD_shiftLeft, BitVec.getLsbD_ofNat, Nat.testBit_two_pow_sub_one, ← this]
    by_cases hlo : x.lo ≤ k
    · simp [hk, hkl, hlo, hw, Nat.not_lt.2 hlo]
    · simp [hlo, Nat.lt_of_not_le hlo]

/-- The bits that a read of a register with these fields shows, on top of `m`. -/
def readMasks (l : List Fld) (m : W64) : W64 := l.foldl (fun m x => m ||| x.readMask) m

theorem getLsbD_readMasks (l : List Fld) (m : W64) (k : Nat) :
    (readMasks l m).getLsbD k = (m.getLsbD k || l.any (fun x => x.readMask.getLsbD k)) := by
  induction l generalizing m with
  | nil => simp [readMasks]
  | cons y l ih => exact (ih (m ||| y.readMask)).trans (by simp [Bool.or_assoc])

/-- The reset values of these fields put into a word (`Fam.rst`). -/
def rstWord (l : List Fld) (w : W64) : W64 := l.foldl (fun w x => putBits w x.lo x.width x.rst) w

theorem getLsbD_rstWord_outside (l : List Fld) (w : W64) {k : Nat} (hk : k < 64)
    (h : ∀ x ∈ l, k < x.lo ∨ x.lo + x.width ≤ k) : (rstWord l w).getLsbD k = w.getLsbD k := by
  induction l generalizing w with
  | nil => rfl
  | cons y l ih =>
    rw [List.forall_mem_cons] at h
    exact (ih (putBits w y.lo y.width y.rst) h.2).trans (by rw [getLsbD_putBits _ _ _ _ _ hk, if_neg (by omega)])

theorem getLsbD_rstWord (l : List Fld) (w : W64) {x : Fld} (hx : x ∈ l) (h : l.Pairwise Fld.Apart) {k : Nat}
    (hk : k < x.width) (hw : x.lo + x.width ≤ 64) : (rstWord l w).getLsbD (x.lo + k) = x.rst.testBit k := by
  induction l generalizing w with
  | nil => cases hx
  | cons y l ih =>
    rw [List.pairwise_cons] at h
    rcases List.mem_cons.1 hx with rfl | hx
    · have outside : ∀ y ∈ l, x.lo + k < y.lo ∨ y.lo + y.width ≤ x.lo + k := fun y hy => by
        have := h.1 y hy; unfold Fld.Apart at this; omega
      refine (getLsbD_rstWord_outside l (putBits w x.lo x.width x.rst) (by omega) outside).trans ?_
      rw [getLsbD_putBits _ _ _ _ _ (by omega), if_pos (by omega), Nat.add_sub_cancel_left]
    · exact ih (putBits w y.lo y.width y.rst) hx h.2

/-- While no Colophon restart holds values, a read is the register's word under the read masks of its fields. -/
theorem State.regRead_eq {a i j : Nat} {f : Fam} (h : famAt a = some (f, i, j)) {s : State} (hc : s.colo.shown = none) :
    s.regRead a = (SMap.get 0 s.ctl a ^^^ rstWord f.flds 0) &&& readMasks f.flds 0 := by
  obtain ⟨-, -, ha⟩ := famAt_laid h
  rw [State.regRead, h]
  simp only [State.shownWord, hc, State.word, ha]
  rfl

theorem readMasks_field {l : List Fld} (hl : l.Pairwise Fld.Apart) {x : Fld} (hx : x ∈ l) {k : Nat} (hk : k < x.width)
    (hw : x.lo + x.width ≤ 64) : (readMasks l 0).getLsbD (x.lo + k) = decide (x.kind ≠ .wo) := by
  rw [getLsbD_readMasks, Bool.eq_iff_iff]
  simp only [BitVec.ofNat_eq_ofNat, BitVec.getLsbD_zero, Bool.false_or, List.any_eq_true, decide_eq_true_eq]
  constructor
  · rintro ⟨y, hy, hm⟩
    rw [Fld.getLsbD_readMask _ (by omega), Bool.and_eq_true, decide_eq_true_eq, decide_eq_true_eq] at hm
    have : y = x := by
      by_contra hne
      have := Fld.apart_symm
      have := hl.forall hy hx hne
      unfold Fld.Apart at this; omega
    exact this ▸ hm.1
  · intro hk'
    exact ⟨x, hx, by rw [Fld.getLsbD_readMask _ (by omega)]; simp [hk', hk]⟩

theorem State.bits_regRead {a i j : Nat} {f : Fam} (h : famAt a = some (f, i, j)) {s : State} (hc : s.colo.shown = none)
    {x : Fld} (hx : x ∈ f.flds) :
    bits (s.regRead a).toNat x.lo x.width = if x.kind = .wo then 0 else s.fld x i j := by
  obtain ⟨hs, hl, -⟩ := famAt_laid h
  obtain ⟨ha, hw, hr⟩ := hs x hx
  apply Nat.eq_of_testBit_eq
  intro k
  by_cases hk : k < x.width
  · rw [bits, Nat.testBit_mod_two_pow, Nat.testBit_div_two_pow, Nat.add_comm, BitVec.testBit_toNat, State.regRead_eq h hc,
      BitVec.getLsbD_and, BitVec.getLsbD_xor, getLsbD_rstWord _ _ hx hl hk hw, readMasks_field hl hx hk hw]
    by_cases hwo : x.kind = .wo
    · simp [hwo]
    · simp [hwo, hk, State.testBit_fld _ hr, ha]
  · have hf : (s.fld x i j).testBit k = false := by simp [State.testBit_fld _ hr, hk]
    split <;> simp [bits, Nat.testBit_mod_two_pow, hk, hf]

theorem State.regRead_outside {a i j : Nat} {f : Fam} (h : famAt a = some (f, i, j)) {s : State} (hc : s.colo.shown = none)
    {k : Nat} (hk : ∀ x ∈ f.flds, k < x.lo ∨ x.lo + x.width ≤ k) : (s.regRead a).getLsbD k = false := by
  rw [State.regRead_eq h hc, BitVec.getLsbD_and, getLsbD_readMasks, Bool.and_eq_false_iff]
  refine .inr ?_
  simp only [BitVec.ofNat_eq_ofNat, BitVec.getLsbD_zero, Bool.false_or, List.any_eq_false]
  intro x hx
  by_cases hk64 : k < 64
  · have := hk x hx
    simp [Fld.getLsbD_readMask _ hk64]; omega
  · simp [BitVec.getLsbD_of_ge _ _ (Nat.le_of_not_lt hk64)]

/-- With nothing written every field holds its reset value. -/
theorem State.fld_unwritten {s : State} (h : s.ctl = []) (x : Fld) (i j : Nat) : s.fld x i j = x.rst := by
  simp [State.fld, h]

end Sys2Proof.Machine
end

section
/-! PROOFS. A register write is the command that its bits spell (R5, R37). -/

open Sys2Proof Sys2Proof.Machine
-- One declaration after the other, as in the tests: the threads of one compile share its memory limit.
set_option Elab.async false

namespace Sys2Proof.Machine

section
variable {p : Port} {v : W64} {a : Nat} {s : State}

/-- The frame applies the effect to the present state alone. -/
theorem regCmd_congr {f g : State → State} (h : f s = g s) : s.regCmd p a f = s.regCmd p a g := by
  simp only [State.regCmd, h]

/-- A write of a register that runs a command given at that register is the command: the write's frame is the command's own. -/
theorem regWrite_command {i : Instr} {eff : State → State} (hcmd : exec i s = .next (s.regCmd p a eff))
    (hw : s.writeReg p a v = s.ran (exec i)) (ha : a % 8 = 0 ∧ inControl a = true := by decide) :
    exec (.regWrite p (BitVec.ofNat 64 a) 64 v) s = exec i s := by
  obtain ⟨h8, hc⟩ := ha
  have hlt : a < 2 ^ 64 := by simp only [inControl, decide_eq_true_eq] at hc; omega
  have heff : s.writeReg p a v = s.regCmd p a eff := by rw [hw, State.ran, hcmd]
  rw [regWrite_frame hlt h8 hc, hcmd, regCmd_congr (f := (·.writeReg p a v)) (g := (·.regCmd p a eff)) heff, regCmd_regCmd]

/-- A permitted write of a register that the write leaves alone changes nothing. -/
theorem regWrite_ignored (hp : Permit s p a) (hw : s.writeReg p a v = s)
    (ha : a % 8 = 0 ∧ inControl a = true := by decide) : exec (.regWrite p (BitVec.ofNat 64 a) 64 v) s = .next s := by
  obtain ⟨h8, hc⟩ := ha
  have hlt : a < 2 ^ 64 := by simp only [inControl, decide_eq_true_eq] at hc; omega
  rw [regWrite_frame hlt h8 hc, regCmd_ok hp, hw, State.within_self]

end

/-! ### What the write of each command register runs -/

section
variable (s : State) (p : Port) (v : W64)

theorem writeReg_folCmd : s.writeReg p (R.FOL_CMD_op.addr 0 0) v = s.folWrite p v := by
  rw [State.writeReg, (by decide +kernel : famAt (R.FOL_CMD_op.addr 0 0) = some (R.FOL_CMD, 0, 0))]; rfl

theorem writeReg_bndCmd : s.writeReg p (R.FOL_BND_CMD_op.addr 0 0) v =
    if 1 ≤ bits v.toNat 0 4 ∧ bits v.toNat 0 4 ≤ 5 then
      s.bndOp p (bits v.toNat 0 4) (BitVec.ofNat 12 (bits v.toNat 4 12)) else s := by
  rw [State.writeReg, (by decide +kernel : famAt (R.FOL_BND_CMD_op.addr 0 0) = some (R.FOL_BND_CMD, 0, 0))]; rfl

theorem writeReg_toileCmd : s.writeReg p (R.TOILE_CMD_op.addr 0 0) v = s.toileWrite p v := by
  rw [State.writeReg, (by decide +kernel : famAt (R.TOILE_CMD_op.addr 0 0) = some (R.TOILE_CMD, 0, 0))]; rfl

theorem writeReg_toileXcmd : s.writeReg p (R.TOILE_XCMD_op.addr 0 0) v =
    if 1 ≤ bits v.toNat 0 4 ∧ bits v.toNat 0 4 ≤ 7 then
      s.xcmd p (bits v.toNat 0 4) (BitVec.ofNat 6 (bits v.toNat 4 6)) else s := by
  rw [State.writeReg, (by decide +kernel : famAt (R.TOILE_XCMD_op.addr 0 0) = some (R.TOILE_XCMD, 0, 0))]; rfl

theorem writeReg_ingressCmd : s.writeReg p (R.INGRESS_CMD_op.addr 0 0) v = s.ingressWrite p v := by
  rw [State.writeReg, (by decide +kernel : famAt (R.INGRESS_CMD_op.addr 0 0) = some (R.INGRESS_CMD, 0, 0))]; rfl

theorem writeReg_audBindCmd : s.writeReg p (R.AUD_BIND_CMD_op.addr 0 0) v = s.audBindWrite p v := by
  rw [State.writeReg, (by decide +kernel : famAt (R.AUD_BIND_CMD_op.addr 0 0) = some (R.AUD_BIND_CMD, 0, 0))]; rfl

theorem writeReg_attCmd :
    s.writeReg p (R.SEC_ATT_CMD_op.addr 0 0) v = s.writeE p R.SEC_ATT_CMD (R.SEC_ATT_CMD_op.addr 0 0) v := by
  rw [State.writeReg, (by decide +kernel : famAt (R.SEC_ATT_CMD_op.addr 0 0) = some (R.SEC_ATT_CMD, 0, 0))]; rfl

theorem writeReg_pwrCmd :
    s.writeReg p (R.PWR_CMD_op.addr 0 0) v = s.writeE p R.PWR_CMD (R.PWR_CMD_op.addr 0 0) v := by
  rw [State.writeReg, (by decide +kernel : famAt (R.PWR_CMD_op.addr 0 0) = some (R.PWR_CMD, 0, 0))]; rfl

theorem writeReg_hbmRecal :
    s.writeReg p (R.HBM_RECAL_pc.addr 0 0) v = s.ran (exec (.hbmRecal p (Fin.ofNat 32 (bits v.toNat 0 5)) (v.getLsbD 5))) := by
  rw [State.writeReg, (by decide +kernel : famAt (R.HBM_RECAL_pc.addr 0 0) = some (R.HBM_RECAL, 0, 0))]; rfl

theorem writeReg_ingressPush : s.writeReg p (R.INGRESS_PUSH0_folio.addr 0 0) v = s.ran (exec (.push p v)) := by
  rw [State.writeReg, (by decide +kernel : famAt (R.INGRESS_PUSH0_folio.addr 0 0) = some (R.INGRESS_PUSH0, 0, 0))]; rfl

theorem writeReg_ethTimeAdj : s.writeReg p (R.ETH_TIME_ADJ_offset_ns.addr 0 0) v = s.ran (exec (.ethTimeAdj p v)) := by
  rw [State.writeReg, (by decide +kernel : famAt (R.ETH_TIME_ADJ_offset_ns.addr 0 0) = some (R.ETH_TIME_ADJ, 0, 0))]; rfl

theorem writeReg_ethTimeFreq : s.writeReg p (R.ETH_TIME_FREQ_ppb.addr 0 0) v = s.ran (exec (.ethTimeFreq p v)) := by
  rw [State.writeReg, (by decide +kernel : famAt (R.ETH_TIME_FREQ_ppb.addr 0 0) = some (R.ETH_TIME_FREQ, 0, 0))]; rfl

theorem writeReg_uartCfg : s.writeReg p (R.MISC_UART_CFG_baud.addr 0 0) v = s.ran (exec (.uartCfgWrite p v)) := by
  rw [State.writeReg, (by decide +kernel : famAt (R.MISC_UART_CFG_baud.addr 0 0) = some (R.MISC_UART_CFG, 0, 0))]; rfl

theorem writeReg_pwrArith : s.writeReg p (R.PWR_ARITH_target.addr 0 0) v = s.ran (exec (.pwrArithWrite p v)) := by
  rw [State.writeReg, (by decide +kernel : famAt (R.PWR_ARITH_target.addr 0 0) = some (R.PWR_ARITH, 0, 0))]; rfl

theorem writeReg_pwrRtc : s.writeReg p (R.PWR_RTC_ticks.addr 0 0) v = s.ran (exec (.pwrRtcWrite p v)) := by
  rw [State.writeReg, (by decide +kernel : famAt (R.PWR_RTC_ticks.addr 0 0) = some (R.PWR_RTC, 0, 0))]; rfl

/-- The command registers that each hoop has, and their block. -/
theorem famAt_hoopCmd : ∀ h : Fin 16, ∀ x ∈ [(R.HOOP_AT_FREE_leaf, R.HOOP_AT_FREE), (R.HOOP_TC_INVAL_all, R.HOOP_TC_INVAL),
    (R.HOOP_DT_LOAD_addr, R.HOOP_DT_LOAD)],
    famAt (x.1.addr h 0) = some (x.2, h.val, 0) ∧ blockOf (x.1.addr h 0) = .hoop := by decide +kernel

theorem writeReg_hoopCmd (h : Fin 16) (x : Fld × Fam) (hx : x ∈ [(R.HOOP_AT_FREE_leaf, R.HOOP_AT_FREE),
      (R.HOOP_TC_INVAL_all, R.HOOP_TC_INVAL), (R.HOOP_DT_LOAD_addr, R.HOOP_DT_LOAD)]) :
    s.writeReg p (x.1.addr h 0) v = s.writeA p x.2 h (x.1.addr h 0) v := by
  obtain ⟨hf, hb⟩ := famAt_hoopCmd h x hx
  rw [State.writeReg, hf, hb]

theorem writeReg_atFree (h : Fin 16) :
    s.writeReg p (R.HOOP_AT_FREE_leaf.addr h 0) v = s.ran (exec (.atFree p h (BitVec.ofNat 44 v.toNat))) := by
  have hh : Fin.ofNat 16 h.val = h := Fin.ofNat_val_eq_self h
  exact (writeReg_hoopCmd s p v h (R.HOOP_AT_FREE_leaf, R.HOOP_AT_FREE) (by simp)).trans
    (congrArg (fun h => s.ran (exec (.atFree p h (BitVec.ofNat 44 v.toNat)))) hh)

theorem writeReg_tcInval (h : Fin 16) :
    s.writeReg p (R.HOOP_TC_INVAL_all.addr h 0) v = s.ran (exec (.tcInval p h (v.getLsbD 0))) := by
  have hh : Fin.ofNat 16 h.val = h := Fin.ofNat_val_eq_self h
  exact (writeReg_hoopCmd s p v h (R.HOOP_TC_INVAL_all, R.HOOP_TC_INVAL) (by simp)).trans
    (congrArg (fun h => s.ran (exec (.tcInval p h (v.getLsbD 0)))) hh)

theorem writeReg_dtLoad (h : Fin 16) : s.writeReg p (R.HOOP_DT_LOAD_addr.addr h 0) v =
    s.ran (exec (.dtLoad p h (BitVec.ofNat 45 v.toNat) (Fin.ofNat 4 (bits v.toNat 45 2)))) := by
  have hh : Fin.ofNat 16 h.val = h := Fin.ofNat_val_eq_self h
  exact (writeReg_hoopCmd s p v h (R.HOOP_DT_LOAD_addr, R.HOOP_DT_LOAD) (by simp)).trans
    (congrArg (fun h => s.ran (exec (.dtLoad p h (BitVec.ofNat 45 v.toNat) (Fin.ofNat 4 (bits v.toNat 45 2))))) hh)

end

/-! ### The operations of each command register -/

section
variable {s : State} {p : Port} {v : W64} {k : Nat}

theorem regWrite_folCmd {c : Port → Folio → Instr}
    (hc : (k, c) ∈ [(1, Instr.folOpen), (2, .folClose), (3, .folReset), (4, .folMove)]) (hk : bits v.toNat 0 4 = k) :
    exec (.regWrite p (BitVec.ofNat 64 (R.FOL_CMD_op.addr 0 0)) 64 v) s =
      exec (c p (BitVec.ofNat 20 (bits v.toNat 4 20))) s := by
  simp only [List.mem_cons, Prod.mk.injEq, List.not_mem_nil, or_false] at hc
  rcases hc with ⟨rfl, rfl⟩ | ⟨rfl, rfl⟩ | ⟨rfl, rfl⟩ | ⟨rfl, rfl⟩ <;>
    exact regWrite_command rfl (by rw [writeReg_folCmd, State.folWrite, hk]; rfl)

theorem regWrite_bndCmd {c : Port → BitVec 12 → Instr}
    (hc : (k, c) ∈ [(1, Instr.bndRegister), (2, .bndDeregister), (3, .bndLoad), (4, .bndUnload), (5, .bndSwap)])
    (hk : bits v.toNat 0 4 = k) :
    exec (.regWrite p (BitVec.ofNat 64 (R.FOL_BND_CMD_op.addr 0 0)) 64 v) s =
      exec (c p (BitVec.ofNat 12 (bits v.toNat 4 12))) s := by
  simp only [List.mem_cons, Prod.mk.injEq, List.not_mem_nil, or_false] at hc
  rcases hc with ⟨rfl, rfl⟩ | ⟨rfl, rfl⟩ | ⟨rfl, rfl⟩ | ⟨rfl, rfl⟩ | ⟨rfl, rfl⟩ <;>
    exact regWrite_command rfl (by rw [writeReg_bndCmd, hk]; rfl)

theorem regWrite_toileXcmd {c : Port → BitVec 6 → Instr}
    (hc : (k, c) ∈ [(1, Instr.xcmdRead), (2, .xcmdWrite), (3, .xcmdAdd), (4, .xcmdCas), (5, .xcmdMax), (6, .takeReadLease),
      (7, .releaseReadLease)]) (hk : bits v.toNat 0 4 = k) :
    exec (.regWrite p (BitVec.ofNat 64 (R.TOILE_XCMD_op.addr 0 0)) 64 v) s =
      exec (c p (BitVec.ofNat 6 (bits v.toNat 4 6))) s := by
  simp only [List.mem_cons, Prod.mk.injEq, List.not_mem_nil, or_false] at hc
  rcases hc with ⟨rfl, rfl⟩ | ⟨rfl, rfl⟩ | ⟨rfl, rfl⟩ | ⟨rfl, rfl⟩ | ⟨rfl, rfl⟩ | ⟨rfl, rfl⟩ |
      ⟨rfl, rfl⟩ <;>
    exact regWrite_command rfl (by rw [writeReg_toileXcmd, hk]; rfl)

theorem regWrite_ingressCmd {c : Port → BitVec 16 → Instr}
    (hc : (k, c) ∈ [(1, Instr.ingressAdd), (2, .ingressDelete), (4, .ingressUnbind)]) (hk : bits v.toNat 0 4 = k) :
    exec (.regWrite p (BitVec.ofNat 64 (R.INGRESS_CMD_op.addr 0 0)) 64 v) s =
      exec (c p (BitVec.ofNat 16 (bits v.toNat 4 16))) s := by
  simp only [List.mem_cons, Prod.mk.injEq, List.not_mem_nil, or_false] at hc
  rcases hc with ⟨rfl, rfl⟩ | ⟨rfl, rfl⟩ | ⟨rfl, rfl⟩ <;>
    exact regWrite_command rfl (by rw [writeReg_ingressCmd, State.ingressWrite, hk]; rfl)

theorem regWrite_ingressBind (hk : bits v.toNat 0 4 = 3) :
    exec (.regWrite p (BitVec.ofNat 64 (R.INGRESS_CMD_op.addr 0 0)) 64 v) s =
      exec (.ingressBind p (BitVec.ofNat 16 (bits v.toNat 4 16)) (BitVec.ofNat 20 (bits v.toNat 20 20))) s :=
  regWrite_command rfl (by rw [writeReg_ingressCmd, State.ingressWrite, hk]; rfl)

theorem regWrite_rejoin (hk : bits v.toNat 0 4 = 1) :
    exec (.regWrite p (BitVec.ofNat 64 (R.TOILE_CMD_op.addr 0 0)) 64 v) s = exec (.rejoin p) s :=
  regWrite_command rfl (by rw [writeReg_toileCmd, State.toileWrite, hk]; rfl)

theorem regWrite_repartner (hk : bits v.toNat 0 4 = 2) :
    exec (.regWrite p (BitVec.ofNat 64 (R.TOILE_CMD_op.addr 0 0)) 64 v) s =
      exec (.repartner p (BitVec.ofNat 20 (bits v.toNat 4 20)) (BitVec.ofNat 12 (bits v.toNat 24 12))) s :=
  regWrite_command rfl (by rw [writeReg_toileCmd, State.toileWrite, hk]; rfl)

theorem regWrite_audBindCmd {c : Port → Folio → Instr} (hc : (k, c) ∈ [(1, Instr.audBind), (2, .audUnbind)])
    (hk : bits v.toNat 0 4 = k) :
    exec (.regWrite p (BitVec.ofNat 64 (R.AUD_BIND_CMD_op.addr 0 0)) 64 v) s =
      exec (c p (BitVec.ofNat 20 (bits v.toNat 4 20))) s := by
  simp only [List.mem_cons, Prod.mk.injEq, List.not_mem_nil, or_false] at hc
  rcases hc with ⟨rfl, rfl⟩ | ⟨rfl, rfl⟩ <;>
    exact regWrite_command rfl (by rw [writeReg_audBindCmd, State.audBindWrite, hk]; rfl)

theorem regWrite_attCmd {c : Port → Instr} (hc : (k, c) ∈ [(1, Instr.attReport), (2, .attCert)])
    (hk : bits v.toNat 0 2 = k) :
    exec (.regWrite p (BitVec.ofNat 64 (R.SEC_ATT_CMD_op.addr 0 0)) 64 v) s = exec (c p) s := by
  simp only [List.mem_cons, Prod.mk.injEq, List.not_mem_nil, or_false] at hc
  rcases hc with ⟨rfl, rfl⟩ | ⟨rfl, rfl⟩ <;>
    exact regWrite_command rfl <| by
      rw [writeReg_attCmd, State.writeE, if_neg (by decide), if_pos rfl, hk]; rfl

theorem regWrite_pwrCmd {c : Port → Instr} (hc : (k, c) ∈ [(1, Instr.standby), (2, .run), (3, .deviceReset)])
    (hk : bits v.toNat 0 2 = k) :
    exec (.regWrite p (BitVec.ofNat 64 (R.PWR_CMD_op.addr 0 0)) 64 v) s = exec (c p) s := by
  simp only [List.mem_cons, Prod.mk.injEq, List.not_mem_nil, or_false] at hc
  rcases hc with ⟨rfl, rfl⟩ | ⟨rfl, rfl⟩ | ⟨rfl, rfl⟩ <;>
    exact regWrite_command rfl <| by
      rw [writeReg_pwrCmd, State.writeE, if_neg (by decide), if_neg (by decide), if_pos rfl, hk]; rfl

end

/-! ### Operations that no table lists -/

section
variable {s : State} {p : Port} {v : W64}

theorem folWrite_unlisted (h : bits v.toNat 0 4 = 0 ∨ 4 < bits v.toNat 0 4) : s.folWrite p v = s := by
  unfold State.folWrite; split
  case h_5 => rfl
  all_goals omega

theorem toileWrite_unlisted (h : bits v.toNat 0 4 = 0 ∨ 2 < bits v.toNat 0 4) : s.toileWrite p v = s := by
  unfold State.toileWrite; split
  case h_3 => rfl
  all_goals omega

theorem ingressWrite_unlisted (h : bits v.toNat 0 4 = 0 ∨ 4 < bits v.toNat 0 4) : s.ingressWrite p v = s := by
  unfold State.ingressWrite; split
  case h_5 => rfl
  all_goals omega

theorem audBindWrite_unlisted (h : bits v.toNat 0 4 = 0 ∨ 2 < bits v.toNat 0 4) : s.audBindWrite p v = s := by
  unfold State.audBindWrite; split
  case h_3 => rfl
  all_goals omega

/-- A permitted write of an operation that its register's table does not list changes nothing (R37). -/
theorem regWrite_unlisted (x : Fld × Nat)
    (hx : x ∈ [(R.FOL_CMD_op, 4), (R.FOL_BND_CMD_op, 5), (R.TOILE_CMD_op, 2), (R.INGRESS_CMD_op, 4), (R.AUD_BIND_CMD_op, 2)])
    (h : bits v.toNat 0 4 = 0 ∨ x.2 < bits v.toNat 0 4) (hp : Permit s p (x.1.addr 0 0)) :
    exec (.regWrite p (BitVec.ofNat 64 (x.1.addr 0 0)) 64 v) s = .next s := by
  simp only [List.mem_cons, List.not_mem_nil, or_false] at hx
  rcases hx with rfl | rfl | rfl | rfl | rfl
  · exact regWrite_ignored hp ((writeReg_folCmd s p v).trans (folWrite_unlisted h))
  · exact regWrite_ignored hp ((writeReg_bndCmd s p v).trans (if_neg (by omega)))
  · exact regWrite_ignored hp ((writeReg_toileCmd s p v).trans (toileWrite_unlisted h))
  · exact regWrite_ignored hp ((writeReg_ingressCmd s p v).trans (ingressWrite_unlisted h))
  · exact regWrite_ignored hp ((writeReg_audBindCmd s p v).trans (audBindWrite_unlisted h))

end
end Sys2Proof.Machine
end

section
/-! PROOFS. The statements on scope: the state after reset, register writes, field types, command registers. -/

open Sys2Proof Sys2Proof.Machine
-- One declaration after the other, as in the tests: the threads of one compile share its memory limit.
set_option Elab.async false

/-- Settles O8: with no register written every field holds its reset value, and the other parts are the defaults of State. -/
theorem resetState : Obligations.ResetState :=
  ⟨rfl, rfl, rfl, rfl, rfl, rfl, fun _ => rfl, fun c r => by simp [State.core, State.reset, Core.getS],
    fun _ i j _ _ x _ => State.fld_unwritten rfl x i j⟩

namespace Sys2Proof.Machine

/-- A running device that has the number 1 on the fabric and follows no time root. -/
def timeNode : State :=
  ({ pwr := { mainOn := true, aon := true } } : State).put R.TOILE_DEVNUM_devnum 1

/-- The address of TOILE_TIME_CFG. -/
def timeCfgAddr : Nat := R.TOILE_TIME_CFG_root_ok.addr 0 0

theorem famAt_timeCfgAddr : famAt timeCfgAddr = some (R.TOILE_TIME_CFG, 0, 0) := by decide +kernel

theorem timeNode_permit : Permit timeNode .p2 timeCfgAddr := by decide +kernel

/-- The write that sets root_ok with priority 0x10 makes the device the time root: TOILE_TIME_STAT.locked is set (R261). -/
theorem timeNode_write_locked :
    (timeNode.within (timeNode.writeReg .p2 timeCfgAddr 0x110)).bit R.TOILE_TIME_STAT_locked = true := by decide +kernel

/-- Storing the same value in the fields of TOILE_TIME_CFG alone leaves TOILE_TIME_STAT.locked clear. -/
theorem timeNode_store_unlocked :
    (timeNode.within (timeNode.regStore timeCfgAddr 0x110)).bit R.TOILE_TIME_STAT_locked = false := by decide +kernel

end Sys2Proof.Machine

/-- Refutes O9: TOILE_TIME_CFG is not among `specialFams`, and its write does more than store its fields: the device chooses
its time root anew (`followRoot`, R261), so that a write of root_ok sets TOILE_TIME_STAT.locked too. -/
theorem not_registerWrites : ¬ Obligations.RegisterWrites := by
  intro h
  obtain ⟨-, -, -, hw⟩ := h .p2 (BitVec.ofNat 64 timeCfgAddr) 64 0x110 timeNode
  have store : Leads (.regWrite .p2 (BitVec.ofNat 64 timeCfgAddr) 64 0x110) timeNode (timeNode.regStore timeCfgAddr 0x110) :=
    (hw (by decide) rfl (by decide) timeNode_permit).2 _ famAt_timeCfgAddr (by decide +kernel)
  rw [Leads, regWrite_frame (by decide) (by decide) (by decide), regCmd_ok timeNode_permit] at store
  have locked := congrArg (State.bit · R.TOILE_TIME_STAT_locked) (Host.Outcome.next.inj store)
  exact absurd (timeNode_write_locked.symm.trans (locked.trans timeNode_store_unlocked)) (by decide)

/-- Settles O10, by induction on the fields of the register: they are apart, so each keeps the value of its own write, and the
read masks show each without the others. -/
theorem registerFieldsByType : Obligations.RegisterFieldsByType := by
  intro a i j f v s h t
  obtain ⟨hs, hl, -⟩ := famAt_laid h
  have ht : t = s.writeFlds f.flds v i j := State.regStore_eq h s v
  rw [ht]
  exact ⟨fun x hx => State.writeFlds_fld v f.flds s hs hl hx, fun b hb => State.writeFlds_frame v f.flds s hs hb,
    State.writeFlds_ctl v i j f.flds s,
    fun hc => ⟨fun x hx => State.bits_regRead h hc hx, fun k hk => State.regRead_outside h hc hk⟩⟩

/-- Settles O11: each register's write runs the command in the frame that the command itself stands in. -/
theorem commandRegisters : Obligations.CommandRegisters := by
  intro p v s
  dsimp only
  refine ⟨regWrite_folCmd (by simp), regWrite_folCmd (by simp), regWrite_folCmd (by simp), regWrite_folCmd (by simp),
    regWrite_bndCmd (by simp), regWrite_bndCmd (by simp), regWrite_bndCmd (by simp), regWrite_bndCmd (by simp),
    regWrite_bndCmd (by simp), regWrite_rejoin, regWrite_repartner,
    regWrite_toileXcmd (by simp), regWrite_toileXcmd (by simp), regWrite_toileXcmd (by simp), regWrite_toileXcmd (by simp),
    regWrite_toileXcmd (by simp), regWrite_toileXcmd (by simp), regWrite_toileXcmd (by simp),
    regWrite_ingressCmd (by simp), regWrite_ingressCmd (by simp), regWrite_ingressBind, regWrite_ingressCmd (by simp),
    regWrite_audBindCmd (by simp), regWrite_audBindCmd (by simp), regWrite_unlisted,
    regWrite_attCmd (by simp), regWrite_attCmd (by simp),
    regWrite_pwrCmd (by simp), regWrite_pwrCmd (by simp), regWrite_pwrCmd (by simp),
    regWrite_command rfl (writeReg_hbmRecal s p v), regWrite_command rfl (writeReg_ingressPush s p v),
    regWrite_command rfl (writeReg_ethTimeAdj s p v), regWrite_command rfl (writeReg_ethTimeFreq s p v),
    regWrite_command rfl (writeReg_uartCfg s p v), regWrite_command rfl (writeReg_pwrArith s p v),
    regWrite_command rfl (writeReg_pwrRtc s p v), fun h => ⟨?_, ?_, ?_⟩⟩
  · exact regWrite_command rfl (writeReg_atFree s p v h) (Laws.Regs.atFree p h (BitVec.ofNat 44 v.toNat) _ rfl)
  · exact regWrite_command rfl (writeReg_tcInval s p v h) (Laws.Regs.tcInval p h (v.getLsbD 0) _ rfl)
  · exact regWrite_command rfl (writeReg_dtLoad s p v h)
      (Laws.Regs.dtLoad p h (BitVec.ofNat 45 v.toNat) (Fin.ofNat 4 (bits v.toNat 45 2)) _ rfl)

end

section
/-! PROOFS. The frames of commands and events: what they leave, and that no event of the main domain happens without its power (R12, R370). -/

open Sys2Proof Sys2Proof.Machine
-- One declaration after the other, as in the tests: the threads of one compile share its memory limit.
set_option Elab.async false

namespace Sys2Proof.Machine

/-! ### Effects that a frame leaves as they are -/

/-- The frame leaves an effect as it is that keeps memory, the notes of the controller, the queue and the fuses. -/
theorem State.within_kept {s t : State} (hm : t.mem = s.mem) (hh : t.hbm = s.hbm) (hp : t.pending = s.pending)
    (hf : t.fuses = s.fuses) : s.within t = t := by
  rw [State.within_sound (State.lostLines_same hh), State.closed, hm, keepForm_self, ← hm, ← hh, ← hp, ← hf]

@[simp] theorem State.within_send (s : State) (m : Msg) : s.within (s.send m) = s.send m := State.within_kept rfl rfl rfl rfl

@[simp] theorem State.within_denied (s : State) (p : Port) : s.within (s.denied p) = s.denied p :=
  State.within_kept rfl rfl rfl rfl

/-- The frame around a register command is the command's own. -/
@[simp] theorem State.within_regCmd (s : State) (p : Port) (a : Nat) (eff : State → State) :
    s.within (s.regCmd p a eff) = s.regCmd p a eff := by
  rcases permit_cases s p a with h | ⟨h1, h2⟩ | ⟨h1, h2⟩ | h
  · rw [regCmd_quiet h, State.within_self]
  · rw [regCmd_denied h1 h2, State.within_denied]
  · rw [regCmd_lost h1 h2, State.within_self]
  · rw [regCmd_ok h, State.within_within]

@[simp] theorem State.within_ctlWrite (s : State) (p : Port) (a width : Nat) (v : W64) :
    s.within (s.ctlWrite p a width v) = s.ctlWrite p a width v := by
  unfold State.ctlWrite
  split_ifs <;> simp

/-! ### Events of the main domain that take effect -/

/-- Each event of the main domain stands in the frame of one. -/
theorem exec_mainEvent {i : Instr} (h : mainEvent i = true) (s : State) :
    ∃ eff, exec i s = .next (s.mainEv eff) := by
  cases i
  all_goals cases h
  all_goals exact ⟨_, rfl⟩

/-- An event of the main domain, with its power on, leaves its effect. -/
theorem leads_mainEv {i : Instr} {s t : State} {eff : State → State} (hi : exec i s = .next (s.mainEv eff))
    (hm : s.mainOn = true) (he : eff s = t) : Leads i s t := by
  rw [Leads, hi, mainEv_ok hm, he]

/-- An event of the main domain whose effect changes nothing. -/
theorem exec_mainEv_self {i : Instr} {s : State} {eff : State → State} (hi : exec i s = .next (s.mainEv eff))
    (he : eff s = s) : exec i s = .next s := by
  cases hm : s.mainOn
  · rw [hi, mainEv_off hm]
  · rw [leads_mainEv hi hm he, State.within_self]

/-- A transaction of a peer that is no memory request, in its turn, is executed and answered (R259). -/
theorem comes_of {i : Instr} {src : DevNum} {cls : Nat} {h : FlowPos} {m : Note} {s : State} {p : State × PeerAns}
    (hi : exec i s = .next (s.mainEv (fun s => s.comes src cls h m))) (hm : s.mainOn = true)
    (hp : s.execNote src.toNat h.tag m = p) : Comes i src cls h m s p := by
  intro ht
  refine leads_mainEv hi hm ?_
  rw [State.comes, State.arrive, if_pos ht, State.serveTurn, State.serve, hp]

/-! ### Register commands that take effect -/

/-- A register command that its port may give leaves its effect. -/
theorem leads_regCmd {i : Instr} {s t : State} {p : Port} {a : Nat} {eff : State → State}
    (hi : exec i s = .next (s.regCmd p a eff)) (hp : Permit s p a) (he : eff s = t) : Leads i s t := by
  rw [Leads, hi, regCmd_ok hp, he]

/-- A permitted register command whose effect changes nothing. -/
theorem exec_regCmd_self {i : Instr} {s : State} {p : Port} {a : Nat} {eff : State → State}
    (hi : exec i s = .next (s.regCmd p a eff)) (hp : Permit s p a) (he : eff s = s) : exec i s = .next s := by
  rw [leads_regCmd hi hp he, State.within_self]

end Sys2Proof.Machine

/-- Settles O6: each event stands in the one frame that does nothing without the domain's power. -/
theorem eventsNeedMainDomain : Obligations.EventsNeedMainDomain := by
  intro i s hi hs
  obtain ⟨eff, he⟩ := exec_mainEvent hi s
  rw [he, mainEv_off hs]

end

section
/-! PROOFS. A nanosecond with no command, and what keeps the clocks (R17); the bytes that a write of local memory leaves (R20, R215). -/

open Sys2Proof Sys2Proof.Machine
-- One declaration after the other, as in the tests: the threads of one compile share its memory limit.
set_option Elab.async false

namespace Sys2Proof.Machine
/-! ### What leaves the clocks alone -/

theorem foldl_clk {α : Type} {g : State → α → State} (hg : ∀ s x, (g s x).clk = s.clk) (l : List α) (s : State) :
    (l.foldl g s).clk = s.clk := by
  induction l generalizing s with
  | nil => rfl
  | cons x l ih => rw [List.foldl_cons, ih, hg]

theorem Sent.clk {s t : State} (h : Sent s t) : t.clk = s.clk := by rw [h]

theorem reported_writtenBack (s : State) (l : Nat) : Reported s (s.writtenBack l) := by
  unfold State.writtenBack
  split
  · exact reported_setLine _ _ _
  · exact .refl s

/-- The merge of a line of a write reports what its check finds, and changes nothing else. -/
theorem reported_mergeLine (s : State) (a n l : Nat) : Reported s (s.mergeLine a n l) := by
  unfold State.mergeLine
  split
  · exact (reported_parityRetry _ _).trans (reported_setLine _ _ _)
  · exact (reported_checkLine _ _ _).trans (reported_writtenBack _ _)

theorem reported_hbmWrite (s : State) (a : Nat) (bs : List Byte) : Reported s (s.hbmWrite a bs) :=
  (Reported.foldl (fun s l => reported_mergeLine s a _ l) _ s).trans rfl

@[simp] theorem State.writeLocal_clk (s : State) (a : Nat) (bs : List Byte) : (s.writeLocal a bs).clk = s.clk := by
  unfold State.writeLocal
  split
  · exact (reported_hbmWrite _ _ _).clk.trans (sent_keepImages s a bs.length).clk
  · rfl
  · rfl
  · rfl

theorem sent_writeRemote (fuel : Nat) (s : State) (who : Requester) (dev off : Nat) (bs : List Byte) :
    Sent s (s.writeRemote who dev off bs fuel) := by
  induction fuel generalizing s off bs with
  | zero => exact .refl s
  | succ fuel ih =>
    unfold State.writeRemote
    split
    · exact .refl s
    · exact (sent_startTxn _ _ _ _ _ _ _ _ _ _ _ _).trans (ih _ _ _)

@[simp] theorem State.writeToile_clk (s : State) (who : Requester) (a : Nat) (bs : List Byte) :
    (s.writeToile who a bs).clk = s.clk := by
  unfold State.writeToile
  split
  · exact State.writeLocal_clk _ _ _
  · exact (sent_writeRemote _ _ _ _ _ _).clk

@[simp] theorem State.restartPage_clk (s : State) (n : Folio) : (s.restartPage n).clk = s.clk := by
  unfold State.restartPage
  extract_lets page hd t
  have ht : t.clk = s.clk := by
    unfold t
    split
    · exact State.writeToile_clk _ _ _ _
    · rfl
  exact ht

/-- The frame of an effect keeps the clocks that the effect left. -/
@[simp] theorem State.within_clk (s t : State) : (s.within t).clk = t.clk :=
  foldl_clk (fun t _ => foldl_clk (fun t _ => State.restartPage_clk t _) _ t) _ t

theorem State.alertStat_clk (s : State) : s.alertStat.clk = s.clk := by unfold State.alertStat; split <;> rfl

theorem State.retireRun_clk (s : State) : s.retireRun.clk = s.clk := by
  unfold State.retireRun
  split
  · split
    · exact State.alertStat_clk _
    · rfl
  · rfl

theorem State.idleRun_clk (s : State) : s.idleRun.clk = s.clk :=
  foldl_clk (fun s h => by split <;> rfl) _ s

theorem State.enterHello_clk (s : State) (l : LinkId) : (s.enterHello l).clk = s.clk := by
  unfold State.enterHello
  extract_lets t
  split
  · rfl
  · exact (sent_enqueue _ _ _ _ _ _).clk

theorem State.trainRun_clk (s : State) : s.trainRun.clk = s.clk :=
  foldl_clk (fun s l => by split <;> [exact State.enterHello_clk s _; rfl]) _ s

theorem State.consoleRun_clk (s : State) : s.consoleRun.clk = s.clk := by
  unfold State.consoleRun
  split <;> rfl

/-- Of the work of a nanosecond in the main domain the clocks keep their own run alone. -/
theorem State.mainRun_clk {s : State} (h : s.mainOn = true) : s.mainRun.clk = s.clk.run s.trim := by
  simp only [State.mainRun, h, State.consoleRun_clk, State.trainRun_clk, State.clockRun_clk, State.idleRun_clk,
    State.retireRun_clk, Bool.not_true, Bool.false_eq_true, if_false]

theorem State.mainRun_off {s : State} (h : s.mainOn = false) : s.mainRun = s := by simp [State.mainRun, h]

theorem State.aonRun_off {s : State} (h : s.pwr.aon = false) : s.aonRun = s := by simp [State.aonRun, h]

/-- Device time without trim or slew runs at the pace of REFCLK (R17). -/
theorem Clk.run_plain {k : Clk} (ha : k.freqAcc = 0) (hs : k.slew = 0) : (k.run 0).time = k.time + 1 := by
  simp [Clk.run, trimStep, slewStep, ha, hs]

theorem step_empty {s : State} (h : s.pending = []) : step s = .next s.tick := by simp [step, h]

end Sys2Proof.Machine

/-- Settles O2: nothing that happens in a nanosecond writes the clocks but their own run. -/
theorem emptyQueueTicks : Obligations.EmptyQueueTicks := by
  intro s hq
  refine ⟨step_empty hq, fun ha hm => ?_, fun ha hm ht hf hs => ⟨s.tick, step_empty hq, ?_⟩⟩
  · rw [step_empty hq, State.tick, State.aonRun_off ha, State.mainRun_off hm, State.within_self]
  · rw [State.tick, State.within_clk, State.aonRun_off ha, State.mainRun_clk hm, ht, Clk.run_plain hf hs]

/-- Settles O13: with its lines sound the write is `pokeBytes`, and nothing else of memory changes. -/
theorem localMemoryFrame : Obligations.LocalMemoryFrame := by
  intro a dat s hd hc hh
  refine ⟨State.writeLocal_wf s a dat, fun hs => ?_⟩
  have hm : (s.writeLocal a dat).mem = pokeBytes s.mem a dat := State.writeLocal_sound s a dat hd hc hh hs
  refine ⟨fun k hk => ?_, fun x hx => ?_⟩
  · rw [State.peek_one, hm, get_pokeBytes_in _ _ _ _ hk]
  · rw [State.peek_one, State.peek_one, hm, get_pokeBytes_out _ _ _ _ hx]

end

section
/-! PROOFS. Memory writes, and holes and addresses without a register (R20 to R22, R30, R361). -/

open Sys2Proof Sys2Proof.Machine
-- One declaration after the other, as in the tests: the threads of one compile share its memory limit.
set_option Elab.async false

namespace Sys2Proof.Machine

/-! ### Writes of local memory by a port (R20 to R22, R361) -/

section
variable {p : Port} {addr : BitVec 40} {dat : List Byte} {s : State}

/-- A memory write refused for its level. -/
theorem memoryWrite_refused (ha : s.pwr.aon = true) (hq : s.portQuiet p = false)
    (h : s.mayMemory p addr.toNat dat.length = false) : Leads (.memoryWrite p addr dat) s (s.denied p) := by
  simp [Leads, exec, execMemoryWrite, aonEv_ok ha, hq, h]

/-- A memory write that its level permits is the access of its port. -/
theorem memoryWrite_stores (ha : s.pwr.aon = true) (hq : s.portQuiet p = false)
    (h : s.mayMemory p addr.toNat dat.length = true) (hd : dat ≠ []) :
    Leads (.memoryWrite p addr dat) s (s.memStore p addr.toNat dat) := by
  simp [Leads, exec, execMemoryWrite, aonEv_ok ha, hq, h, hd]

/-- Holes, the folio directory and bytes of two windows answer with an error (R21, R30). -/
theorem State.memStore_error (hm : s.mainOn = true) {a : Nat}
    (h : oneArea a dat.length = false ∨ areaOf a = .hole ∨ areaOf a = .dir) :
    s.memStore p a dat = s.send (.busError p) := by
  unfold State.memStore
  cases ho : oneArea a dat.length
  · simp [hm]
  · obtain h | h : areaOf a = .hole ∨ areaOf a = .dir := by simpa [ho] using h
    all_goals simp [hm, h]

theorem State.memStore_ctl {a : Nat} (ho : oneArea a dat.length = true) (h : areaOf a = .ctl) :
    s.memStore p a dat = s.ctlWrite p a (8 * dat.length) (BitVec.ofNat 64 (leNat dat)) := by
  simp [State.memStore, ho, h]

theorem State.memStore_opbuf (hm : s.mainOn = true) {a c : Nat} (ho : oneArea a dat.length = true) (h : areaOf a = .opbuf c) :
    s.memStore p a dat = s.bufStore a dat := by
  simp [State.memStore, hm, ho, h]

theorem State.memStore_local (hm : s.mainOn = true) {a : Nat} (ho : oneArea a dat.length = true)
    (h : areaOf a = .hbm ∨ ∃ h, areaOf a = .store h) : s.memStore p a dat = s.writeLocal a dat := by
  rcases h with h | ⟨k, h⟩ <;> simp [State.memStore, hm, ho, h]

end

/-! ### Operand buffers -/

/-- The operand buffer that holds an address, and where in it. -/
theorem areaOf_opbuf {a c : Nat} (h : areaOf a = .opbuf c) : bufCore a = c ∧ opbufAddr c 0 ≤ a ∧ a < opbufAddr (c + 1) 0 := by
  unfold areaOf at h
  split_ifs at h with h1 h2 h3 h4
  obtain rfl : bufCore a = c := by simpa [bufCore] using h
  unfold bufCore opbufAddr
  omega

/-- The bytes of one core's operand buffer are written while its hoop has power. -/
theorem State.bufStore_one {s : State} {a c : Nat} {dat : List Byte} (hd : dat ≠ []) (h : areaOf a = .opbuf c)
    (h' : areaOf (a + (dat.length - 1)) = .opbuf c) :
    s.bufStore a dat = if s.hoopOn (c / 8) then s.writeLocal a dat else s := by
  obtain ⟨hc, hlo, hhi⟩ := areaOf_opbuf h
  obtain ⟨hc', hlo', hhi'⟩ := areaOf_opbuf h'
  have hn : 0 < dat.length := List.length_pos_iff.2 hd
  have hmax : max a (opbufAddr c 0) = a := by omega
  have hmin : min (a + dat.length) (opbufAddr (c + 1) 0) = a + dat.length := by omega
  simp [State.bufStore, bufCores, hc, hc', hmax, hmin]

/-- A write to an operand buffer leaves the power of the hoops. -/
theorem State.hoopOn_writeLocal_high (s : State) {a : Nat} (ha : hbmSize ≤ a) (bs : List Byte) (h : Nat) :
    (s.writeLocal a bs).hoopOn h = s.hoopOn h := by
  rcases s.writeLocal_high bs ha with e | e <;> rw [e]
  rfl

/-- The bytes of two neighbouring operand buffers are written buffer by buffer (log entry 9). -/
theorem State.bufStore_two {s : State} {a c : Nat} {dat : List Byte} (hd : dat ≠ []) (h : areaOf a = .opbuf c)
    (h' : areaOf (a + (dat.length - 1)) = .opbuf (c + 1)) :
    s.bufStore a dat =
      let cut := opbufAddr (c + 1) 0 - a
      let low := if s.hoopOn (c / 8) then s.writeLocal a (dat.take cut) else s
      if s.hoopOn ((c + 1) / 8) then low.writeLocal (opbufAddr (c + 1) 0) (dat.drop cut) else low := by
  obtain ⟨hc, hlo, hhi⟩ := areaOf_opbuf h
  obtain ⟨hc', hlo', hhi'⟩ := areaOf_opbuf h'
  have hn : 0 < dat.length := List.length_pos_iff.2 hd
  have hbig : hbmSize ≤ a := by unfold opbufAddr at hlo; unfold hbmSize; omega
  have hcores : bufCores a dat.length = [c, c + 1] := by
    have : bufCore (a + (dat.length - 1)) - bufCore a + 1 = 2 := by omega
    rw [bufCores, this, hc]
    simp [List.range_succ, Nat.add_comm]
  have hmax : max a (opbufAddr c 0) = a := by omega
  have hmin : min (a + dat.length) (opbufAddr (c + 1) 0) = opbufAddr (c + 1) 0 := by omega
  have hmax' : max a (opbufAddr (c + 1) 0) = opbufAddr (c + 1) 0 := by omega
  have hmin' : min (a + dat.length) (opbufAddr (c + 1 + 1) 0) = a + dat.length := by omega
  have hlen : (dat.drop (opbufAddr (c + 1) 0 - a)).take (a + dat.length - opbufAddr (c + 1) 0) =
      dat.drop (opbufAddr (c + 1) 0 - a) := List.take_of_length_le (by rw [List.length_drop]; omega)
  have hon (b : Bool) (bs : List Byte) (k : Nat) : (if b then s.writeLocal a bs else s).hoopOn k = s.hoopOn k := by
    cases b
    · rfl
    · exact s.hoopOn_writeLocal_high hbig bs k
  simp only [State.bufStore, hcores, List.foldl_cons, List.foldl_nil, hmax, hmin, hmax', hmin', hlen, hon, Nat.sub_self,
    List.drop_zero]

end Sys2Proof.Machine

/-- Settles O12: a permitted write is `memStore`, whose answer goes by the area of the address. -/
theorem memoryWrites : Obligations.MemoryWrites := by
  intro p addr dat s ha hq
  dsimp only
  refine ⟨memoryWrite_refused ha hq, fun hmay hm hd => ?_⟩
  have stores := memoryWrite_stores (addr := addr) ha hq hmay hd
  refine ⟨fun ho => ?_, fun ho => ⟨fun h => ?_, fun h h8 => ?_, fun c h one hp => ?_, fun c h one hp => ?_, fun c h h' => ?_,
    fun h => ?_⟩⟩
  · rwa [State.memStore_error hm (.inl ho)] at stores
  · rwa [State.memStore_error hm (.inr h)] at stores
  · rw [State.memStore_ctl ho h, Leads, State.within_ctlWrite] at stores
    rw [stores, h8, exec, execRegWrite, BitVec.toNat_setWidth_of_le (by decide)]
  · rwa [State.memStore_opbuf hm ho h, State.bufStore_one hd h (one c h), hp, if_neg (by decide)] at stores
  · rwa [State.memStore_opbuf hm ho h, State.bufStore_one hd h (one c h), hp, if_pos rfl] at stores
  · rwa [State.memStore_opbuf hm ho h, State.bufStore_two hd h h'] at stores
  · rwa [State.memStore_local hm ho h] at stores

namespace Sys2Proof.Machine

/-! ### Accesses of cores to holes (R21, R110) -/

section
variable {c : CoreId} {ops : BitVec 52} {o : Nat} {s : State}

theorem State.reach_hole {a n : Nat} {wr : Bool} (h : s.locate a = .here o) (ho : areaOf o = .hole) :
    s.reach c a n wr = some fDesc := by
  simp only [State.reach, h, ho]

/-- The fault of a scalar or descriptor access to a hole. -/
theorem scalarAddr_hole {β : Type} (n : Nat) (wr : Bool) (g : Nat → M β)
    (h : s.locate (s.sreg c (fldB ops) + (fldImm ops).signExtend 64).toNat = .here o) (ho : areaOf o = .hole) :
    (scalarAddr c ops n wr >>= g) s = .error (.flt
      { code := fDesc, info := (s.sreg c (fldB ops) + (fldImm ops).signExtend 64).toNat, operand := 1 }) := by
  have hpriv : (some fDesc == some fPriv) = false := rfl
  have hdesc : (some fDesc == some fDesc) = true := rfl
  simp only [scalarAddr, bind_assoc, M.getS_bind, M.get_bind, sx, State.reach_hole h ho, hpriv, hdesc, Bool.and_false,
    Bool.or_true, M.fltIf_false, M.fltIf_true]

/-- A scalar or descriptor access to a hole raises DESC_BAD and does nothing else. -/
theorem hole_faults {i : Instr} {w : W64} {z n : Nat} {wr : Bool} {g : Nat → M Unit}
    (hi : exec i s = .next (s.issue c w z (thenNext c (scalarAddr c ops n wr >>= g))))
    (h : s.locate (s.sreg c (fldB ops) + (fldImm ops).signExtend 64).toNat = .here o) (ho : areaOf o = .hole)
    (ht : Takes s c w z) : Leads i s (s.faulted c w
      { code := fDesc, info := (s.sreg c (fldB ops) + (fldImm ops).signExtend 64).toNat, operand := 1 }) :=
  raised_of ht hi (scalarAddr_hole n wr g h ho)

end

/-! ### Registers of no block (R21, Table 1-8) -/

/-- The addresses of the blocks, from the first to before the last. -/
def blockRanges : List (Nat × Nat) :=
  [(0xF000000000, 0xF000300000), (0xF001000000, 0xF002800000), (0xF003000000, 0xF003100000), (0xF004000000, 0xF004040000),
    (0xF004100000, 0xF004200000), (0xF005000000, 0xF005020000), (0xF006000000, 0xF006020000), (0xF006100000, 0xF006200000),
    (0xF007000000, 0xF007100000), (0xF008000000, 0xF008100000)]

/-- An address of no block lies in none of their ranges. -/
theorem blockOf_none {a : Nat} (h : blockOf a = .none) : ∀ r ∈ blockRanges, ¬ (r.1 ≤ a ∧ a < r.2) := by
  simp only [blockOf, ite_eq_iff', reduceCtorEq, imp_false] at h
  simp only [blockRanges, List.forall_mem_cons, List.not_mem_nil, false_imp_iff, implies_true, and_true]
  omega

/-- The last register of a family. -/
def Fam.last (f : Fam) : Nat := f.base + f.s1 * (f.n1 - 1) + f.s2 * (f.n2 - 1)

/-- A family's registers lie between its first and its last. -/
theorem Fam.instAt_mem {f : Fam} {a i j : Nat} (h : f.instAt a = some (i, j)) : f.base ≤ a ∧ a ≤ f.last := by
  have ha := Fam.instAt_addr h
  have hij : i < f.n1 ∧ j < f.n2 := by
    unfold Fam.instAt at h
    extract_lets o i' r j' q at h
    split_ifs at h with h1 h2
    obtain ⟨rfl, rfl⟩ := Prod.mk.inj (Option.some.inj h)
    exact ⟨h2.1, h2.2.1⟩
  have h1 : f.s1 * i ≤ f.s1 * (f.n1 - 1) := Nat.mul_le_mul_left _ (by omega)
  have h2 : f.s2 * j ≤ f.s2 * (f.n2 - 1) := Nat.mul_le_mul_left _ (by omega)
  unfold Fam.last
  omega

/-- Every family lies in the range of a block. -/
theorem fams_inBlocks : R.fams.all (fun f => blockRanges.any (fun r => decide (r.1 ≤ f.base ∧ f.last < r.2))) = true := by
  decide +kernel

/-- An address of no block holds no register. -/
theorem famAt_none {a : Nat} (h : blockOf a = .none) : famAt a = none := by
  cases hf : famAt a with
  | none => rfl
  | some x =>
    obtain ⟨hmem, hi⟩ := famAtIn_sound (f := x.1) (i := x.2.1) (j := x.2.2) hf
    obtain ⟨r, hr, hin⟩ := List.any_eq_true.1 (List.all_eq_true.1 fams_inBlocks _ hmem)
    have ha := Fam.instAt_mem hi
    have hin := of_decide_eq_true hin
    exact absurd ⟨by omega, by omega⟩ (blockOf_none h r hr)

/-- A read of a register of no block returns zero. -/
theorem State.regRead_none {a : Nat} (h : blockOf a = .none) (s : State) : s.regRead a = 0 := by
  simp [State.regRead, famAt_none h]

/-- A write of a register of no block that its port may give is ignored. -/
theorem regWrite_none {p : Port} {addr v : W64} {s : State} (h : blockOf addr.toNat = .none) (h8 : addr.toNat % 8 = 0)
    (hc : inControl addr.toNat = true) (hm : s.mayWrite p addr.toNat = true) :
    exec (.regWrite p addr 64 v) s = .next s := by
  have hw : s.writeReg p addr.toNat v = s := by simp [State.writeReg, famAt_none h]
  have hframe := regWrite_frame (p := p) (v := v) (s := s) addr.isLt h8 hc
  rw [BitVec.ofNat_toNat, BitVec.setWidth_eq] at hframe
  rw [hframe]
  rcases permit_cases s p addr.toNat with hl | ⟨-, hl⟩ | ⟨-, hl⟩ | hl
  · rw [regCmd_quiet hl]
  · rw [hm] at hl; cases hl
  · rw [regCmd_lost hm hl]
  · rw [regCmd_ok hl, hw, State.within_self]

/-- A debug read of a hole through an unlocked port answers with an error. -/
theorem debugRead_hole {s : State} {a n : Nat} (h : areaOf a = .hole) : s.debugRead a n = s.send (.busError .p6) := by
  unfold State.debugRead
  rw [h]
  split <;> rfl

end Sys2Proof.Machine

/-- Settles O14: a hole fails every access before its alignment is looked at, and no family of registers leaves its block. -/
theorem holesAndUnlistedAddresses : Obligations.HolesAndUnlistedAddresses := by
  refine ⟨fun c ops o s => ?_, fun p addr dat s hh hm ha => ⟨fun hd hmay hq => ?_, fun n hu => ?_⟩, fun p addr v s hb =>
    ⟨State.regRead_none hb s, fun h8 hc _ hmay => regWrite_none hb h8 hc hmay⟩⟩
  · intro a _ h ho faults
    exact ⟨hole_faults rfl h ho, hole_faults rfl h ho, hole_faults rfl h ho, hole_faults rfl h ho,
      hole_faults rfl h ho, hole_faults rfl h ho⟩
  · have stores := memoryWrite_stores (addr := addr) ha hq hmay hd
    rwa [Leads, State.memStore_error hm (.inr (.inl hh)), State.within_send] at stores
  · rw [Leads, exec, execDebugAccess, aonEv_ok ha, hu, ← debugRead_hole (n := n) hh]
    rfl

end

section
/-! PROOFS. The folio block's own events, and the lining of a folio at its home (R14, R41, R54, R63, R265 to R268). -/

open Sys2Proof Sys2Proof.Machine
-- One declaration after the other, as in the tests: the threads of one compile share its memory limit.
set_option Elab.async false

namespace Sys2Proof.Machine

/-- A folio's entry lies in the directory (R30). -/
theorem areaOf_dirAddr (n : Folio) : areaOf (dirAddr n) = .dir := by
  have hn := n.isLt
  have h1 : ¬ dirAddr n < hbmSize := by unfold dirAddr hbmSize; omega
  have h2 : 0xE000000000 ≤ dirAddr n ∧ dirAddr n < 0xE001000000 := by unfold dirAddr; omega
  rw [areaOf, if_neg h1, if_pos h2]

/-- An operation on a folio whose entry is sound goes on from the state as it is. -/
theorem State.reading_sound {s : State} {n : Folio} (h : s.sramWords (dirAddr n) 16 = []) (eff : State → State) :
    s.reading [n] eff = eff s := by
  have hbad : [n].any (fun n => s.dirBad (dirAddr n) 16) = false := by
    simp [State.dirBad, State.sramBad_sound h]
  have hcheck : s.checkLocal (dirAddr n) 16 = s := by
    simp [State.checkLocal, areaOf_dirAddr, Area.sram, State.sramCheck_sound h]
  rw [State.reading_ok hbad, List.foldl_cons, List.foldl_nil, hcheck]

/-! ### The folio block's own events -/

section
variable {n : Folio} {s : State}

theorem openComplete_opening (hm : s.mainOn = true) (h : s.folCmd = some (.opening n)) :
    Leads .openComplete s (s.reading [n] (fun s => s.openFinish n)) :=
  leads_mainEv rfl hm (by simp only [h])

theorem folioCloseComplete_room (hm : s.mainOn = true) (hst : (s.ent n).st = .closing)
    (hr : s.egressRoom (s.ent n).egress.toNat 1 = true) :
    Leads (.folioCloseComplete n) s (s.reading [n] (fun s => s.closeEnd n)) :=
  leads_mainEv rfl hm (by simp [hst, hr])

/-- What the swap-out of a folio leaves once its entry has been read (R41, R54). -/
def State.swapOrMove (s : State) (n : Folio) : State :=
  match s.folCmd with
  | some (.moving m h) => if m = n then s.moveFinish n h else s.swapOut n
  | _ => s.swapOut n

theorem State.swapOrMove_waits {h : BitVec 4} (hc : s.folCmd = some (.moving n h)) : s.swapOrMove n = s.moveFinish n h := by
  simp [State.swapOrMove, hc]

theorem State.swapOrMove_plain (hc : ∀ h, s.folCmd ≠ some (.moving n h)) : s.swapOrMove n = s.swapOut n := by
  unfold State.swapOrMove
  split
  · next m h hm => rw [if_neg (fun (e : m = n) => hc h (e ▸ hm))]
  · rfl

theorem stateSwapOut_sound (hm : s.mainOn = true) (hst : (s.ent n).st = .idle ∨ (s.ent n).st = .ready)
    (hw : s.sramWords (dirAddr n) 16 = []) : Leads (.stateSwapOut n) s (s.swapOrMove n) :=
  leads_mainEv rfl hm (by rw [if_pos hst, State.reading_sound hw]; rfl)

variable {f : Flight}

theorem gatheringRelease_room (hm : s.mainOn = true) (hf : (s.fol n).flight = some f) (hfen : s.fenced = false)
    (hn : s.nextRelease n = true) (hr : s.egressRoom (s.ent n).egress.toNat f.recs.length = true) :
    Leads (.gatheringRelease n) s (s.reading [n] (fun s => s.release n f)) :=
  leads_mainEv rfl hm (by simp [hf, hfen, hn, hr])

/-- A gathering at the head of its ring without room there counts its stall. -/
theorem gatheringRelease_stalls (hm : s.mainOn = true) (hf : (s.fol n).flight = some f) (hfen : s.fenced = false)
    (hn : s.nextRelease n = true) (hs : f.stalled = false)
    (hr : s.egressRoom (s.ent n).egress.toNat f.recs.length = false) :
    Leads (.gatheringRelease n) s ((s.count R.FOL_EGR_STALL_count 1 (s.ent n).egress.toNat).updFol n
      (fun x => { x with flight := some { f with stalled := true } })) :=
  leads_mainEv rfl hm (by simp [hf, hfen, hn, hr, hs])

end
end Sys2Proof.Machine

/-- Settles O16, event by event; a MOVE that waits ends with `moveFinish`. -/
theorem folioEventsTakeEffect : Obligations.FolioEventsTakeEffect := by
  intro n s hm
  refine ⟨openComplete_opening hm, folioCloseComplete_room hm, fun hst hw => ⟨fun hc => ?_, fun h hc => ?_⟩,
    fun f => gatheringRelease_room hm, fun f => gatheringRelease_stalls hm⟩
  · rw [← State.swapOrMove_plain hc]
    exact stateSwapOut_sound hm hst hw
  · have swapped := stateSwapOut_sound hm hst hw
    rw [State.swapOrMove_waits hc] at swapped
    exact ⟨s.moveFinish n h, swapped, rfl, rfl⟩

namespace Sys2Proof.Machine

/-! ### Lining at the home (R14, R265, R266, R268) -/

section
variable {n : Folio} {d : Nat} {seq : BitVec 32} {r : LineResult} {s : State}

theorem State.lineAnswer_open (hst : (s.ent n).st ≠ .free) (hd : (s.ent n).partner.toNat = d)
    (h : (s.fol n).line.openAt.isSome = true) : s.lineAnswer d n seq r = s.openAnswered n (r == .ack) := by
  simp [State.lineAnswer, hst, hd, h]

theorem State.lineAnswer_unacked {x : BitVec 32 × Bool × BitVec 32 × List Byte} (hst : (s.ent n).st ≠ .free) (hd : (s.ent n).partner.toNat = d)
    (h : (s.fol n).line.openAt = none) (hx : (s.fol n).line.unacked = some (seq, x)) :
    s.lineAnswer d n seq r = s.lineAcked n (r == .ack) := by
  simp [State.lineAnswer, hst, hd, h, hx]

/-- LINE.ACK in its turn is what the home makes of the answer. -/
theorem lineAck_comes {src : DevNum} {h : FlowPos} (hm : s.mainOn = true) {t : State}
    (ht : (s.answered src.toNat h.tag (.done [] 0)).lineAnswer src.toNat n seq r = t) :
    Comes (.lineAck src h n seq r) src 2 h (.lineAck h.tag n seq r) s (t, .ack) :=
  comes_of rfl hm (by rw [← ht]; rfl)

theorem lineOpenTimeout_due {t : Nat} (hm : s.mainOn = true) (ht : (s.fol n).line.openAt = some t)
    (hd : t + max 100 (s.fld R.TOILE_CFG_timeout_us) * us ≤ s.now) :
    Leads (.lineOpenTimeout n) s (s.openAnswered n false) :=
  leads_mainEv rfl hm (by simp only [ht, if_pos hd])

theorem deltaResend_due {next crc : BitVec 32} {full : Bool} {dat : List Byte} (hm : s.mainOn = true)
    (hu : (s.fol n).line.unacked = some (seq, next, full, crc, dat)) (hf : s.fenced = false) (hw : s.lineWaits n = true)
    (hd : (s.fol n).line.sentAt + max 100 (s.fld R.TOILE_LINE_CFG_ack_timeout_us) * us ≤ s.now) :
    Leads (.deltaResend n) s (s.lineResend n (if full then .lineFull n seq next crc dat else .lineDelta n seq next crc dat)) :=
  leads_mainEv rfl hm (by simp [hu, hf, hw, Nat.not_lt.2 hd])

section
variable {p : Port} {dev : DevNum} (hp : Permit s p (R.TOILE_CMD_op.addr 0 0))
include hp

theorem repartner_busy (hb : s.bit R.TOILE_CMD_STATUS_busy = true) : exec (.repartner p n dev) s = .next s :=
  exec_regCmd_self rfl hp (if_pos hb)

theorem repartner_starts (hb : s.bit R.TOILE_CMD_STATUS_busy = false) (hst : (s.ent n).st = .idle ∨ (s.ent n).st = .ready)
    (hs : s.standalone = false) (hr : s.routed dev.toNat 2 = true) : Leads (.repartner p n dev) s (s.repartStart n dev) :=
  leads_regCmd rfl hp (by rcases hst with hst | hst <;> simp [hb, hst, hs, hr])

theorem repartner_refused (hb : s.bit R.TOILE_CMD_STATUS_busy = false) (hi : (s.ent n).st ≠ .idle)
    (hr : (s.ent n).st ≠ .ready) : Leads (.repartner p n dev) s (s.put R.TOILE_CMD_STATUS_result 1) :=
  leads_regCmd rfl hp (by simp [hb, hi, hr])

end
end
end Sys2Proof.Machine

/-- Settles O41: LINE.ACK in its turn is `lineAnswer`, and the home's own events act once due. -/
theorem liningAtHome : Obligations.LiningAtHome := by
  intro p src dev h n seq r s
  refine ⟨fun hm => ⟨?_, fun t => lineOpenTimeout_due hm, fun next full crc dat => deltaResend_due hm⟩, fun hp =>
    ⟨repartner_busy hp, fun hb => ⟨repartner_starts hp hb, repartner_refused hp hb⟩⟩⟩
  intro u hst hd
  exact ⟨fun ho => lineAck_comes hm (State.lineAnswer_open hst (congrArg _ hd) ho), fun x ho hx =>
    lineAck_comes hm (State.lineAnswer_unacked hst (congrArg _ hd) ho hx)⟩

end

section
/-! PROOFS. Audio ports: starting, stopping and their lands; slaves, channel status and the audio PLL (R285 to R307). -/

open Sys2Proof Sys2Proof.Machine
-- One declaration after the other, as in the tests: the threads of one compile share its memory limit.
set_option Elab.async false

namespace Sys2Proof.Machine

/-! ### Audio ports start and stop (R293, R298, R299) -/

section
variable {p : Port} {a : SapId} {v : W64} {s : State}

section
variable (hp : Permit s p (R.SAP_CTRL_start.addr a 0))
include hp

theorem sapStart_fails (h0 : (s.sapCtrl a v).sapState a = 0) (hn : (s.sapCtrl a v).bit R.SAP_STAT_pending a = false)
    (he : (s.sapCtrl a v).startErr a ≠ 0) :
    Leads (.sapStart p a v) s ((s.sapCtrl a v).put R.SAP_STAT_err ((s.sapCtrl a v).startErr a) a) :=
  leads_regCmd rfl hp (by simp [h0, hn, he])

/-- A start whose checks pass makes the port pending; a slave of a running group relocks at once. -/
theorem sapStart_passes (h0 : (s.sapCtrl a v).sapState a = 0) (hn : (s.sapCtrl a v).bit R.SAP_STAT_pending a = false)
    (he : (s.sapCtrl a v).startErr a = 0) :
    let u := ((s.sapCtrl a v).put R.SAP_STAT_err 0 a).put R.SAP_STAT_pending 1 a
    Leads (.sapStart p a v) s
      (if u.grpState (u.grpOf a) = 2 ∧ u.slave a = true ∧ u.sapUsable a = true then u.sapRelock a false else u) :=
  leads_regCmd rfl hp (by simp [h0, hn, he])

theorem sapStop_stops : Leads (.sapStop p a v) s ((s.sapCtrl a v).sapStopNow a) := leads_regCmd rfl hp rfl

theorem sapRestart_relocks (h6 : (s.sapCtrl a v).sapState a = 6) :
    Leads (.sapRestart p a v) s ((s.sapCtrl a v).sapRelock a true) :=
  leads_regCmd rfl hp (if_pos h6)

theorem sapRestart_ignored (h6 : (s.sapCtrl a v).sapState a ≠ 6) : Leads (.sapRestart p a v) s (s.sapCtrl a v) :=
  leads_regCmd rfl hp (if_neg h6)

end

/-- A port whose readiness bit is 0 does not begin (R27). -/
theorem leadStart_notReady (h : s.sapUsable a = false) : exec (.leadStart a) s = .next s :=
  exec_mainEv_self rfl (by simp [h])

section
variable (hm : s.mainOn = true)
include hm

theorem leadStart_leads (hn : s.bit R.SAP_STAT_pending a = true) (hr : s.sapUsable a = true) (hs : s.slave a = false)
    (hg : s.grpState (s.grpOf a) = 1) (hl : s.fld R.SAP_LEAD_clk_lead a ≠ 0)
    (ht : (s.agrp (s.grpOf a)).start ≤ s.now + s.framesNs (s.grpOf a) (s.fld R.SAP_LEAD_clk_lead a)) :
    Leads (.leadStart a) s (s.sapLead a) :=
  leads_mainEv rfl hm (by simp [hn, hr, hs, hg, hl, ht])

theorem leadEnd_runs {heard : List LineLevels} (h1 : s.sapState a = 1)
    (ht : (s.sap a).leadAt + s.framesNs (s.grpOf a) (s.fld R.SAP_LEAD_clk_lead a) ≤ s.now) :
    Leads (.leadEnd a heard) s (((s.iecSpent a).micsTake a (s.pdmRatio a / 4) heard).sapRun a) :=
  leads_mainEv rfl hm (if_pos ⟨h1, ht⟩)

theorem tailEnd_off (h3 : s.sapState a = 3)
    (ht : (s.sap a).leadAt + s.framesNs (s.grpOf a) (s.fld R.SAP_LEAD_clk_tail a) ≤ s.now) :
    Leads (.tailEnd a) s (s.sapOff a) :=
  leads_mainEv rfl hm (if_pos ⟨h3, ht⟩)

end

/-! ### The lands of a port (R307, Table 11-6) -/

theorem State.mainLand_on (hm : s.mainOn = true) (off on : Drive) : s.mainLand off on = on := if_pos hm

theorem State.mainLand_off (hm : s.mainOn = false) (off on : Drive) : s.mainLand off on = off := by
  simp [State.mainLand, hm]

/-- A port that is OFF and was never a master drives nothing. -/
theorem State.port_dark (hm : s.mainOn = true) (h0 : s.sapState a = 0) (hk : (s.sap a).master = false) (l : Fin 4) :
    s.land (.bclk a) = .highZ ∧ s.land (.fsync a) = .highZ ∧ s.land (.mclkOut a) = .highZ ∧ s.land (.line a l) = .highZ := by
  simp [State.land, State.mainLand_on hm, State.clockLand, State.mclkLand, State.lineLand, h0, hk]

/-- A master that is OFF drives its clocks low. -/
theorem State.port_low (hm : s.mainOn = true) (h0 : s.sapState a = 0) (hk : (s.sap a).master = true) :
    s.land (.bclk a) = .low ∧ s.land (.fsync a) = .low := by
  simp [State.land, State.mainLand_on hm, State.clockLand, h0, hk]

/-- A master of a serial mode that is not OFF drives its clocks. -/
theorem State.port_clocks (hm : s.mainOn = true) (h0 : s.sapState a ≠ 0) (hs : s.slave a = false) (h4 : s.mode a < 4) :
    s.land (.bclk a) = .clock (s.fld R.SAP_CLK_family a) (s.sapDiv a) ∧ s.land (.fsync a) = .active := by
  have h5 : ¬ 5 ≤ s.mode a := by omega
  have hpdm : s.mode a ≠ 4 := by omega
  simp [State.land, State.mainLand_on hm, State.clockLand, h0, hs, h5, hpdm]

/-- Without the main domain's power a port drives nothing. -/
theorem State.port_unpowered (hm : s.mainOn = false) (l : Fin 4) :
    s.land (.bclk a) = .highZ ∧ s.land (.fsync a) = .highZ ∧ s.land (.mclkOut a) = .highZ ∧ s.land (.line a l) = .highZ := by
  simp [State.land, State.mainLand_off hm]

end
end Sys2Proof.Machine

/-- Settles O45, command by command, event by event and land by land. -/
theorem portStartStop : Obligations.PortStartStop := by
  intro p a v heard l s
  refine ⟨fun hp => ⟨fun h0 hn => ⟨sapStart_fails hp h0 hn, sapStart_passes hp h0 hn⟩, sapStop_stops hp,
    sapRestart_relocks hp, sapRestart_ignored hp⟩, fun hm => ⟨leadStart_notReady, leadStart_leads hm, leadEnd_runs hm,
    tailEnd_off hm, fun h0 => ⟨fun hk => State.port_dark hm h0 hk l, State.port_low hm h0⟩, State.port_clocks hm⟩,
    fun hm => State.port_unpowered hm l⟩

namespace Sys2Proof.Machine

/-! ### Frames of a slave (R27, R286, R290, R293) -/

section
variable {a : SapId} {s : State}

/-- A port whose readiness bit is 0 takes no frame (R27). -/
theorem slaveFrame_notReady {fr : PortFrame} {ps : Nat} (h : s.sapUsable a = false) :
    exec (.slaveFrame a fr ps) s = .next s :=
  exec_mainEv_self rfl (by simp [h])

theorem slaveFrame_incomplete {fr : PortFrame} {ps : Nat} {t : State} (hc : s.capture a fr = (t, none)) :
    exec (.slaveFrame a fr ps) s = .next s :=
  exec_mainEv_self rfl (by simp [hc])

/-- A complete frame of a ready slave in RUN, LOST or RELOCK enters its elastic buffer. -/
theorem slaveFrame_complete {fr : PortFrame} {ps : Nat} {t : State} {l : Samples} (hm : s.mainOn = true)
    (hs : s.slave a = true) (hr : s.sapUsable a = true) (hst : s.sapState a = 2 ∨ s.sapState a = 4 ∨ s.sapState a = 5)
    (hc : s.capture a fr = (t, some l)) : Leads (.slaveFrame a fr ps) s ((t.csCollect a fr).frameTo a l ps) :=
  leads_mainEv rfl hm (by simp [hs, hr, hc, hst])

section
variable {u : State} {l : Samples} {ps : Nat}

theorem State.frameTo_run (h : u.sapState a = 2) : u.frameTo a l ps = u.pushFrame a l 8 := if_pos h

/-- The first frame of a port that had lost its sync takes it to RELOCK. -/
theorem State.frameTo_lost (h : u.sapState a = 4) :
    u.frameTo a l ps = (((u.setSap a 5).put R.SAP_STAT_good 0 a).goodFrame a ps).pushFrame a l 4 := by
  simp [State.frameTo, h]

theorem State.frameTo_relock (h : u.sapState a = 5) : u.frameTo a l ps = (u.goodFrame a ps).pushFrame a l 4 := by
  simp [State.frameTo, h]

end

/-! ### What stops a slave, and the end of RELOCK (R293, R294) -/

section
variable (hm : s.mainOn = true)
include hm

theorem fsyncLoss_lost (hs : s.slave a = true) (hst : s.sapState a = 2 ∨ s.sapState a = 5) :
    Leads (.fsyncLoss a) s (s.fsyncLost a) :=
  leads_mainEv rfl hm (if_pos ⟨hs, hst⟩)

/-- The rate of 256 frames is measured, and more than 0.5 % off stops the port. -/
theorem rateWindow_measures {ns : Nat} (hs : s.slave a = true) (h2 : s.sapState a = 2) (hn : ns ≠ 0)
    (hr : s.rate (s.grpOf a) ≠ 0) :
    let t := s.put R.SAP_STAT_rate_ppm (s.windowPpm a ns) a
    Leads (.rateWindow a ns) s (if s.windowOff a ns then
      ((t.setSap a 6).setFifo a []).event 0x07 5 a 0xFFFFF (s.windowPpm a ns) else t) :=
  leads_mainEv rfl hm (if_neg (by simp [hs, h2, hn, hr]))

theorem relockDone_runs (h5 : s.sapState a = 5) (hg : 256 ≤ s.fld R.SAP_STAT_good a) (hf : (s.sap a).fifo.length = 4) :
    Leads (.relockDone a) s ((s.sapRun a).updSap a (fun x => { x with
      waitBlk := true, restarted := false,
      markNext := x.markNext || x.restarted || s.bit R.AUD_GRP_CFG_relock_reset (s.grpOf a) })) :=
  leads_mainEv rfl hm (if_pos ⟨h5, hg, hf⟩)

/-! ### Channel status (R286) -/

theorem csBlockEnd_ends {cs : List (Bool × Bool)} (h : (s.sap a).csDone = some cs) :
    Leads (.csBlockEnd a) s ((s.updSap a (fun x => { x with csDone := none })).csEnd a cs) :=
  leads_mainEv rfl hm (by simp only [h])

end

section
variable {cs : List (Bool × Bool)}

theorem State.csEnd_short (h : cs.length ≠ 192) : s.csEnd a cs = s.put R.SAP_CS_STAT_block_err 1 a := if_pos h

theorem State.csEnd_crc (h : cs.length = 192)
    (hb : crccBad (csBytes (cs.reverse.map (·.1))) = true ∨ crccBad (csBytes (cs.reverse.map (·.2))) = true) :
    s.csEnd a cs = (s.put R.SAP_CS_STAT_crc_bad 1 a).count R.SAP_CS_CRC_count 1 a := by
  rw [State.csEnd, if_neg (not_not.2 h), if_pos hb]

theorem State.csEnd_taken (h : cs.length = 192) (ha : crccBad (csBytes (cs.reverse.map (·.1))) = false)
    (hb : crccBad (csBytes (cs.reverse.map (·.2))) = false) :
    s.csEnd a cs = s.csTake a (csBytes (cs.reverse.map (·.1))) (csBytes (cs.reverse.map (·.2))) := by
  rw [State.csEnd, if_neg (not_not.2 h), if_neg (by rw [ha, hb]; decide)]

end

/-! ### The audio PLL (R288) -/

theorem audioPllLock_locks (hm : s.mainOn = true) (he : s.bit R.AUD_PLL_CFG_enable = true) :
    Leads .audioPllLock s (((s.put R.AUD_PLL_STAT_lock48 1).put R.AUD_PLL_STAT_lock44 1).sapReady true) :=
  leads_mainEv rfl hm (if_pos he)

theorem mclkInLoss_holdsOver (hm : s.mainOn = true) (he : s.bit R.AUD_PLL_CFG_enable = true)
    (hr : s.bit R.AUD_PLL_CFG_ref = true) (hh : s.bit R.AUD_PLL_STAT_holdover = false) :
    Leads .mclkInLoss s ((s.put R.AUD_PLL_STAT_holdover 1).event 0x06 5 0xFF) :=
  leads_mainEv rfl hm (if_pos ⟨he, hr, by simp [hh]⟩)

end
end Sys2Proof.Machine

/-- Settles O47: a complete frame goes by the port's state (`frameTo`), a channel-status block by its length and CRCC
(`csEnd`). -/
theorem audioReception : Obligations.AudioReception := by
  intro a fr ps ns l cs s t hm
  refine ⟨slaveFrame_notReady, fun hs hr => ⟨fun hc => ?_, slaveFrame_incomplete⟩, fun hs => ⟨fsyncLoss_lost hm hs,
    fun h2 hn hrate => ⟨fun ho => ?_, fun ho => ?_⟩⟩, relockDone_runs hm, fun hd => ?_,
    fun he => ⟨audioPllLock_locks hm he, mclkInLoss_holdsOver hm he⟩, leads_mainEv rfl hm rfl⟩
  · have complete := fun hst => slaveFrame_complete (ps := ps) hm hs hr hst hc
    refine ⟨fun h hu => ?_, fun h hu => ?_, fun h hu => ?_⟩
    · rw [← State.frameTo_run hu]; exact complete (.inl h)
    · rw [← State.frameTo_lost hu]; exact complete (.inr (.inl h))
    · rw [← State.frameTo_relock hu]; exact complete (.inr (.inr h))
  · have measured := rateWindow_measures hm hs h2 hn hrate
    simpa only [ho, if_true] using measured
  · have measured := rateWindow_measures hm hs h2 hn hrate
    simpa only [ho, Bool.false_eq_true, if_false] using measured
  · have ends := csBlockEnd_ends hm hd
    exact ⟨fun h => State.csEnd_short h ▸ ends, fun h hb => State.csEnd_crc h hb ▸ ends,
      fun h ha hb => State.csEnd_taken h ha hb ▸ ends⟩

end

section
/-! PROOFS. Ethernet frames and links, and the classifier's commands (R308 to R317, R366). -/

open Sys2Proof Sys2Proof.Machine
-- One declaration after the other, as in the tests: the threads of one compile share its memory limit.
set_option Elab.async false

namespace Sys2Proof.Machine

/-! ### Ethernet frames and links (R27, R308, R309, R366) -/

section
variable {e : Fin 2} {f : EthFrame} {t : TxFrame} {k : BitVec 16} {s : State}

theorem State.ethReady_iff : s.ethReady e = true ↔
    s.bit R.ETH_CTRL_enable e = true ∧ (s.fld R.COLO_READY0_ready).testBit (6 + e) = true := Bool.and_eq_true_iff

theorem State.frameTaken_notReady (h : s.ethReady e = false) : s.frameTaken e f = false := by
  simp [State.frameTaken, h]

theorem State.frameTaken_badFcs (h : f.fcsOk = false) : s.frameTaken e f = false := by
  simp [State.frameTaken, h]

theorem frameReceived_notReady (h : s.ethReady e = false) : exec (.frameReceived e f) s = .next s :=
  exec_mainEv_self rfl (by simp [State.frameTaken_notReady h, h])

theorem frameTransmit_notReady (h : s.ethReady e = false) : exec (.frameTransmit e t) s = .next s :=
  exec_mainEv_self rfl (by simp [h])

theorem ethLinkChange_early {up : Bool}
    (h : s.bit R.ETH_CTRL_enable e = false ∨ s.now < (SMap.get {} s.eths e).onAt + 200 * us) :
    exec (.ethLinkChange e up) s = .next s := by
  have hoff : s.ethPowered e = false := by
    rcases h with h | h <;> simp [State.ethPowered, h]
  exact exec_mainEv_self rfl (by simp [hoff])

section
variable (hm : s.mainOn = true)
include hm

theorem frameReceived_taken (h : s.frameTaken e f = true) :
    Leads (.frameReceived e f) s (((s.fecSeen e).count R.ETH_RX_PKTS_count 1 e).frameIn e f.bytes) :=
  leads_mainEv rfl hm (if_pos h)

/-- A frame with a bad FCS is only counted. -/
theorem frameReceived_badFcs (hr : s.ethReady e = true) (h : f.fcsOk = false) :
    Leads (.frameReceived e f) s ((s.fecSeen e).count R.ETH_RX_FCS_count 1 e) :=
  leads_mainEv rfl hm (by simp [State.frameTaken_badFcs h, hr, h])

theorem frameTransmit_out (hr : s.ethReady e = true) (hs : s.spineDown = false) (hlo : 64 ≤ t.bytes.length + 4)
    (hhi : t.bytes.length + 4 ≤ min (s.fld R.ETH_CTRL_mtu e) 9216) : Leads (.frameTransmit e t) s (s.frameOut e t) :=
  leads_mainEv rfl hm (if_neg (by simp [hr, hs]; omega))

theorem ethLinkChange_up (h : s.ethPowered e = true) : Leads (.ethLinkChange e true) s (s.ethUp e) :=
  leads_mainEv rfl hm (by simp [h])

theorem ethLinkChange_down (h : s.ethPowered e = true) : Leads (.ethLinkChange e false) s (s.ethDown e) :=
  leads_mainEv rfl hm (by simp [h])

/-! ### Packets of a flow at their playout time (R311, R313) -/

/-- Here `w` is the position that a flow writes next, and `g` the flow without the packets that are late for it. -/
theorem packetWrite_due {w : Nat} {g : Flow} {p : HeldPkt} (hw : w = s.flowPos (s.flow k.toNat).folio)
    (hg : g = (s.flow k.toNat).purge w) (hb : g.bound = true) (hst : g.started = true) (hp : g.heldAt w = some p)
    (ht : g.play (s.flowFs g) w ≤ s.now) :
    Leads (.packetWrite k) s (s.reading [g.folio] (fun s => s.writePacket k.toNat g p)) := by
  subst hw hg
  exact leads_mainEv rfl hm (by simp [hb, hst, hp, Int.not_lt.2 ht])

theorem concealmentWrite_due {w : Nat} {g : Flow} (hw : w = s.flowPos (s.flow k.toNat).folio)
    (hg : g = (s.flow k.toNat).purge w) (hb : g.bound = true) (hst : g.started = true) (hh : g.hole w ≠ 0)
    (ht : g.play (s.flowFs g) (w + g.hole w) ≤ s.now) :
    Leads (.concealmentWrite k) s (s.reading [g.folio] (fun s => s.writeHole k.toNat g (g.hole w))) := by
  subst hw hg
  exact leads_mainEv rfl hm (by simp [hb, hst, hh, Int.not_lt.2 ht])

end
end

/-! ### The classifier's commands and PUSH (R315, R317) -/

section
variable {p : Port} {f : BitVec 16} {n : Folio} {v : W64} {s : State}

/-- What a command of the classifier leaves that ended with a result. -/
def State.flowDone (s : State) (k r : Nat) : State := (s.put R.INGRESS_STATUS_result r).put R.INGRESS_STATUS_flow k

section
variable (hp : Permit s p ingressCmdAddr) (hb : s.bit R.INGRESS_STATUS_busy = false)
include hp hb

/-- A command of the classifier with none running ends with its result. -/
theorem leads_ingressOp {i : Instr} {k r : Nat} {eff : State → State × Nat} {t : State}
    (hi : exec i s = .next (s.ingressOp p k eff)) (he : eff s = (t, r)) : Leads i s (t.flowDone k r) :=
  leads_regCmd hi hp (by simp only [hb, he, Bool.false_eq_true, if_false]; rfl)

theorem ingressAdd_adds (h : s.addCheck f.toNat = 0) : Leads (.ingressAdd p f) s
    ((s.updFlow f.toNat (fun g => { s.argFlow with folio := g.folio })).flowDone f.toNat 0) :=
  leads_ingressOp hp hb rfl (if_pos h)

theorem ingressAdd_fails (h : s.addCheck f.toNat ≠ 0) :
    Leads (.ingressAdd p f) s (s.flowDone f.toNat (s.addCheck f.toNat)) :=
  leads_ingressOp hp hb rfl (if_neg h)

theorem ingressDelete_deletes (hv : (s.flow f.toNat).valid = true) (hn : (s.flow f.toNat).bound = false) :
    Leads (.ingressDelete p f) s ((s.updFlow f.toNat (fun g => { g with valid := false })).flowDone f.toNat 0) :=
  leads_ingressOp hp hb rfl (by simp [hv, hn])

theorem ingressDelete_fails (h : (s.flow f.toNat).valid = false ∨ (s.flow f.toNat).bound = true) :
    Leads (.ingressDelete p f) s (s.flowDone f.toNat 1) :=
  leads_ingressOp hp hb rfl (if_pos (by simpa using h))

theorem ingressBind_binds (h : s.flowBindCheck f.toNat n = 0) :
    Leads (.ingressBind p f n) s ((s.bindFlow f.toNat n).flowDone f.toNat 0) :=
  leads_ingressOp hp hb rfl (if_pos h)

theorem ingressBind_fails (h : s.flowBindCheck f.toNat n ≠ 0) :
    Leads (.ingressBind p f n) s (s.flowDone f.toNat (s.flowBindCheck f.toNat n)) :=
  leads_ingressOp hp hb rfl (if_neg h)

theorem ingressUnbind_unbinds (hv : (s.flow f.toNat).valid = true) (hn : (s.flow f.toNat).bound = true) :
    Leads (.ingressUnbind p f) s ((s.letGo f.toNat).flowDone f.toNat 0) :=
  leads_ingressOp hp hb rfl (by simp [hv, hn])

theorem ingressUnbind_fails (h : (s.flow f.toNat).valid = false ∨ (s.flow f.toNat).bound = false) :
    Leads (.ingressUnbind p f) s (s.flowDone f.toNat 1) :=
  leads_ingressOp hp hb rfl (if_pos (by simpa using h))

end

section
variable (hp : Permit s p (R.INGRESS_PUSH0_folio.addr 0 0))
include hp

theorem push_err (h : (s.ent (BitVec.ofNat 20 v.toNat)).sourceBound = false ∨ bits v.toNat 20 13 = 0 ∨
      4096 < bits v.toNat 20 13) : Leads (.push p v) s (s.put R.INGRESS_STATUS_push_err 1) :=
  leads_regCmd rfl hp (if_pos (by simpa using h))

section
variable (hb : (s.ent (BitVec.ofNat 20 v.toNat)).sourceBound = true) (h0 : bits v.toNat 20 13 ≠ 0)
  (hc : bits v.toNat 20 13 ≤ 4096)
include hb h0 hc

/-- The push of a bound folio's block is written, or discarded where the folio takes no samples. -/
theorem push_bound : Leads (.push p v) s (if !s.takes (BitVec.ofNat 20 v.toNat) then s.count R.INGRESS_DISCARD_count else
    s.reading [BitVec.ofNat 20 v.toNat] (fun s => s.writeBlock (BitVec.ofNat 20 v.toNat) (s.pushBlock v.toNat))) :=
  leads_regCmd rfl hp (if_neg (by rw [hb]; simp [h0, hc]))

theorem push_discarded (ht : s.takes (BitVec.ofNat 20 v.toNat) = false) :
    Leads (.push p v) s (s.count R.INGRESS_DISCARD_count) := by
  have bound := push_bound hp hb h0 hc
  rwa [ht, Bool.not_false, if_pos rfl] at bound

theorem push_written (ht : s.takes (BitVec.ofNat 20 v.toNat) = true) : Leads (.push p v) s
    (s.reading [BitVec.ofNat 20 v.toNat] (fun s => s.writeBlock (BitVec.ofNat 20 v.toNat) (s.pushBlock v.toNat))) := by
  have bound := push_bound hp hb h0 hc
  rwa [ht, Bool.not_true, if_neg (by decide)] at bound

end
end
end
end Sys2Proof.Machine

/-- Settles O50: each event under its condition, each command of the classifier in the frame `ingressOp`. -/
theorem ethernetAndClassifier : Obligations.EthernetAndClassifier := by
  refine ⟨fun e f t k s hm => ?_, fun p f n v s => ⟨fun hp hb => ?_, fun hp => ?_⟩⟩
  · refine ⟨fun hr => ?_, frameReceived_taken hm, fun hr => frameReceived_badFcs hm (State.ethReady_iff.2 hr),
      fun hb hst => ⟨fun p => packetWrite_due hm rfl rfl hb hst, concealmentWrite_due hm rfl rfl hb hst⟩,
      fun hr => frameTransmit_out hm (State.ethReady_iff.2 hr), fun h => ⟨ethLinkChange_up hm h, ethLinkChange_down hm h⟩,
      fun up => ethLinkChange_early⟩
    have hnot : s.ethReady e = false := Bool.eq_false_iff.2 (mt State.ethReady_iff.1 hr)
    exact ⟨frameReceived_notReady hnot, frameTransmit_notReady hnot⟩
  · exact ⟨ingressAdd_adds hp hb, ingressAdd_fails hp hb, ingressDelete_deletes hp hb, ingressDelete_fails hp hb,
      ingressBind_binds hp hb, ingressBind_fails hp hb, ingressUnbind_unbinds hp hb, ingressUnbind_fails hp hb⟩
  · exact ⟨push_err hp, fun hb h0 hc => ⟨push_discarded hp hb h0 hc, push_written hp hb h0 hc⟩⟩

end

section
/-! PROOFS. What happens beside the cores: reports, memory, folios and the end of a section leave the cores and the registers of
their block alone (R50, R54, R67, R216, R330, R344). -/

open Sys2Proof Sys2Proof.Machine
-- One declaration after the other, as in the tests: the threads of one compile share its memory limit.
set_option Elab.async false

namespace Sys2Proof.Machine

/-! ### What leaves the cores and their registers alone -/

/-- No binder is being swapped out (R240). -/
abbrev State.noSwap (s : State) : Prop := ∀ b ∈ s.binders, b.2.swap = none

/-- An address of the core block (Table 1-8). -/
def CoreReg (a : Nat) : Prop := 0xF002000000 ≤ a ∧ a < 0xF002800000

/-- The second state has the cores and the binders of the first and, in the core block, its registers. -/
structure CoresKept (s t : State) : Prop where
  cores : t.cores = s.cores
  binders : t.binders = s.binders
  regs : ∀ a, CoreReg a → SMap.get 0 t.ctl a = SMap.get 0 s.ctl a

/-- What happens beside the cores while no binder is being swapped out. -/
def Aside (s t : State) : Prop := s.noSwap → CoresKept s t

theorem CoresKept.core {s t : State} (h : CoresKept s t) (c : Nat) : t.core c = s.core c := by
  rw [State.core, h.cores, State.core]

theorem CoresKept.fld {s t : State} (h : CoresKept s t) {f : Fld} {i j : Nat} (hf : CoreReg (f.addr i j)) :
    t.fld f i j = s.fld f i j := by
  rw [State.fld, h.regs _ hf, State.fld]

theorem Aside.same {s t : State} (hc : t.cores = s.cores) (hb : t.binders = s.binders) (hr : t.ctl = s.ctl) : Aside s t :=
  fun _ => ⟨hc, hb, fun _ _ => by rw [hr]⟩

theorem Aside.refl (s : State) : Aside s s := .same rfl rfl rfl

theorem Aside.trans {s t u : State} (h : Aside s t) (g : Aside t u) : Aside s u := fun hs => by
  obtain ⟨hc, hb, hr⟩ := h hs
  obtain ⟨gc, gb, gr⟩ := g (by rwa [State.noSwap, hb])
  exact ⟨gc.trans hc, gb.trans hb, fun a ha => (gr a ha).trans (hr a ha)⟩

theorem Aside.foldl {α : Type} {g : State → α → State} {l : List α} (hg : ∀ x ∈ l, ∀ s, Aside s (g s x)) (s : State) :
    Aside s (l.foldl g s) := by
  induction l generalizing s with
  | nil => exact .refl s
  | cons x l ih =>
    rw [List.forall_mem_cons] at hg
    exact (hg.1 s).trans (ih hg.2 _)

theorem Sent.aside {s t : State} (h : Sent s t) : Aside s t := .same h.cores (by rw [h]) h.ctl

/-- The register of a field lies outside the core block. -/
def Fld.Outside (f : Fld) (i j : Nat) : Prop := f.addr i j < 0xF002000000 ∨ 0xF002800000 ≤ f.addr i j

/-- The registers of the hoops lie below the core block. -/
theorem Fld.outside_hoop {f : Fld} {h : Nat} (hb : f.base < 0xF001100000) (h1 : f.s1 = 0x100000) (h2 : f.s2 = 0) (hh : h < 16) :
    f.Outside h 0 := by
  left
  rw [Fld.addr, h1, h2]
  omega

theorem Fld.outside_above {f : Fld} {i j : Nat} (hb : 0xF002800000 ≤ f.base) : f.Outside i j := by
  right
  rw [Fld.addr]
  omega

section
variable {f : Fld} {i j : Nat}

theorem aside_put (hf : f.Outside i j) (s : State) (v : Nat) : Aside s (s.put f v i j) := fun _ =>
  ⟨rfl, rfl, fun a ha => by
    have other : a ≠ f.addr i j := by unfold CoreReg at ha; unfold Fld.Outside at hf; omega
    rw [State.put, SMap.get_upd_ne _ _ _ other]⟩

theorem aside_count (hf : f.Outside i j) (s : State) (n : Nat) : Aside s (s.count f n i j) := by
  unfold State.count
  split
  · exact .refl s
  · exact aside_put hf s _

end

/-! ### Reports -/

theorem aside_errLog (s : State) (e : ErrRec) : Aside s (s.errLog e) := by
  unfold State.errLog
  extract_lets wr
  split
  · rename_i v u _
    have words : Aside s u := Aside.foldl (fun w hw s => aside_put (by
      have : w < 4 := List.mem_range.1 hw
      simp [Fld.Outside, Fld.addr, R.COLO_ERR_LOG_word]; omega) s _) s
    exact words.trans (aside_put (.inl (by decide)) u _)
  · exact aside_count (.inl (by decide)) s _

/-- The events that reports raise have a counter (Table 2-12). -/
def Ev.Known (e : Ev) : Prop := e.code ≤ 21

theorem aside_corrNote {k : Nat} (hk : k < 16) (s : State) (cls inst folio : Nat) :
    Aside s (s.corrNote k cls inst folio).1 := by
  unfold State.corrNote
  extract_lets t p
  have counted : Aside s t := aside_count (by simp [Fld.Outside, Fld.addr, R.COLO_ECC_CORR_count]; omega) s 1
  split <;> exact counted.trans (.same rfl rfl rfl)

theorem corrNote_known (s : State) (k cls inst folio : Nat) : ∀ e ∈ (s.corrNote k cls inst folio).2, e.Known := by
  unfold State.corrNote
  extract_lets t p
  split <;> simp [Ev.Known]

theorem aside_uncorrNote {k : Nat} (hk : k < 16) (s : State) (cls inst addr folio level : Nat) :
    Aside s (s.uncorrNote k cls inst addr folio level).1 :=
  (aside_count (by simp [Fld.Outside, Fld.addr, R.COLO_ECC_UNCORR_count]; omega) s 1).trans (aside_errLog _ _)

theorem aside_hbmPut {f : Fld} (hf : 0xF002800000 ≤ f.base) (s : State) (v : Nat) : Aside s (s.put f v) :=
  aside_put (Fld.outside_above hf) s v

theorem aside_hbmCount {f : Fld} (hf : 0xF002800000 ≤ f.base) (s : State) (n : Nat) : Aside s (s.count f n) :=
  aside_count (Fld.outside_above hf) s n

theorem aside_setLine (s : State) (l : Nat) (e : LineErr) : Aside s (s.setLine l e) := .same rfl rfl rfl

theorem aside_lose (s : State) (l : Nat) : Aside s (s.lose l) := .same rfl rfl rfl

theorem aside_parityRetry (s : State) (line : Nat) : Aside s (s.parityRetry line) := by
  unfold State.parityRetry
  split
  · exact Aside.trans (t := { s with hbm := { s.hbm with parity := s.hbm.parity.erase line } }) (.same rfl rfl rfl)
      (aside_hbmCount (by decide) _ 1)
  · exact .refl s

theorem aside_lineCheck (s : State) (line : Nat) (b : Bool) : Aside s (s.lineCheck line b).1 := by
  unfold State.lineCheck
  extract_lets t
  have ht : Aside s t := aside_parityRetry s line
  split
  · exact ht
  · exact ht
  · exact ht.trans (aside_hbmCount (f := R.HBM_ODC_count) (by decide) t 1)
  · next onDie _ =>
    have corrected := (aside_setLine t line .sound).trans (aside_hbmCount (f := R.HBM_ECC_CORR_count) (by decide) _ 1)
    have counted := ht.trans (corrected.trans (aside_hbmCount (f := R.HBM_ODC_count) (by decide) _ onDie.toNat))
    exact counted.trans (aside_corrNote (by decide) _ _ _ _)
  · have poisoned := ((aside_setLine t line .poison).trans (aside_lose _ line)).trans
      (aside_hbmCount (f := R.HBM_ECC_UNCORR_count) (by decide) _ 1)
    have noted := (poisoned.trans (aside_hbmPut (f := R.HBM_LAST_ERR_line) (by decide) _ line)).trans
      (aside_hbmPut (f := R.HBM_LAST_ERR_scrub) (by decide) _ b.toNat)
    exact (ht.trans noted).trans (aside_uncorrNote (by decide) _ _ _ _ _ _)

theorem lineCheck_known (s : State) (line : Nat) (b : Bool) : ∀ e ∈ (s.lineCheck line b).2, e.Known := by
  unfold State.lineCheck
  extract_lets t
  split
  · simp
  · simp
  · simp
  · exact corrNote_known _ _ _ _ _
  · simp [State.uncorrNote, Ev.Known]

theorem aside_eventPut {e : Ev} (he : e.Known) (s : State) : Aside s (s.eventPut e).1 := by
  unfold State.eventPut
  extract_lets t wr occ log2 a u v
  have ht : Aside s t := aside_count (by unfold Ev.Known at he; simp [Fld.Outside, Fld.addr, R.FOL_EVTCNT_count]; omega) s 1
  split
  · exact ht
  · split
    · have hv : Aside s v := ht.trans (Aside.trans (t := u) (.same rfl rfl rfl) (aside_put (.inl (by decide)) u _))
      dsimp only
      split
      · exact hv.trans (.same rfl rfl rfl)
      · exact hv
    · exact ht.trans (aside_count (.inl (by decide)) t 1)

theorem aside_raiseAll (n : Nat) (s : State) {l : List Ev} (hl : ∀ e ∈ l, e.Known) : Aside s (s.raiseAll n l) := by
  induction n generalizing s l with
  | zero => exact .refl s
  | succ n ih =>
    cases l with
    | nil => exact .refl s
    | cons e es =>
      rw [List.forall_mem_cons] at hl
      have put := aside_eventPut hl.1 s
      unfold State.raiseAll
      split
      · rename_i t heq
        rw [heq] at put
        exact put.trans (ih _ hl.2)
      · rename_i t line heq
        rw [heq] at put
        refine (put.trans (aside_lineCheck t line false)).trans (ih _ fun x hx => ?_)
        rcases List.mem_append.1 hx with hx | hx
        · exact hl.2 x hx
        · exact lineCheck_known t line false x (Option.mem_toList.1 hx)

theorem aside_signal {e : Ev} (he : e.Known) (s : State) : Aside s (s.signal e) :=
  aside_raiseAll _ s (by simpa using he)

theorem aside_signalled {s : State} {x : State × Option Ev} (h : Aside s x.1) (hx : ∀ e ∈ x.2, e.Known) :
    Aside s (State.signalled x) := by
  unfold State.signalled
  split
  · next e he => exact h.trans (aside_signal (hx e he) _)
  · exact h

theorem aside_checkLine (s : State) (line : Nat) (b : Bool) : Aside s (s.checkLine line b) :=
  aside_signalled (aside_lineCheck s line b) (lineCheck_known s line b)

theorem aside_checkLines (s : State) (a n : Nat) : Aside s (s.checkLines a n) :=
  Aside.foldl (fun l _ s => aside_checkLine s l false) s

theorem sramSrc_memory (s : State) (a : Nat) : (s.sramSrc a).1 < 16 := by
  unfold State.sramSrc
  split_ifs
  any_goals simp
  split <;> simp

theorem aside_sramNote (s : State) (a : Nat) : Aside s (s.sramNote a) := by
  have hk := sramSrc_memory s a
  unfold State.sramNote
  dsimp only
  split
  · exact Aside.trans (t := s.setSram a .sound) (.same rfl rfl rfl)
      (aside_signalled (aside_corrNote hk _ _ _ _) (corrNote_known _ _ _ _ _))
  · exact (aside_uncorrNote hk s _ _ _ _ _).trans (aside_signal (by simp [Ev.Known]) _)
  · exact .refl s

theorem aside_sramCheck (s : State) (a n : Nat) : Aside s (s.sramCheck a n) := Aside.foldl (fun k _ s => aside_sramNote s k) s

/-! ### Memory -/

theorem aside_mergeLine (s : State) (a n l : Nat) : Aside s (s.mergeLine a n l) := by
  unfold State.mergeLine
  split
  · exact (aside_parityRetry s l).trans (aside_setLine _ _ _)
  · refine (aside_checkLine s l false).trans ?_
    unfold State.writtenBack
    split
    · exact aside_setLine _ _ _
    · exact .refl _

theorem aside_hwWrite (s : State) (a : Nat) (bs : List Byte) : Aside s (s.hwWrite a bs) := by
  have kept : Aside s (s.keepImages a bs.length) :=
    Aside.trans (t := { s with images := (s.keepImages a bs.length).images }) (.same rfl rfl rfl)
      (sent_keepImages s a bs.length).aside
  have merged := Aside.foldl (l := linesOf a bs.length) (fun l _ s => aside_mergeLine s a bs.length l) (s.keepImages a bs.length)
  exact (kept.trans merged).trans (.same rfl rfl rfl)

theorem aside_writeToile (s : State) (who : Requester) (a : Nat) (bs : List Byte) : Aside s (s.writeToile who a bs) := by
  unfold State.writeToile State.writeLocal
  split
  · split
    · exact aside_hwWrite s _ bs
    · exact .same rfl rfl rfl
    · exact .same rfl rfl rfl
    · exact .refl s
  · exact (sent_writeRemote _ s who _ _ bs).aside

/-! ### Folios and sections -/

theorem aside_setRing (s : State) (n : Folio) (e : RingE) : Aside s (s.setRing n e) := aside_hwWrite s _ _

theorem aside_updEnt (s : State) (n : Folio) (f : DirEntry → DirEntry) : Aside s (s.updEnt n f) := .same rfl rfl rfl

theorem aside_updFol (s : State) (n : Folio) (f : FolX → FolX) : Aside s (s.updFol n f) := .same rfl rfl rfl

theorem aside_updHoop (s : State) (h : Nat) (f : Hoop → Hoop) : Aside s (s.updHoop h f) := .same rfl rfl rfl

theorem aside_updSect (s : State) (h ser : Nat) (f : Section → Section) : Aside s (s.updSect h ser f) := .same rfl rfl rfl

/-- With no binder being swapped out none unloads (R240). -/
theorem aside_swapUnload (s : State) (b : BitVec 12) : Aside s (s.swapUnload b) := fun hs => by
  have kept : s.swapUnload b = s := by
    unfold State.swapUnload
    split
    · rfl
    · next x hx =>
      obtain ⟨p, hp, rfl⟩ := Option.map_eq_some_iff.1 hx
      rw [if_pos (by rw [hs p (List.mem_of_find?_eq_some hp)]; rfl)]
  rw [kept]
  exact Aside.refl s hs

theorem aside_restartNext (s : State) (n : Folio) : Aside s (s.restartNext n) := .same rfl rfl rfl

theorem aside_swapOut (s : State) (n : Folio) : Aside s (s.swapOut n) := by
  change Aside s (if !(s.ent n).resident then s else State.updFol (State.updEnt _ n _) n _)
  split
  · exact .refl s
  · refine Aside.trans (Aside.trans ?_ (aside_updEnt _ n _)) (aside_updFol _ n _)
    split
    · extract_lets checked
      have hc : Aside s checked := aside_sramCheck s _ _
      split
      · exact hc.trans (aside_writeToile checked _ _ _)
      · exact hc
    · extract_lets lost hd fresh
      have hl : Aside s lost := aside_sramCheck s _ _
      have hf : Aside lost fresh := by
        unfold fresh
        split
        · exact aside_writeToile lost _ _ _
        · exact .refl lost
      exact (hl.trans hf).trans (aside_restartNext fresh n)

theorem aside_moveNow (s : State) (n : Folio) (h : BitVec 4) : Aside s (s.moveNow n h) :=
  (((aside_swapOut s n).trans (aside_updEnt _ n _)).trans (aside_updFol _ n _)).trans (aside_swapUnload _ _)

theorem aside_allotRoom (fuel : Nat) (s : State) (h : Nat) (needs : List Nat) : Aside s (s.allotRoom h needs fuel).1 := by
  induction fuel generalizing s with
  | zero => exact .refl s
  | succ fuel ih =>
    unfold State.allotRoom
    split
    · exact .refl s
    · split
      · exact .refl s
      · next n _ => exact (aside_swapOut s n).trans (ih _)

theorem aside_memberRoom (s : State) (h ser : Nat) (k : Section) (res : Bool) : Aside s (s.memberRoom h ser k res).1 := by
  unfold State.memberRoom
  extract_lets u needs
  have room := (aside_updSect s h ser (fun x => { x with table := none })).trans (aside_allotRoom (storeCopies + 1) _ h needs)
  split <;> (rename_i heq; rw [heq] at room; exact room.trans (aside_updSect _ h ser _))

theorem aside_advanceRd (s : State) (n : Folio) : Aside s (s.advanceRd n) := (aside_setRing s n _).trans (aside_updFol _ n _)

theorem aside_stampRead (s : State) (e : RingE) (i k : Nat) : Aside s (s.stampRead e i k) :=
  Aside.foldl (fun l _ s => aside_checkLine s l false) s

theorem aside_join (s : State) (h ser : Nat) (n : Folio) : Aside s (s.join h ser n).1 := by
  unfold State.join
  split
  · exact .refl s
  · next k _ =>
    extract_lets res s0 t old
    have ht : Aside s t := by
      unfold t
      split
      · exact .refl s
      · exact aside_stampRead s _ _ _
    have room := ht.trans (aside_memberRoom t h ser k res)
    split
    · next heq => rw [heq] at room; exact room
    · next u l heq =>
      rw [heq] at room
      extract_lets g retried fresh m v w x y
      have hv : Aside u v := by
        unfold v
        split
        · exact aside_advanceRd u n
        · exact .refl u
      have hx : Aside v x := (aside_updEnt v n _).trans (aside_updFol w n _)
      have hy : Aside s y := ((room.trans hv).trans hx).trans (aside_updSect x h ser _)
      dsimp only
      split
      · exact hy
      · exact hy.trans (aside_swapUnload y old)

theorem aside_joinOrClose (s : State) (h ser : Nat) (n : Folio) : Aside s (s.joinOrClose h ser n) := by
  have join := aside_join s h ser n
  have close (t : State) : Aside t (t.closeSection h ser) := aside_updSect t h ser _
  unfold State.joinOrClose
  split
  · next t heq => rw [heq] at join; exact join.trans (close t)
  · next t heq =>
    rw [heq] at join
    split
    · split
      · exact join.trans (close t)
      · exact join
    · exact join

theorem aside_wakeHoop (s : State) (h : Nat) : Aside s (s.wakeHoop h) := by
  unfold State.wakeHoop
  split
  · exact .refl s
  · exact aside_updHoop s h _

theorem aside_schedStat {h : Nat} (hh : h < 16) (s : State) : Aside s (s.schedStat h) :=
  (aside_put (Fld.outside_hoop (by decide) rfl rfl hh) s _).trans (aside_put (Fld.outside_hoop (by decide) rfl rfl hh) _ _)

theorem aside_drainStat {h : Nat} (hh : h < 16) (s : State) : Aside s (s.drainStat h) := by
  unfold State.drainStat
  split <;> exact aside_put (Fld.outside_hoop (by decide) rfl rfl hh) s _

theorem aside_readyHere (s : State) (n : Folio) : Aside s (s.readyHere n) := by
  unfold State.readyHere
  extract_lets h t b u
  have ht : Aside s t := (aside_updEnt s n _).trans (aside_wakeHoop _ h)
  have hu : Aside t u := by
    unfold u
    split
    · split
      · exact aside_joinOrClose t h _ n
      · exact .refl t
    · exact .refl t
  exact (ht.trans hu).trans (aside_schedStat (s.ent n).hoop.isLt u)

theorem aside_rehome (s : State) (n : Folio) (h : BitVec 4) : Aside s (s.rehome n h) := by
  unfold State.rehome
  extract_lets old t u
  have hu : Aside t u := by
    unfold u
    split
    · exact aside_readyHere t n
    · exact .refl t
  exact ((((aside_moveNow s n h).trans hu).trans (aside_schedStat (s.ent n).hoop.isLt u)).trans (aside_schedStat h.isLt _)).trans
    (aside_drainStat (s.ent n).hoop.isLt _)

theorem aside_drainFolio (s : State) (n : Folio) : Aside s (s.drainFolio n) := by
  unfold State.drainFolio
  extract_lets e
  split
  · split
    · exact aside_rehome s n _
    · exact aside_drainStat e.hoop.isLt s
  · exact .refl s

theorem aside_enterReady (s : State) (n : Folio) : Aside s (s.enterReady n) := (aside_readyHere s n).trans (aside_drainFolio _ n)

theorem aside_enterIdle (s : State) (n : Folio) : Aside s (s.enterIdle n) := (aside_updEnt s n _).trans (aside_drainFolio _ n)

theorem aside_checkReady (s : State) (n : Folio) : Aside s (s.checkReady n) := by
  unfold State.checkReady
  split
  · exact aside_enterReady s n
  · exact .refl s

theorem aside_updFlow (s : State) (k : Nat) (f : Flow → Flow) : Aside s (s.updFlow k f) := by
  unfold State.updFlow
  extract_lets t a
  have ht : Aside s t := .same rfl rfl rfl
  split
  · exact ht.trans (aside_hwWrite t _ _)
  · exact ht

theorem aside_unboundEntries (s : State) (c0 n : Nat) : Aside s (s.unboundEntries c0 n) :=
  Aside.foldl (fun _ _ s => aside_put (Fld.outside_above (by decide)) s _) s

theorem aside_unbindSource (s : State) (n : Folio) : Aside s (s.unbindSource n) := by
  unfold State.unbindSource
  extract_lets t u v
  have ht : Aside s t := Aside.foldl (fun p _ s => aside_updFlow s p.1 _) s
  have hu : Aside t u := Aside.foldl (fun b _ s => aside_unboundEntries s b.c0 b.count) t
  have hv : Aside u v := .same rfl rfl rfl
  exact ((ht.trans hu).trans hv).trans (aside_updEnt v n _)

theorem aside_discardRing (s : State) (n : Folio) : Aside s (s.discardRing n) := by
  unfold State.discardRing
  extract_lets t e gh k
  have ht : Aside s t := aside_checkLines s _ _
  split
  · exact ht
  · split
    · exact ht
    · exact ht.trans (aside_setRing t n _)

theorem aside_enterClosing (s : State) (n : Folio) : Aside s (s.enterClosing n) :=
  (((aside_unbindSource s n).trans (aside_discardRing _ n)).trans (aside_updEnt _ n _)).trans (aside_updFol _ n _)

theorem aside_boundary (s : State) (n : Folio) : Aside s (s.boundary n) := by
  unfold State.boundary
  extract_lets h t
  have ht : Aside s t := by
    unfold t
    split
    · exact aside_moveNow s n _
    · exact .refl s
  have hh : h < 16 := (s.ent n).hoop.isLt
  split
  · exact aside_enterClosing s n
  · have entered := (ht.trans (aside_enterIdle t n)).trans (aside_checkReady _ n)
    exact (entered.trans (aside_schedStat hh _)).trans (aside_drainStat hh _)

theorem aside_stallEvent (s : State) (h : Nat) (k : Section) : Aside s (s.stallEvent h k) := by
  unfold State.stallEvent
  extract_lets thr
  split
  · exact aside_signal (by simp [Ev.Known]) s
  · exact .refl s

theorem aside_abandonMember {h : Nat} (hh : h < 16) (s : State) (counted : Bool) (m : Member) :
    Aside s (s.abandonMember h counted m) := by
  unfold State.abandonMember
  extract_lets n a b a' b'
  split
  · exact .refl s
  · split
    · have dropped : Aside s (b.count R.HOOP_DROPPED_count 1 h) :=
        ((aside_updEnt s n _).trans (aside_updFol a n _)).trans (aside_count (Fld.outside_hoop (by decide) rfl rfl hh) b 1)
      exact dropped.trans (aside_boundary _ n)
    · exact ((aside_updEnt s n _).trans (aside_updFol a' n _)).trans (aside_enterReady b' n)

/-- A section that ends leaves the cores and their registers alone: its cores are dealt with by the caller (R50, R51). -/
theorem aside_dissolve {h : Nat} (hh : h < 16) (s : State) (k : Section) (counted : Bool) : Aside s (s.dissolve h k counted) := by
  unfold State.dissolve
  extract_lets t u v
  have ht : Aside s t := (aside_stallEvent s h k).trans (aside_updHoop _ h _)
  have hu : Aside t u := aside_count (Fld.outside_hoop (by decide) rfl rfl hh) t 1
  have hv : Aside u v := Aside.foldl (fun m _ s => aside_abandonMember hh s counted m) u
  exact (((ht.trans hu).trans hv).trans (aside_schedStat hh v)).trans (aside_drainStat hh _)

end Sys2Proof.Machine
end

section
/-! PROOFS. Taking a core fault (R50, R124, R125, R127): what it records, what becomes of the cores that share the section, and
what the section's end leaves. -/

open Sys2Proof Sys2Proof.Machine
-- One declaration after the other, as in the tests: the threads of one compile share its memory limit.
set_option Elab.async false

namespace Sys2Proof.Machine

/-! ### What a fault records (R124, R127) -/

/-- Two fields of registers that lie alike, of which a write of the second leaves the first. -/
abbrev Fld.Clear (x y : Fld) : Prop :=
  x.s1 = y.s1 ∧ x.s2 = y.s2 ∧ x.lo + x.width ≤ 64 ∧ x.rst < 2 ^ x.width ∧ y.lo + y.width ≤ 64 ∧ y.rst < 2 ^ y.width ∧
    (x.base ≠ y.base ∨ y.lo + y.width ≤ x.lo ∨ x.lo + x.width ≤ y.lo)

theorem State.fld_put_other (s : State) {x y : Fld} {i j k l : Nat} (h : x.addr i j ≠ y.addr k l) (v : Nat) :
    (s.put y v k l).fld x i j = s.fld x i j := by
  rw [State.fld, State.put, SMap.get_upd_ne _ _ _ h, State.fld]

theorem State.fld_put_clear (s : State) {x y : Fld} (h : x.Clear y) (v i j : Nat) : (s.put y v i j).fld x i j = s.fld x i j := by
  obtain ⟨h1, h2, hx, hxr, hy, hyr, hne⟩ := h
  by_cases hb : x.base = y.base
  · have same : y.addr i j = x.addr i j := by rw [Fld.addr, Fld.addr, hb, h1, h2]
    exact s.fld_put_apart ⟨rfl, hx, hxr⟩ ⟨same, hy, hyr⟩ (hne.resolve_left (not_not_intro hb)) v
  · exact s.fld_put_other (by rw [Fld.addr, Fld.addr, h1, h2]; omega) v

/-- Fields of the registers numbered i set one after the other. -/
def State.putAll (s : State) (i : Nat) (l : List (Fld × Nat)) : State := l.foldl (fun s p => s.put p.1 p.2 i) s

theorem State.fld_putAll_clear {x : Fld} {l : List (Fld × Nat)} (h : ∀ y ∈ l.map Prod.fst, x.Clear y) (s : State) (i : Nat) :
    (s.putAll i l).fld x i = s.fld x i := by
  induction l generalizing s with
  | nil => rfl
  | cons p l ih =>
    rw [List.map_cons, List.forall_mem_cons] at h
    exact (ih h.2 (s.put p.1 p.2 i)).trans (s.fld_put_clear h.1 p.2 i 0)

/-- Fields that leave each other alone each hold the value they are set to. -/
theorem State.fld_putAll {l : List (Fld × Nat)} (h : (l.map Prod.fst).Pairwise Fld.Clear) {x : Fld} {v : Nat} (hx : (x, v) ∈ l)
    (hw : x.lo + x.width ≤ 64 ∧ x.rst < 2 ^ x.width) (s : State) (i : Nat) : (s.putAll i l).fld x i = v % 2 ^ x.width := by
  induction l generalizing s with
  | nil => cases hx
  | cons p l ih =>
    rw [List.map_cons, List.pairwise_cons] at h
    rcases List.mem_cons.1 hx with rfl | hx
    · exact (State.fld_putAll_clear h.1 _ i).trans (s.fld_put x v i 0 hw.1 hw.2)
    · exact ih h.2 hx (s.put p.1 p.2 i)

theorem State.putAll_ctl (s : State) (i : Nat) (l : List (Fld × Nat)) : s.putAll i l = { s with ctl := (s.putAll i l).ctl } := by
  induction l generalizing s with
  | nil => rfl
  | cons p l ih => exact ih (s.put p.1 p.2 i)

/-- The fields that a fault sets, and what it sets them to. -/
def faultFields (pc : BitVec 52) (w : W64) (f : CFlt) (insect : Bool) (streak : Nat) : List (Fld × Nat) :=
  [(R.CORE_FAULT_code, f.code), (R.CORE_FAULT_in_section, insect.toNat), (R.CORE_FAULT_at_issue, f.atIssue.toNat),
    (R.CORE_FAULT_dim, f.dim), (R.CORE_FAULT_operand, f.operand), (R.CORE_FAULT_streak, streak),
    (R.CORE_FAULT_PC_pc, pc.toNat), (R.CORE_FAULT_WORD_word, w.toNat), (R.CORE_FAULT_INFO_info, f.info)]

/-- The fields of a fault's record. -/
def faultFlds : List Fld :=
  [R.CORE_FAULT_code, R.CORE_FAULT_in_section, R.CORE_FAULT_at_issue, R.CORE_FAULT_dim, R.CORE_FAULT_operand,
    R.CORE_FAULT_streak, R.CORE_FAULT_PC_pc, R.CORE_FAULT_WORD_word, R.CORE_FAULT_INFO_info]

theorem faultFields_fst (pc : BitVec 52) (w : W64) (f : CFlt) (insect : Bool) (streak : Nat) :
    (faultFields pc w f insect streak).map Prod.fst = faultFlds := rfl

theorem faultFlds_clear : faultFlds.Pairwise Fld.Clear := by decide

/-- The streak that a fault of a core leaves (R127). -/
def State.nextStreak (s : State) (c : Nat) : Nat := min (s.fld R.CORE_FAULT_streak c + 1) 15

/-- A fault is recorded and counted in the core's registers. -/
def State.faultRecorded (s : State) (c : Nat) (pc : BitVec 52) (w : W64) (f : CFlt) : State :=
  (s.putAll c (faultFields pc w f (s.core c).sect.isSome (s.nextStreak c))).count R.CORE_FAULTS_count 1 c

/-- The core stops with its fault, which interrupts the Spine where fault_irq is set. -/
def State.faultStops (s : State) (c : Nat) (f : CFlt) : State :=
  let s := if deniedHere f then s.count R.SEC_DENIED_count else s
  let s := if s.bit R.CORE_CTRL_fault_irq c then s.irq (.core c) else s
  s.updCore c (fun k => { k with wait := .none, barPass := false, deferred := none, remoteFault := none })

/-- The core holds, or resumes at once (R125, R127). -/
def State.faultHolds (s : State) (c : Nat) (hold : Bool) : State :=
  (s.updCore c (fun k => { k with resuming := !hold })).put R.CORE_STATUS_run_state (if hold then 3 else 2) c

/-- Taking a fault in its parts. -/
theorem State.takeFault_eq (s : State) (c : Nat) (pc : BitVec 52) (w : W64) (f : CFlt) :
    s.takeFault c pc w f =
      let u := ((s.faultRecorded c pc w f).faultStops c f).abandonFor c
      u.faultHolds c (u.bit R.CORE_CTRL_hold_on_fault c || decide (8 ≤ s.nextStreak c)) := rfl

section
variable (s : State) (c : Nat) (pc : BitVec 52) (w : W64) (f : CFlt)

/-- Each field of the fault's record holds its value. -/
theorem State.fld_faultRecorded {x : Fld} {v : Nat}
    (hx : (x, v) ∈ faultFields pc w f (s.core c).sect.isSome (s.nextStreak c)) (hw : x.Clear R.CORE_FAULTS_count) :
    (s.faultRecorded c pc w f).fld x c = v % 2 ^ x.width := by
  obtain ⟨-, -, hlo, hr, -⟩ := id hw
  rw [State.faultRecorded, State.count, if_neg (by decide), State.fld_put_clear _ hw,
    State.fld_putAll (by rw [faultFields_fst]; exact faultFlds_clear) hx ⟨hlo, hr⟩]

/-- A field that the record does not set stays. -/
theorem State.fld_faultRecorded_clear {x : Fld} (hx : ∀ y ∈ faultFlds, x.Clear y) (hw : x.Clear R.CORE_FAULTS_count) :
    (s.faultRecorded c pc w f).fld x c = s.fld x c := by
  rw [State.faultRecorded, State.count, if_neg (by decide), State.fld_put_clear _ hw,
    State.fld_putAll_clear (by rwa [faultFields_fst])]

theorem satAdd_lt {v : Nat} (h : v < 2 ^ 33) : satAdd v 1 < 2 ^ 33 := by
  unfold satAdd
  split <;> omega

theorem State.fld_faultRecorded_count :
    (s.faultRecorded c pc w f).fld R.CORE_FAULTS_count c = satAdd (s.fld R.CORE_FAULTS_count c) 1 := by
  have width : R.CORE_FAULTS_count.width = 33 := rfl
  have old : s.fld R.CORE_FAULTS_count c < 2 ^ 33 := s.fld_lt (x := R.CORE_FAULTS_count) (by decide) c 0
  rw [State.faultRecorded, State.count, if_neg (by decide), State.fld_put _ _ _ _ _ (by decide) (by decide),
    State.fld_putAll_clear (by rw [faultFields_fst]; decide), width, Nat.mod_eq_of_lt (satAdd_lt old)]

/-- The record changes registers alone. -/
theorem State.faultRecorded_ctl : ∃ ctl, s.faultRecorded c pc w f = { s with ctl := ctl } := by
  rw [State.faultRecorded, State.count, if_neg (by decide), State.putAll_ctl]
  exact ⟨_, rfl⟩

/-- A core that stops with its fault changes itself, registers and interrupts alone. -/
theorem State.faultStops_eq : ∃ ctl irqs, s.faultStops c f = ({ s with ctl := ctl, irqs := irqs } : State).updCore c (fun k =>
    { k with wait := .none, barPass := false, deferred := none, remoteFault := none }) := by
  unfold State.faultStops
  extract_lets t u
  have hu : u = { s with ctl := u.ctl, irqs := u.irqs } := by unfold u t; split <;> split <;> rfl
  exact ⟨u.ctl, u.irqs, by rw [← hu]⟩

/-- SEC_DENIED lies in no core's block. -/
theorem State.fld_faultStops {x : Fld} {i j : Nat} (hx : CoreReg (x.addr i j)) : (s.faultStops c f).fld x i j = s.fld x i j := by
  have other : x.addr i j ≠ R.SEC_DENIED_count.addr 0 0 := by
    unfold CoreReg at hx
    have : R.SEC_DENIED_count.addr 0 0 = 0xF007000300 := rfl
    omega
  unfold State.faultStops
  extract_lets t u
  have ht : t.fld x i j = s.fld x i j := by
    unfold t
    split
    · exact State.fld_put_other s other _
    · rfl
  have hu : u.fld x i j = t.fld x i j := by unfold u; split <;> rfl
  exact hu.trans ht

theorem State.faultStops_irqs :
    (s.faultStops c f).irqs = s.irqs ++ (if s.bit R.CORE_CTRL_fault_irq c then [.core c] else []) := by
  unfold State.faultStops
  extract_lets t u
  obtain ⟨irqs, bit⟩ : t.irqs = s.irqs ∧ t.bit R.CORE_CTRL_fault_irq c = s.bit R.CORE_CTRL_fault_irq c := by
    unfold t
    split
    · have other : R.CORE_CTRL_fault_irq.addr c 0 ≠ R.SEC_DENIED_count.addr 0 0 := by
        simp only [Fld.addr, R.CORE_CTRL_fault_irq, R.SEC_DENIED_count]
        omega
      exact ⟨rfl, congrArg (· == 1) (State.fld_put_other s other _)⟩
    · exact ⟨rfl, rfl⟩
  rw [← irqs, ← bit, State.updCore_irqs]
  unfold u
  split <;> simp [State.irq]

end

/-! ### The group that shares the section (R50, R124) -/

/-- What stopping with a fault of core c makes of core d of its group: the faulting core leaves the section, another one stops
until that core resumes. -/
def Core.stopped (k : Core) (c d : Nat) : Core :=
  if d = c then { k with sect := none, nextSect := none }
  else { k with sect := none, nextSect := none, wait := .none, barPass := false, resuming := true, stoppedBy := some c }

theorem Core.stopped_stopped (k : Core) (c d : Nat) : (k.stopped c d).stopped c d = k.stopped c d := by
  unfold Core.stopped
  split <;> rfl

/-- Core d stops with a fault of core c. -/
def State.stopWith (s : State) (c d : Nat) : State :=
  if d = c then s.leaveSection d
  else (s.leaveSection d).updCore d (fun x => { x with wait := .none, barPass := false, resuming := true, stoppedBy := some c })

/-- The cores of a group stop with a fault of core c. -/
def State.stopGroup (s : State) (c : Nat) (l : List Nat) : State := l.foldl (fun s d => s.stopWith c d) s

theorem State.core_stopWith (s : State) (c d e : Nat) :
    (s.stopWith c d).core e = if e = d then (s.core e).stopped c d else s.core e := by
  unfold State.stopWith State.leaveSection Core.stopped
  by_cases he : e = d
  · subst he
    split <;> simp [State.core, State.updCore]
  · split <;> simp [State.core, State.updCore, SMap.get_upd_ne, he]

theorem State.core_stopGroup (s : State) (c : Nat) (l : List Nat) (d : Nat) :
    (s.stopGroup c l).core d = if d ∈ l then (s.core d).stopped c d else s.core d := by
  induction l generalizing s with
  | nil => rfl
  | cons e l ih =>
    refine (ih (s.stopWith c e)).trans ?_
    rw [State.core_stopWith]
    by_cases he : d = e
    · subst he
      simp [Core.stopped_stopped]
    · simp [he]

/-- Of the registers a stopped group changes CORE_STATUS alone. -/
theorem State.fld_stopGroup {x : Fld} {i j : Nat} (hx : ∀ d, x.addr i j ≠ R.CORE_STATUS_section.addr d 0) (s : State) (c : Nat)
    (l : List Nat) : (s.stopGroup c l).fld x i j = s.fld x i j := by
  induction l generalizing s with
  | nil => rfl
  | cons e l ih =>
    refine (ih (s.stopWith c e)).trans ?_
    unfold State.stopWith
    split <;> exact State.fld_put_other _ (hx e) 0

theorem State.binders_stopGroup (s : State) (c : Nat) (l : List Nat) : (s.stopGroup c l).binders = s.binders := by
  induction l generalizing s with
  | nil => rfl
  | cons e l ih =>
    refine (ih (s.stopWith c e)).trans ?_
    unfold State.stopWith
    split <;> rfl

/-- What the scheduler does about the section of a core that faults: nothing, where it has none or stage 9 runs; else the group
stops, and the section ends. -/
theorem State.abandonFor_cases (s : State) (c : Nat) :
    s.abandonFor c = s ∨ s.abandonFor c = s.stopGroup c [c] ∨
      ∃ k, s.abandonFor c = (s.stopGroup c (k.cores (c / 8))).dissolve (c / 8) k true := by
  unfold State.abandonFor
  split
  · exact .inl rfl
  · split
    · exact .inr (.inl (by simp [State.stopGroup, State.stopWith]))
    · next k _ =>
      split
      · exact .inl rfl
      · refine .inr (.inr ⟨k, ?_⟩)
        rfl

/-- A core without a section leaves none. -/
theorem State.abandonFor_none {s : State} {c : Nat} (h : (s.core c).sect.or (s.core c).nextSect = none) : s.abandonFor c = s := by
  unfold State.abandonFor
  rw [h]

/-- The section of a core that faults before stage 9 ends. -/
theorem State.abandonFor_some {s : State} {c ser : Nat} {k : Section} (hs : (s.core c).sect = some ser)
    (hk : s.sect (c / 8) ser = some k) (hp : k.phase ≠ .committing) :
    s.abandonFor c = (s.stopGroup c (k.cores (c / 8))).dissolve (c / 8) k true := by
  simp only [State.abandonFor, hs, Option.some_or, hk, if_neg hp]
  rfl

/-- The core has no section to end, or its end unloads no binder. -/
abbrev State.endsAside (s : State) (c : Nat) : Prop := (s.core c).sect.or (s.core c).nextSect = none ∨ s.noSwap

section
variable {s : State} {c : Nat} (hc : c < 128) (hs : s.noSwap)
include hc hs

/-- The section's end leaves the cores as their stop left them. -/
theorem aside_endSection (k : Section) (l : List Nat) :
    CoresKept (s.stopGroup c l) ((s.stopGroup c l).dissolve (c / 8) k true) :=
  aside_dissolve (by omega) _ k true (by rwa [State.noSwap, State.binders_stopGroup])

theorem State.abandonFor_core : (s.abandonFor c).core c = s.core c ∨ (s.abandonFor c).core c = (s.core c).stopped c c := by
  have group (l : List Nat) : (s.stopGroup c l).core c = s.core c ∨ (s.stopGroup c l).core c = (s.core c).stopped c c := by
    rw [State.core_stopGroup]
    split
    · exact .inr rfl
    · exact .inl rfl
  rcases s.abandonFor_cases c with h | h | ⟨k, h⟩
  · exact .inl (by rw [h])
  · rw [h]
    exact group [c]
  · rw [h, (aside_endSection hc hs k _).core]
    exact group _

theorem State.abandonFor_group {ser d : Nat} {k : Section} (hsect : (s.core c).sect = some ser)
    (hk : s.sect (c / 8) ser = some k) (hp : k.phase ≠ .committing) (hd : d ∈ k.cores (c / 8)) :
    (s.abandonFor c).core d = (s.core d).stopped c d := by
  rw [State.abandonFor_some hsect hk hp, (aside_endSection hc hs k _).core, State.core_stopGroup, if_pos hd]

end

/-- The fields of a core's registers but CORE_STATUS. -/
abbrev Fld.OfCore (x : Fld) : Prop :=
  x.s1 = 0x10000 ∧ x.s2 = 0 ∧ 0xF002000000 ≤ x.base ∧ x.base < 0xF002010000 ∧ x.base ≠ 0xF002000008

theorem Fld.OfCore.coreReg {x : Fld} (hx : x.OfCore) {c : Nat} (hc : c < 128) : CoreReg (x.addr c 0) := by
  obtain ⟨h1, h2, hlo, hhi, -⟩ := hx
  rw [Fld.addr, h1, h2, CoreReg]
  omega

theorem Fld.OfCore.not_status {x : Fld} (hx : x.OfCore) (c d : Nat) : x.addr c 0 ≠ R.CORE_STATUS_section.addr d 0 := by
  obtain ⟨h1, h2, hlo, hhi, hne⟩ := hx
  simp only [Fld.addr, h1, h2, R.CORE_STATUS_section]
  omega

/-- The end of a section leaves what the core's registers say, but for CORE_STATUS. -/
theorem State.fld_abandonFor {s : State} {c : Nat} (hc : c < 128) (h : s.endsAside c) {x : Fld} (hx : x.OfCore) :
    (s.abandonFor c).fld x c = s.fld x c := by
  rcases h with h | hs
  · rw [State.abandonFor_none h]
  · rcases s.abandonFor_cases c with h | h | ⟨k, h⟩
    · rw [h]
    · rw [h, State.fld_stopGroup (hx.not_status c)]
    · rw [h, (aside_endSection hc hs k _).fld (hx.coreReg hc), State.fld_stopGroup (hx.not_status c)]

/-! ### The fault as a whole -/

section
variable {s : State} {c : Nat} {pc : BitVec 52} {w : W64} {f : CFlt}

/-- The state in which the section of a core that faults ends. -/
def State.faultedAt (s : State) (c : Nat) (pc : BitVec 52) (w : W64) (f : CFlt) : State :=
  (s.faultRecorded c pc w f).faultStops c f

/-- It differs from the state before the fault in that core, registers and interrupts alone. -/
theorem State.faultedAt_eq : ∃ ctl irqs, s.faultedAt c pc w f = ({ s with ctl := ctl, irqs := irqs } : State).updCore c (fun k =>
    { k with wait := .none, barPass := false, deferred := none, remoteFault := none }) := by
  obtain ⟨ctl, recorded⟩ := s.faultRecorded_ctl c pc w f
  obtain ⟨ctl', irqs, stops⟩ := (s.faultRecorded c pc w f).faultStops_eq c f
  exact ⟨ctl', irqs, by rw [State.faultedAt, stops, recorded]⟩

theorem State.faultedAt_core : (s.faultedAt c pc w f).core c =
    { s.core c with wait := .none, barPass := false, deferred := none, remoteFault := none } := by
  obtain ⟨ctl, irqs, h⟩ := s.faultedAt_eq (c := c) (pc := pc) (w := w) (f := f)
  rw [h, State.core_updCore]
  rfl

theorem State.faultedAt_core_ne {d : Nat} (hd : d ≠ c) : (s.faultedAt c pc w f).core d = s.core d := by
  obtain ⟨ctl, irqs, h⟩ := s.faultedAt_eq (c := c) (pc := pc) (w := w) (f := f)
  rw [h, State.core_updCore_ne _ _ hd]
  rfl

theorem State.faultedAt_mem : (s.faultedAt c pc w f).mem = s.mem := by
  obtain ⟨ctl, irqs, h⟩ := s.faultedAt_eq (c := c) (pc := pc) (w := w) (f := f)
  rw [h, State.updCore_mem]

theorem State.faultedAt_hoops : (s.faultedAt c pc w f).hoops = s.hoops := by
  obtain ⟨ctl, irqs, h⟩ := s.faultedAt_eq (c := c) (pc := pc) (w := w) (f := f)
  rw [h, State.updCore_hoops]

theorem State.faultedAt_binders : (s.faultedAt c pc w f).binders = s.binders := by
  obtain ⟨ctl, irqs, h⟩ := s.faultedAt_eq (c := c) (pc := pc) (w := w) (f := f)
  rw [h, State.updCore_binders]

/-- The condition on sections and swaps reads the same in the state in which the section ends. -/
theorem State.faultedAt_endsAside (h : s.endsAside c) : (s.faultedAt c pc w f).endsAside c := by
  rw [State.endsAside, State.faultedAt_core, State.noSwap, State.faultedAt_binders]
  exact h

theorem State.fld_faultedAt {x : Fld} (hx : x.OfCore) (hc : c < 128) :
    (s.faultedAt c pc w f).fld x c = (s.faultRecorded c pc w f).fld x c :=
  State.fld_faultStops _ _ _ (hx.coreReg hc)

/-- The core holds after a fault: by hold_on_fault, or from the eighth fault of a streak on (R125, R127). -/
def State.holdsNext (s : State) (c : Nat) : Bool := s.bit R.CORE_CTRL_hold_on_fault c || decide (8 ≤ s.nextStreak c)

/-- Taking a fault in its parts, with whether the core holds as the state before the fault says it. -/
theorem State.takeFault_holds (hc : c < 128) (h : s.endsAside c) :
    s.takeFault c pc w f = ((s.faultedAt c pc w f).abandonFor c).faultHolds c (s.holdsNext c) := by
  have hold : ((s.faultedAt c pc w f).abandonFor c).bit R.CORE_CTRL_hold_on_fault c = s.bit R.CORE_CTRL_hold_on_fault c := by
    have own : R.CORE_CTRL_hold_on_fault.OfCore := by decide
    rw [State.bit, State.bit, State.fld_abandonFor hc (State.faultedAt_endsAside h) own, State.fld_faultedAt own hc,
      State.fld_faultRecorded_clear _ _ _ _ _ (by decide) (by decide)]
  rw [State.takeFault_eq, State.holdsNext, ← hold]
  rfl

/-- The registers of the core but CORE_STATUS after a fault are those of its record. -/
theorem State.fld_takeFault (hc : c < 128) (h : s.endsAside c) {x : Fld} (hx : x.OfCore) :
    (s.takeFault c pc w f).fld x c = (s.faultRecorded c pc w f).fld x c := by
  have status : x.addr c 0 ≠ R.CORE_STATUS_run_state.addr c 0 := hx.not_status c c
  rw [State.takeFault_holds hc h, State.faultHolds, State.fld_put_other _ status, ← State.fld_faultedAt hx hc,
    ← State.fld_abandonFor hc (State.faultedAt_endsAside h) hx]
  rfl

theorem State.runState_takeFault (hc : c < 128) (h : s.endsAside c) :
    (s.takeFault c pc w f).fld R.CORE_STATUS_run_state c = if s.holdsNext c then 3 else 2 := by
  rw [State.takeFault_holds hc h, State.faultHolds, State.fld_put _ _ _ _ _ (by decide) (by decide)]
  split <;> rfl

theorem faultFlds_own : ∀ x ∈ faultFlds, x.OfCore ∧ x.Clear R.CORE_FAULTS_count := by decide

/-- What a fault records is what the core's registers say after it. -/
theorem State.fld_takeFault_record (hc : c < 128) (h : s.endsAside c) {x : Fld} {v : Nat}
    (hx : (x, v) ∈ faultFields pc w f (s.core c).sect.isSome (s.nextStreak c)) :
    (s.takeFault c pc w f).fld x c = v % 2 ^ x.width := by
  obtain ⟨own, clear⟩ := faultFlds_own x (faultFields_fst pc w f _ _ ▸ List.mem_map_of_mem hx)
  rw [State.fld_takeFault hc h own, State.fld_faultRecorded s c pc w f hx clear]

section
variable (hc : c < 128) (hs : s.noSwap)
include hc hs

theorem State.takeFault_core : (s.takeFault c pc w f).core c =
    { ((s.faultedAt c pc w f).abandonFor c).core c with resuming := !s.holdsNext c } := by
  rw [State.takeFault_holds hc (.inr hs), State.faultHolds, State.core, State.put_cores]
  exact State.core_updCore _ _ _

theorem State.takeFault_core_ne {d : Nat} (hd : d ≠ c) :
    (s.takeFault c pc w f).core d = ((s.faultedAt c pc w f).abandonFor c).core d := by
  rw [State.takeFault_holds hc (.inr hs), State.faultHolds, State.core, State.put_cores]
  exact State.core_updCore_ne _ _ hd

/-- The core that faults keeps its registers and its pc, and waits for nothing. -/
theorem State.takeFault_own : ∃ sect nextSect, (s.takeFault c pc w f).core c =
    { s.core c with wait := .none, barPass := false, deferred := none, remoteFault := none, sect := sect, nextSect := nextSect,
                    resuming := !s.holdsNext c } := by
  have quiet : (s.faultedAt c pc w f).noSwap := by rwa [State.noSwap, State.faultedAt_binders]
  rw [State.takeFault_core hc hs]
  rcases State.abandonFor_core hc quiet with h | h
  · exact ⟨(s.core c).sect, (s.core c).nextSect, by rw [h, State.faultedAt_core]⟩
  · exact ⟨none, none, by rw [h, State.faultedAt_core, Core.stopped, if_pos rfl]⟩

/-- Another core of the group stops with it, and keeps its pc. -/
theorem State.takeFault_group {ser d : Nat} {k : Section} (hsect : (s.core c).sect = some ser)
    (hk : s.sect (c / 8) ser = some k) (hp : k.phase ≠ .committing) (hd : d ∈ k.cores (c / 8)) (hne : d ≠ c) :
    (s.takeFault c pc w f).core d = (s.core d).stopped c d := by
  have quiet : (s.faultedAt c pc w f).noSwap := by rwa [State.noSwap, State.faultedAt_binders]
  have held : ((s.faultedAt c pc w f).core c).sect = some ser := by rw [State.faultedAt_core]; exact hsect
  have found : (s.faultedAt c pc w f).sect (c / 8) ser = some k := by
    rw [State.sect, State.hoop, State.faultedAt_hoops]
    exact hk
  rw [State.takeFault_core_ne hc hs hne, State.abandonFor_group hc quiet held found hp hd, State.faultedAt_core_ne hne]

end

/-- A fault outside a section changes no memory and raises the interrupt alone that fault_irq asks for. -/
theorem State.takeFault_outside (hc : c < 128) (h : (s.core c).sect.or (s.core c).nextSect = none) :
    (s.takeFault c pc w f).irqs = s.irqs ++ (if s.bit R.CORE_CTRL_fault_irq c then [.core c] else []) ∧
      (s.takeFault c pc w f).mem = s.mem := by
  have alone : ((s.faultedAt c pc w f).core c).sect.or ((s.faultedAt c pc w f).core c).nextSect = none := by
    rw [State.faultedAt_core]
    exact h
  have irq : (s.faultRecorded c pc w f).bit R.CORE_CTRL_fault_irq c = s.bit R.CORE_CTRL_fault_irq c :=
    congrArg (· == 1) (s.fld_faultRecorded_clear c pc w f (x := R.CORE_CTRL_fault_irq) (by decide) (by decide))
  obtain ⟨ctl, hr⟩ := s.faultRecorded_ctl c pc w f
  have irqs : (s.faultRecorded c pc w f).irqs = s.irqs := by rw [hr]
  rw [State.takeFault_holds hc (.inl h), State.abandonFor_none alone, ← irq, ← irqs]
  exact ⟨State.faultStops_irqs _ c f, State.faultedAt_mem⟩

end
end Sys2Proof.Machine

/-- Settles O20: the record stands in the core's own registers, which the end of its section leaves alone but for CORE_STATUS
(`aside_dissolve`), and of the cores the end of a section touches none that its group has not stopped. -/
theorem takingAFault : Obligations.TakingAFault := by
  intro c pc w f s
  have hc := c.isLt
  refine ⟨fun h => ?_, State.takeFault_outside hc, fun hs => ?_, fun ser k d hs hsect hk hp hd hne => ?_⟩
  · have record {x : Fld} {v : Nat} := s.fld_takeFault_record (pc := pc) (w := w) (f := f) hc h (x := x) (v := v)
    have small {x : Fld} {v : Nat} (hx : (x, v) ∈ faultFields pc w f (s.core c).sect.isSome (s.nextStreak c))
        (hv : v < 2 ^ x.width) : (s.takeFault c pc w f).fld x c = v := (record hx).trans (Nat.mod_eq_of_lt hv)
    refine ⟨record (by simp [faultFields]), small (by simp [faultFields, State.nextStreak]) ?_,
      small (by simp [faultFields]) ?_, small (by simp [faultFields]) ?_, small (by simp [faultFields]) pc.isLt,
      small (by simp [faultFields]) w.isLt, record (by simp [faultFields]), ?_, State.runState_takeFault hc h⟩
    · exact lt_of_le_of_lt (min_le_right _ _) (by decide)
    · exact Bool.toNat_lt _
    · exact Bool.toNat_lt _
    · exact (State.fld_takeFault hc h (by decide)).trans (s.fld_faultRecorded_count c pc w f)
  · obtain ⟨sect, nextSect, own⟩ := State.takeFault_own (pc := pc) (w := w) (f := f) hc hs
    rw [own]
    exact ⟨rfl, rfl, rfl, rfl, rfl, rfl, rfl⟩
  · rw [State.takeFault_group hc hs hsect hk hp hd hne, Core.stopped, if_neg hne]
    exact ⟨rfl, rfl, rfl, rfl, rfl⟩

end

section
/-! PROOFS. The folio commands (R35, R37, R38, R40, R41), and the steps that form, load, run and commit sections (R47, R54, R55,
R58, R61). -/

open Sys2Proof Sys2Proof.Machine
-- One declaration after the other, as in the tests: the threads of one compile share its memory limit.
set_option Elab.async false

namespace Sys2Proof.Machine

/-! ### The frame of a folio command -/

section
variable {i : Instr} {p : Port} {n : Folio} {s t : State} {eff : State → State}

theorem folOp_busy (hi : exec i s = .next (s.folOp p n eff)) (hp : Permit s p folCmdAddr)
    (hb : s.bit R.FOL_STATUS_busy = true) : exec i s = .next s :=
  exec_regCmd_self hi hp (if_pos hb)

theorem folOp_reads (hi : exec i s = .next (s.folOp p n eff)) (hp : Permit s p folCmdAddr)
    (hb : s.bit R.FOL_STATUS_busy = false) : Leads i s (s.reading [n] eff) :=
  leads_regCmd hi hp (if_neg (by rw [hb]; decide))

theorem folOp_sound (hi : exec i s = .next (s.folOp p n eff)) (hp : Permit s p folCmdAddr)
    (hb : s.bit R.FOL_STATUS_busy = false) (hw : s.sramWords (dirAddr n) 16 = []) (he : eff s = t) : Leads i s t := by
  have reads := folOp_reads hi hp hb
  rwa [State.reading_sound hw, he] at reads

/-- An operation on a folio whose entry holds an uncorrectable word retires the device (Table 13-3, code 7). -/
theorem State.reading_retires (h : s.sramBad (dirAddr n) 16 ≠ []) (eff : State → State) :
    s.reading [n] eff = (s.sramCheck (dirAddr n) 16).retireNow true := by
  have bad : [n].any (fun n => s.dirBad (dirAddr n) 16) = true := by simp [State.dirBad, areaOf_dirAddr, h]
  rw [State.reading_bad bad, List.foldl_cons, List.foldl_nil, State.checkLocal, areaOf_dirAddr]
  rfl

theorem folOp_retires (hi : exec i s = .next (s.folOp p n eff)) (hp : Permit s p folCmdAddr)
    (hb : s.bit R.FOL_STATUS_busy = false) (hbad : s.sramBad (dirAddr n) 16 ≠ []) :
    Leads i s ((s.sramCheck (dirAddr n) 16).retireNow true) := by
  rw [← State.reading_retires hbad eff]
  exact folOp_reads hi hp hb

end

/-! ### The folio commands -/

/-- A folio that CLOSE, RESET and MOVE apply to (R37). -/
abbrev FolState.inUse (st : FolState) : Prop := st = .idle ∨ st = .ready ∨ st = .active

section
variable {p : Port} {n : Folio} {s : State} (hp : Permit s p folCmdAddr) (hb : s.bit R.FOL_STATUS_busy = false)
  (hw : s.sramWords (dirAddr n) 16 = [])
include hp hb hw

theorem folOpen_accepted {h : Nat} (hc : s.openCheck n = (0, h)) : Leads (.folOpen p n) s (s.openAccept n h) :=
  folOp_sound rfl hp hb hw (by simp only [hc])

theorem folOpen_refused {r h : Nat} (hc : s.openCheck n = (r, h)) (hr : r ≠ 0) : Leads (.folOpen p n) s (s.folDone n r) :=
  folOp_sound rfl hp hb hw (by simp only [hc])

theorem folClose_idle (hst : (s.ent n).st = .idle) : Leads (.folClose p n) s ((s.enterClosing n).folDone n 0) :=
  folOp_sound rfl hp hb hw (by simp only [hst])

theorem folClose_ready (hst : (s.ent n).st = .ready) :
    Leads (.folClose p n) s (((s.enterClosing n).schedStat (s.ent n).hoop.toNat).folDone n 0) :=
  folOp_sound rfl hp hb hw (by simp only [hst])

theorem folClose_active (hst : (s.ent n).st = .active) :
    Leads (.folClose p n) s ((s.updEnt n (fun e => { e with closePending := true })).folDone n 0) :=
  folOp_sound rfl hp hb hw (by simp only [hst])

theorem folClose_refused (hst : ¬ (s.ent n).st.inUse) : Leads (.folClose p n) s (s.folDone n 1) :=
  folOp_sound rfl hp hb hw (by
    split
    · next e => exact absurd (.inl e) hst
    · next e => exact absurd (.inr (.inl e)) hst
    · next e => exact absurd (.inr (.inr e)) hst
    · rfl)

theorem folReset_accepted (hst : (s.ent n).st.inUse) :
    Leads (.folReset p n) s ((s.updEnt n (fun e => { e with resetPending := true })).folDone n 0) :=
  folOp_sound rfl hp hb hw (if_pos hst)

theorem folReset_refused (hst : ¬ (s.ent n).st.inUse) : Leads (.folReset p n) s (s.folDone n 1) :=
  folOp_sound rfl hp hb hw (if_neg hst)

/-- What MOVE makes of a folio that can move (R41). -/
def State.moveTo (s : State) (n : Folio) (h : BitVec 4) : State :=
  if (s.ent n).st = .active then (s.updFol n (fun f => { f with moveTo := some h })).folDone n 0
  else if (s.ent n).resident then
    (({ s with folCmd := some (.moving n h) } : State).put R.FOL_STATUS_busy 1).put R.FOL_STATUS_folio n.toNat
  else (s.rehome n h).folDone n 0

theorem folMove_refused (hst : ¬ (s.ent n).st.inUse) : Leads (.folMove p n) s (s.folDone n 1) :=
  folOp_sound rfl hp hb hw (if_pos (by simpa [not_or] using hst))

theorem folMove_noHoop (hst : (s.ent n).st.inUse)
    (hh : (s.hoopsFor (s.ent n).binder).contains (s.fld R.FOL_ARG0_hoop % 16) = false) : Leads (.folMove p n) s (s.folDone n 3) :=
  folOp_sound rfl hp hb hw (by
    dsimp only
    rw [if_neg (by simpa [or_iff_not_imp_left] using hst), if_pos (by simpa using hh)])

theorem folMove_moves (hst : (s.ent n).st.inUse)
    (hh : (s.hoopsFor (s.ent n).binder).contains (s.fld R.FOL_ARG0_hoop % 16) = true) :
    Leads (.folMove p n) s (s.moveTo n (BitVec.ofNat 4 (s.fld R.FOL_ARG0_hoop))) :=
  folOp_sound rfl hp hb hw (by
    dsimp only
    rw [if_neg (by simpa [or_iff_not_imp_left] using hst), if_neg (by simpa using hh)]
    rfl)

end

theorem State.moveTo_active {s : State} {n : Folio} (h : BitVec 4) (hst : (s.ent n).st = .active) :
    s.moveTo n h = (s.updFol n (fun f => { f with moveTo := some h })).folDone n 0 := if_pos hst

theorem State.moveTo_resident {s : State} {n : Folio} (h : BitVec 4) (hst : (s.ent n).st ≠ .active) (hr : (s.ent n).resident = true) :
    s.moveTo n h =
      (({ s with folCmd := some (.moving n h) } : State).put R.FOL_STATUS_busy 1).put R.FOL_STATUS_folio n.toNat := by
  rw [State.moveTo, if_neg hst, if_pos hr]

theorem State.moveTo_absent {s : State} {n : Folio} (h : BitVec 4) (hst : (s.ent n).st ≠ .active) (hr : (s.ent n).resident = false) :
    s.moveTo n h = (s.rehome n h).folDone n 0 := by
  rw [State.moveTo, if_neg hst, if_neg (by rw [hr]; decide)]

end Sys2Proof.Machine

/-- Settles O15: each command in the frame `folOp`, which discards it while one runs and reads the folio's entry first. -/
theorem folioCommands : Obligations.FolioCommands := by
  refine ⟨fun p n s hp hb hw => ?_, fun p n s hp hb hbad => ?_, fun p n s hp hb => ?_⟩
  · refine ⟨fun h => folOpen_accepted hp hb hw, fun r h => folOpen_refused hp hb hw, fun hi hr ha => ?_, folMove_noHoop hp hb hw,
      folClose_idle hp hb hw, folClose_ready hp hb hw, folClose_active hp hb hw, folReset_accepted hp hb hw, fun hh => ?_⟩
    · have closed : ¬ (s.ent n).st.inUse := by simp [FolState.inUse, hi, hr, ha]
      exact ⟨folClose_refused hp hb hw closed, folReset_refused hp hb hw closed, folMove_refused hp hb hw closed⟩
    · refine ⟨fun ha => ?_, fun hst => ?_⟩
      · rw [← State.moveTo_active _ ha]
        exact folMove_moves hp hb hw (.inr (.inr ha)) hh
      · have moves := folMove_moves hp hb hw (hst.imp_right .inl) hh
        have settled : (s.ent n).st ≠ .active := by rcases hst with e | e <;> simp [e]
        refine ⟨fun hr => ?_, fun hr => ?_⟩
        · rwa [State.moveTo_absent _ settled hr] at moves
        · rwa [State.moveTo_resident _ settled hr] at moves
  · exact ⟨folOp_retires rfl hp hb hbad, folOp_retires rfl hp hb hbad, folOp_retires rfl hp hb hbad, folOp_retires rfl hp hb hbad⟩
  · exact ⟨folOp_busy rfl hp hb, folOp_busy rfl hp hb, folOp_busy rfl hp hb, folOp_busy rfl hp hb⟩

namespace Sys2Proof.Machine

/-! ### The steps of a section -/

/-- A step on folios whose entries are all sound goes on from the state as it is. -/
theorem State.reading_allSound {s : State} {ns : List Folio} (h : ∀ n ∈ ns, s.sramWords (dirAddr n) 16 = []) (eff : State → State) :
    s.reading ns eff = eff s := by
  have sound : ns.any (fun n => s.dirBad (dirAddr n) 16) = false := by
    rw [List.any_eq_false]
    intro n hn
    simp [State.dirBad, State.sramBad_sound (h n hn)]
  have checks : ns.foldl (fun s n => s.checkLocal (dirAddr n) 16) s = s := by
    clear sound
    induction ns with
    | nil => rfl
    | cons n ns ih =>
      rw [List.forall_mem_cons] at h
      have check : s.checkLocal (dirAddr n) 16 = s := by
        simp [State.checkLocal, areaOf_dirAddr, Area.sram, State.sramCheck_sound h.1]
      rw [List.foldl_cons, check, ih h.2]
  rw [State.reading_ok sound, checks]

section
variable {h : HoopId} {s : State} (hm : s.mainOn = true)
include hm

theorem schedulerPick_reads (hf : s.forming = true) (ho : s.hoopOn h = true) (hd : s.bit R.HOOP_MAINT_drain h = false)
    (hu : (s.hoop h).ucode = false) : Leads (.schedulerPick h) s (s.reading (s.readyOn h) (fun s => s.pickNow h)) :=
  leads_mainEv rfl hm (if_neg (by simp [hf, ho, hd, hu]))

variable {ser : Nat} {k : Section} (hk : s.sect h ser = some k)
include hk

theorem sectionFillTimeout_closes (hp : k.phase = .forming) (hf : s.forming = true)
    (hw : k.earliest.1 + (s.bpar k.binder).waitUs * 1000 ≤ s.now) : Leads (.sectionFillTimeout h ser) s (s.closeSection h ser) :=
  leads_mainEv rfl hm (by simp only [hk, hp, hf, State.fillOver, decide_eq_true hw, and_self, if_true])

theorem sectionDeadlineClose_closes (hp : k.phase = .forming) (hf : s.forming = true)
    (hd : (k.earliest.2 - s.now) * 2 ^ 149 * s.fld R.PWR_ARITH_present
      ≤ sectionCost (s.bpar k.binder) (k.members.length * (s.bpar k.binder).frames)) :
    Leads (.sectionDeadlineClose h ser) s (s.closeSection h ser) :=
  leads_mainEv rfl hm (by simp only [hk, hp, hf, State.deadlineNear, decide_eq_true hd, and_self, if_true])

theorem stateLoad_reads (hp : k.phase = .loading) (ht : k.table.isSome = true) :
    Leads (.stateLoad h ser) s (s.reading k.folios (fun s => (s.loadMembers h ser k).formTable h ser)) :=
  leads_mainEv rfl hm (by
    simp only [hk]
    exact if_neg (by simp [hp, Option.isSome_iff_ne_none.1 ht]))

theorem sectionHandover_runs (hp : k.phase = .formed) (ho : s.hoopOn h = true)
    (hw : (k.cores h).all (fun c => (s.core c).wait == .stNext) = true) :
    Leads (.sectionHandover h ser) s (s.handOver h ser k) :=
  leads_mainEv rfl hm (by
    simp only [hk]
    exact if_neg (by simp only [hp, ho, hw]; decide))

theorem sectionCommit_reads {b : Binder} (hf : s.fenced = false) (hr : s.commitReady h k = true)
    (hb : s.binder k.binder = some b) :
    Leads (.sectionCommit h ser) s (s.reading k.folios (fun s => s.commitStart h ser k b)) :=
  leads_mainEv rfl hm (by
    simp only [hk, hb]
    rw [if_neg (by simp [hf]), if_neg (by simp [hr])])

theorem commitComplete_reads (hp : k.phase = .committing) :
    Leads (.commitComplete h ser) s (s.reading k.folios (fun s => s.commitEnd h ser k)) :=
  leads_mainEv rfl hm (by
    simp only [hk]
    exact if_neg (not_not_intro hp))

end
end Sys2Proof.Machine

/-- Settles O17, step by step; with sound entries the scheduler picks at once. -/
theorem sectionsProgress : Obligations.SectionsProgress := by
  refine ⟨fun h s hm hf ho hd hu => ?_, fun h ser k s hm hk => ?_⟩
  · have picks := schedulerPick_reads hm hf ho hd hu
    refine ⟨picks, fun sound => ?_⟩
    rwa [State.reading_allSound sound] at picks
  · exact ⟨sectionFillTimeout_closes hm hk, sectionDeadlineClose_closes hm hk, stateLoad_reads hm hk, sectionHandover_runs hm hk,
      fun b _ => sectionCommit_reads hm hk, commitComplete_reads hm hk⟩

end

section
/-! PROOFS. ST.EMIT (R59): the record that a member is given, where two sections of a hoop have one serial. -/

open Sys2Proof Sys2Proof.Machine
-- One declaration after the other, as in the tests: the threads of one compile share its memory limit.
set_option Elab.async false

namespace Sys2Proof.Machine

/-! ### What ST.EMIT appends -/

section
variable {c : CoreId} {ops : BitVec 52} {s : State} {ser : Nat} {k : Section}

theorem needSection_bind {β : Type} (g : Section → M β) (hs : (s.core c).sect = some ser)
    (hk : s.sect (c.val / 8) ser = some k) : (needSection c >>= g) s = g k s := by
  have held : s.held c = some k := by rw [State.held, hs]; exact hk
  simp only [needSection, bind_assoc, M.get_bind, held]
  rfl

theorem updHeld_run (f : Section → Section) (hs : (s.core c).sect = some ser) :
    updHeld c f s = .ok ((), s.updSect (c.val / 8) ser f) := by
  simp only [updHeld, M.modify_run, hs]

/-- The record that ST.EMIT makes for a member of the section that its core holds. -/
def State.emitted (s : State) (c : CoreId) (ops : BitVec 52) (k : Section) (x : Member) : BitVec 128 :=
  tokenRecord x.folio.toNat k.binder.toNat x.seq.toNat (s.sreg c (fldB ops)).toNat (s.sreg c (fldC ops)).toNat
    (bits (s.sreg c (fldC ops)).toNat 32 16) (fldD ops)

/-- ST.EMIT appends one record, made of the section that the core holds, to the member of every section with its serial. -/
theorem stEmit_appends {m : Nat} {x : Member} (ht : Takes s c (word clsST 2 ops) (zbits 28 0)) (hs : (s.core c).sect = some ser)
    (hk : s.sect (c.val / 8) ser = some k) (hx : k.members[m]? = some x) (hm : (s.sreg c (fldA ops)).toNat = m)
    (hr : x.recs.length < 64) (hf : (s.sreg c (fldB ops)).toNat < (s.bpar k.binder).frames)
    (hv : (s.sreg c (fldC ops)).toNat % 2 ^ 20 ≠ 0xFFFFF) :
    Retires (.stEmit c ops) c s (s.updSect (c.val / 8) ser (fun k' => k'.updMember m (fun y =>
      { y with recs := y.recs ++ [s.emitted c ops k x] }))) := by
  have hlt : ¬ k.members.length ≤ m := Nat.not_le.2 (List.getElem?_eq_some_iff.1 hx).1
  refine retires_of ht rfl ?_
  unfold workStEmit
  rw [needSection_bind _ hs hk]
  simp only [M.getS_bind, M.get_bind, hm, decide_eq_false hlt, decide_eq_false (Nat.not_le.2 hf), beq_eq_false_iff_ne.2 hv,
    M.fltIf_false, hx, if_neg (Nat.ne_of_lt hr)]
  exact updHeld_run _ hs

end

/-! ### Two sections with one serial -/

/-- A member with no record yet, and a section of the binder 5 with the serial 1 and that member. -/
def twinMember (n : Folio) : Member := { folio := n, seq := 0, first := 0, ready := 0, deadline := 0 }
def twinSection (n : Folio) : Section :=
  { serial := 1, binder := 5, core0 := 0, g := 1, phase := .running, members := [twinMember n] }

/-- A binder with one frame and a region to run from. -/
def twinBinder : Binder :=
  { image := 0, par := { frames := 1 }, regions := [⟨0xFFF * 2 ^ 40, 0x1000, true, false, true⟩], entry := 0, sites := [],
    init := [], dtMask := 0, tables := [], base := none, measurement := 0, hoops := [0] }

/-- A running device whose core 0 holds the section of folio 1; a section of folio 2 has the same serial. -/
def twins : State :=
  let s : State :=
    { pwr := { mainOn := true, aon := true }, binders := [(5, twinBinder)],
      hoops := [(0, { sections := [twinSection 1, twinSection 2] })],
      cores := [(0, { pc := BitVec.ofNat 52 (0xFFF * 2 ^ 40), sect := some 1 })] }
  ((s.put R.PWR_HOOP_STAT_on 1).put R.CORE_STATUS_run_state 2 0).put R.CORE_STATUS_binder 5 0

/-- The operands of ST.EMIT with the member in s1, the frame in s2 and the token in s3. -/
def emitOps : BitVec 52 := BitVec.ofNat 52 (1 * 2 ^ 47 + 2 * 2 ^ 42 + 3 * 2 ^ 37)

theorem twins_takes : Takes twins (0 : CoreId) (word clsST 2 emitOps) (zbits 28 0) := by decide +kernel

theorem twins_sect : twins.sect ((0 : CoreId).val / 8) 1 = some (twinSection 1) := by decide +kernel

theorem twins_operands : (twins.sreg (0 : CoreId) (fldA emitOps)).toNat = 0 ∧
    (twins.sreg (0 : CoreId) (fldB emitOps)).toNat < (twins.bpar (twinSection 1).binder).frames ∧
    (twins.sreg (0 : CoreId) (fldC emitOps)).toNat % 2 ^ 20 ≠ 0xFFFFF := by decide +kernel

/-- The records that the members of a hoop's sections hold. -/
def State.recordsHeld (s : State) (h : Nat) : List (List (BitVec 128)) :=
  (s.hoop h).sections.flatMap (fun k => k.members.map (·.recs))

end Sys2Proof.Machine

/-- Refutes O18: the statement makes the record anew in each section that has the serial, of that section's own member, where the
model makes it once, of the section that the core holds (`stEmit_appends`). In a hoop with two sections of one serial, which
the statement does not exclude, the second one's member is given the record of folio 1 and not of folio 2. -/
theorem not_sectionInstructions : ¬ Obligations.SectionInstructions := by
  intro h
  obtain ⟨hm, hf, hv⟩ := twins_operands
  obtain ⟨-, -, -, -, -, emits, -⟩ := h.1 0 emitOps twins
  have stated := (emits 1 (twinSection 1) 0 (twinMember 1) rfl twins_sect rfl).1 twins_takes hm (by decide) hf hv
  have appends := stEmit_appends twins_takes rfl twins_sect (x := twinMember 1) rfl hm (by decide) hf hv
  have same := congrArg (State.recordsHeld · 0) (Host.Outcome.next.inj (stated.symm.trans appends))
  revert same
  decide +kernel

end

section
/-! PROOFS. The scalar instructions on registers: results, branches, the identity word and the control registers (R109 to R111,
Table 4-8). -/

open Sys2Proof Sys2Proof.Machine
-- One declaration after the other, as in the tests: the threads of one compile share its memory limit.
set_option Elab.async false

namespace Sys2Proof.Machine

/-! ### How a core instruction ends -/

section
variable {i : Instr} {c : CoreId} {w : W64} {z : Nat} {s : State}

/-- The work of an instruction that leaves t and names the next pc. -/
theorem settle_ok {body : M (BitVec 52)} {pc : BitVec 52} {t : State} (h : body s = .ok (pc, t)) :
    s.settle c w body = t.goOn c pc := by simp only [State.settle, h, State.goOn]

/-- The work of an instruction that faults. -/
theorem settle_fault {body : M (BitVec 52)} {f : CFlt} (h : body s = .error (.flt f)) :
    s.settle c w body = s.faulted c w f := by simp only [State.settle, h, State.faulted]

/-- An instruction that names its next pc goes on there. -/
theorem leads_goOn {body : M (BitVec 52)} {pc : BitVec 52} {t : State} (ht : Takes s c w z)
    (hi : exec i s = .next (s.issue c w z body)) (h : body s = .ok (pc, t)) : Leads i s (t.goOn c pc) := by
  rw [Leads, hi, issue_ok ht, settle_ok h]

/-- An instruction whose choice of the next pc faults raises the fault. -/
theorem leads_fault {body : M (BitVec 52)} {f : CFlt} (ht : Takes s c w z) (hi : exec i s = .next (s.issue c w z body))
    (h : body s = .error (.flt f)) : Leads i s (s.faulted c w f) := by
  rw [Leads, hi, issue_ok ht, settle_fault h]

/-- An instruction whose work waits changes nothing. -/
theorem leads_hold {m : M Unit} (ht : Takes s c w z) (hi : exec i s = .next (s.issue c w z (thenNext c m)))
    (h : m s = .error .hold) : Leads i s s := by rw [Leads, hi, issue_ok ht, settle_hold h]

/-- A scalar register written leaves the pc. -/
@[simp] theorem Core.setS_pc (k : Core) (r : Nat) (v : W64) : (k.setS r v).pc = k.pc := by
  unfold Core.setS; split <;> rfl

@[simp] theorem State.pcOf_setS (s : State) (c : CoreId) (r : Nat) (v : W64) :
    (s.updCore c (fun k => k.setS r v)).pcOf c = s.pcOf c := by simp [State.pcOf]

/-- An instruction whose work reads and writes one scalar register. -/
theorem leads_scalarDone {m : M Unit} {t : State} {r : Nat} {v : W64} (ht : Takes s c w z)
    (hi : exec i s = .next (s.issue c w z (thenNext c m))) (h : m s = .ok ((), t.updCore c (fun k => k.setS r v))) :
    Leads i s (t.scalarDone c r v (t.pcOf c + 8)) := by
  rw [Leads, hi, issue_ok ht, settle_next h, State.pcOf_setS]
  rfl

end

/-! ### The formats of Table 4-8 -/

section
variable {i : Instr} {c : CoreId} {op : Nat} {ops : BitVec 52} {s : State}

theorem r3_done {f : W64 → W64 → W64} (ht : Takes s c (word clsSC op ops) zR3) (hi : exec i s = r3 c op ops f s) :
    Leads i s (s.scalarDone c (fldA ops) (f (s.sreg c (fldB ops)) (s.sreg c (fldC ops))) (s.pcOf c + 8)) :=
  leads_scalarDone ht hi rfl

theorem ri_done {f : W64 → BitVec 32 → W64} (ht : Takes s c (word clsSC op ops) zRI) (hi : exec i s = ri c op ops f s) :
    Leads i s (s.scalarDone c (fldA ops) (f (s.sreg c (fldB ops)) (fldImm ops)) (s.pcOf c + 8)) :=
  leads_scalarDone ht hi rfl

/-- The low six bits of the immediate are a shift's distance. -/
theorem bits_fldImm (ops : BitVec 52) : bits ops.toNat 0 6 = (fldImm ops).toNat % 64 := by
  simp only [bits, fldImm, BitVec.toNat_setWidth]
  omega

theorem riShift_done {f : W64 → Nat → W64} (ht : Takes s c (word clsSC op ops) (zRI ||| zbits 31 6))
    (hi : exec i s = riShift c op ops f s) :
    Leads i s (s.scalarDone c (fldA ops) (f (s.sreg c (fldB ops)) ((fldImm ops).toNat % 64)) (s.pcOf c + 8)) := by
  rw [← bits_fldImm]
  exact leads_scalarDone ht hi rfl

theorem iSet_done {z : Nat} {v : State → W64} (ht : Takes s c (word clsSC op ops) (zI ||| z)) (hi : exec i s = iSet c op ops z v s) :
    Leads i s (s.scalarDone c (fldA ops) (v s) (s.pcOf c + 8)) :=
  leads_scalarDone ht hi rfl

theorem br_taken {p : W64 → W64 → Bool} (ht : Takes s c (word clsSC op ops) zRI) (hi : exec i s = br c op ops p s)
    (hp : p (s.sreg c (fldA ops)) (s.sreg c (fldB ops)) = true) :
    Leads i s (s.goOn c (s.pcOf c + 8 * (fldImm ops).signExtend 52)) :=
  leads_goOn ht hi (by simp only [M.getS_bind, M.get_bind, hp, if_pos, M.pure_run]; rfl)

theorem br_passed {p : W64 → W64 → Bool} (ht : Takes s c (word clsSC op ops) zRI) (hi : exec i s = br c op ops p s)
    (hp : p (s.sreg c (fldA ops)) (s.sreg c (fldB ops)) = false) : Leads i s (s.goOn c (s.pcOf c + 8)) :=
  leads_goOn ht hi (by simp only [M.getS_bind, M.get_bind, hp, Bool.false_eq_true, if_false, M.pure_run]; rfl)

end

/-! ### SC.JR (R110, R122) -/

section
variable {c : CoreId} {ops : BitVec 52} {s : State}

theorem scJr_jumps (ht : Takes s c (word clsSC 0x31 ops) (zI ||| zImm)) (hlt : (s.sreg c (fldA ops)).toNat < 2 ^ 52)
    (hal : (s.sreg c (fldA ops)).toNat % 8 = 0) : Leads (.scJr c ops) s (s.goOn c ((s.sreg c (fldA ops)).setWidth 52)) := by
  refine leads_goOn ht rfl ?_
  simp only [M.getS_bind, decide_eq_false (Nat.not_le.2 hlt), hal, ne_eq, not_true, decide_false, M.fltIf_false, M.pure_run]

theorem scJr_beyond (ht : Takes s c (word clsSC 0x31 ops) (zI ||| zImm)) (hge : 2 ^ 52 ≤ (s.sreg c (fldA ops)).toNat) :
    Leads (.scJr c ops) s (s.faulted c (word clsSC 0x31 ops) { code := fDesc, info := (s.sreg c (fldA ops)).toNat }) := by
  refine leads_fault ht rfl ?_
  simp only [M.getS_bind, decide_eq_true hge, M.fltIf_true]

theorem scJr_misaligned (ht : Takes s c (word clsSC 0x31 ops) (zI ||| zImm)) (hlt : (s.sreg c (fldA ops)).toNat < 2 ^ 52)
    (hal : (s.sreg c (fldA ops)).toNat % 8 ≠ 0) :
    Leads (.scJr c ops) s (s.faulted c (word clsSC 0x31 ops) { code := fAlign, info := (s.sreg c (fldA ops)).toNat }) := by
  refine leads_fault ht rfl ?_
  simp only [M.getS_bind, decide_eq_false (Nat.not_le.2 hlt), decide_eq_true hal, M.fltIf_false, M.fltIf_true]

end

/-! ### The control registers of a core's own block (R111, Table 4-13) -/

section
variable {c : CoreId} {ops : BitVec 52} {ok : Nat → Bool} {s : State}

/-- An offset that Table 4-13 does not open, its low bits cleared, is refused. -/
theorem ctlOffset_refused {β : Type} (g : Nat → M β) (h : ok (bits ops.toNat 0 16 / 8 * 8) = false) :
    (ctlOffset c ops ok >>= g) s = .error (.flt { code := fPriv, info := bits ops.toNat 0 16 }) := by
  simp only [ctlOffset, bind_assoc, h, Bool.not_false, M.fltIf_true]

/-- An open offset that is not aligned faults with the register's address. -/
theorem ctlOffset_misaligned {β : Type} (g : Nat → M β) (h : ok (bits ops.toNat 0 16 / 8 * 8) = true)
    (hal : bits ops.toNat 0 16 % 8 ≠ 0) :
    (ctlOffset c ops ok >>= g) s = .error (.flt { code := fAlign, info := coreReg c (bits ops.toNat 0 16) }) := by
  simp only [ctlOffset, bind_assoc, h, Bool.not_true, M.fltIf_false, decide_eq_true hal, M.fltIf_true]

/-- An open, aligned offset is taken. -/
theorem ctlOffset_open {β : Type} (g : Nat → M β) (h : ok (bits ops.toNat 0 16 / 8 * 8) = true)
    (hal : bits ops.toNat 0 16 % 8 = 0) : (ctlOffset c ops ok >>= g) s = g (bits ops.toNat 0 16) s := by
  simp only [ctlOffset, bind_assoc, h, Bool.not_true, M.fltIf_false, hal, ne_eq, not_true, decide_false, pure_bind]

theorem scCrr_reads (ht : Takes s c (word clsSC 0x3A ops) (zI ||| zbits 31 16))
    (h : crrAllowed (bits ops.toNat 0 16 / 8 * 8) = true) (hal : bits ops.toNat 0 16 % 8 = 0) :
    Leads (.scCrr c ops) s
      (s.scalarDone c (fldA ops) (s.regRead (coreReg c (bits ops.toNat 0 16))) (s.pcOf c + 8)) :=
  leads_scalarDone ht rfl (ctlOffset_open _ h hal)

theorem scCrr_refused (ht : Takes s c (word clsSC 0x3A ops) (zI ||| zbits 31 16))
    (h : crrAllowed (bits ops.toNat 0 16 / 8 * 8) = false) :
    Leads (.scCrr c ops) s (s.faulted c (word clsSC 0x3A ops) { code := fPriv, info := bits ops.toNat 0 16 }) :=
  raised_of ht rfl (ctlOffset_refused _ h)

theorem scCrr_misaligned (ht : Takes s c (word clsSC 0x3A ops) (zI ||| zbits 31 16))
    (h : crrAllowed (bits ops.toNat 0 16 / 8 * 8) = true) (hal : bits ops.toNat 0 16 % 8 ≠ 0) :
    Leads (.scCrr c ops) s
      (s.faulted c (word clsSC 0x3A ops) { code := fAlign, info := coreReg c (bits ops.toNat 0 16) }) :=
  raised_of ht rfl (ctlOffset_misaligned _ h hal)

theorem scCrw_writes (ht : Takes s c (word clsSC 0x3B ops) (zI ||| zbits 31 16))
    (h : crwAllowed (bits ops.toNat 0 16 / 8 * 8) = true) (hal : bits ops.toNat 0 16 % 8 = 0) (hs : Settled c s) :
    Retires (.scCrw c ops) c s (s.regStore (coreReg c (bits ops.toNat 0 16)) (s.sreg c (fldA ops))) :=
  retires_of ht rfl (by rw [ctlOffset_open _ h hal, beforeWrite_settled _ hs, M.getS_bind, M.modify_run])

theorem scCrw_refused (ht : Takes s c (word clsSC 0x3B ops) (zI ||| zbits 31 16))
    (h : crwAllowed (bits ops.toNat 0 16 / 8 * 8) = false) :
    Leads (.scCrw c ops) s (s.faulted c (word clsSC 0x3B ops) { code := fPriv, info := bits ops.toNat 0 16 }) :=
  raised_of ht rfl (ctlOffset_refused _ h)

theorem scCrw_misaligned (ht : Takes s c (word clsSC 0x3B ops) (zI ||| zbits 31 16))
    (h : crwAllowed (bits ops.toNat 0 16 / 8 * 8) = true) (hal : bits ops.toNat 0 16 % 8 ≠ 0) :
    Leads (.scCrw c ops) s
      (s.faulted c (word clsSC 0x3B ops) { code := fAlign, info := coreReg c (bits ops.toNat 0 16) }) :=
  raised_of ht rfl (ctlOffset_misaligned _ h hal)

end

/-- Offsets that Table 4-13 opens to reads. -/
theorem crrAllowed_iff (o : Nat) :
    crrAllowed o = true ↔ o = 0x8 ∨ o = 0x3000 ∨ o = 0x3008 ∨ (0x3100 ≤ o ∧ o ≤ 0x32F8) := by
  simp only [crrAllowed, Bool.or_eq_true, beq_iff_eq, decide_eq_true_eq, or_assoc]

/-- Offsets that Table 4-13 opens to writes: the configurations of the 16 monitor slots. -/
theorem crwAllowed_iff (o : Nat) : crwAllowed o = true ↔ ∃ k, k < 16 ∧ o = 0x3100 + 0x20 * k := by
  rw [crwAllowed, decide_eq_true_eq]
  constructor
  · exact fun h => ⟨(o - 0x3100) / 0x20, by omega, by omega⟩
  · rintro ⟨k, hk, rfl⟩; omega

/-- The fields of the identity word (R111). -/
theorem State.identity_bits (s : State) (c : CoreId) :
    bits (s.identity c).toNat 0 7 = c.val ∧ bits (s.identity c).toNat 7 4 = c.val / 8 ∧
      bits (s.identity c).toNat 11 3 = c.val % 8 ∧ bits (s.identity c).toNat 14 12 = s.fld R.TOILE_DEVNUM_devnum ∧
      (s.identity c).toNat / 2 ^ 26 = 0 := by
  have hc := c.isLt
  have hd : s.fld R.TOILE_DEVNUM_devnum < 2 ^ 12 := s.fld_lt (x := R.TOILE_DEVNUM_devnum) (by decide) 0 0
  have hv : (s.identity c).toNat = c.val + c.val / 8 * 2 ^ 7 + c.val % 8 * 2 ^ 11 + s.fld R.TOILE_DEVNUM_devnum * 2 ^ 14 := by
    rw [State.identity, BitVec.toNat_ofNat]
    exact Nat.mod_eq_of_lt (by omega)
  have hh : c.val / 8 < 16 := by omega
  have hl : c.val % 8 < 8 := by omega
  generalize s.fld R.TOILE_DEVNUM_devnum = dev, c.val / 8 = hoop, c.val % 8 = loc at *
  have h7 : (s.identity c).toNat / 2 ^ 7 = hoop + loc * 2 ^ 4 + dev * 2 ^ 7 := by omega
  have h11 : (s.identity c).toNat / 2 ^ 11 = loc + dev * 2 ^ 3 := by omega
  have h14 : (s.identity c).toNat / 2 ^ 14 = dev := by omega
  rw [bits, bits, bits, bits, h7, h11, h14]
  omega

end Sys2Proof.Machine

/-- Settles O21: each is the format R3 with its function. -/
theorem scalarRegisterForms : Obligations.ScalarRegisterForms := fun _ _ _ =>
  ⟨fun ht => r3_done (f := fun a b => a + b) ht rfl,
    fun ht => r3_done (f := fun a b => a - b) ht rfl,
    fun ht => r3_done (f := fun a b => a * b) ht rfl,
    fun ht => r3_done (f := fun a b => a &&& b) ht rfl,
    fun ht => r3_done (f := fun a b => a ||| b) ht rfl,
    fun ht => r3_done (f := fun a b => a ^^^ b) ht rfl,
    fun ht => r3_done (f := fun a b => a <<< (b.toNat % 64)) ht rfl,
    fun ht => r3_done (f := fun a b => a >>> (b.toNat % 64)) ht rfl,
    fun ht => r3_done (f := fun a b => a.sshiftRight (b.toNat % 64)) ht rfl,
    fun ht => r3_done (f := fun a b => if a.slt b then a else b) ht rfl,
    fun ht => r3_done (f := fun a b => if a.slt b then b else a) ht rfl,
    fun ht => r3_done (f := fun a b => if a.ult b then a else b) ht rfl,
    fun ht => r3_done (f := fun a b => if a.ult b then b else a) ht rfl,
    fun ht => r3_done (f := fun a b => if a.slt b then 1 else 0) ht rfl,
    fun ht => r3_done (f := fun a b => if a.ult b then 1 else 0) ht rfl⟩

/-- Settles O22: each is the format RI, or I, with its function. -/
theorem scalarImmediateForms : Obligations.ScalarImmediateForms := fun c ops _ =>
  ⟨fun ht => ri_done (f := fun a i => a + i.signExtend 64) ht rfl,
    fun ht => ri_done (f := fun a i => a &&& i.setWidth 64) ht rfl,
    fun ht => ri_done (f := fun a i => a ||| i.setWidth 64) ht rfl,
    fun ht => ri_done (f := fun a i => if a.slt (i.signExtend 64) then 1 else 0) ht rfl,
    fun ht => riShift_done (f := fun a n => a <<< n) ht rfl,
    fun ht => riShift_done (f := fun a n => a >>> n) ht rfl,
    fun ht => riShift_done (f := fun a n => a.sshiftRight n) ht rfl,
    fun ht => iSet_done (z := 0) (v := fun _ => (fldImm ops).signExtend 64) ht rfl,
    fun ht => iSet_done (z := 0) (v := fun s => fldImm ops ++ (s.sreg c (fldA ops)).setWidth 32) ht rfl⟩

/-- Settles O23: the conditional branches are the format BR with their condition; the others name their next pc. -/
theorem scalarBranches : Obligations.ScalarBranches := by
  intro c ops s a b pc dest
  refine ⟨fun ht h => br_taken ht rfl (beq_iff_eq.2 h), fun ht h => br_passed ht rfl (beq_eq_false_iff_ne.2 h),
    fun ht h => br_taken ht rfl (bne_iff_ne.2 h), fun ht h => br_passed ht rfl (by simpa using h),
    fun ht h => br_taken ht rfl h, fun ht h => br_passed ht rfl (Bool.eq_false_iff.2 h),
    fun ht h => br_taken ht rfl (by rw [h]; rfl), fun ht h => br_passed ht rfl (by simpa using h),
    fun ht h => br_taken ht rfl h, fun ht h => br_passed ht rfl (Bool.eq_false_iff.2 h),
    fun ht h => br_taken ht rfl (by rw [h]; rfl), fun ht h => br_passed ht rfl (by simpa using h),
    fun ht => leads_goOn ht rfl rfl, fun ht => leads_goOn ht rfl rfl, fun ht => leads_goOn ht rfl rfl,
    fun ht hlt hal => scJr_jumps ht hlt hal, fun ht => ⟨fun hge => scJr_beyond ht hge, fun hlt hal => scJr_misaligned ht hlt hal⟩⟩

/-- Settles O24: flags, time and identity are the format I with a value of the state; the control registers go by their offset. -/
theorem scalarSpecialForms : Obligations.ScalarSpecialForms := by
  refine ⟨fun c ops s => ⟨fun ht => iSet_done (v := fun s => (s.core c).flags.setWidth 64) ht rfl, fun ht => ?_,
    fun ht => iSet_done (v := fun s => BitVec.ofNat 64 s.now) ht rfl, fun ht => iSet_done (v := fun s => s.identity c) ht rfl,
    fun ht => leads_goOn ht rfl rfl⟩, fun c ops s => ?_⟩
  · have h := retires_of (i := .scClf c ops) ht rfl (M.modify_run _ _)
    rwa [Retires, State.pcOf, State.core_updCore] at h
  · intro o reg z
    have cleared (h : o % 8 = 0) : o / 8 * 8 = o := by omega
    refine ⟨fun ht h hal => scCrr_reads ht (by rwa [cleared hal]) hal, fun ht h hs => ?_, scCrr_refused, scCrw_refused⟩
    have hal : o % 8 = 0 := by obtain ⟨k, -, hk⟩ := (crwAllowed_iff o).1 h; omega
    exact scCrw_writes ht (by rwa [cleared hal]) hal hs

/-- Settles O25: the identity word's fields lie apart, and the offsets opened are those of `crrAllowed` and `crwAllowed`. -/
theorem identityAndControlOffsets : Obligations.IdentityAndControlOffsets := by
  intro c ops s o o8 readable writable z
  have closed {ok : Nat → Bool} {p : Prop} (h : ok o8 = true ↔ p) (hp : ¬ p) : ok o8 = false :=
    Bool.eq_false_iff.2 fun ho => hp (h.1 ho)
  have hr : crrAllowed o8 = true ↔ readable := crrAllowed_iff o8
  have hw : crwAllowed o8 = true ↔ writable := crwAllowed_iff o8
  exact ⟨fun ht => ⟨s.identity c, iSet_done (v := fun s => s.identity c) ht rfl, s.identity_bits c⟩,
    fun ht => ⟨fun h => scCrr_refused ht (closed hr h), fun h hal => scCrr_misaligned ht (hr.2 h) hal,
      fun h hal => scCrr_reads ht (hr.2 h) hal⟩,
    fun ht => ⟨fun h => scCrw_refused ht (closed hw h), fun h hal => scCrw_misaligned ht (hw.2 h) hal,
      fun h hal hs => scCrw_writes ht (hw.2 h) hal hs⟩⟩

end

section
/-! PROOFS. Illegal instructions, the resume of a core and its watchdog (R99, R124 to R126). -/

open Sys2Proof Sys2Proof.Machine
-- One declaration after the other, as in the tests: the threads of one compile share its memory limit.
set_option Elab.async false

namespace Sys2Proof.Machine

/-- A core that waited for core c to resume is free to resume too (R125). -/
def Core.unstopped (k : Core) (c : Nat) : Core := if k.stoppedBy = some c then { k with stoppedBy := none } else k

theorem Core.unstopped_unstopped (k : Core) (c : Nat) : (k.unstopped c).unstopped c = k.unstopped c := by
  unfold Core.unstopped
  split <;> simp_all

/-- The step of CORE_RESUME for a core d of the group: it waits for c no longer. -/
def State.unstop (s : State) (c d : Nat) : State :=
  if (s.core d).stoppedBy = some c then s.updCore d (fun k => { k with stoppedBy := none }) else s

theorem State.core_unstop (s : State) (c d e : Nat) :
    (s.unstop c d).core e = if e = d then (s.core e).unstopped c else s.core e := by
  unfold State.unstop Core.unstopped
  by_cases he : e = d
  · subst he; split <;> simp
  · split <;> simp [he, State.core_updCore_ne]

theorem State.unstop_ctl (s : State) (c d : Nat) : (s.unstop c d).ctl = s.ctl := by
  unfold State.unstop; split <;> rfl

/-- Freeing a list of cores frees each of them, whatever stands in the list twice, and no other. -/
theorem State.core_unstopAll (l : List Nat) (s : State) (c d : Nat) :
    (l.foldl (fun s d => s.unstop c d) s).core d = if d ∈ l then (s.core d).unstopped c else s.core d := by
  induction l generalizing s with
  | nil => simp
  | cons x l ih =>
    rw [List.foldl_cons, ih, State.core_unstop]
    by_cases hx : d = x
    · subst hx; simp [Core.unstopped_unstopped]
    · simp [hx]

theorem State.unstopAll_ctl (l : List Nat) (s : State) (c : Nat) : (l.foldl (fun s d => s.unstop c d) s).ctl = s.ctl := by
  induction l generalizing s with
  | nil => rfl
  | cons x l ih => rw [List.foldl_cons, ih, State.unstop_ctl]

/-- The cores of the group that c's hoop runs. -/
def groupMates (c : Nat) : List Nat := (List.range 8).map (fun j => c / 8 * 8 + j)

theorem mem_groupMates {c d : Nat} : d ∈ groupMates c ↔ d / 8 = c / 8 := by
  simp only [groupMates, List.mem_map, List.mem_range]
  constructor
  · rintro ⟨j, hj, rfl⟩; omega
  · exact fun h => ⟨d % 8, by omega, by omega⟩

section
variable {p : Port} {c : CoreId} {w : BitVec 64} {s : State}

theorem illegalInstruction_raises (hl : (listedOps (bits w.toNat 60 4)).contains (bits w.toNat 52 8) = false)
    (ht : Takes s c w 0) : Leads (.illegalInstruction c w) s (s.faulted c w { code := fIllegal }) :=
  leads_fault (body := flt fIllegal) ht (by rw [exec, execIllegalInstruction, hl]; rfl) (M.flt_run ..)

theorem coreResumeWrite_releases (hp : Permit s p (coreCtrlAddr c)) (h3 : s.fld R.CORE_STATUS_run_state c = 3) :
    Leads (.coreResumeWrite p c) s
      ((s.updCore c (fun k => { k with resuming := true })).put R.CORE_STATUS_run_state 2 c) :=
  leads_regCmd rfl hp (if_pos h3)

/-- The core resumes at its entry, and the cores stopped with it are free to. -/
theorem coreResume_frees (hm : s.mainOn = true) (hr : s.mayResume c = true) :
    Leads (.coreResume c) s ((groupMates c.val).foldl (fun s d => s.unstop c.val d) (s.resumeAt c)) := by
  refine leads_mainEv rfl hm ?_
  rw [hr, groupMates, List.foldl_map]
  rfl

/-- A core other than the one that resumes is as it was. -/
theorem State.core_resumeAt_ne {c d : Nat} (h : d ≠ c) : (s.resumeAt c).core d = s.core d := by
  rw [State.resumeAt, State.core, State.put_cores]
  exact State.core_updCore_ne s _ h

theorem State.resumeAt_stoppedBy (s : State) (c : Nat) : ((s.resumeAt c).core c).stoppedBy = none := by
  rw [State.resumeAt, State.core, State.put_cores]
  exact congrArg Core.stoppedBy (State.core_updCore s c _)

theorem watchdog_bites {k : Section} (hm : s.mainOn = true) (hk : s.held c = some k) (hp : k.phase ≠ .committing)
    (hl : (s.core c).wdLimit ≠ 0) (hd : (s.core c).wdStart + (s.core c).wdLimit * 1000 ≤ s.now)
    (hr : (s.core c).resuming = false) :
    Leads (.watchdog c) s
      (s.takeFault c (s.pcOf c) (if (s.core c).wait = .none ∧ (s.core c).barPass = false then 0 else (s.core c).waitWord)
        { code := fWatchdog, info := s.heldUs c, atIssue := false }) := by
  refine leads_mainEv rfl hm ?_
  simp only [hk, hp, hl, Nat.not_lt.2 hd, hr, Bool.false_eq_true, or_self, if_false, Bool.not_eq_true']
  rfl

end

end Sys2Proof.Machine

/-- Settles O19: an unlisted word faults at issue; the resume of a core frees those of its group that were stopped with it. -/
theorem coreFaultsAndResume : Obligations.CoreFaultsAndResume := by
  refine fun p c w s => ⟨illegalInstruction_raises, coreResumeWrite_releases, fun hm hr => ⟨_, coreResume_frees hm hr, ?_, ?_, ?_⟩,
    fun k hm hk hp hl hd hr => watchdog_bites hm hk hp hl hd hr⟩
  · rw [State.core_unstopAll, if_pos (mem_groupMates.2 rfl), Core.unstopped, State.resumeAt_stoppedBy, if_neg nofun]
  · rw [State.unstopAll_ctl]
  · intro d hd
    rw [State.core_unstopAll, State.core_resumeAt_ne hd, Core.unstopped]
    by_cases h : d / 8 = c.val / 8
    · simp [mem_groupMates, h]
    · simp [mem_groupMates, h]

end

section
/-! PROOFS. Loads and stores of a core, and descriptors, words and vectors that it moves (R106, R107, R110, R116, R117). -/

open Sys2Proof Sys2Proof.Machine
-- One declaration after the other, as in the tests: the threads of one compile share its memory limit.
set_option Elab.async false

namespace Sys2Proof.Machine

/-! ### The address of a scalar access (R110, R121, R122) -/

section
variable {c : CoreId} {ops : BitVec 52} {n : Nat} {wr : Bool} {s : State}

/-- The address that a scalar or descriptor access names. -/
def State.accessAddr (s : State) (c : CoreId) (ops : BitVec 52) : Nat :=
  (s.sreg c (fldB ops) + sx (fldImm ops)).toNat

/-- An address within reach and aligned is taken. -/
theorem scalarAddr_ok {β : Type} (g : Nat → M β) (hlt : s.accessAddr c ops < 2 ^ 52)
    (hr : s.reach c (s.accessAddr c ops) n wr = none) (hal : s.accessAddr c ops % n = 0) :
    (scalarAddr c ops n wr >>= g) s = g (s.accessAddr c ops) s := by
  unfold State.accessAddr at *
  have hnone (code : Nat) : (none == some code) = false := rfl
  simp only [scalarAddr, bind_assoc, M.getS_bind, M.get_bind, hr, hnone, decide_eq_false (Nat.not_le.2 hlt), hal, ne_eq,
    not_true, decide_false, Bool.and_false, Bool.or_false, M.fltIf_false, pure_bind]

/-- An address within reach that is not aligned raises ALIGN. -/
theorem scalarAddr_misaligned {β : Type} (g : Nat → M β) (hlt : s.accessAddr c ops < 2 ^ 52)
    (hr : s.reach c (s.accessAddr c ops) n wr = none) (hal : s.accessAddr c ops % n ≠ 0) :
    (scalarAddr c ops n wr >>= g) s
      = .error (.flt { code := fAlign, info := s.accessAddr c ops, operand := 1 }) := by
  unfold State.accessAddr at *
  have hnone (code : Nat) : (none == some code) = false := rfl
  simp only [scalarAddr, bind_assoc, M.getS_bind, M.get_bind, hr, hnone, decide_eq_false (Nat.not_le.2 hlt),
    decide_eq_true hal, Bool.and_false, Bool.or_false, M.fltIf_false, M.fltIf_true]

/-- A scalar or descriptor access that is not aligned raises ALIGN and does nothing else. -/
theorem misaligned_faults {i : Instr} {w : W64} {z : Nat} {g : Nat → M Unit} (ht : Takes s c w z)
    (hi : exec i s = .next (s.issue c w z (thenNext c (scalarAddr c ops n wr >>= g)))) (hlt : s.accessAddr c ops < 2 ^ 52)
    (hr : s.reach c (s.accessAddr c ops) n wr = none) (hal : s.accessAddr c ops % n ≠ 0) :
    Leads i s (s.faulted c w { code := fAlign, info := s.accessAddr c ops, operand := 1 }) :=
  raised_of ht hi (scalarAddr_misaligned g hlt hr hal)

end

/-! ### Reading and writing memory -/

/-- Bytes at hand are read, and the lines they lie in checked. -/
theorem rdToile_bytes {β : Type} {c a n : Nat} {l : List Byte} {s : State} (g : List Byte → M β)
    (h : s.readToile c a n = .bytes l) : (rdToile c a n >>= g) s = g l (s.checked a n) := by
  simp only [rdToile, bind_assoc, M.get_bind, h, M.modify_bind, pure_bind]

@[simp] theorem toLE_length (n v : Nat) : (toLE n v).length = n := by
  induction n generalizing v with
  | zero => rfl
  | succ n ih => rw [toLE, List.length_cons, ih]

/-- A write of the device's own memory that no shadow check and no read lease holds is done (R243, R333). -/
theorem wrToile_here {c : CoreId} {w : W64} {a o : Nat} {bs : List Byte} {s : State} (h : s.locate a = .here o)
    (hs : (s.core c).shadowHold = []) (hl : s.leasesOn o bs.length = []) :
    wrToile c w a bs s = .ok ((), s.writeLocal o bs) := by
  simp only [wrToile, M.get_bind, h, notShadowed_free _ (State.shadowHolds_none _ _ hs), hl, List.isEmpty_nil, if_true]
  rfl

section
variable {i : Instr} {c : CoreId} {op n : Nat} {ops : BitVec 52} {s : State}

/-- A scalar load of bytes at hand (R110). -/
theorem load_reads {l : List Byte} (ht : Takes s c (word clsSC op ops) zRI) (hi : exec i s = load c op ops n s)
    (hlt : s.accessAddr c ops < 2 ^ 52) (hs : s.settled c = true) (hr : s.reach c (s.accessAddr c ops) n false = none)
    (hal : s.accessAddr c ops % n = 0) (hb : s.readToile c (s.accessAddr c ops) n = .bytes l) :
    Leads i s ((s.checked (s.accessAddr c ops) n).scalarDone c (fldA ops) (BitVec.ofNat 64 (leNat l))
      ((s.checked (s.accessAddr c ops) n).pcOf c + 8)) := by
  refine leads_scalarDone ht hi ?_
  rw [scalarAddr_ok _ hlt hr hal, inOrder_settled _ hs, rdToile_bytes _ hb, M.setS_run]

/-- A scalar store to the device's own memory (R107, R110). -/
theorem store_writes {o : Nat} (ht : Takes s c (word clsSC op ops) zRI) (hi : exec i s = store c op ops n s)
    (hlt : s.accessAddr c ops < 2 ^ 52) (ho : s.locate (s.accessAddr c ops) = .here o) (hs : Settled c s)
    (hh : (s.core c).shadowHold = []) (hr : s.reach c (s.accessAddr c ops) n true = none)
    (hal : s.accessAddr c ops % n = 0) (hl : s.leasesOn o n = []) :
    Retires i c s (s.writeLocal o (toLE n (s.sreg c (fldA ops)).toNat)) := by
  refine retires_of ht hi ?_
  rw [scalarAddr_ok _ hlt hr hal, beforeWrite_settled _ hs, M.getS_bind, wrToile_here ho hh (by rwa [toLE_length])]

end

/-! ### Descriptors (R116) -/

section
variable {c : CoreId} {ops : BitVec 52} {s : State}

/-- Format bits that DM.TCAP marks zero. -/
abbrev zTcap : Nat := zT ||| zbits 41 37 ||| zbits 36 31 ||| zbits 28 0

theorem dmTbase_writes (ht : Takes s c (word clsDM 6 ops) (zT ||| zbits 41 0)) (hq : (s.core c).dm.length < 16) :
    Retires (.dmTbase c ops) c s
      (s.withT c (tOf (fldA ops)) (setBits (s.treg c (tOf (fldA ops))) 0 52 (s.sreg c (fldB ops)).toNat)) := by
  refine retires_of ht rfl ?_
  rw [workDmTbase, queueRoom_room (e := .dm) _ hq, M.getS_bind, M.getT_bind, M.setT_run]

theorem dmTbase_waits (ht : Takes s c (word clsDM 6 ops) (zT ||| zbits 41 0)) (hq : 16 ≤ (s.core c).dm.length) :
    Leads (.dmTbase c ops) s s :=
  leads_hold ht rfl (queueRoom_full _ hq)

/-- The capacity that DM.TCAP writes must be 1 to 16,384. -/
theorem dmTcap_bounds (ht : Takes s c (word clsDM 7 ops) zTcap)
    (hv : (s.sreg c (fldB ops)).toNat = 0 ∨ 16384 < (s.sreg c (fldB ops)).toNat) :
    Leads (.dmTcap c ops) s (s.faulted c (word clsDM 7 ops)
      { code := fBound, info := (s.sreg c (fldB ops)).toNat, dim := fldD ops % 4, operand := 1 }) := by
  refine raised_of ht rfl ?_
  rw [workDmTcap, M.getS_bind, decide_eq_true hv, M.fltIf_true]

/-- With a capacity in range DM.TCAP goes on to its queue. -/
theorem workDmTcap_inRange (h1 : 1 ≤ (s.sreg c (fldB ops)).toNat) (h2 : (s.sreg c (fldB ops)).toNat ≤ 16384) :
    workDmTcap c ops s = (do
      queueRoom c .dm
      let t ← getT c (tOf (fldA ops))
      setT c (tOf (fldA ops))
        (setBits t ([84, 105, 154, 203].getD (fldD ops % 4) 84) 14 ((s.sreg c (fldB ops)).toNat - 1)) : M Unit) s := by
  rw [workDmTcap, M.getS_bind, decide_eq_false (by omega), M.fltIf_false]

theorem dmTcap_writes (ht : Takes s c (word clsDM 7 ops) zTcap) (hq : (s.core c).dm.length < 16)
    (h1 : 1 ≤ (s.sreg c (fldB ops)).toNat) (h2 : (s.sreg c (fldB ops)).toNat ≤ 16384) :
    Retires (.dmTcap c ops) c s (s.withT c (tOf (fldA ops)) (setBits (s.treg c (tOf (fldA ops)))
      ([84, 105, 154, 203].getD (fldD ops % 4) 84) 14 ((s.sreg c (fldB ops)).toNat - 1))) := by
  refine retires_of ht rfl ?_
  rw [workDmTcap_inRange h1 h2, queueRoom_room (e := .dm) _ hq, M.getT_bind, M.setT_run]

theorem dmTcap_waits (ht : Takes s c (word clsDM 7 ops) zTcap) (hq : 16 ≤ (s.core c).dm.length)
    (h1 : 1 ≤ (s.sreg c (fldB ops)).toNat) (h2 : (s.sreg c (fldB ops)).toNat ≤ 16384) : Leads (.dmTcap c ops) s s :=
  leads_hold ht rfl ((workDmTcap_inRange h1 h2).trans (queueRoom_full _ hq))

theorem dmTld_reads {l : List Byte} (ht : Takes s c (word clsDM 4 ops) (zT ||| zbits 41 32)) (hlt : s.accessAddr c ops < 2 ^ 52)
    (hal : s.accessAddr c ops % 32 = 0) (hq : (s.core c).dm.length < 16)
    (hr : s.reach c (s.accessAddr c ops) 32 false = none) (hs : s.settled c = true)
    (hb : s.readToile c (s.accessAddr c ops) 32 = .bytes l) :
    Retires (.dmTld c ops) c s
      ((s.checked (s.accessAddr c ops) 32).withT c (tOf (fldA ops)) (BitVec.ofNat 256 (leNat l))) := by
  refine retires_of ht rfl ?_
  rw [workDmTld, scalarAddr_ok _ hlt hr hal, inOrder_settled _ hs, queueRoom_room (e := .dm) _ hq, rdToile_bytes _ hb, M.setT_run]

theorem dmTst_writes {o : Nat} (ht : Takes s c (word clsDM 5 ops) (zT ||| zbits 41 32)) (hlt : s.accessAddr c ops < 2 ^ 52)
    (hal : s.accessAddr c ops % 32 = 0) (hq : (s.core c).dm.length < 16)
    (hr : s.reach c (s.accessAddr c ops) 32 true = none) (ho : s.locate (s.accessAddr c ops) = .here o)
    (hl : s.leasesOn o 32 = []) (hs : Settled c s) (hh : (s.core c).shadowHold = []) :
    Retires (.dmTst c ops) c s (s.writeLocal o (toLE 32 (s.treg c (tOf (fldA ops))).toNat)) := by
  refine retires_of ht rfl ?_
  rw [workDmTst, scalarAddr_ok _ hlt hr hal, beforeWrite_settled _ hs, queueRoom_room (e := .dm) _ hq, M.getT_bind,
    wrToile_here ho hh (by rwa [toLE_length])]

end

/-! ### Checks that gather their faults (R122) -/

section
variable {α β : Type} {l : List (Nat × CFlt)} {s t : State}

/-- A gathered check that passes. -/
theorem K.gather_ok {o : Nat} {m : M α} {d : State → α} {a : α} (g : α → K β) (h : m s = .ok (a, t)) :
    (gather o m d >>= g) l s = g a l t := by
  simp only [bind, StateT.bind, Except.bind, Machine.gather_ok h]

/-- A gathered check that faults. -/
theorem K.gather_flt {o : Nat} {m : M α} {d : State → α} {f : CFlt} (g : α → K β) (h : m s = .error (.flt f)) :
    (gather o m d >>= g) l s = g (d s) (l ++ [(o, f)]) s := by
  simp only [bind, StateT.bind, Except.bind, Machine.gather_flt h]

/-- A gathered condition adds its fault where it holds. -/
theorem K.chkIf_bind {b : Bool} {code info dim o : Nat} {at' : Bool} (g : Unit → K β) :
    (chkIf b code info at' dim o >>= g) l s
      = g () (l ++ if b then [(o, { code := code, info := info, atIssue := at', dim := dim, operand := o })] else []) s := by
  cases b
  · exact congrArg (fun l => g () l s) (List.append_nil l).symm
  · rfl

theorem K.getS_bind {c : CoreId} {r : Nat} (g : W64 → K β) :
    ((liftM (getS c r) : K W64) >>= g) l s = g (s.sreg c r) l s := (rfl)

/-- The tiles of a sound operand are looked at. -/
theorem K.allocK_ok {c : CoreId} {x : Tens} {o : Nat} (g : Unit → K β) (hl : l.all (fun p => p.1 ≠ o) = true)
    (h : checkAlloc c x o s = .ok ((), s)) : (allocK c x o >>= g) l s = g () l s := by
  have hsound : (soundAt o : K Bool) l s = .ok ((true, l), s) := by
    rw [← hl]; rfl
  simp only [allocK, chk, bind, StateT.bind, Except.bind, hsound, if_true, Machine.gather_ok h]

/-- What gathered checks come to: their answer, or the first of their faults in the order of R122. -/
def verdict (a : α) (l : List (Nat × CFlt)) (t : State) : Except Stop (α × State) :=
  match l with
  | [] => .ok (a, t)
  | p :: l => .error (.flt (l.foldl firstFault p).2)

theorem ranked_verdict {k : K α} {a : α} (h : k [] s = .ok ((a, l), t)) : ranked k s = verdict a l t := by
  simp only [ranked, h]
  cases l <;> rfl

end

/-! ### Words and vectors of tensors (R117) -/

section
variable {c : CoreId} {ops : BitVec 52} {w : W64} {n m : Nat} {wr : Bool} {s u v : State} {t : Tens}

/-- The operand of a word or vector access is a valid tensor, and where it is written its tiles are allocated (R103, R135). -/
def WordOperand (c : CoreId) (ops : BitVec 52) (wr : Bool) (s : State) (t : Tens) (u : State) : Prop :=
  evalT c (tOf (fldB ops)) 1 wr s = .ok (t, u) ∧ (wr = true → checkAlloc c t 1 u = .ok ((), u))

/-- The faults of an access of n bytes at the offset o, which must be a multiple of m and lie in the tensor's extent. -/
def offsetFaults (n m : Nat) (t : Tens) (o : Nat) : List (Nat × CFlt) :=
  (if o % m ≠ 0 then [(2, { code := fAlign, info := o, operand := 2 })] else []) ++
    if t.d.extent < o + n then [(2, { code := fBound, info := o, operand := 2 })] else []

theorem offsetFaults_others (n m : Nat) (t : Tens) (o : Nat) : (offsetFaults n m t o).all (fun p => p.1 ≠ 1) = true := by
  unfold offsetFaults
  split <;> split <;> rfl

/-- The offset s[C] of a word or vector access is checked after its tensor. -/
theorem wordCheck_verdict (h : WordOperand c ops wr s t u) : wordCheck c ops n m wr s =
    verdict (t, t.d.base + (u.sreg c (fldC ops)).toNat) (offsetFaults n m t (u.sreg c (fldC ops)).toNat) u := by
  obtain ⟨he, ha⟩ := h
  have hall := offsetFaults_others n m t (u.sreg c (fldC ops)).toNat
  refine ranked_verdict ?_
  simp only [evalK, K.gather_ok _ he, K.getS_bind, K.chkIf_bind, List.nil_append, decide_eq_true_eq]
  rw [← offsetFaults.eq_def]
  cases wr
  · rfl
  · exact K.allocK_ok _ hall (ha rfl)

theorem wordCheck_fits (h : WordOperand c ops wr s t u) (hal : (u.sreg c (fldC ops)).toNat % m = 0)
    (hb : (u.sreg c (fldC ops)).toNat + n ≤ t.d.extent) :
    wordCheck c ops n m wr s = .ok ((t, t.d.base + (u.sreg c (fldC ops)).toNat), u) := by
  rw [wordCheck_verdict h, offsetFaults, if_neg (not_not.2 hal), if_neg (Nat.not_lt.2 hb)]
  rfl

/-- ALIGN comes before BOUND in the order of R122. -/
theorem wordCheck_misaligned (h : WordOperand c ops wr s t u) (hal : (u.sreg c (fldC ops)).toNat % m ≠ 0) :
    wordCheck c ops n m wr s
      = .error (.flt { code := fAlign, info := (u.sreg c (fldC ops)).toNat, operand := 2 }) := by
  rw [wordCheck_verdict h, offsetFaults, if_pos hal]
  split <;> rfl

theorem wordCheck_beyond (h : WordOperand c ops wr s t u) (hal : (u.sreg c (fldC ops)).toNat % m = 0)
    (hb : t.d.extent < (u.sreg c (fldC ops)).toNat + n) :
    wordCheck c ops n m wr s
      = .error (.flt { code := fBound, info := (u.sreg c (fldC ops)).toNat, operand := 2 }) := by
  rw [wordCheck_verdict h, offsetFaults, if_neg (not_not.2 hal), if_pos hb]
  rfl

/-- The data mover has room, and for a tensor outside the operand buffer and the accumulators the core's writes to other devices
are acknowledged (R104, R106). -/
def MoveReady (c : CoreId) (t : Tens) (u : State) : Prop :=
  (u.core c).dm.length < 16 ∧ (t.d.kind ≤ 1 ∨ 4 ≤ t.d.kind → u.settled c = true)

theorem inOrderKind_ready {β : Type} (g : Unit → M β) (h : t.d.kind ≤ 1 ∨ 4 ≤ t.d.kind → u.settled c = true) :
    (inOrderKind c t.d >>= g) u = g () u := by
  unfold inOrderKind
  split
  · rfl
  · exact inOrder_settled g (h (by omega))

theorem beforeKind_ready {β : Type} (g : Unit → M β) (h : t.d.kind ≤ 1 → Settled c u) : (beforeKind c t.d >>= g) u = g () u := by
  unfold beforeKind
  split
  · exact beforeWrite_settled g (h ‹_›)
  · rfl

/-- A word or vector read answers the bytes of its tensor. -/
theorem tensorRead_reads {l : List Byte} (h : WordOperand c ops false s t u) (hr : MoveReady c t u)
    (hal : (u.sreg c (fldC ops)).toNat % m = 0) (hb : (u.sreg c (fldC ops)).toNat + n ≤ t.d.extent)
    (ht : u.tensorBytes c t.d (t.d.base + (u.sreg c (fldC ops)).toNat) n = some (l, v)) :
    tensorRead c ops n m s = .ok (l, v) := by
  unfold tensorRead
  rw [M.bind_ok (wordCheck_fits h hal hb)]
  dsimp only
  rw [inOrderKind_ready _ hr.2, queueRoom_room (e := .dm) _ hr.1, M.bind_ok (readRanges_one ht)]
  rfl

/-- A word or vector write is the write of its bytes at the tensor's offset. -/
theorem tensorWrite_writes {bs : M (List Byte)} (h : WordOperand c ops true s t u) (hk : t.d.kind ≤ 1 → Settled c u)
    (hr : MoveReady c t u) (hal : (u.sreg c (fldC ops)).toNat % m = 0) (hb : (u.sreg c (fldC ops)).toNat + n ≤ t.d.extent) :
    tensorWrite c w ops n m bs s = (bs >>= writeAt c w t.d (t.d.base + (u.sreg c (fldC ops)).toNat)) u := by
  unfold tensorWrite
  rw [M.bind_ok (wordCheck_fits h hal hb)]
  dsimp only
  rw [beforeKind_ready _ hk, inOrderKind_ready _ hr.2, queueRoom_room (e := .dm) _ hr.1]

/-- A vector register whose words are sound is moved as it stands. -/
theorem getVNow_sound {β : Type} {r : Nat} (g : BitVec 2048 → M β) (h : u.sramWords (vrfAddr c r 0) 256 = []) :
    (getVNow c r >>= g) u = g (u.vreg c r) u := by
  simp only [getVNow, bind_assoc, M.get_bind, State.sramBad_sound h, State.sramCheck_sound h]
  rfl

/-- Where the offset fails its check, a read and a write raise its fault. -/
theorem tensorRead_faults {f : CFlt} (h : wordCheck c ops n m false s = .error (.flt f)) :
    tensorRead c ops n m s = .error (.flt f) := M.bind_error h

theorem tensorWrite_faults {bs : M (List Byte)} {f : CFlt} (h : wordCheck c ops n m true s = .error (.flt f)) :
    tensorWrite c w ops n m bs s = .error (.flt f) := M.bind_error h

end

/-! ### DM.RDW, DM.VLD, DM.WRW and DM.VST (R117) -/

section
variable {i : Instr} {c : CoreId} {ops : BitVec 52} {w : W64} {z n m : Nat} {s u : State} {t : Tens}

/-- An offset that is not a multiple of the access's alignment raises ALIGN, and one outside the extent BOUND; nothing else is
done. -/
def OffsetFaults (i : Instr) (c : CoreId) (w : W64) (n m o : Nat) (t : Tens) (s : State) : Prop :=
  (o % m ≠ 0 → Leads i s (s.faulted c w { code := fAlign, info := o, operand := 2 })) ∧
  (o % m = 0 → t.d.extent < o + n → Leads i s (s.faulted c w { code := fBound, info := o, operand := 2 }))

/-- A word or vector read raises the faults of its offset. -/
theorem read_offsetFaults {g : List Byte → M Unit} (ht : Takes s c w z)
    (hi : exec i s = .next (s.issue c w z (thenNext c (tensorRead c ops n m >>= g)))) (h : WordOperand c ops false s t u) :
    OffsetFaults i c w n m (u.sreg c (fldC ops)).toNat t s :=
  ⟨fun hal => raised_of ht hi (M.bind_error (tensorRead_faults (wordCheck_misaligned h hal))),
    fun hal hb => raised_of ht hi (M.bind_error (tensorRead_faults (wordCheck_beyond h hal hb)))⟩

/-- A word or vector write raises the faults of its offset. -/
theorem write_offsetFaults {bs : M (List Byte)} (ht : Takes s c w z)
    (hi : exec i s = .next (s.issue c w z (thenNext c (tensorWrite c w ops n m bs)))) (h : WordOperand c ops true s t u) :
    OffsetFaults i c w n m (u.sreg c (fldC ops)).toNat t s :=
  ⟨fun hal => raised_of ht hi (tensorWrite_faults (wordCheck_misaligned h hal)),
    fun hal hb => raised_of ht hi (tensorWrite_faults (wordCheck_beyond h hal hb))⟩

/-- A word or vector write retires with what its write leaves, and into on-chip memory it always does. -/
theorem write_retires {bs : M (List Byte)} {l : List Byte} (ht : Takes s c w z)
    (hi : exec i s = .next (s.issue c w z (thenNext c (tensorWrite c w ops n m bs)))) (h : WordOperand c ops true s t u)
    (hk : t.d.kind ≤ 1 → Settled c u) (hr : MoveReady c t u) (hh : (u.core c).shadowHold = [])
    (hal : (u.sreg c (fldC ops)).toNat % m = 0) (hb : (u.sreg c (fldC ops)).toNat + n ≤ t.d.extent)
    (hbs : ∀ g : List Byte → M Unit, (bs >>= g) u = g l u) :
    let put := writeAt c w t.d (t.d.base + (u.sreg c (fldC ops)).toNat) l
    (∀ v, put u = .ok ((), v) → Retires i c s v) ∧
      (2 ≤ t.d.kind → ∃ v, put u = .ok ((), v) ∧ Retires i c s v) := by
  intro put
  have retires : ∀ v, put u = .ok ((), v) → Retires i c s v := fun v hv =>
    retires_of ht hi (by rw [tensorWrite_writes h hk hr hal hb, hbs]; exact hv)
  refine ⟨retires, fun h2 => ?_⟩
  obtain ⟨v, hv, -⟩ := writeAt_onChip (c := c) (w := w) (o := t.d.base + (u.sreg c (fldC ops)).toNat) (bs := l) h2 hh
  exact ⟨v, hv, retires v hv⟩

end

end Sys2Proof.Machine

/-- Settles O26: an access within reach goes on by its alignment, a load once the core's writes to other devices are
acknowledged, a store once R107 lets it. -/
theorem scalarMemory : Obligations.ScalarMemory :=
  ⟨fun _ _ _ _ hlt hs => ⟨fun ht hr hal hb => load_reads ht rfl hlt hs hr hal hb, fun ht hr hal hb => load_reads ht rfl hlt hs hr hal hb⟩,
    fun _ _ _ _ hlt ho hs hh => ⟨fun ht hr hal hl => store_writes ht rfl hlt ho hs hh hr hal hl,
      fun ht hr hal hl => store_writes ht rfl hlt ho hs hh hr hal hl⟩,
    fun _ _ _ hlt => ⟨fun ht hr hal => misaligned_faults ht rfl hlt hr hal, fun ht hr hal => misaligned_faults ht rfl hlt hr hal,
      fun ht hr hal => misaligned_faults ht rfl hlt hr hal, fun ht hr hal => misaligned_faults ht rfl hlt hr hal⟩⟩

/-- Settles O27: descriptors by their own rules; words and vectors by the check of their offset, then `tensorBytes` or `writeAt`. -/
theorem descriptors : Obligations.Descriptors := by
  refine ⟨fun c ops s => ⟨dmTbase_writes, fun hq => ⟨fun ht => dmTbase_waits ht hq, fun ht h1 h2 => dmTcap_waits ht hq h1 h2⟩,
      dmTcap_writes, dmTcap_bounds⟩,
    fun c ops l o s hlt hal hq => ⟨fun ht hr hs hb => dmTld_reads ht hlt hal hq hr hs hb,
      fun ht hr ho hl hs hh => dmTst_writes ht hlt hal hq hr ho hl hs hh⟩, fun c ops s u t => ?_⟩
  intro o z ready
  refine ⟨fun he => ?_, fun he ht => ?_, fun he ha => ?_, fun he ha hk hr hh => ?_⟩
  · have h : WordOperand c ops false s t u := ⟨he, nofun⟩
    refine ⟨fun ht => ⟨fun l v hr hal hb hl => ?_, read_offsetFaults ht rfl h⟩, fun l v ht hr hal hb hl => ?_⟩
    · exact retires_of ht rfl (by rw [workDmRdw, M.bind_ok (tensorRead_reads h hr hal hb hl), M.setS_run])
    · exact retires_of ht rfl (by rw [workDmVld, M.bind_ok (tensorRead_reads h hr hal hb hl), M.setV_run])
  · exact read_offsetFaults ht rfl (⟨he, nofun⟩ : WordOperand c ops false s t u)
  · have h : WordOperand c ops true s t u := ⟨he, fun _ => ha⟩
    exact ⟨fun ht => write_offsetFaults ht rfl h, fun ht => write_offsetFaults ht rfl h⟩
  · have h : WordOperand c ops true s t u := ⟨he, fun _ => ha⟩
    exact ⟨fun ht hal hb => write_retires ht rfl h hk hr hh hal hb fun g => by
        rw [bind_assoc, M.getS_bind, pure_bind],
      fun ht hv hal hb => write_retires ht rfl h hk hr hh hal hb fun g => by
        rw [bind_assoc, getVNow_sound _ hv, pure_bind]⟩

end

section
/-! PROOFS. Copies, prefetches and packed objects (R104, R106, R107, R113 to R115, R225). -/

open Sys2Proof Sys2Proof.Machine
-- One declaration after the other, as in the tests: the threads of one compile share its memory limit.
set_option Elab.async false

namespace Sys2Proof.Machine

/-! ### Work whose faults are answered -/

section
variable {α β : Type} {m : M α} {s t : State}

theorem caught_ok {a : α} (g : Except CFlt α → M β) (h : m s = .ok (a, t)) : (caught m >>= g) s = g (.ok a) t :=
  M.bind_ok (by simp only [caught, h])

theorem caught_flt {f : CFlt} (g : Except CFlt α → M β) (h : m s = .error (.flt f)) : (caught m >>= g) s = g (.error f) s :=
  M.bind_ok (by simp only [caught, h])

end

/-! ### Writes of local memory leave the cores and the read leases -/

theorem State.keepImages_cores (s : State) (a n : Nat) : (s.keepImages a n).cores = s.cores := (sent_keepImages s a n).cores

theorem State.keepImages_leases (s : State) (a n : Nat) : (s.keepImages a n).leases = s.leases := by
  have h : State.keepImages s a n = _ := sent_keepImages s a n
  rw [h]

@[simp] theorem State.cores_writeLocal (s : State) (a : Nat) (bs : List Byte) : (s.writeLocal a bs).cores = s.cores := by
  unfold State.writeLocal
  split
  · exact (reported_hbmWrite _ _ _).cores.trans (State.keepImages_cores s a bs.length)
  all_goals rfl

@[simp] theorem State.leases_writeLocal (s : State) (a : Nat) (bs : List Byte) : (s.writeLocal a bs).leases = s.leases := by
  unfold State.writeLocal
  split
  · exact (reported_hbmWrite _ _ _).leases.trans (State.keepImages_leases s a bs.length)
  all_goals rfl

theorem State.core_writeLocal (s : State) (c a : Nat) (bs : List Byte) : (s.writeLocal a bs).core c = s.core c := by
  rw [State.core, State.cores_writeLocal, State.core]

theorem State.leasesOn_none {s : State} (h : s.leases = []) (a n : Nat) : s.leasesOn a n = [] := by
  rw [State.leasesOn, h]; rfl

/-- The Toile address of a local address leads back to it. -/
theorem State.locate_localAddr {s : State} {a : Nat} (h : a < 2 ^ 40) : s.locate (localAddr a) = .here a := by
  have hn : s.norm (localAddr a) = localAddr a := by
    have : localAddr a % 2 ^ 40 = a ∧ localAddr a % 2 ^ 52 = localAddr a := by unfold localAddr ownDev; omega
    rw [State.norm, this.1, this.2]
    unfold localAddr
    rw [Nat.mod_eq_of_lt h, ite_self]
  have ho : bits (localAddr a) 40 12 = ownDev ∧ localAddr a % 2 ^ 40 = a := by unfold bits localAddr ownDev; omega
  unfold State.locate
  rw [hn, if_pos ho.1, ho.2]

/-! ### DM.COPY (R113) -/

section
variable {c : CoreId} {ops : BitVec 52} {w : W64} {td ta : Tens} {s u : State}

/-- What DM.COPY does once it may go on: with a bound that is zero it sets the flag, else it copies. -/
def copyMade (c : CoreId) (ops : BitVec 52) (td ta : Tens) : M Unit :=
  if td.empty then setFlag c 0 else do
    copyBody c (word clsDM 1 ops) td ta
    dispatchWork c .dm (word clsDM 1 ops) {}

/-- A copy whose operands are valid, with room in its queue and the core's earlier accesses done, is made. -/
theorem workDmCopy_checked (h : copyCheck c ops s = .ok ((td, ta), u)) (hq : ((u.core c).queue .dm).length < 16)
    (hk : td.d.kind ≤ 1 → Settled c u)
    (ho : td.d.kind ≠ 2 ∧ td.d.kind ≠ 3 ∨ ta.d.kind ≠ 2 ∧ ta.d.kind ≠ 3 → u.settled c = true) :
    workDmCopy c ops s = copyMade c ops td ta u := by
  unfold workDmCopy
  dsimp only
  rw [M.bind_ok h]
  dsimp only
  rw [beforeKind_ready _ hk, inOrderKind_ready _ fun hd => ho (.inl (by omega)), inOrderKind_ready _ fun ha => ho (.inr (by omega)),
    queueRoom_room _ hq]
  rfl

theorem sure_copyElem (c : CoreId) (ta : Tens) (v : TVal) (i0 i1 i2 i3 : Nat) : Sure c (copyElem c ta v i0 i1 i2 i3) := by
  unfold copyElem
  split
  · exact sure_pure _
  · exact sure_nm _ _

/-- A copy into on-chip memory that its source does not overlap completes once its source is read without error. -/
theorem copyBody_completes {v : TVal} {u' : State} (h2 : 2 ≤ td.d.kind) (hh : (u'.core c).shadowHold = [])
    (hov : overlaps u c td.d ta.d = false)
    (hr : readSub c ta.d (ta.within td 0) (ta.within td 1) (ta.within td 2) (ta.within td 3) u = .ok ((v, none), u')) :
    ∃ t, copyBody c w td ta u = .ok ((), t) := by
  have rows : Sure c ((rowIdx (td.n 1) (td.n 2) (td.n 3)).forM fun r => do
      let l ← (List.range (td.n 0)).mapM (fun i0 => copyElem c ta v i0 r.1 r.2.1 r.2.2)
      writeRow c w td.d r.1 r.2.1 r.2.2 l) :=
    sure_forM (fun r => sure_bind (sure_mapM (fun i0 => sure_copyElem c _ _ _ _ _ _) _) (fun l => sure_writeRow h2 _ _ _ _)) _
  obtain ⟨⟨⟩, t, ht, -⟩ := rows u' hh
  refine ⟨t, ?_⟩
  rw [copyBody, M.get_bind, hov, if_neg (by decide), copyRows, M.bind_ok hr]
  exact ht

section
variable (ht : Takes s c (word clsDM 1 ops) (zT ||| zbits 42 0)) (hm : workDmCopy c ops s = copyMade c ops td ta u)
include ht hm

theorem dmCopy_empty (he : td.empty = true) : Retires (.dmCopy c ops) c s (u.emptied c) :=
  retires_of ht rfl (by rw [hm, copyMade, if_pos he]; rfl)

theorem dmCopy_copies {t : State} (he : td.empty = false) (hb : copyBody c (word clsDM 1 ops) td ta u = .ok ((), t)) :
    Retires (.dmCopy c ops) c s (t.dispatched c .dm (word clsDM 1 ops) {}) :=
  retires_of ht rfl (by rw [hm, copyMade, he, if_neg Bool.false_ne_true, M.bind_ok hb]; rfl)

theorem dmCopy_faults {f : CFlt} (he : td.empty = false) (hb : copyBody c (word clsDM 1 ops) td ta u = .error (.flt f)) :
    Leads (.dmCopy c ops) s (s.faulted c (word clsDM 1 ops) f) :=
  raised_of ht rfl (by rw [hm, copyMade, he, if_neg Bool.false_ne_true, M.bind_error hb])

end

end

/-! ### DM.PREF (R114) -/

section
variable {c : CoreId} {ops : BitVec 52} {t : Tens} {ws : Option Tens} {s u : State}

/-- The encoding of DM.PREF marks everything but its tensor zero. -/
abbrev zPref : Nat := zbits 51 47 ||| zTB ||| zbits 41 0

theorem dmPref_faults {f : CFlt} (ht : Takes s c (word clsDM 2 ops) zPref) (h : prefCheck c ops s = .error (.flt f))
    (hf : f.code = fDesc) : Leads (.dmPref c ops) s (s.faulted c (word clsDM 2 ops)
      { code := fDesc, info := f.info, dim := f.dim, operand := f.operand }) := by
  refine raised_of ht rfl ((caught_flt _ h).trans ?_)
  dsimp only
  rw [if_pos hf, M.flt_run]

/-- A fault of the operand other than DESC_BAD drops the prefetch. -/
theorem dmPref_drops {f : CFlt} (ht : Takes s c (word clsDM 2 ops) zPref) (h : prefCheck c ops s = .error (.flt f))
    (hf : f.code ≠ fDesc) : Retires (.dmPref c ops) c s s := by
  refine retires_of ht rfl ((caught_flt _ h).trans ?_)
  dsimp only
  rw [if_neg hf, M.pure_run]

/-- What DM.PREF does once its operand is valid: tiles of a tensor that has any are brought in, whether or not that faults. -/
def prefMade (c : CoreId) (ops : BitVec 52) (t : Tens) (ws : Option Tens) : M Unit :=
  if t.empty then setFlag c 0
  else if t.d.kind ≤ 1 ∧ weightOk t.d.fmt then
    caught (prefetch c t ws) >>= fun _ => dispatchWork c .dm (word clsDM 2 ops) {}
  else dispatchWork c .dm (word clsDM 2 ops) {}

theorem workDmPref_checked (h : prefCheck c ops s = .ok ((t, ws), u)) (hs : u.settled c = true)
    (hq : ((u.core c).queue .dm).length < 16) : workDmPref c ops s = prefMade c ops t ws u := by
  refine (caught_ok _ h).trans ?_
  dsimp only
  rw [inOrder_settled _ hs, queueRoom_room _ hq, prefMade]
  split
  · rfl
  · split
    · refine congrArg (fun g => (caught (prefetch c t ws) >>= g) u) (funext fun x => ?_)
      cases x <;> rfl
    · rfl

section
variable (ht : Takes s c (word clsDM 2 ops) zPref) (hm : workDmPref c ops s = prefMade c ops t ws u)
include ht hm

theorem dmPref_empty (he : t.empty = true) : Retires (.dmPref c ops) c s (u.emptied c) :=
  retires_of ht rfl (by rw [hm, prefMade, if_pos he]; rfl)

theorem dmPref_plain (he : t.empty = false) (hk : 1 < t.d.kind ∨ weightOk t.d.fmt = false) :
    Retires (.dmPref c ops) c s (u.dispatched c .dm (word clsDM 2 ops) {}) := by
  have hn : ¬ (t.d.kind ≤ 1 ∧ weightOk t.d.fmt = true) := by
    rintro ⟨h1, h2⟩
    rcases hk with hk | hk
    · omega
    · rw [hk] at h2; cases h2
  exact retires_of ht rfl (by rw [hm, prefMade, he, if_neg Bool.false_ne_true, if_neg hn]; rfl)

theorem dmPref_brings {v : State} (he : t.empty = false) (hk : t.d.kind ≤ 1) (hw : weightOk t.d.fmt = true)
    (hp : prefetch c t ws u = .ok ((), v)) : Retires (.dmPref c ops) c s (v.dispatched c .dm (word clsDM 2 ops) {}) :=
  retires_of ht rfl (by rw [hm, prefMade, he, if_neg Bool.false_ne_true, if_pos ⟨hk, hw⟩, caught_ok _ hp]; rfl)

/-- A fault of the staging drops the prefetch. -/
theorem dmPref_stops {f : CFlt} (he : t.empty = false) (hk : t.d.kind ≤ 1) (hw : weightOk t.d.fmt = true)
    (hp : prefetch c t ws u = .error (.flt f)) :
    Retires (.dmPref c ops) c s (u.dispatched c .dm (word clsDM 2 ops) {}) :=
  retires_of ht rfl (by rw [hm, prefMade, he, if_neg Bool.false_ne_true, if_pos ⟨hk, hw⟩, caught_flt _ hp]; rfl)

end
end

/-! ### DM.PACK (R115, R225) -/

section
variable {c : CoreId} {ops : BitVec 52} {o : PackOps} {s u v : State}

/-- The encoding of DM.PACK marks the base's fields zero where there is none. -/
abbrev zPack (ops : BitVec 52) : Nat :=
  zT ||| zTB ||| zTC ||| zbits 36 35 ||| zbits 28 0 ||| (if (fldD ops).testBit 0 then 0 else zbits 41 37 ||| zbits 34 30)

/-- What DM.PACK does once it may go on: the data of the packed object is written before its header. -/
def packMade (c : CoreId) (ops : BitVec 52) (o : PackOps) : M Unit :=
  if o.empty then setFlag c 0 else do
    let (h, dat) ← packObject c o
    wrToile c (word clsDM 3 ops) (localAddr (o.td.d.base + 64)) dat
    wrToile c (word clsDM 3 ops) (localAddr o.td.d.base) h.bytes
    dispatchWork c .dm (word clsDM 3 ops) {}

theorem workDmPack_checked (h : packCheck c ops s = .ok (o, u)) (hs : Settled c u) (hq : ((u.core c).queue .dm).length < 16) :
    workDmPack c ops s = packMade c ops o u := by
  unfold workDmPack
  dsimp only
  rw [M.bind_ok h, beforeWrite_settled _ hs, queueRoom_room _ hq]
  rfl

section
variable (ht : Takes s c (word clsDM 3 ops) (zPack ops)) (hm : workDmPack c ops s = packMade c ops o u)
include ht hm

theorem dmPack_empty (he : o.empty = true) : Retires (.dmPack c ops) c s (u.emptied c) :=
  retires_of ht rfl (by rw [hm, packMade, if_pos he]; rfl)

theorem dmPack_faults {f : CFlt} (he : o.empty = false) (hp : packObject c o u = .error (.flt f)) :
    Leads (.dmPack c ops) s (s.faulted c (word clsDM 3 ops) f) :=
  raised_of ht rfl (by rw [hm, packMade, he, if_neg Bool.false_ne_true, M.bind_error hp])

/-- The object goes to local memory that no read lease and no shadow check holds. -/
theorem dmPack_writes {h : ObjHdr} {dat : List Byte} (he : o.empty = false) (hp : packObject c o u = .ok ((h, dat), v))
    (hb : o.td.d.base + 64 < 2 ^ 40) (hl : v.leases = []) (hh : (v.core c).shadowHold = []) :
    Retires (.dmPack c ops) c s
      (((v.writeLocal (o.td.d.base + 64) dat).writeLocal o.td.d.base h.bytes).dispatched c .dm (word clsDM 3 ops) {}) := by
  have hdat := wrToile_here (w := word clsDM 3 ops) (State.locate_localAddr hb) hh
    (State.leasesOn_none hl (o.td.d.base + 64) dat.length)
  have hhdr := wrToile_here (c := c) (w := word clsDM 3 ops) (s := v.writeLocal (o.td.d.base + 64) dat)
    (State.locate_localAddr (Nat.lt_of_le_of_lt (Nat.le_add_right _ _) hb)) (by rwa [State.core_writeLocal])
    (State.leasesOn_none (by rwa [State.leases_writeLocal]) o.td.d.base h.bytes.length)
  refine retires_of ht rfl ?_
  rw [hm, packMade, he, if_neg Bool.false_ne_true, M.bind_ok hp]
  dsimp only
  rw [M.bind_ok hdat, M.bind_ok hhdr]
  rfl

end
end

end Sys2Proof.Machine

/-- Settles O28: a copy, a prefetch and a packing each check their operands, then do what they make (`copyMade`, `prefMade`,
`packMade`). -/
theorem copyingAndPacking : Obligations.CopyingAndPacking := by
  refine ⟨fun c ops s => ⟨fun ht => ⟨fun f hf => raised_of ht rfl (M.bind_error hf), fun td ta u h hq hk ho => ?_⟩,
    fun ht => ⟨fun f hf => ⟨dmPref_faults ht hf, dmPref_drops ht hf⟩, fun t ws u h hs hq => ?_⟩⟩,
    fun c ops s ht => ⟨fun f hf => raised_of ht rfl (M.bind_error hf), fun o u h hs hq => ?_⟩⟩
  · have hm := workDmCopy_checked h hq hk ho
    refine ⟨dmCopy_empty ht hm, fun he => ⟨fun t hb => dmCopy_copies ht hm he hb, fun f hb => dmCopy_faults ht hm he hb,
      fun v u' h2 hh hov hr => ?_⟩⟩
    obtain ⟨t, hb⟩ := copyBody_completes (w := word clsDM 1 ops) h2 hh hov hr
    exact ⟨t, hb, dmCopy_copies ht hm he hb⟩
  · have hm := workDmPref_checked h hs hq
    exact ⟨dmPref_empty ht hm, dmPref_plain ht hm, fun he hk hw => ⟨fun v hp => dmPref_brings ht hm he hk hw hp,
      fun f hp => dmPref_stops ht hm he hk hw hp⟩⟩
  · have hm := workDmPack_checked h hs hq
    exact ⟨dmPack_empty ht hm, fun f he hp => dmPack_faults ht hm he hp,
      fun hdr dat v he hp hb hl hh => dmPack_writes ht hm he hp hb hl hh⟩

end

section
/-! PROOFS. The matrix instructions (R122, R135 to R147). -/

open Sys2Proof Sys2Proof.Machine
-- One declaration after the other, as in the tests: the threads of one compile share its memory limit.
set_option Elab.async false

namespace Sys2Proof.Machine

/-! ### MM.GRP and MM.LUT (R137 to R142, R146, R147) -/

section
variable {c : CoreId} {ops : BitVec 52} {w : W64} {lut : Bool} {s u : State} {o : MmOps}

/-- The instruction runs on the LUT path: MM.LUT does, and MM.GRP of integer weights while lut_mode is set. -/
def onLut (c : CoreId) (lut : Bool) (o : MmOps) (u : State) : Bool :=
  lut || (u.bit R.CORE_MM_CTRL_lut_mode c && !fltWeights o.tw.d.fmt)

theorem mmIssue_checks (hw : bits (fldD ops) 1 2 ≠ 3) (h : mmCheck c ops lut s = .ok (o, u)) :
    mmIssue c w ops lut s = (do
      queueRoom c (if onLut c lut o u then .vx else .mm)
      if o.empty then setFlag c 0
      else
        let r ← execPart (mmWork c w o (bits (fldD ops) 1 2) ((fldD ops).testBit 0) (!onLut c lut o u))
        dispatchWork c (if onLut c lut o u then .vx else .mm) w r
          (if (fldD ops).testBit 0 && !onLut c lut o u then some (shadOf c u ops o (bits (fldD ops) 1 2)) else none) : M Unit) u := by
  unfold mmIssue
  dsimp only
  rw [decide_eq_false hw, M.fltIf_false, M.bind_ok h, M.get_bind]
  rfl

theorem mmIssue_fails {f : CFlt} (hw : bits (fldD ops) 1 2 ≠ 3) (h : mmCheck c ops lut s = .error (.flt f)) :
    mmIssue c w ops lut s = .error (.flt f) := by
  unfold mmIssue
  dsimp only
  rw [decide_eq_false hw, M.fltIf_false, M.bind_error h]

theorem mmGrp_carried (ht : Takes s c (word clsMM 1 ops) zMM) (hw : bits (fldD ops) 1 2 ≠ 3) :
    Carried (.mmGrp c ops) c (word clsMM 1 ops) s (mmCheck c ops false) (fun o u => if onLut c false o u then .vx else .mm)
      MmOps.empty
      (fun o u => mmWork c (word clsMM 1 ops) o (bits (fldD ops) 1 2) ((fldD ops).testBit 0) (!onLut c false o u))
      (fun o u => if (fldD ops).testBit 0 && !onLut c false o u then some (shadOf c u ops o (bits (fldD ops) 1 2)) else none) :=
  carried_of ht rfl (fun _ hf => mmIssue_fails hw hf) (fun _ _ h _ => mmIssue_checks hw h)

theorem mmLut_carried (ht : Takes s c (word clsMM 2 ops) zMM) (hw : bits (fldD ops) 1 2 ≠ 3) :
    Carried (.mmLut c ops) c (word clsMM 2 ops) s (mmCheck c ops true) (fun _ _ => .vx) MmOps.empty
      (fun o _ => mmWork c (word clsMM 2 ops) o (bits (fldD ops) 1 2) ((fldD ops).testBit 0) false) := by
  refine carried_of ht rfl (fun _ hf => mmIssue_fails hw hf) (fun o u h _ => (mmIssue_checks hw h).trans ?_)
  have hl : onLut c true o u = true := rfl
  simp only [hl, if_true, Bool.not_true, Bool.and_false, Bool.false_eq_true, if_false]

theorem mmGrp_illegal (ht : Takes s c (word clsMM 1 ops) zMM) (hw : bits (fldD ops) 1 2 = 3) :
    Leads (.mmGrp c ops) s (s.faulted c (word clsMM 1 ops) { code := fIllegal }) := by
  refine raised_of ht rfl ?_
  unfold workMmGrp mmIssue
  dsimp only
  rw [decide_eq_true hw, M.fltIf_true]

end

/-! ### Accumulator tiles (R136) -/

section
variable {c : CoreId} {ops : BitVec 52} {s u : State} {t : Tens}

/-- The encoding of MM.TALLOC marks everything but its descriptor and its number of tiles zero. -/
abbrev zTalloc : Nat := zT ||| zbits 46 37 ||| zbits 36 34 ||| zbits 28 0

/-- MM.TALLOC of 1 to 16 tiles takes the lowest free run. -/
theorem mmTalloc_takes {t0 : Nat} (ht : Takes s c (word clsMM 4 ops) zTalloc) (h1 : 1 ≤ fldD ops) (h2 : fldD ops ≤ 16)
    (hf : freeRun (s.fld R.CORE_MM_ALLOC_map c) (fldD ops) = some t0) :
    Retires (.mmTalloc c ops) c s
      ((s.put R.CORE_MM_ALLOC_map (s.fld R.CORE_MM_ALLOC_map c ||| ((2 ^ fldD ops - 1) * 2 ^ t0)) c).withT c
        (tOf (fldA ops)) (tallocDesc t0 (fldD ops))) := by
  refine retires_of ht rfl ?_
  unfold workMmTalloc
  dsimp only
  rw [decide_eq_false (by omega), M.fltIf_false, M.get_bind, hf]
  rfl

theorem mmTalloc_full (ht : Takes s c (word clsMM 4 ops) zTalloc) (h1 : 1 ≤ fldD ops) (h2 : fldD ops ≤ 16)
    (hf : freeRun (s.fld R.CORE_MM_ALLOC_map c) (fldD ops) = none) :
    Leads (.mmTalloc c ops) s (s.faulted c (word clsMM 4 ops) { code := fAcc, info := fldD ops }) := by
  refine raised_of ht rfl ?_
  unfold workMmTalloc
  dsimp only
  rw [decide_eq_false (by omega), M.fltIf_false, M.get_bind, hf]
  rfl

theorem mmTalloc_bounds (ht : Takes s c (word clsMM 4 ops) zTalloc) (hn : fldD ops = 0 ∨ 16 < fldD ops) :
    Leads (.mmTalloc c ops) s (s.faulted c (word clsMM 4 ops) { code := fBound, info := fldD ops }) := by
  refine raised_of ht rfl ?_
  unfold workMmTalloc
  dsimp only
  rw [decide_eq_true hn, M.fltIf_true]

/-- MM.TFREE takes a descriptor of accumulator tiles alone. -/
theorem tfreeCheck_verdict (h : evalT c (tOf (fldB ops)) 1 false s = .ok (t, u)) : tfreeCheck c ops s =
    verdict t (if t.d.kind ≠ 3 then [(1, { code := fDesc, info := 52, operand := 1 })] else []) u := by
  refine ranked_verdict ?_
  simp only [evalK, K.gather_ok _ h, K.chkIf_bind, List.nil_append, decide_eq_true_eq]
  rfl

theorem mmTfree_frees (ht : Takes s c (word clsMM 5 ops) (zbits 51 47 ||| zTB ||| zbits 41 0))
    (h : evalT c (tOf (fldB ops)) 1 false s = .ok (t, u)) (hk : t.d.kind = 3) :
    Retires (.mmTfree c ops) c s ((tilesTouched t.d.base t.d.extent).foldl (fun (s : State) k =>
      s.setBit R.CORE_MM_ALLOC_map k false c) u) := by
  refine retires_of ht rfl (M.bind_ok ?_)
  rw [tfreeCheck_verdict h, if_neg (not_not.2 hk)]
  rfl

theorem mmTfree_faults (ht : Takes s c (word clsMM 5 ops) (zbits 51 47 ||| zTB ||| zbits 41 0))
    (h : evalT c (tOf (fldB ops)) 1 false s = .ok (t, u)) (hk : t.d.kind ≠ 3) :
    Leads (.mmTfree c ops) s (s.faulted c (word clsMM 5 ops) { code := fDesc, info := 52, operand := 1 }) := by
  refine raised_of ht rfl (M.bind_error ?_)
  rw [tfreeCheck_verdict h, if_pos hk]
  rfl

end

/-! ### MM.COMBINE (R143 to R145) -/

section
variable {c : CoreId} {ops : BitVec 52} {s : State}

/-- The combine that MM.COMBINE names. -/
def State.named (s : State) (c : CoreId) (ops : BitVec 52) : Comb :=
  combOf (s.sreg c (fldA ops)).toNat (s.sreg c (fldB ops)).toNat (fldD ops)

/-- The operands of a combine are valid: within their bounds, the core and the root among the participants, the participants of
the core's group, and the tiles allocated (R143). -/
structure CombineValid (c : CoreId) (ops : BitVec 52) (s : State) : Prop where
  tiles : (s.sreg c (fldA ops)).toNat < 2 ^ 22
  mask : (s.sreg c (fldB ops)).toNat < 2 ^ 8
  self : (s.named c ops).parts.testBit (c.val % 8) = true
  group : ∀ j, j < 8 → (s.named c ops).parts.testBit j = true → j ∈ (s.groupOf c).map (· % 8)
  root : (s.named c ops).parts.testBit (s.named c ops).root = true
  allocated : ∀ t, t < 16 → (s.named c ops).tiles.testBit t = true → (s.fld R.CORE_MM_ALLOC_map c).testBit t = true

/-- Core c waits in the MM.COMBINE at its pc. -/
def State.combineWaits (s : State) (c : CoreId) (ops : BitVec 52) : State :=
  s.updCore c (fun x => { x with
    wait := .combine, waitArg := ((s.sreg c (fldA ops)).toNat, (s.sreg c (fldB ops)).toNat + fldD ops * 2 ^ 8),
    waitWord := Machine.word clsMM 3 ops, combSeen := none, issued := x.issued + 1 })

/-- With valid operands MM.COMBINE goes by its tile mask and its participants. -/
theorem goMmCombine_valid (h : CombineValid c ops s) : goMmCombine c ops s =
    if (s.named c ops).tiles = 0 then .ok (s.pcOf c + 8, s.emptied c)
    else if (s.named c ops).parts = 2 ^ (c.val % 8) then .ok (s.pcOf c + 8, s)
    else .ok (s.pcOf c, s.combineWaits c ops) := by
  have outside : (List.range 8).any (fun j => (s.named c ops).parts.testBit j && !((s.groupOf c).map (· % 8)).contains j) = false := by
    rw [List.any_eq_false]
    intro j hj
    rw [List.mem_range] at hj
    cases hb : (s.named c ops).parts.testBit j
    · simp
    · simp only [Bool.true_and, Bool.not_eq_true', Bool.not_eq_false, List.contains_iff_mem]
      exact h.group j hj hb
  have alloc : ((List.range 16).filter (fun t => (s.named c ops).tiles.testBit t)).all
      (fun t => (s.fld R.CORE_MM_ALLOC_map c).testBit t) = true := by
    rw [List.all_eq_true]
    intro t ht
    rw [List.mem_filter, List.mem_range] at ht
    exact h.allocated t ht.1 ht.2
  unfold goMmCombine
  simp only [M.getS_bind]
  rw [← State.named.eq_def]
  simp only [decide_eq_false (Nat.not_le.2 h.tiles), decide_eq_false (Nat.not_le.2 h.mask), h.self, outside, h.root, alloc,
    Bool.not_true, Bool.or_self, M.fltIf_false, M.get_bind]
  split_ifs <;> rfl

variable (ht : Takes s c (word clsMM 3 ops) (zbits 41 37 ||| zbits 36 33 ||| zbits 28 0)) (h : CombineValid c ops s)
include ht h

theorem mmCombine_empty (h0 : (s.named c ops).tiles = 0) : Retires (.mmCombine c ops) c s (s.emptied c) := by
  have hpc : (s.emptied c).pcOf c = s.pcOf c := by rw [State.emptied, State.pcOf, State.core_updCore]; rfl
  rw [Retires, hpc]
  exact leads_goOn ht rfl (by rw [goMmCombine_valid h, if_pos h0])

theorem mmCombine_alone (h0 : (s.named c ops).tiles ≠ 0) (h1 : (s.named c ops).parts = 2 ^ (c.val % 8)) :
    Retires (.mmCombine c ops) c s s :=
  leads_goOn ht rfl (by rw [goMmCombine_valid h, if_neg h0, if_pos h1])

theorem mmCombine_waits (h0 : (s.named c ops).tiles ≠ 0) (h1 : (s.named c ops).parts ≠ 2 ^ (c.val % 8)) :
    Leads (.mmCombine c ops) s ((s.combineWaits c ops).goOn c (s.pcOf c)) :=
  leads_goOn ht rfl (by rw [goMmCombine_valid h, if_neg h0, if_neg h1])

end

end Sys2Proof.Machine

/-- Settles O29: the multiplications in the frame of the engine instructions, the accumulator tiles and the combine by their
checks. -/
theorem matrixInstructions : Obligations.MatrixInstructions := by
  refine ⟨fun c ops s => ⟨fun ht hw => mmGrp_carried ht hw, fun ht hw => mmLut_carried ht hw, fun ht hw => mmGrp_illegal ht hw,
    fun ht => ⟨fun t0 h1 h2 hf => mmTalloc_takes ht h1 h2 hf, fun h1 h2 hf => mmTalloc_full ht h1 h2 hf, mmTalloc_bounds ht⟩,
    fun t u ht he => ⟨mmTfree_frees ht he, mmTfree_faults ht he⟩⟩, fun c ops s => ?_⟩
  intro a b k ht ha hb hself hgroup hroot halloc
  have h : CombineValid c ops s := ⟨ha, hb, hself, hgroup, hroot, halloc⟩
  exact ⟨mmCombine_empty ht h, mmCombine_alone ht h, mmCombine_waits ht h⟩

end

section
/-! PROOFS. The recurrence, attention and vector instructions on tensors (R156 to R170, R184 to R189, R199 to R203). -/

open Sys2Proof Sys2Proof.Machine
-- One declaration after the other, as in the tests: the threads of one compile share its memory limit.
set_option Elab.async false

namespace Sys2Proof.Machine

/-- An instruction whose issue is its check and then the common part of the tensor instructions is carried out from its check. -/
theorem carried_rcGo {α : Type} {i : Instr} {c : CoreId} {w : W64} {s : State} {check : M α} {eng : Engine} {empty : α → Bool}
    {work : α → State → M Work} {z : Nat} {m : M Unit} (ht : Takes s c w z)
    (hi : exec i s = .next (s.issue c w z (thenNext c m)))
    (hm : m = check >>= fun o => get >>= fun u => rcGo c eng w (empty o) (work o u)) :
    Carried i c w s check (fun _ _ => eng) empty work := by
  subst hm
  exact carried_of ht hi (fun _ hf => M.bind_error hf) (fun o u h _ => (M.bind_ok h).trans (M.get_bind _ u))

section
variable {c : CoreId} {ops : BitVec 52} {s : State}

/-- AT.WIN looks at its operands and its queue before it waits for the core's writes to other devices. -/
theorem atWin_carried (ht : Takes s c (word clsAT 1 ops) (zT ||| zTB ||| zTC ||| zbits 36 34 ||| zbits 28 0)) :
    Carried (.atWin c ops) c (word clsAT 1 ops) s (winCheck c ops) (fun _ _ => .at) Option.isNone
      (fun o _ => o.elim (pure {}) (winWork c (word clsAT 1 ops)))
      (leaves := fun o => o.elim [] WinOps.leaves) (ready := fun u => u.settled c = true) := by
  refine carried_of ht rfl (fun _ hf => M.bind_error hf) (fun o u h hr => (M.bind_ok h).trans ?_)
  cases o with
  | none => rfl
  | some o =>
    by_cases hq : 16 ≤ ((u.core c).queue .at).length
    · exact (queueRoom_full _ hq).trans (queueRoom_full _ hq).symm
    · rw [Nat.not_le] at hq
      refine (queueRoom_room _ hq).trans ((inOrder_settled _ hr).trans ?_)
      rw [queueRoom_room _ hq]
      rfl

/-- AT.APPEND waits for the other engines before it takes room in its queue. -/
theorem atAppend_carried (ht : Takes s c (word clsAT 2 ops) (zbits 51 47 ||| zTB ||| zPairB ||| zTC ||| zbits 36 34 ||| zbits 28 0)) :
    Carried (.atAppend c ops) c (word clsAT 2 ops) s (appendCheck c ops) (fun _ _ => .at) Option.isNone
      (fun o _ => o.elim (pure {}) (appendWork c (word clsAT 2 ops)))
      (leaves := fun o => o.elim [] AppendOps.leaves) (ready := Settled c) := by
  refine carried_of ht rfl (fun _ hf => M.bind_error hf)
    (fun o u h hr => (M.bind_ok h).trans ((beforeWrite_settled _ hr).trans ?_))
  cases o with
  | none => rfl
  | some o => rfl

end

end Sys2Proof.Machine

/-- Settles O30: each instruction is its check and then the common frame of the tensor instructions. -/
theorem tensorInstructions : Obligations.TensorInstructions :=
  ⟨fun _ _ _ =>
    ⟨(carried_rcGo · rfl rfl), (carried_rcGo · rfl rfl), (carried_rcGo · rfl rfl), (carried_rcGo · rfl rfl),
      atWin_carried, atAppend_carried⟩,
  fun _ _ _ =>
    ⟨(carried_rcGo · rfl rfl), (carried_rcGo · rfl rfl), (carried_rcGo · rfl rfl), (carried_rcGo · rfl rfl),
      (carried_rcGo · rfl rfl)⟩⟩

end

section
/-! PROOFS. The lane instructions whose result is not stated lane by lane complete (R104, R176 to R183). -/

open Sys2Proof Sys2Proof.Machine
-- One declaration after the other, as in the tests: the threads of one compile share its memory limit.
set_option Elab.async false

namespace Sys2Proof.Machine

/-! ### Work that completes from every state -/

/-- The work ends with a value from every state. -/
def Completes {α : Type} (m : M α) : Prop := ∀ s, ∃ a t, m s = .ok (a, t)

section
variable {α β : Type} {c : CoreId}

theorem completes_bind {m : M α} {f : α → M β} (h : Completes m) (hf : ∀ a, Completes (f a)) : Completes (m >>= f) := fun s => by
  obtain ⟨a, t, e⟩ := h s
  rw [M.bind_ok e]
  exact hf a t

theorem completes_pure (a : α) : Completes (pure a : M α) := fun s => ⟨a, s, rfl⟩

theorem completes_ite {p : Prop} [Decidable p] {m n : M α} (hm : Completes m) (hn : Completes n) :
    Completes (if p then m else n) := by
  split_ifs
  · exact hm
  · exact hn

theorem completes_modify {f : State → State} : Completes (modify f : M Unit) := fun s => ⟨(), f s, rfl⟩

theorem completes_nm {n : Nat} {x : NM α} : Completes (nm n x) := fun _ => ⟨_, _, rfl⟩

theorem completes_getM {r : Nat} : Completes (getM c r) := fun _ => ⟨_, _, rfl⟩

theorem completes_getS {r : Nat} : Completes (getS c r) := fun _ => ⟨_, _, rfl⟩

theorem completes_getT {r : Nat} : Completes (getT c r) := fun _ => ⟨_, _, rfl⟩

theorem completes_peekV {r : Nat} : Completes (peekV c r) := fun _ => ⟨_, _, rfl⟩

/-- An uncorrectable word of a v register is left for the completion: the read goes on (R190). -/
theorem completes_getV {r : Nat} : Completes (getV c r) := fun s => by
  unfold getV
  rw [M.get_bind]
  cases s.sramBad (vrfAddr c r 0) 256 <;> exact ⟨_, _, rfl⟩

theorem completes_setV {r : Nat} {v : BitVec 2048} : Completes (setV c r v) := completes_modify

theorem completes_setM {r : Nat} {v : BitVec 256} : Completes (setM c r v) := completes_modify

theorem completes_setS {r : Nat} {v : W64} : Completes (setS c r v) := completes_modify

theorem completes_emptyIf {b : Bool} : Completes (emptyIf c b) := by
  cases b
  · exact completes_pure ()
  · exact completes_modify

theorem completes_permRange {n : Nat} : Completes (permRange c n) := fun s => by
  unfold permRange
  split_ifs <;> exact ⟨_, _, rfl⟩

theorem completes_activeLanes {ops : BitVec 52} {w : Nat} : Completes (activeLanes c ops w) := fun _ => ⟨_, _, rfl⟩

theorem completes_oldLanes {ops : BitVec 52} : Completes (oldLanes c ops) := by
  unfold oldLanes
  exact completes_ite completes_getV completes_peekV

theorem completes_mapLanes {ops : BitVec 52} {f : Nat → Nat → NM Nat} : Completes (mapLanes c ops f) :=
  completes_bind (completes_activeLanes) fun _ =>
  completes_bind (completes_oldLanes) fun _ =>
  completes_bind (completes_nm) fun _ => completes_setV

end

/-! ### The instructions -/

section
variable {c : CoreId} {ops : BitVec 52}

theorem completes_vxCmp : Completes (workVxCmp c ops) :=
  completes_bind (completes_activeLanes) fun _ =>
  completes_bind (completes_getV) fun _ =>
  completes_bind (completes_getV) fun _ =>
  completes_bind (completes_nm) fun _ => completes_setM

theorem completes_vxCvt : Completes (workVxCvt c ops) :=
  completes_bind completes_activeLanes fun _ =>
  completes_bind completes_getV fun _ =>
  completes_ite
    (completes_bind completes_oldLanes fun _ => completes_bind completes_nm fun _ => completes_setV)
    (completes_bind completes_getV fun _ => completes_bind completes_nm fun _ => completes_setV)

theorem completes_vxFn : Completes (workVxFn c ops) :=
  completes_bind (completes_getV) fun _ => completes_mapLanes

theorem completes_vxCmpr : Completes (workVxCmpr c ops) :=
  completes_bind (completes_activeLanes) fun _ =>
  completes_bind (completes_getV) fun _ =>
  completes_bind (completes_setV) fun _ =>
  completes_bind (completes_setS) fun _ => completes_emptyIf

theorem completes_vxExpd : Completes (workVxExpd c ops) :=
  completes_bind (completes_activeLanes) fun _ =>
  completes_bind (completes_getV) fun _ => completes_mapLanes

theorem completes_vxPerm : Completes (workVxPerm c ops) :=
  completes_bind (completes_activeLanes) fun _ =>
  completes_bind (completes_getV) fun _ =>
  completes_bind (completes_getV) fun _ =>
  completes_bind (completes_mapLanes) fun _ => completes_permRange

/-- VX.RED completes when its bound is within the lanes of the register (R182). -/
theorem vxRed_completes {s : State} (h : fldC ops = 0 ∨ (s.sreg c (fldC ops)).toNat ≤ lanesOf (elemBits (vxFmt ops))) :
    ∃ t, workVxRed c ops s = .ok ((), t) := by
  have bound : ¬ lanesOf (elemBits (vxFmt ops)) <
      (if fldC ops = 0 then lanesOf (elemBits (vxFmt ops)) else (s.sreg c (fldC ops)).toNat) := by
    split_ifs with h0
    · exact lt_irrefl _
    · exact Nat.not_lt.2 (h.resolve_left h0)
  unfold workVxRed
  dsimp only
  rw [M.getS_bind, decide_eq_false bound, M.fltIf_false]
  obtain ⟨⟨⟩, t, e⟩ := (completes_bind (completes_activeLanes) fun _ =>
    completes_bind (completes_getV) fun _ =>
    completes_bind (completes_getT) fun _ =>
    completes_bind (completes_nm) fun _ =>
    completes_bind (completes_getV) fun _ =>
    completes_bind (completes_setV) fun _ => completes_emptyIf) s
  exact ⟨t, e⟩

/-- A lane instruction whose work completes retires with what the work leaves. -/
theorem lane_completes {i : Instr} {op z : Nat} {takes : Nat → Bool} {m : M Unit} {s : State}
    (hi : exec i s = laneOp c op ops z takes m s) (ht : Takes s c (word clsVX op ops) (zVX ||| zMaskReg ||| z))
    (hf : takes (vxFmt ops) = true) (hq : (s.core c).vx.length < 16) (h : ∃ t, m s = .ok ((), t)) :
    ∃ t, m s = .ok ((), t) ∧ Retires i c s (t.dispatched c .vx (word clsVX op ops) {}) := by
  obtain ⟨t, e⟩ := h
  exact ⟨t, e, lane_ok hi ht hf hq e⟩

theorem Completes.unit {m : M Unit} (h : Completes m) (s : State) : ∃ t, m s = .ok ((), t) := by
  obtain ⟨⟨⟩, t, e⟩ := h s
  exact ⟨t, e⟩

end

end Sys2Proof.Machine

/-- Settles O32: the work of each instruction is a chain of steps that complete, with the bound of VX.RED in range. -/
theorem vectorLanesComplete : Obligations.VectorLanesComplete := by
  intro c ops s
  dsimp only
  intro hq
  refine ⟨fun ht hf hd => ?_, fun ht hf hd hp => ?_, fun ht hf hd => ?_, fun ht hf hm => ?_, fun ht hf hm => ?_, fun ht hf => ?_,
    fun ht hf hn => ?_⟩
  case refine_1 =>
    exact lane_completes (takes := fun f => fmtLane f && decide (fldD ops < 6)) rfl ht (by simp [hf, hd]) hq (completes_vxCmp.unit s)
  case refine_2 =>
    exact lane_completes (takes := fun f => fmtCvt f && fmtCvt (fldD ops % 16) &&
        vxPartOk (elemBits (vxFmt ops)) (elemBits (fldD ops % 16)) (bits (fldD ops) 4 2)) rfl ht (by simp [hf, hd, hp]) hq
      (completes_vxCvt.unit s)
  case refine_3 =>
    exact lane_completes (takes := fun f => fmtFloat f && decide (fldD ops < 9)) rfl ht (by simp [hf, hd]) hq (completes_vxFn.unit s)
  case refine_4 =>
    exact lane_completes (takes := fun f => fmtLane f && vxMasked ops) rfl ht (by simp [hf, hm]) hq (completes_vxCmpr.unit s)
  case refine_5 =>
    exact lane_completes (takes := fun f => fmtLane f && vxMasked ops) rfl ht (by simp [hf, hm]) hq (completes_vxExpd.unit s)
  case refine_6 => exact lane_completes (takes := fmtLane) rfl ht hf hq (completes_vxPerm.unit s)
  case refine_7 => exact lane_completes (takes := fmtLane) rfl ht hf hq (vxRed_completes hn)

end

section
/-! PROOFS. The events of the engines and of the tile cache, and the checks of the matrix arrays (R104, R123, R140 to R147,
R212, R224, R229, R332 to R334). -/

open Sys2Proof Sys2Proof.Machine
-- One declaration after the other, as in the tests: the threads of one compile share its memory limit.
set_option Elab.async false

namespace Sys2Proof.Machine

/-! ### Rendezvous and completion -/

section
variable {c : CoreId} {s : State} (hm : s.mainOn = true)
include hm

/-- The root of a combine whose participants all wait sums their tiles. -/
theorem combineRendezvous_sums (hw : (s.core c).wait = .combine) (hn : (s.core c).combSeen = none)
    (hr : (s.core c).comb.root = c.val % 8) (ha : (s.combineCores c).all s.combReady = true)
    (hh : ∀ d, (s.core d).shadowHold = []) : Leads (.combineRendezvous c) s (s.combine c (s.core c).comb (s.combineCores c)) := by
  have free : ∀ d a n, s.shadowHolds d a n = false := fun d a n => by rw [State.shadowHolds, hh d]; rfl
  refine leads_mainEv rfl hm ?_
  simp [hw, hn, hr, ha, free]

/-- A participant whose tiles have been read goes on once every core of its mask has issued. -/
theorem combineRendezvous_leaves {seen : Nat} (hw : (s.core c).wait = .combine) (hs : (s.core c).combSeen = some seen)
    (ha : ∀ j, j < 8 → (s.core c).comb.parts.testBit j = true →
      seen.testBit j = true ∨ s.combReady (8 * (c.val / 8) + j) = true) :
    Leads (.combineRendezvous c) s (s.combineOut c) := by
  have met : (List.range 8).all (fun j =>
      !(s.core c).comb.parts.testBit j || seen.testBit j || s.combReady (8 * (c.val / 8) + j)) = true := by
    rw [List.all_eq_true]
    intro j hj
    have := ha j (List.mem_range.1 hj)
    cases hb : (s.core c).comb.parts.testBit j <;> simp_all
  refine leads_mainEv rfl hm ?_
  simp [hw, hs, met]

/-- With no transaction outstanding, a staged head of a queue ends in its turn. -/
theorem engineInstructionComplete_ends {e : Engine} {q : InFlight} {qs : List InFlight} (hq : (s.core c).queue e = q :: qs)
    (hs : s.staged (c.val / 8) q = true) (ht : (s.core c).rcTurn e q = true) (hv : e = .vx → (s.core c).shadowRun = none)
    (hx : s.txns = []) : Leads (.engineInstructionComplete c e) s (s.engineDone c e q qs) := by
  refine leads_mainEv rfl hm ?_
  rw [hq]
  dsimp only
  rw [if_neg]
  rintro (h | h | ⟨h, h'⟩ | ⟨_, h⟩)
  · simp [hs] at h
  · simp [ht] at h
  · simp [hv h] at h'
  · simp [hx] at h

end

/-! ### The tile cache -/

/-- A change of a hoop depends only on what it makes of the hoop at hand. -/
theorem State.updHoop_congr {s : State} {h : Nat} {f g : Hoop → Hoop} (e : f (s.hoop h) = g (s.hoop h)) :
    s.updHoop h f = s.updHoop h g :=
  congrArg (fun x => { s with hoops := SMap.put {} s.hoops h x }) e

/-- A change of the tiles depends only on what it makes of those present. -/
theorem State.updTiles_congr {s : State} {h : Nat} {f g : List Tile → List Tile} (e : f (s.hoop h).tiles = g (s.hoop h).tiles) :
    s.updTiles h f = s.updTiles h g := by
  unfold State.updTiles
  rw [State.updHoop_congr (f := fun k => k.setTiles (f k.tiles)) (g := fun k => k.setTiles (g k.tiles))
    (congrArg (s.hoop h).setTiles e)]

/-- The first tile that a test finds is the one edited. -/
theorem editTile_append {p : Tile → Bool} {f : Tile → Option Tile} {t : Tile} {l1 l2 : List Tile} (h1 : ∀ x ∈ l1, p x = false)
    (ht : p t = true) : editTile p f (l1 ++ t :: l2) = l1 ++ (f t).toList ++ l2 := by
  induction l1 with
  | nil => simp only [List.nil_append, editTile, ht, if_true]
  | cons x l1 ih =>
    have hx : p x = false := h1 x (by simp)
    simp only [List.cons_append, editTile, hx, Bool.false_eq_true, if_false, ih (fun y hy => h1 y (by simp [hy]))]

theorem find?_first {p : Tile → Bool} {t : Tile} {l1 l2 : List Tile} (h1 : ∀ x ∈ l1, p x = false) (ht : p t = true) :
    (l1 ++ t :: l2).find? p = some t := by
  rw [List.find?_append, List.find?_eq_none.2 (fun x hx => by simp [h1 x hx]), Option.none_or, List.find?_cons_of_pos ht]

/-- A tile with one pin less, as `unpin` leaves it: none when it goes with its last pin. -/
def Tile.unpinned (t : Tile) : Option Tile :=
  if 1 < t.pins then some { t with pins := t.pins - 1 }
  else if t.inval || !t.keep || t.corrupt || t.gone then none
  else some { t with pins := 0 }

/-- A tile without a further pin goes when it is invalidated, of a mutable source, corrupt or given up. -/
theorem Tile.unpinned_goes {t : Tile} (hp : t.pins ≤ 1) (h : t.inval = true ∨ t.keep = false ∨ t.corrupt = true ∨ t.gone = true) :
    t.unpinned = none := by
  have : (t.inval || !t.keep || t.corrupt || t.gone) = true := by simpa [or_assoc] using h
  rw [Tile.unpinned, if_neg (Nat.not_lt.2 hp), if_pos this]

/-- Another tile stays without a pin. -/
theorem Tile.unpinned_stays {t : Tile} (hp : t.pins = 1) (hi : t.inval = false) (hk : t.keep = true) (hc : t.corrupt = false)
    (hg : t.gone = false) : t.unpinned = some { t with pins := 0 } := by
  simp [Tile.unpinned, hp, hi, hk, hc, hg]

section
variable {h : HoopId} {k : TileKey} {s : State} {l1 l2 : List Tile} {t : Tile} (hm : s.mainOn = true)
  (hl : (s.hoop h).tiles = l1 ++ t :: l2)
include hm hl

/-- The expander ends the tile longest in it, and no other. -/
theorem tileExpanded_first (h1 : ∀ x ∈ l1, x.expanding = false) (ht : t.expanding = true) :
    Leads (.tileExpanded h k) s (if t.addr = k.addr.toNat ∧ t.blk = k.blk then s.expandEnd h t else s) := by
  refine leads_mainEv rfl hm ?_
  rw [hl, find?_first h1 ht]

omit hm in
/-- What the end of an expansion leaves: the tile as expanded in its place, and a corrupt one counted. -/
theorem expandEnd_first (h1 : ∀ x ∈ l1, x.expanding = false) (ht : t.expanding = true) : s.expandEnd h t =
    if t.bad then (s.updTiles h (fun _ => l1 ++ t.expanded.toList ++ l2)).count R.HOOP_EXP_CORRUPT_count 1 h
    else s.updTiles h (fun _ => l1 ++ t.expanded.toList ++ l2) := by
  have : s.updTiles h (editTile Tile.expanding Tile.expanded) = s.updTiles h (fun _ => l1 ++ t.expanded.toList ++ l2) :=
    State.updTiles_congr (by rw [hl, editTile_append h1 ht])
  rw [State.expandEnd, this]

/-- A pin is released as `unpin` does it while more stand than instructions hold, and a tile without one leaves. -/
theorem tileUnpin_first (ha : t.addr = k.addr.toNat) (hb : t.blk = k.blk)
    (h1 : ∀ x ∈ l1, ¬ (x.addr = t.addr ∧ x.blk = t.blk ∧ (0 < x.pins ∨ x.inval = true))) (hp : 0 < t.pins ∨ t.inval = true) :
    Leads (.tileUnpin h k) s
      (if s.tileHolders h (k.addr.toNat, k.blk) < t.pins ∨ t.pins = 0 then
        s.updTiles h (fun _ => l1 ++ t.unpinned.toList ++ l2)
       else s) := by
  have none1 : ∀ x ∈ l1, (x.addr == k.addr.toNat && x.blk == k.blk && (decide (0 < x.pins) || x.inval)) = false := fun x hx => by
    rw [Bool.eq_false_iff]
    intro hc
    simp only [Bool.and_eq_true, beq_iff_eq, Bool.or_eq_true, decide_eq_true_eq] at hc
    obtain ⟨⟨xa, xb⟩, xp⟩ := hc
    exact h1 x hx ⟨xa.trans ha.symm, xb.trans hb.symm, xp⟩
  have this1 : (t.addr == k.addr.toNat && t.blk == k.blk && (decide (0 < t.pins) || t.inval)) = true := by
    simp only [Bool.and_eq_true, beq_iff_eq, Bool.or_eq_true, decide_eq_true_eq]
    exact ⟨⟨ha, hb⟩, hp⟩
  refine leads_mainEv rfl hm ?_
  dsimp only
  rw [hl, find?_first none1 this1]
  dsimp only
  rw [State.updTiles_congr (g := fun _ => l1 ++ t.unpinned.toList ++ l2) (by rw [hl, unpin, editTile_append none1 this1]; rfl)]

/-- The pin of a tile whose holders are fewer than its pins is released. -/
theorem tileUnpin_releases (ha : t.addr = k.addr.toNat) (hb : t.blk = k.blk)
    (h1 : ∀ x ∈ l1, ¬ (x.addr = t.addr ∧ x.blk = t.blk ∧ (0 < x.pins ∨ x.inval = true))) (hp : 0 < t.pins ∨ t.inval = true)
    (hf : s.tileHolders h (k.addr.toNat, k.blk) < t.pins ∨ t.pins = 0) :
    Leads (.tileUnpin h k) s (s.updTiles h (fun _ => l1 ++ t.unpinned.toList ++ l2)) := by
  have := tileUnpin_first hm hl ha hb h1 hp
  rwa [if_pos hf] at this

end

/-! ### Self-test, shadow checks and residue recovery -/

section
variable {c : CoreId} {s : State} (hm : s.mainOn = true)
include hm

theorem coreSelfTest_passes (ho : s.hoopOn (c.val / 8) = true) (hr : (s.core c).recovering = false)
    (hn : (if c.val < 64 then (s.fld R.COLO_READY2_cores).testBit c else (s.fld R.COLO_READY3_cores).testBit (c.val - 64)) = false) :
    Leads (.coreSelfTest c true) s ((s.put R.CORE_MM_CTRL_lut_mode 0 c).coreReady c true) := by
  refine leads_mainEv rfl hm ?_
  dsimp only
  rw [hn, ho, hr]
  rfl

theorem shadowArm_arms (hl : s.bit R.CORE_MM_CTRL_lut_mode c = false) (hp : s.fld R.CORE_MM_SHADOW_CFG_shadow_period c ≠ 0)
    (hd : (s.core c).shadowDue ≤ s.now) :
    Leads (.shadowArm c) s (s.updCore c (fun k => { k with
      shadowArmed := true, shadowDue := s.now + s.fld R.CORE_MM_SHADOW_CFG_shadow_period c * 1000000 })) := by
  refine leads_mainEv rfl hm ?_
  simp [hl, hp, hd]

section
variable {q : InFlight} {b r : Nat} {h : Shad} (hr : (s.core c).shadowRun = some (q, b, r)) (hq : q.shad = some h)
include hr hq

/-- What the check of a running block compares: the accumulator's values with those computed again. -/
abbrev blockDiffers (s : State) (c : CoreId) (q : InFlight) (h : Shad) (b r : Nat) : Option (Nat × Nat) :=
  s.shadowDiffers c h.ops.td.d (blockPieces h.ops.N h.ops.M b r) (s.shadowValues c q h (blockPieces h.ops.N h.ops.M b r))

theorem shadowCheck_agrees (hd : blockDiffers s c q h b r = none) : Leads (.shadowCheck c) s (s.shadowEnd c q) := by
  refine leads_mainEv rfl hm ?_
  simp only [hr, hq, hd]

theorem shadowCheck_fails {m n : Nat} (hd : blockDiffers s c q h b r = some (m, n)) :
    Leads (.shadowCheck c) s ((s.shadowEnd c q).shadowFail c q m n) := by
  refine leads_mainEv rfl hm ?_
  simp only [hr, hq, hd]

end

/-- A recovery that has ended: the core is ready and keeps the time. -/
def State.recovered (s : State) (c : CoreId) : State :=
  (s.coreReady c true).updCore c (fun k => { k with recovering := false, recoverAgain := false, lastRecovery := some s.now })

/-- The rerun self-test ends the recovery; a pass restores the array unless another recovery ran within the hour. -/
theorem residueRecovery_ends {pass : Bool} (hr : (s.core c).recovering = true) :
    Leads (.residueRecovery c pass) s
      ((if pass && !(s.core c).recoverAgain then s.put R.CORE_MM_CTRL_lut_mode 0 c else s).recovered c) := by
  refine leads_mainEv rfl hm ?_
  simp only [hr, Bool.not_true, Bool.false_eq_true, if_false, State.recovered]

end

end Sys2Proof.Machine

/-- Settles O33: each event by what it finds at the core or in the tile cache. -/
theorem engineEvents : Obligations.EngineEvents := by
  refine ⟨fun c e h k s hm => ⟨fun hw => ⟨?_, ?_⟩, ?_, ?_, ?_, ?_⟩, fun c s hm => ⟨?_, ?_, ?_, ?_⟩⟩
  case refine_1 => exact combineRendezvous_sums hm hw
  case refine_2 => exact fun _ hs ha => combineRendezvous_leaves hm hw hs ha
  case refine_3 => exact fun _ _ hq hs ht hv hx => engineInstructionComplete_ends hm hq hs ht hv hx
  case refine_4 => exact leads_mainEv rfl hm rfl
  case refine_5 =>
    intro l1 t l2 hl h1 hx
    have ends := expandEnd_first hl h1 hx
    have first := tileExpanded_first (k := k) hm hl h1 hx
    refine ⟨fun hn => ?_, fun ha hb => ?_⟩
    · rwa [if_neg (not_and_or.2 hn)] at first
    · rw [if_pos ⟨ha, hb⟩, ends] at first
      refine ⟨fun hg hp => ?_, fun hg hp hk => ?_, fun hg hp => ?_, fun hg hp => ?_⟩
      · have : t.expanded = some { t with valid := true } := by
          rcases hp with hp | hp <;> simp [Tile.expanded, hg, hp]
        simpa [hg, this] using first
      · simpa [hg, Tile.expanded, hp, hk] using first
      · simpa [hg, Tile.expanded, hp] using first
      · simpa [hg, Tile.expanded, hp] using first
  case refine_6 =>
    intro l1 t l2 hl ha hb h1
    refine ⟨fun hp hf => ?_, fun hp hf => ?_, fun hp hf hi hk hc hg => ?_, fun hp hf hd => ?_, fun hp hi => ?_⟩
    · have := tileUnpin_first hm hl ha hb h1 (.inl (Nat.pos_of_ne_zero hp))
      rwa [if_neg (not_or.2 ⟨Nat.not_lt.2 hf, hp⟩)] at this
    · have := tileUnpin_releases hm hl ha hb h1 (.inl (by omega)) (.inl hf)
      simpa [Tile.unpinned, hp] using this
    · have := tileUnpin_releases hm hl ha hb h1 (.inl (by omega)) (.inl (by omega))
      simpa [Tile.unpinned_stays hp hi hk hc hg] using this
    · have := tileUnpin_releases hm hl ha hb h1 (.inl (by omega)) (.inl (by omega))
      simpa [Tile.unpinned_goes hp.le hd] using this
    · have := tileUnpin_releases hm hl ha hb h1 (.inr hi) (.inr hp)
      simpa [Tile.unpinned_goes (hp.le.trans (Nat.zero_le 1)) (.inl hi)] using this
  case refine_7 => exact coreSelfTest_passes hm
  case refine_8 => exact shadowArm_arms hm
  case refine_9 =>
    intro q b r h hr hq
    exact ⟨shadowCheck_agrees hm hr hq, fun _ _ => shadowCheck_fails hm hr hq⟩
  case refine_10 =>
    intro hr
    refine ⟨fun ha => ?_, fun ha => ?_, residueRecovery_ends hm hr⟩
    · have := residueRecovery_ends (pass := true) hm hr
      rwa [ha] at this
    · have := residueRecovery_ends (pass := true) hm hr
      rwa [ha] at this

end

section
/-! PROOFS. The lane instructions on bits and on numbers, lane by lane (R73, R74, R175 to R177). -/

open Sys2Proof Sys2Proof.Machine
-- One declaration after the other, as in the tests: the threads of one compile share its memory limit.
set_option Elab.async false

namespace Sys2Proof.Machine

/-! ### The frame: from the map of a lane instruction to what it leaves -/

section
variable {i : Instr} {c : CoreId} {op z : Nat} {ops : BitVec 52} {takes : Nat → Bool} {m : M Unit} {s : State}
  (hi : exec i s = laneOp c op ops z takes m s) (ht : Takes s c (word clsVX op ops) (zVX ||| zMaskReg ||| z))
include hi ht

/-- A lane instruction of a format that it does not take is illegal (R175). -/
theorem lane_illegal (hf : takes (vxFmt ops) = false) :
    Leads i s (s.faulted c (word clsVX op ops) { code := fIllegal }) := by
  refine raised_of ht hi ?_
  rw [laneWork, hf, Bool.not_false, M.fltIf_true]

variable (hf : takes (vxFmt ops) = true) (hq : (s.core c).vx.length < 16) (hs : LanesSound s c ops)
include hf hq hs

/-- A lane instruction that maps the lanes of v[A] retires with them mapped. -/
theorem lanesRun_retires {f : Nat → Nat → NM Nat} (hm : m s = mapLanes c ops f s) :
    Retires i c s (s.lanesRun c ops (word clsVX op ops) f) :=
  lane_ok hi ht hf hq (hm.trans (mapLanes_run c ops f (hs _ (by simp))))

/-- A lane instruction that only moves bits leaves the counters as they are. -/
theorem lanesSet_retires {f : Nat → Nat} (hm : m s = mapLanes c ops (fun i _ => pure (f i)) s) :
    Retires i c s (s.lanesSet c ops (word clsVX op ops) f) := by
  have run := lanesRun_retires hi ht hf hq hs hm
  rwa [State.lanesRun, lanesMapped_pure] at run

end

/-! ### The work of each instruction over sound registers -/

section
variable {c : CoreId} {ops : BitVec 52} {s : State}

/-- The value of lane i of v[r] at the width of an instruction's format. -/
abbrev State.lane (s : State) (c r : Nat) (ops : BitVec 52) (i : Nat) : Nat := (s.lanesAt c r ops).getD i 0

theorem workVxSplat_sound :
    workVxSplat c ops s = mapLanes c ops (fun _ _ => pure ((s.sreg c (fldB ops)).toNat % 2 ^ elemBits (vxFmt ops))) s :=
  M.getS_bind ..

theorem workVxIota_sound :
    workVxIota c ops s = mapLanes c ops (fun i _ => pure (((s.sreg c (fldB ops)).toNat + i) % 2 ^ elemBits (vxFmt ops))) s :=
  M.getS_bind ..

variable (hs : LanesSound s c ops)
include hs

/-- The sources of a lane instruction are read as they stand. -/
theorem sources_bind {β : Type} (g : BitVec 2048 → BitVec 2048 → M β) :
    (getV c (fldB ops) >>= fun x => getV c (fldC ops) >>= g x) s = g (s.vreg c (fldB ops)) (s.vreg c (fldC ops)) s := by
  rw [M.getV_bind _ (hs (fldB ops) (by simp)), M.getV_bind _ (hs (fldC ops) (by simp))]

theorem workVxLog_sound : workVxLog c ops s =
    mapLanes c ops (fun i _ => pure (logOp (fldD ops) (s.lane c (fldB ops) ops i) (s.lane c (fldC ops) ops i))) s :=
  sources_bind hs _

theorem workVxShf_sound : workVxShf c ops s =
    mapLanes c ops (fun i _ => pure (shfOp (fldD ops) (elemBits (vxFmt ops)) (s.lane c (fldB ops) ops i)
      (s.lane c (fldC ops) ops i % elemBits (vxFmt ops)))) s :=
  sources_bind hs _

theorem workBin_sound (g : Dy → Dy → NM Dy) : workBin c ops g s =
    mapLanes c ops (fun i _ => arith (vxFmt ops) g (s.lane c (fldB ops) ops i) (s.lane c (fldC ops) ops i)) s :=
  sources_bind hs _

theorem workVxAbs_sound : workVxAbs c ops s =
    mapLanes c ops (fun i _ => do let x ← readElem (vxFmt ops) (s.lane c (fldB ops) ops i); laneOut (vxFmt ops) x.abs) s :=
  M.getV_bind _ (hs _ (by simp))

/-- VX.SEL writes every lane: its mask chooses between the sources and governs none of them. -/
theorem workVxSel_sound : workVxSel c ops s =
    .ok ((), s.withV c (fldA ops) (ofLanes (elemBits (vxFmt ops)) ((List.range (lanesOf (elemBits (vxFmt ops)))).map (fun i =>
      if governs (s.mreg c (vxMask ops)) (elemBits (vxFmt ops)) i then s.lane c (fldB ops) ops i
      else s.lane c (fldC ops) ops i)))) := by
  unfold workVxSel
  dsimp only
  rw [M.getM_bind, sources_bind hs]
  rfl

/-- What VX.FMA makes of a lane that holds z: the exact product plus z, rounded once. -/
def fmaLane (f a b z : Nat) : NM Nat := do
  let x ← readElem f a
  let y ← readElem f b
  let w ← readElem f z
  laneOut f (← addNM (← mulNM x y) w)

/-- VX.FMA reads its addend from v[A] before the map, where the map's old value of each lane stands too. -/
theorem workVxFma_run : workVxFma c ops s = .ok ((), s.lanesMapped c ops (fun i z =>
    fmaLane (vxFmt ops) (s.lane c (fldB ops) ops i) (s.lane c (fldC ops) ops i) z)) := by
  have dest : s.sramWords (vrfAddr c (fldA ops) 0) 256 = [] := hs _ (by simp)
  unfold workVxFma
  dsimp only
  rw [sources_bind hs, M.getV_bind _ dest, mapLanes_run _ _ _ dest]
  rfl

end

end Sys2Proof.Machine

/-- Settles O31: each instruction's work is a map of the lanes of v[A] over registers read as they stand; VX.SEL alone writes
every lane, and VX.LOG of a floating-point format is illegal. -/
theorem vectorLanes : Obligations.VectorLanes := by
  refine ⟨fun c ops s => ?_, fun c ops s => ?_⟩
  · intro n a b z hq hs
    refine ⟨fun ht hf => ?log, fun ht hf hd => ?shf, fun ht hf hm => ?sel, fun ht hf => ?splat, fun ht hf => ?iota,
      fun ht hf => ?illegal⟩
    case log => exact lanesSet_retires rfl ht hf hq hs (workVxLog_sound hs)
    case shf =>
      have takes : (fmtInt (vxFmt ops) && fldD ops != 3) = true := by simp [hf, hd]
      exact lanesSet_retires (takes := fun f => fmtInt f && fldD ops != 3) rfl ht takes hq hs (workVxShf_sound hs)
    case sel =>
      have takes : (fmtLane (vxFmt ops) && vxMasked ops) = true := by simp [hf, hm]
      exact lane_ok (takes := fun f => fmtLane f && vxMasked ops) rfl ht takes hq (workVxSel_sound hs)
    case splat => exact lanesSet_retires rfl ht hf hq hs workVxSplat_sound
    case iota => exact lanesSet_retires rfl ht hf hq hs workVxIota_sound
    case illegal => exact lane_illegal rfl ht hf
  · intro f a b z hq hs
    refine ⟨fun ht hf => ?add, fun ht hf => ?sub, fun ht hf => ?mul, fun ht hf => ?max, fun ht hf => ?min, fun ht hf => ?fma,
      fun ht hf => ?abs⟩
    case add => exact lanesRun_retires rfl ht hf hq hs (workBin_sound hs addNM)
    case sub => exact lanesRun_retires rfl ht hf hq hs (workBin_sound hs subNM)
    case mul => exact lanesRun_retires rfl ht hf hq hs (workBin_sound hs mulNM)
    case max => exact lanesRun_retires rfl ht hf hq hs (workBin_sound hs larger)
    case min => exact lanesRun_retires rfl ht hf hq hs (workBin_sound hs smaller)
    case fma => exact lane_ok rfl ht hf hq (workVxFma_run hs)
    case abs => exact lanesRun_retires rfl ht hf hq hs (workVxAbs_sound hs)

end

section
/-! PROOFS. The HBM controller, the tile cache, the leaves and the decode tables (R27, R208, R212, R214, R217, R218, R227). -/

open Sys2Proof Sys2Proof.Machine
-- One declaration after the other, as in the tests: the threads of one compile share its memory limit.
set_option Elab.async false

namespace Sys2Proof.Machine

/-! ### The HBM controller (R27, R214, R217, R218) -/

section
variable {pc : Fin 32} {s : State}

/-- Until its readiness bit is set the controller runs no patrol scrub (R27). -/
theorem patrolScrub_notReady (hu : s.hbmUp = false) : exec .patrolScrub s = .next s :=
  exec_mainEv_self rfl (if_neg (by simp [hu]))

/-- Until its readiness bit is set the controller starts no recalibration of its own (R27). -/
theorem recalAuto_notReady (hu : s.hbmUp = false) : exec (.recalAuto pc) s = .next s :=
  exec_mainEv_self rfl (if_pos (by simp [hu]))

section
variable (hm : s.mainOn = true)
include hm

theorem patrolScrub_steps (hu : s.hbmUp = true) (he : s.bit R.HBM_CTRL_scrub_en = true) :
    Leads .patrolScrub s s.scrubStep.scrubWrap :=
  leads_mainEv rfl hm (if_pos (by simp [hu, he]))

/-- A recalibration that runs ends, and counts when training did not converge (Table 9-4). -/
theorem recalDone_ends (conv : Bool) (hb : s.bit R.HBM_STAT_recal_busy = true) :
    let t : State := { s.put R.HBM_STAT_recal_busy 0 with hbm := { s.hbm with
      recals := SMap.put (0, 0) s.hbm.recals (s.fld R.HBM_STAT_recal_pc) (s.now, (s.put R.HBM_STAT_recal_busy 0).fld R.HBM_STAT_temp) } }
    Leads (.recalDone conv) s (if conv then t else t.count R.HBM_RECAL_FAIL_count) :=
  leads_mainEv rfl hm (if_neg (by simp [hb]))

variable (hu : s.hbmUp = true) (ha : s.bit R.HBM_CTRL_recal_auto = true) (hb : s.bit R.HBM_STAT_recal_busy = false)
include hu ha hb

/-- While automatic recalibration is on and none runs, one starts in turn, or else for drift. -/
theorem recalAuto_ready :
    Leads (.recalAuto pc) s
      (if s.turnDue pc.val then ({ s with hbm := { s.hbm with turn := (s.hbm.turn + 1) % 32 } } : State).recalStart pc.val
       else if s.driftDue pc.val then s.recalStart pc.val else s) :=
  leads_mainEv rfl hm (if_neg (by simp [hu, ha, hb]))

theorem recalAuto_turn (ht : s.turnDue pc.val = true) :
    Leads (.recalAuto pc) s (({ s with hbm := { s.hbm with turn := (s.hbm.turn + 1) % 32 } } : State).recalStart pc.val) := by
  have ready := recalAuto_ready (pc := pc) hm hu ha hb
  rwa [if_pos ht] at ready

theorem recalAuto_drift (ht : s.turnDue pc.val = false) (hd : s.driftDue pc.val = true) :
    Leads (.recalAuto pc) s (s.recalStart pc.val) := by
  have ready := recalAuto_ready (pc := pc) hm hu ha hb
  rwa [if_neg (by simp [ht]), if_pos hd] at ready

end

/-- A recalibration by command, while none runs, is asked of the controller, which takes it at once only when ready. -/
theorem hbmRecal_asks {p : Port} (hp : Permit s p (R.HBM_RECAL_pc.addr 0 0)) (hb : s.bit R.HBM_STAT_recal_busy = false) :
    Leads (.hbmRecal p pc true) s (s.recalAsk pc.val) :=
  leads_regCmd rfl hp (if_neg (by simp [hb]))

theorem State.recalAsk_ready (hu : s.hbmUp = true) (n : Nat) : s.recalAsk n = s.recalStart n := if_pos hu

theorem State.recalAsk_waits (hu : s.hbmUp = false) (n : Nat) :
    s.recalAsk n = { s with hbm := { s.hbm with asked := some n } } :=
  if_neg (by simp [hu])

end

/-! ### The tile cache and the leaves (R208, R212) -/

section
variable {p : Port} {h : HoopId} {s : State}

theorem tcInval_drops (hp : Permit s p (R.HOOP_TC_INVAL_all.addr h.val 0)) :
    Leads (.tcInval p h true) s (s.invalTiles h.val (fun _ => true)) :=
  leads_regCmd rfl hp rfl

section
variable {leaf : BitVec 44} (hp : Permit s p (R.HOOP_AT_FREE_leaf.addr h.val 0))
  (hb : s.bit R.HOOP_AT_FREE_STAT_busy h.val = false)
include hp hb

/-- A free that finds no pin on its leaf is over at once. -/
theorem atFree_unpinned (hf : (s.atMark h.val leaf.toNat).freeing h.val = false) :
    Leads (.atFree p h leaf) s (s.atMark h.val leaf.toNat) :=
  leads_regCmd rfl hp (by simp [State.atFree, hb, hf])

theorem atFree_waits (hf : (s.atMark h.val leaf.toNat).freeing h.val = true) :
    Leads (.atFree p h leaf) s ((s.atMark h.val leaf.toNat).put R.HOOP_AT_FREE_STAT_busy 1 h.val) :=
  leads_regCmd rfl hp (by simp [State.atFree, hb, hf])

end

section
variable (hm : s.mainOn = true)
include hm

theorem atFreeDone_ends (hb : s.bit R.HOOP_AT_FREE_STAT_busy h.val = true) (hf : s.freeHeld h.val = false) :
    Leads (.atFreeDone h) s (s.freeEnd h.val) :=
  leads_mainEv rfl hm (if_neg (by simp [hb, hf]))

theorem atFreeDone_held (hf : s.freeHeld h.val = true) : Leads (.atFreeDone h) s s :=
  leads_mainEv rfl hm (if_pos (by simp [hf]))

end

/-! ### Decode tables (R27, R227) -/

theorem dtLoad_starts {addr : BitVec 45} {slot : Fin 4} (hp : Permit s p (R.HOOP_DT_LOAD_addr.addr h.val 0))
    (hb : s.bit R.HOOP_DT_STAT_busy h.val = false) :
    Leads (.dtLoad p h addr slot) s
      ((s.updHoop h.val (fun k => { k with dtLoad := some (addr.toNat * 128, slot.val) })).put R.HOOP_DT_STAT_busy 1 h.val) :=
  leads_regCmd rfl hp (if_neg (by simp [hb]))

section
variable {a k : Nat} (hm : s.mainOn = true) (hd : ((s.dtDrain h.val).hoop h.val).dtLoad = some (a, k))
include hm hd

/-- Until the hoop is ready its load waits, and only the queued tables of a LOAD go in. -/
theorem dtLoadComplete_notReady (hr : ((s.dtDrain h.val).fld R.COLO_READY0_ready).testBit (24 + h.val) = false) :
    Leads (.dtLoadComplete h) s (s.dtDrain h.val) :=
  leads_mainEv rfl hm (by simp [hd, hr])

theorem dtLoadComplete_loads {l : List Byte}
    (hr : ((s.dtDrain h.val).fld R.COLO_READY0_ready).testBit (24 + h.val) = true)
    (hi : (s.dtDrain h.val).dtInflight h.val k = 0) (hl : (s.dtDrain h.val).readToile (256 + h.val) a 128 = .bytes l) :
    Leads (.dtLoadComplete h) s (((s.dtDrain h.val).touched a 128).dtEnd h.val a k (some l)) :=
  leads_mainEv rfl hm (by simp [hd, hr, hi, hl])

end
end
end Sys2Proof.Machine

/-- Settles O34, event by event and command by command; a recalibration by command is `recalAsk`, which waits for the
controller's readiness bit. -/
theorem memoryControllers : Obligations.MemoryControllers := by
  refine ⟨fun p pc temp s => ⟨fun hm => ?_, fun hp hb => ⟨fun hu => ?_, fun hu => ?_⟩⟩, fun p h s =>
    ⟨tcInval_drops, fun leaf hp hb => ⟨atFree_unpinned hp hb, atFree_waits hp hb⟩, fun hm hb =>
      ⟨atFreeDone_ends hm hb, atFreeDone_held hm⟩, fun addr slot => dtLoad_starts, fun a k l hm hd =>
      ⟨dtLoadComplete_notReady hm hd, dtLoadComplete_loads hm hd⟩⟩⟩
  · exact ⟨fun hu => ⟨patrolScrub_notReady hu, recalAuto_notReady hu⟩, patrolScrub_steps hm, fun hu ha hb =>
      ⟨recalAuto_turn hm hu ha hb, recalAuto_drift hm hu ha hb⟩, fun hb => ⟨recalDone_ends hm true hb, recalDone_ends hm false hb⟩,
      leads_mainEv rfl hm rfl⟩
  · have asks := hbmRecal_asks (pc := pc) hp hb
    rwa [State.recalAsk_ready hu] at asks
  · have asks := hbmRecal_asks (pc := pc) hp hb
    rwa [State.recalAsk_waits hu] at asks

end

section
/-! PROOFS. The binder commands whose checks pass (R37, R237 to R240). -/

open Sys2Proof Sys2Proof.Machine
-- One declaration after the other, as in the tests: the threads of one compile share its memory limit.
set_option Elab.async false

namespace Sys2Proof.Machine

/-! ### What each command does once its checks pass (Table 9-9) -/

section
variable {r : BndRun} {x y : Binder} {s t : State}

theorem State.runRegister_passes (hn : s.binder r.b = none) (hc : (checkImage r.image).run s = .ok x t) :
    s.runRegister r = (t.registered r.b x).bndDone 0 0 := by
  simp [State.runRegister, hn, hc]

theorem State.runDeregister_passes (hx : s.binder r.b = some x) (hh : x.hoops = []) (hv : s.isBase r.b = false) :
    s.runDeregister r = (s.deregistered r.b).bndDone 0 0 := by
  simp [State.runDeregister, hx, hh, hv]

theorem State.runLoad_passes (hx : s.binder r.b = some x) (hs : x.swap = none)
    (hc : s.loadChecks r.b x (hoopsOf r.mask) = none) :
    s.runLoad r = (s.loadHoops r.b x (hoopsOf r.mask)).bndSettle := by
  simp [State.runLoad, hx, hs, hc]

theorem State.runUnload_passes (hx : s.binder r.b = some x)
    (ho : (hoopsOf r.mask).all (fun h => s.openFolios r.b h == 0) = true) (hv : s.isBase r.b = false) :
    s.runUnload r = (s.unloadAll r.b ((hoopsOf r.mask).filter (fun h => x.hoops.contains h))).bndDone 0 0 := by
  have closed : (hoopsOf r.mask).find? (fun h => decide (0 < s.openFolios r.b h)) = none := by
    rw [List.find?_eq_none]
    intro h hh
    have := List.all_eq_true.1 ho h hh
    simpa using this
  simp only [State.runUnload, hx, closed, hv, Bool.false_eq_true, if_false]

theorem State.runSwap_passes (hx : s.binder r.b = some x) (hy : s.binder r.b2 = some y) (hh : x.hoops ≠ [])
    (hn : r.b ≠ r.b2) (hxs : x.swap = none) (hys : y.swap = none)
    (hs : s.binders.any (fun p => p.2.swap == some r.b) = false) (hc : s.loadChecks r.b2 y x.hoops = none)
    (hd : swapDiff x y = none) : s.runSwap r = (s.loadHoops r.b2 y x.hoops).bndSettle := by
  have allowed : ¬ (x.hoops.isEmpty ∨ r.b = r.b2 ∨ x.swap.isSome ∨ y.swap.isSome ∨
      s.binders.any (fun p => p.2.swap == some r.b)) := by
    simp [hh, hn, hxs, hys, hs]
  simp only [State.runSwap, hx, hy, if_neg allowed, hc, hd]

end

/-! ### The frame of a binder command -/

section
variable {i : Instr} {p : Port} {s t : State} {run : State → State}
  (hi : exec i s = .next (s.regCmd p (R.FOL_BND_CMD_op.addr 0 0) (fun s => if s.bit R.FOL_BND_STATUS_busy then s else run s)))
  (hp : Permit s p (R.FOL_BND_CMD_op.addr 0 0))
include hi hp

/-- A binder command given while one runs is discarded (R37). -/
theorem bndOp_busy (hb : s.bit R.FOL_BND_STATUS_busy = true) : exec i s = .next s :=
  exec_regCmd_self hi hp (if_pos hb)

theorem bndOp_runs (hb : s.bit R.FOL_BND_STATUS_busy = false) (hr : run s = t) : Leads i s t :=
  leads_regCmd hi hp ((if_neg (by simp [hb])).trans hr)

end
end Sys2Proof.Machine

/-- Settles O35: each command in the one frame that discards it while another runs, with what it does once its checks pass. -/
theorem binderCommands : Obligations.BinderCommands := by
  intro p b x y s t hp
  refine ⟨fun hb => ⟨bndOp_busy rfl hp hb, bndOp_busy rfl hp hb, bndOp_busy rfl hp hb, bndOp_busy rfl hp hb,
    bndOp_busy rfl hp hb⟩, fun hb => ⟨fun hn hc => ?_, fun hx hh hv => ?_, fun hx hs hc => ?_, fun hx ho hv => ?_, ?_⟩⟩
  · exact bndOp_runs rfl hp hb (State.runRegister_passes (r := s.bndArgs 1 b) hn hc)
  · exact bndOp_runs rfl hp hb (State.runDeregister_passes (r := s.bndArgs 2 b) hx hh hv)
  · exact bndOp_runs rfl hp hb (State.runLoad_passes (r := s.bndArgs 3 b) hx hs hc)
  · exact bndOp_runs rfl hp hb (State.runUnload_passes (r := s.bndArgs 4 b) hx ho hv)
  · intro b2 hx hy hh hn hxs hys hs hc hd
    exact bndOp_runs rfl hp hb (State.runSwap_passes (r := s.bndArgs 5 b) hx hy hh hn hxs hys hs hc hd)

end

section
/-! PROOFS. What peers ask of the device and how it is served, the ends of the device's own transactions, read leases, gaps of
a flow and forwarding (R25, R241, R243, R254 to R260). -/

open Sys2Proof Sys2Proof.Machine
-- One declaration after the other, as in the tests: the threads of one compile share its memory limit.
set_option Elab.async false

namespace Sys2Proof.Machine

/-! ### A transaction of a flow arrives (R259) -/

section
variable {d cls : Nat} {r : PeerReq} {s : State}

/-- A transaction in its turn is served, answered, and its flow goes on. -/
theorem State.arrive_inTurn (h : s.turnOf d cls r = true) :
    s.arrive d cls r = State.turnEnd d cls r (s.serve d r.tag r.op) := by
  rw [State.arrive, if_pos h, State.serveTurn]

/-- It is never the turn of a transaction whose answer is kept. -/
theorem State.turnOf_kept {k : BitVec 16 × PeerAns} (h : (s.rxFlow d cls).kept.find? (fun k => k.1 == r.seq) = some k) :
    s.turnOf d cls r = false := by
  have kept : (s.rxFlow d cls).kept.any (fun k => k.1 == r.seq) = true :=
    List.any_eq_true.2 ⟨k, List.mem_of_find?_eq_some h, List.find?_some (p := fun k : BitVec 16 × PeerAns => k.1 == r.seq) h⟩
  simp only [State.turnOf, kept, Bool.not_true, Bool.false_and]

/-- A duplicate is counted and gets the kept answer. -/
theorem State.arrive_duplicate {k : BitVec 16 × PeerAns} (h : (s.rxFlow d cls).kept.find? (fun k => k.1 == r.seq) = some k) :
    s.arrive d cls r = (s.count R.TOILE_DUP_count).giveAns d cls r.seq k.2 := by
  rw [State.arrive, State.turnOf_kept h, if_neg Bool.false_ne_true]
  simp only [h]

/-- A memory request of a peer: served in its turn, and a duplicate answered as before. -/
theorem memoryRequest_arrives {i : Instr} (hm : s.mainOn = true) (hi : exec i s = .next (s.mainEv (fun s => s.arrive d 0 r))) :
    (s.turnOf d 0 r = true → Leads i s (State.turnEnd d 0 r (s.serve d r.tag r.op))) ∧
    (∀ k, (s.rxFlow d 0).kept.find? (fun k => k.1 == r.seq) = some k →
      Leads i s ((s.count R.TOILE_DUP_count).giveAns d 0 r.seq k.2)) :=
  ⟨fun h => leads_mainEv hi hm (State.arrive_inTurn h), fun _ h => leads_mainEv hi hm (State.arrive_duplicate h)⟩

end

/-! ### What a memory request does (R241, R260) -/

section
variable {d off len : Nat} {tag : BitVec 16} {dat l : List Byte} {s t : State}

/-- A request answered by a completion (R259). -/
def completionOf (tag : BitVec 16) (t : State) (r : Reply) : State × PeerAns := (t, .say 1 (.reply tag r))

/-- A request that no entry allows: refused, and counted as refused and as denied (R241, R361). -/
def State.deniedRequest (s : State) (tag : BitVec 16) : State × PeerAns :=
  completionOf tag ((s.count R.SEC_DENIED_count).count R.TOILE_REFUSED_count) .refused

section
variable (ha : s.allows d off len false = true)
include ha

theorem State.serve_read (h : s.hbmRead off len = (t, some l)) :
    s.serve d tag (.read off len) = completionOf tag t (.done (s.peerView off l) 0) := by
  simp [State.serve, State.serveRead, ha, h, completionOf]

theorem State.serve_read_ecc (h : s.hbmRead off len = (t, none)) :
    s.serve d tag (.read off len) = completionOf tag t .ecc := by
  simp [State.serve, State.serveRead, ha, h, completionOf]

end

theorem State.serve_read_denied (ha : s.allows d off len false = false) :
    s.serve d tag (.read off len) = s.deniedRequest tag := by
  simp [State.serve, State.serveRead, ha, State.denyPeer, State.refusePeer, State.deniedRequest, completionOf]

theorem State.serve_write (ha : s.allows d off dat.length true = true) :
    s.serve d tag (.write off dat) = completionOf tag (s.hbmWrite off dat) (.done [] 0) := by
  simp [State.serve, State.serveWrite, ha, completionOf]

theorem State.serve_write_denied (ha : s.allows d off dat.length true = false) :
    s.serve d tag (.write off dat) = s.deniedRequest tag := by
  simp [State.serve, State.serveWrite, ha, State.denyPeer, State.refusePeer, State.deniedRequest, completionOf]

/-- The little-endian bytes of a number, read back. -/
theorem leNat_toLE (n v : Nat) : leNat (toLE n v) = v % 256 ^ n := by
  induction n generalizing v with
  | zero => simp [toLE, leNat, Nat.mod_one]
  | succ n ih =>
    have low : (BitVec.ofNat 8 (v % 256)).toNat = v % 256 := by simp
    rw [toLE, leNat, ih, low, Nat.pow_succ', Nat.mod_mul]

theorem ofNat_leNat_toLE (v : BitVec 64) : BitVec.ofNat 64 (leNat (toLE 8 v.toNat)) = v := by
  rw [leNat_toLE, Nat.mod_eq_of_lt (by have := v.isLt; omega), BitVec.ofNat_toNat, BitVec.setWidth_eq]

/-- The operations of an ATOMIC by its sub (R260, Table 10-5). -/
theorem atomicVal_of_sub {sub : BitVec 8} {opa opb old v : BitVec 64}
    (h : (sub = 1 ∧ v = old + opa) ∨ (sub = 2 ∧ v = if old = opa then opb else old) ∨
      (sub = 3 ∧ v = if old < opa then opa else old)) : atomicVal sub.toNat old opa opb = some v := by
  rcases h with ⟨rfl, rfl⟩ | ⟨rfl, rfl⟩ | ⟨rfl, rfl⟩ <;> rfl

section
variable {sub : Nat} {opa opb old v : BitVec 64}

/-- An ATOMIC stores its value in the aligned word and answers with the old one. -/
theorem State.serve_atomic (ha : s.allows d (off / 8 * 8) 8 true = true)
    (hr : s.hbmRead (off / 8 * 8) 8 = (t, some (toLE 8 old.toNat))) (hv : atomicVal sub old opa opb = some v) :
    s.serve d tag (.atomic sub off opa opb) = completionOf tag (t.hbmWrite (off / 8 * 8) (toLE 8 v.toNat)) (.done [] old) := by
  simp [State.serve, State.serveAtomic, ha, State.atomicAt, hr, ofNat_leNat_toLE, hv, completionOf]

theorem State.serve_atomic_denied (ha : s.allows d (off / 8 * 8) 8 true = false) :
    s.serve d tag (.atomic sub off opa opb) = s.deniedRequest tag := by
  simp [State.serve, State.serveAtomic, ha, State.denyPeer, State.refusePeer, State.deniedRequest, completionOf]

end
end
end Sys2Proof.Machine

/-- Settles O36: each request arrives in its flow as `memoryRequest_arrives` says, and is served as the entry for its
bytes allows. -/
theorem peerRequests : Obligations.PeerRequests := by
  intro src seq tag off len dat sub opa opb old v s t l hm
  exact ⟨memoryRequest_arrives hm rfl, memoryRequest_arrives hm rfl, memoryRequest_arrives hm rfl,
    fun ha => ⟨State.serve_read ha, State.serve_read_ecc ha⟩, State.serve_write,
    fun ha hr hv => State.serve_atomic ha hr (atomicVal_of_sub hv), State.serve_read_denied, State.serve_write_denied,
    State.serve_atomic_denied⟩

namespace Sys2Proof.Machine

/-! ### The ends of the device's own transactions (R259) -/

section
variable {src : DevNum} {h : FlowPos} {tag : BitVec 16} {t : Txn} {s : State}

/-- An answer ends the transaction whose tag it returns. -/
theorem State.answered_to {d : Nat} {r : Reply}
    (ht : s.txns.find? (fun t => t.tag = tag.toNat ∧ t.dest.toNat = d ∧ !t.held) = some t) :
    s.answered d tag r = (s.retireTxn t).deliver t (.answer r) := by
  simp only [State.answered, ht]

section
variable (hm : s.mainOn = true)
include hm

theorem completion_comes {r : Reply}
    (ht : s.txns.find? (fun t => t.tag = h.tag.toNat ∧ t.dest.toNat = src.toNat ∧ !t.held) = some t) :
    Comes (.completion src (.reply h r)) src 1 h (.reply h.tag r) s ((s.retireTxn t).deliver t (.answer r), .ack) :=
  comes_of rfl hm (by rw [← State.answered_to ht]; rfl)

theorem leaseAnswer_comes {ok : Bool}
    (ht : s.txns.find? (fun t => t.tag = h.tag.toNat ∧ t.dest.toNat = src.toNat ∧ !t.held) = some t) :
    Comes (.completion src (.lease h ok)) src 3 h (.leaseAns h.tag ok) s
      ((s.retireTxn t).deliver t (.answer (if ok then .done [] 0 else .refused)), .ack) :=
  comes_of rfl hm (by rw [← State.answered_to ht]; rfl)

theorem flowAcknowledged {cls : Fin 4} {seq : BitVec 16}
    (ht : s.txns.find? (fun t => t.body.isSome ∧ t.cls = cls.val ∧ t.seq = seq ∧ t.dest.toNat = src.toNat ∧ !t.held) = some t) :
    Leads (.completion src (.flow cls seq)) s (s.retireTxn t) :=
  leads_mainEv rfl hm (by simp only [State.flowAcked, ht])

variable (ht : s.txns.find? (fun t => t.tag = tag.toNat) = some t) (hh : t.held = false)
include ht hh

theorem resendTimeout_due (hr : t.resent = false) (hd : t.sentAt + s.timeout / 2 ≤ s.now) :
    Leads (.resendTimeout tag) s (s.resend t) :=
  leads_mainEv rfl hm (by simp [ht, hh, hr, Nat.not_lt.2 hd])

theorem transactionTimeout_due (hd : t.sentAt + s.timeout ≤ s.now) :
    Leads (.transactionTimeout tag) s ((s.retireTxn t).deliver t .lost) :=
  leads_mainEv rfl hm (by simp [ht, hh, Nat.not_lt.2 hd])

end
end

/-! ### Read leases and gaps at the serving side (R243, R259) -/

section
variable {src : DevNum} {h : FlowPos} {addr : BitVec 40} {s : State}

theorem State.readLeaseAsked_given {tag : BitVec 16} {r : Nat} (hr : s.leaseEntry src addr = some r) :
    s.readLeaseAsked src.toNat tag addr true =
      (s.giveLease src (addr.toNat / 4096) r, .say 3 (.leaseAns tag true)) := by
  simp [State.readLeaseAsked, hr]

theorem State.readLeaseAsked_refused {tag : BitVec 16} (hr : s.leaseEntry src addr = none) :
    s.readLeaseAsked src.toNat tag addr true = (s.count R.TOILE_REFUSED_count, .say 3 (.leaseAns tag false)) := by
  simp [State.readLeaseAsked, hr]

theorem State.readLeaseAsked_release {tag : BitVec 16} :
    s.readLeaseAsked src.toNat tag addr false =
      (({ s with leases := s.otherLeases src (addr.toNat / 4096) } : State).leasesEnd, .say 3 (.leaseAns tag true)) := by
  simp [State.readLeaseAsked]

section
variable (hm : s.mainOn = true)
include hm

/-- A request for a read lease in its turn, or its release; what waited for the lease goes on. -/
theorem readLeaseRequest_inTurn {take : Bool} {p : State × PeerAns}
    (hp : s.readLeaseAsked src.toNat h.tag addr take = p) :
    let r : PeerReq := { seq := h.seq, tag := h.tag, op := .note (.readLease addr take) }
    s.turnOf src.toNat 3 r = true → Leads (.readLeaseRequest src h addr take) s (State.turnEnd src.toNat 3 r p).wakeFlows := by
  intro r ht
  refine leads_mainEv rfl hm (congrArg State.wakeFlows ?_)
  rw [← hp]
  exact State.arrive_inTurn ht

theorem recall_comes {a52 : BitVec 52} :
    Comes (.recall src h a52) src 3 h (.recall a52) s (s.recalled src.toNat a52, .ack) :=
  comes_of rfl hm rfl

theorem seqGapTimeout_due {cls : Fin 4} {t : Nat} (hg : (s.rxFlow src.toNat cls.val).gapAt = some t)
    (hd : t + s.timeout ≤ s.now) :
    Leads (.seqGapTimeout src cls) s (s.skipGap src.toNat cls.val (s.rxFlow src.toNat cls.val).gap) :=
  leads_mainEv rfl hm (by simp only [hg, if_neg (Nat.not_lt.2 hd)])

end
end

/-! ### Forwarding (R25, R254 to R256) -/

section
variable {hd : TxnHeader} {s : State} (hm : s.mainOn = true) (hn : hd.dest.toNat ≠ s.devnum)
include hm hn

theorem transactionForward_goesOn {l : Nat} (ho : hd.dest.toNat ≠ ownDev) (h7 : hd.hops ≠ 7)
    (hr : s.routed hd.dest.toNat hd.cls.toNat = true) (hl : s.pickLink hd.dest.toNat hd.cls.toNat = some l) :
    Leads (.transactionForward hd) s (s.enqueue l hd.cls.toNat noTag (headerFlits hd) (.forward l (onward hd))) := by
  have stays : ¬ (hd.hops = 7 ∨ (!s.routed hd.dest.toNat hd.cls.toNat) = true) := by simp only [h7, hr]; decide
  refine leads_mainEv rfl hm ?_
  simp only [if_neg hn, if_neg (fun e : _ ∧ _ => ho e.1), if_neg stays, hl]

theorem transactionForward_dropped (ho : hd.dest.toNat ≠ ownDev)
    (hx : hd.hops = 7 ∨ s.routed hd.dest.toNat hd.cls.toNat = false ∨ s.pickLink hd.dest.toNat hd.cls.toNat = none) :
    Leads (.transactionForward hd) s (s.count R.TOILE_HOPDROP_count) := by
  refine leads_mainEv rfl hm ?_
  rcases hx with hx | hx | hx <;> simp [hn, ho, hx]

theorem transactionForward_refused (ho : hd.dest.toNat = ownDev) (h1 : 1 ≤ hd.typ) (h3 : hd.typ ≤ 3) :
    Leads (.transactionForward hd) s ((s.count R.TOILE_REFUSED_count).post hd.src.toNat 1 (.reply hd.tag .refused)) := by
  refine leads_mainEv rfl hm ?_
  rw [if_neg hn, if_pos ⟨ho, h1, h3⟩, State.refusePeer]

end
end Sys2Proof.Machine

/-- Settles O37: answers and timeouts by the transaction they find, leases and gaps by the flow, forwarding by the header. -/
theorem transactions : Obligations.Transactions := by
  refine ⟨fun src h tag cls seq r ok t s hm => ⟨fun ht => ⟨completion_comes hm ht, leaseAnswer_comes hm ht⟩, flowAcknowledged hm,
      fun ht hh => ⟨resendTimeout_due hm ht hh, transactionTimeout_due hm ht hh⟩⟩, fun src h addr a52 e page cls s hm => ?_,
    fun hd l s hm hn => ⟨transactionForward_goesOn hm hn, transactionForward_dropped hm hn, transactionForward_refused hm hn⟩⟩
  exact ⟨fun r hr => readLeaseRequest_inTurn hm (State.readLeaseAsked_given hr),
    fun hr => readLeaseRequest_inTurn hm (State.readLeaseAsked_refused hr),
    readLeaseRequest_inTurn hm State.readLeaseAsked_release,
    leads_mainEv rfl hm rfl, recall_comes hm, fun t => seqGapTimeout_due hm⟩

end

section
/-! PROOFS. The optical links: light, training, flits and retry, HELLO, the routes and device time on the Toile (R245 to R255,
R261, R262, R366). -/

open Sys2Proof Sys2Proof.Machine
-- One declaration after the other, as in the tests: the threads of one compile share its memory limit.
set_option Elab.async false

namespace Sys2Proof.Machine

/-! ### Light and training (R245, R250, R252, R366) -/

section
variable {l : LinkId} {s : State}

/-- A link with all its lanes locked and deskewed. -/
def State.lanesLocked (s : State) (l : LinkId) : State :=
  (s.put R.FLNK_STAT_lock 0xFF l).updLink l (fun k => { k with locked := true })

theorem State.downIfUp_up {reason : Nat} (h : s.linkState l = 3) : s.downIfUp l reason = s.downNow l reason := if_pos h

section
variable (hm : s.mainOn = true)
include hm

theorem lossOfSignal_up (h : s.linkState l = 3) : Leads (.lossOfSignal l) s (s.downNow l 1) :=
  leads_mainEv rfl hm (if_pos h)

theorem lossOfSignal_notUp (h : s.linkState l ≠ 3) : Leads (.lossOfSignal l) s
    ((s.put R.FLNK_STAT_lock 0 l).updLink l (fun k => { k with locked := false })) :=
  leads_mainEv rfl hm (if_neg h)

theorem fecErrorLimit_reached (hu : 64 ≤ (s.link l).uncorr) (h : s.linkState l = 3) :
    Leads (.fecErrorLimit l) s (s.downNow l 3) :=
  leads_mainEv rfl hm ((if_pos hu).trans (State.downIfUp_up h))

theorem replayLimit_reached (hr : 16 ≤ (s.link l).replays) (h : s.linkState l = 3) :
    Leads (.replayLimit l) s (s.downNow l 4) :=
  leads_mainEv rfl hm ((if_pos hr).trans (State.downIfUp_up h))

theorem trainTimeout_due (h : s.linkState l = 1) (hd : (s.link l).trainAt + 20 * ms ≤ s.now) :
    Leads (.trainTimeout l) s (s.linkDown l 7 (fun s => s.put R.FLNK_STAT_state 4 l)) :=
  leads_mainEv rfl hm (if_pos ⟨.inl h, hd⟩)

theorem retrainDelayEnd_due (h : s.linkState l = 4) (hd : (s.link l).trainAt + 100 * ms ≤ s.now) :
    Leads (.retrainDelayEnd l) s (s.trainStart l) :=
  leads_mainEv rfl hm (if_pos ⟨h, hd⟩)

/-- The lanes of a training link lock; with light the link sends its link-start flits (Table 10-3, steps 2 and 3). -/
theorem laneLock_training (h : s.linkState l = 1) : Leads (.laneLock l) s
    (if (s.lanesLocked l).bit R.FLNK_STAT_laser_ok l then (s.lanesLocked l).send (.linkStart l) else s.lanesLocked l) :=
  leads_mainEv rfl hm (if_pos h)

theorem laneLock_light (h : s.linkState l = 1) (hl : (s.lanesLocked l).bit R.FLNK_STAT_laser_ok l = true) :
    Leads (.laneLock l) s ((s.lanesLocked l).send (.linkStart l)) := by
  have locks := laneLock_training hm h
  rwa [if_pos hl] at locks

theorem laneLock_dark (h : s.linkState l = 1) (hl : (s.lanesLocked l).bit R.FLNK_STAT_laser_ok l = false) :
    Leads (.laneLock l) s (s.lanesLocked l) := by
  have locks := laneLock_training hm h
  rwa [if_neg (by simp [hl])] at locks

theorem linkStart_locked (h : s.linkState l = 1) (hl : (s.link l).locked = true) :
    Leads (.linkStart l) s (s.updLink l (fun k => { k with
      started := true, txSeq := 0, rxSeq := 0, replay := [], queue := [], replays := 0, credits := [128, 128, 128, 128],
      owed := [0, 0, 0, 0], rxLeft := 0, rxCls := 0, timeAt := s.now })) :=
  leads_mainEv rfl hm (if_pos ⟨h, hl⟩)

theorem engineSwitchOff_due {e : Fin 8} {t : Nat} (ht : (s.engine e).idleAt = some t) (hd : t + ms ≤ s.now)
    (ho : (linksOf e.val).any (fun l => s.linkOn l) = false) :
    Leads (.engineSwitchOff e) s (s.updEngine e (fun _ => {})) :=
  leads_mainEv rfl hm (by simp only [ht, hd, ho]; rfl)

end

section
variable {p : Port} (hp : Permit s p (R.FLNK_CTRL_enable.addr l 0))
include hp

theorem linkRetrain_runs (ho : s.linkOn l = true) (hr : s.linkRuns l = true) : Leads (.linkRetrain p l) s (s.downNow l 8) :=
  leads_regCmd rfl hp (by simp [ho, hr])

theorem linkRetrain_waits (ho : s.linkOn l = true) (hr : s.linkRuns l = false) :
    Leads (.linkRetrain p l) s ((s.put R.FLNK_STAT_reason 8 l).trainStart l) :=
  leads_regCmd rfl hp (by simp [ho, hr])

theorem linkRetrain_disabled (ho : s.linkOn l = false) : exec (.linkRetrain p l) s = .next s :=
  exec_regCmd_self rfl hp (if_pos (by simp [ho]))

end
end

/-! ### Flits and retry (R247, R249) -/

section
variable {l : LinkId} {content : BitVec 480} {crc : BitVec 32} {sym uncorr : Nat} {seq : BitVec 12} {c : Credits} {s : State}
  (hm : s.mainOn = true)
include hm

section
variable (hs : (s.link l).started = true)
include hs

theorem flitReceived_bad (h : uncorr ≠ 0 ∨ crc ≠ flitCrc content (s.link l).rxSeq) :
    Leads (.flitReceived l content crc sym uncorr) s ((s.flitCounts l sym uncorr).flitDropped l) :=
  leads_mainEv rfl hm (by rw [hs, if_neg (by decide), if_pos h])

variable (hu : uncorr = 0) (hc : crc = flitCrc content (s.link l).rxSeq)
include hu hc

/-- A good flit is taken, but for one at a transaction boundary that is no header. -/
theorem flitReceived_good : Leads (.flitReceived l content crc sym uncorr) s
    (if (s.link l).rxLeft = 0 ∧ bits content.toNat 0 4 ≠ 1 then s.flitCounts l sym uncorr
     else (s.flitCounts l sym uncorr).flitTaken l content) := by
  have good : ¬ (uncorr ≠ 0 ∨ crc ≠ flitCrc content (s.link l).rxSeq) := not_or.2 ⟨not_not.2 hu, not_not.2 hc⟩
  exact leads_mainEv rfl hm (by rw [hs, if_neg (by decide), if_neg good])

theorem flitReceived_taken (h : (s.link l).rxLeft ≠ 0 ∨ bits content.toNat 0 4 = 1) :
    Leads (.flitReceived l content crc sym uncorr) s ((s.flitCounts l sym uncorr).flitTaken l content) := by
  have good := flitReceived_good (sym := sym) hm hs hu hc
  rwa [if_neg (fun e => h.elim (· e.1) e.2)] at good

theorem flitReceived_noHeader (hl : (s.link l).rxLeft = 0) (hb : bits content.toNat 0 4 ≠ 1) :
    Leads (.flitReceived l content crc sym uncorr) s (s.flitCounts l sym uncorr) := by
  have good := flitReceived_good (sym := sym) hm hs hu hc
  rwa [if_pos ⟨hl, hb⟩] at good

end

theorem ackReceived_frees {u : State} {rest : List (BitVec 12 × Nat)} (hu : s.updLink l (fun k => k.credit c) = u)
    (h : afterSeq seq (u.link l).replay = some rest) :
    Leads (.ackReceived l seq c) s
      (((u.updLink l (fun k => { k with replay := rest, replays := 0, lastSend := u.now })).drainLink l).sayControl l) :=
  leads_mainEv rfl hm (by simp only [hu, h])

theorem ackReceived_unknown {u : State} (hu : s.updLink l (fun k => k.credit c) = u)
    (h : afterSeq seq (u.link l).replay = none) :
    Leads (.ackReceived l seq c) s ((u.drainLink l).sayControl l) :=
  leads_mainEv rfl hm (by simp only [hu, h])

theorem replayTimeout_due (h : (s.link l).lastSend + 4 * us + 2 * s.fld R.FLNK_DELAY_delay l ≤ s.now) :
    Leads (.replayTimeout l) s (s.replayFrom l (s.link l).replay) :=
  leads_mainEv rfl hm (if_pos h)

end
end Sys2Proof.Machine

/-- Settles O38: each event of a link by the link's state, each flit by its CRC and codewords. -/
theorem links : Obligations.Links := by
  refine ⟨fun p e lane l on s => ⟨fun hm => ?_, fun hp => ⟨leads_regCmd rfl hp rfl, linkRetrain_runs hp, linkRetrain_waits hp,
      linkRetrain_disabled hp⟩⟩, fun l content crc sym uncorr seq c s hm => ⟨fun hs => ⟨flitReceived_bad hm hs, fun hu hc =>
      ⟨flitReceived_taken hm hs hu hc, fun hl => flitReceived_noHeader hm hs hu hc hl⟩⟩, ⟨fun rest => ackReceived_frees hm rfl,
      ackReceived_unknown hm rfl⟩, leads_mainEv rfl hm rfl, replayTimeout_due hm⟩⟩
  exact ⟨leads_mainEv rfl hm rfl, leads_mainEv rfl hm rfl, lossOfSignal_up hm, lossOfSignal_notUp hm, fecErrorLimit_reached hm,
    replayLimit_reached hm, trainTimeout_due hm, retrainDelayEnd_due hm, fun h => ⟨laneLock_light hm h, laneLock_dark hm h⟩,
    linkStart_locked hm, fun t => engineSwitchOff_due hm⟩

namespace Sys2Proof.Machine

/-! ### HELLO and routes (R251, R253, R254) -/

section
variable {l : LinkId} {m : HelloMsg} {s : State} (hm : s.mainOn = true) (hs : s.linkState l = 2) (hn : s.devnum ≠ ownDev)
include hm hs hn

theorem hello_ownNumber (h : m.devnum.toNat = s.devnum) : Leads (.hello l m) s (s.downNow l 6) :=
  leads_mainEv rfl hm (by simp [hs, hn, h])

variable (h : m.devnum.toNat ≠ s.devnum)
include h

/-- A peer with a number of its own is refused for another fabric, another lifecycle or no number, and else the link is up. -/
theorem hello_fromPeer : Leads (.hello l m) s
    (if m.fabricId.toNat ≠ s.fld R.TOILE_DEVNUM_fabric_id ∨ m.lifecycle.toNat ≠ s.lifecycle ∨ m.devnum.toNat = ownDev then
      s.downNow l 5 else s.linkUp l m) :=
  leads_mainEv rfl hm (by rw [if_neg (by simp [hs, hn]), if_neg h])

theorem hello_matches (hf : m.fabricId.toNat = s.fld R.TOILE_DEVNUM_fabric_id) (hl : m.lifecycle.toNat = s.lifecycle)
    (ho : m.devnum.toNat ≠ ownDev) : Leads (.hello l m) s (s.linkUp l m) := by
  have hello := hello_fromPeer hm hs hn h
  rwa [if_neg (by simp [hf, hl, ho])] at hello

theorem hello_refused
    (hx : m.fabricId.toNat ≠ s.fld R.TOILE_DEVNUM_fabric_id ∨ m.lifecycle.toNat ≠ s.lifecycle ∨ m.devnum.toNat = ownDev) :
    Leads (.hello l m) s (s.downNow l 5) := by
  have hello := hello_fromPeer hm hs hn h
  rwa [if_pos hx] at hello

end

section
variable {p : Port} {v : BitVec 64} {s : State} (hp : Permit s p (R.TOILE_DEVNUM_devnum.addr 0 0))
include hp

theorem toileDevnumWrite_linksOff (h : (List.range 64).all (fun l => s.linkState l == 0) = true) :
    Leads (.toileDevnumWrite p v) s
      ((s.put R.TOILE_DEVNUM_devnum (bits v.toNat 0 12)).put R.TOILE_DEVNUM_fabric_id (bits v.toNat 12 32)).memberBit.followRoot :=
  leads_regCmd rfl hp (if_pos h)

theorem toileDevnumWrite_ignored (h : (List.range 64).all (fun l => s.linkState l == 0) = false) :
    exec (.toileDevnumWrite p v) s = .next s :=
  exec_regCmd_self rfl hp (if_neg (by simp [h]))

end

/-- A pending route is confirmed, or its candidates are cleared. -/
theorem toileRtConfirm_pending {p : Port} {dev : DevNum} {s : State} (accept : Bool)
    (hp : Permit s p (R.TOILE_RT_CONFIRM_dev.addr 0 0)) (h : s.bit R.TOILE_RT_pending dev.toNat = true) :
    let t := s.put R.TOILE_RT_pending 0 dev.toNat
    Leads (.toileRtConfirm p dev accept) s
      (if accept then t else (List.range 4).foldl (fun (s : State) k => s.put (rtCand k) 0 dev.toNat) t).pendingStat :=
  leads_regCmd rfl hp (if_neg (by simp [h]))

/-! ### Device time on the Toile (R261, R262, Table 10-3) -/

section
variable {l : LinkId} {m : TimeMsg} {s : State}

/-- A link exchanges TIME messages: it is up, or in step 4 of its training. -/
def State.timeRuns (s : State) (l : LinkId) : Prop := s.linkState l = 3 ∨ (s.linkState l = 1 ∧ (s.link l).started = true)

section
variable (hm : s.mainOn = true)
include hm

theorem timeExchange_due (hr : s.timeRuns l) (hd : (s.link l).timeAt ≤ s.now) :
    Leads (.timeExchange l) s
      ((s.followRoot.updLink l (fun k => { k with timeAt := s.followRoot.now + ms })).linkSay l
        (fun l n => .time l n (s.followRoot.timeMsg (BitVec.ofNat 64 s.followRoot.now) 0 0))) :=
  leads_mainEv rfl hm (if_pos ⟨hr, hd⟩)

section
variable (hr : s.timeRuns l ∨ s.linkState l = 2)
include hr

/-- A link that is up, in HELLO or in step 4 hears TIME: t2 and t3 of 0 ask, others answer. -/
theorem timeMsg_heard : Leads (.timeMsg l m) s
    (if m.t2 = 0 ∧ m.t3 = 0 then (s.timeHeard l m).linkSay l
       (fun l n => .time l n ((s.timeHeard l m).timeMsg m.t1 (BitVec.ofNat 64 s.now) (BitVec.ofNat 64 s.now)))
     else (s.timeHeard l m).timeAnswer l { m with t4 := BitVec.ofNat 64 s.now }) := by
  refine leads_mainEv rfl hm (if_neg ?_)
  rintro ⟨not3, not2, not1⟩
  rcases hr with (h3 | h1) | h2
  · exact not3 h3
  · simp [h1] at not1
  · exact not2 h2

theorem timeMsg_request (h2 : m.t2 = 0) (h3 : m.t3 = 0) : Leads (.timeMsg l m) s ((s.timeHeard l m).linkSay l
    (fun l n => .time l n ((s.timeHeard l m).timeMsg m.t1 (BitVec.ofNat 64 s.now) (BitVec.ofNat 64 s.now)))) := by
  have heard := timeMsg_heard (m := m) hm hr
  rwa [if_pos ⟨h2, h3⟩] at heard

theorem timeMsg_answer (h : m.t2 ≠ 0 ∨ m.t3 ≠ 0) : Leads (.timeMsg l m) s
    ((s.timeHeard l m).timeAnswer l { m with t4 := BitVec.ofNat 64 s.now }) := by
  have heard := timeMsg_heard (m := m) hm hr
  rwa [if_neg (fun e => h.elim (· e.1) (· e.2))] at heard

end
end

/-- The delay and the offset by the stamps and the time of the arrival, with which the device stamps an answer. -/
theorem timeDelay_stamped (m : TimeMsg) (t : Nat) : timeDelay { m with t4 := BitVec.ofNat 64 t } =
    (((t % 2 ^ 64 : Nat) - m.t1.toNat : Int) - ((m.t3.toNat : Int) - m.t2.toNat)) / 2 := by
  simp only [timeDelay, BitVec.toNat_ofNat]

theorem timeOffset_stamped (m : TimeMsg) (t : Nat) : timeOffset { m with t4 := BitVec.ofNat 64 t } =
    (((m.t2.toNat : Int) - m.t1.toNat) + ((m.t3.toNat : Int) - (t % 2 ^ 64 : Nat))) / 2 := by
  simp only [timeOffset, BitVec.toNat_ofNat]

section
variable {v : State} (hv : s.put R.FLNK_DELAY_delay (timeDelay m).toNat l = v)
include hv

theorem State.timeAnswer_training (h : v.linkState l = 1) :
    s.timeAnswer l m = v.updLink l (fun k => { k with timed := true }) := by
  rw [State.timeAnswer, hv, if_pos h]

theorem State.timeAnswer_parent (h : v.linkState l ≠ 1) (hl : v.parentLink = some l.val) :
    s.timeAnswer l m = v.steer (timeOffset m) := by
  rw [State.timeAnswer, hv, if_neg h, if_pos hl]

theorem State.timeAnswer_other (h : v.linkState l ≠ 1) (hl : v.parentLink ≠ some l.val) : s.timeAnswer l m = v := by
  rw [State.timeAnswer, hv, if_neg h, if_neg hl]

end

theorem State.steer_steps {off : Int} (h : 1000 < off) :
    (s.steer off).clk.time = s.clk.time + off.toNat ∧ (s.steer off).clk.slew = 0 := by
  rw [State.steer, if_pos h]
  exact ⟨rfl, rfl⟩

theorem State.steer_slews {off : Int} (h : off ≤ 1000) :
    (s.steer off).clk.time = s.clk.time ∧ (s.steer off).clk.slew = off := by
  rw [State.steer, if_neg (not_lt.2 h)]
  exact ⟨rfl, rfl⟩

end
end Sys2Proof.Machine

/-- Settles O39: HELLO by what it names, the device number and the routes by their registers, TIME by its stamps. -/
theorem helloRoutesAndTime : Obligations.HelloRoutesAndTime := by
  refine ⟨fun p l m v dev s => ⟨fun hm hs hn => ⟨hello_ownNumber hm hs hn, fun h => ⟨hello_matches hm hs hn h,
      hello_refused hm hs hn h⟩⟩, fun hp => ⟨toileDevnumWrite_linksOff hp, toileDevnumWrite_ignored hp⟩, fun hp h =>
      ⟨toileRtConfirm_pending true hp h, toileRtConfirm_pending false hp h⟩⟩, fun l m off s hm =>
    ⟨timeExchange_due hm, fun hr => ⟨timeMsg_request hm hr, fun h => ?_⟩, State.steer_steps, State.steer_slews⟩⟩
  intro delay offset v
  have answer := timeMsg_answer (m := m) hm hr h
  have measured : (s.timeHeard l m).put R.FLNK_DELAY_delay (timeDelay { m with t4 := BitVec.ofNat 64 s.now }).toNat l = v := by
    rw [timeDelay_stamped]
  refine ⟨fun h1 => ?_, fun h1 hl => ?_, fun h1 hl => ?_⟩
  · rwa [State.timeAnswer_training measured h1] at answer
  · rwa [State.timeAnswer_parent measured h1 hl, timeOffset_stamped] at answer
  · rwa [State.timeAnswer_other measured h1 hl] at answer

end

section
/-! PROOFS. The commands of TOILE_XCMD, and lining at the partner (R243, R258, R260, R265 to R267, R269, R316). -/

open Sys2Proof Sys2Proof.Machine
-- One declaration after the other, as in the tests: the threads of one compile share its memory limit.
set_option Elab.async false

namespace Sys2Proof.Machine

/-! ### TOILE_XCMD (R243, R258, R260) -/

section
variable {i : Instr} {p : Port} {op : Nat} {len : BitVec 6} {s : State}

/-- The run that the registers of TOILE_XCMD ask for. -/
def State.xAsked (s : State) (op : Nat) (len : BitVec 6) : XRun :=
  { op := op, addr := s.norm (s.fld R.TOILE_XADDR_addr), len := 64 * (len.toNat + 1), buf := s.fld R.TOILE_XBUF_buf }

variable (hi : exec i s = .next (s.xcmd p op len)) (hp : Permit s p (R.TOILE_XCMD_op.addr 0 0))
include hi hp

/-- A TOILE_XCMD given while one runs is discarded. -/
theorem xcmd_busy (hb : s.bit R.TOILE_XSTAT_busy = true) : exec i s = .next s :=
  exec_regCmd_self hi hp (if_pos hb)

variable (hb : s.bit R.TOILE_XSTAT_busy = false)
include hb

/-- A TOILE_XCMD while none runs goes by the checks of the run asked for. -/
theorem xcmd_checked : Leads i s
    (if !xAligned (s.xAsked op len) ∨ (s.xAsked op len).buf % 64 ≠ 0 then s.xDone 5
     else if hbmSize < (s.xAsked op len).buf + (s.xAsked op len).len then s.xDone 2 else s.xStart (s.xAsked op len)) :=
  leads_regCmd hi hp (if_neg (by simp [hb]))

theorem xcmd_starts (ha : xAligned (s.xAsked op len) = true) (hbuf : (s.xAsked op len).buf % 64 = 0)
    (hin : (s.xAsked op len).buf + (s.xAsked op len).len ≤ hbmSize) : Leads i s (s.xStart (s.xAsked op len)) := by
  have checked := xcmd_checked hi hp hb
  rwa [if_neg (by simp [ha, hbuf]), if_neg (Nat.not_lt.2 hin)] at checked

theorem xcmd_misaligned (h : xAligned (s.xAsked op len) = false ∨ (s.xAsked op len).buf % 64 ≠ 0) : Leads i s (s.xDone 5) := by
  have checked := xcmd_checked hi hp hb
  rwa [if_pos (by simpa using h)] at checked

theorem xcmd_outside (ha : xAligned (s.xAsked op len) = true) (hbuf : (s.xAsked op len).buf % 64 = 0)
    (hout : hbmSize < (s.xAsked op len).buf + (s.xAsked op len).len) : Leads i s (s.xDone 2) := by
  have checked := xcmd_checked hi hp hb
  rwa [if_neg (by simp [ha, hbuf]), if_pos hout] at checked

end
end Sys2Proof.Machine

/-- Settles O40: the seven operations stand in one frame, which checks the run that the registers ask for. -/
theorem toileCommands : Obligations.ToileCommands := by
  intro p len s hp each
  have runs {i : Instr} {op : Nat} (hi : exec i s = .next (s.xcmd p op len)) : each i op :=
    ⟨xcmd_busy hi hp, fun hb => ⟨xcmd_starts hi hp hb, xcmd_misaligned hi hp hb, xcmd_outside hi hp hb⟩⟩
  exact ⟨runs rfl, runs rfl, runs rfl, runs rfl, runs rfl, runs rfl, runs rfl⟩

namespace Sys2Proof.Machine

/-! ### LINE.OPEN, LINE.REL and LINE.CLOSE at the partner (R266, R268, R269) -/

section
variable {d i slot : Nat} {n : Folio} {m : LineParams} {s : State}

/-- The bytes of the pool that a lined folio's state needs: two copies of an external one (R266). -/
def slotNeed (m : LineParams) : Nat := if m.external then 2 * m.size.toNat else m.size.toNat

/-- The partner's state as LINE.OPEN finds it: an earlier shadow of the same folio is gone. -/
def State.readyToOpen (s : State) (d : Nat) (n : Folio) : State := s.readShadows.dropOldShadow d n

theorem State.lineOpened_room (hs : (s.readyToOpen d n).standalone = false) (hi : (s.readyToOpen d n).freeShadowIndex = some i)
    (hslot : (s.readyToOpen d n).freeSlot (slotNeed m) = some slot) :
    s.lineOpened d n m = ((s.readyToOpen d n).openShadow i (shadowEntry d n m slot) m.base, .ack) := by
  simp only [State.readyToOpen, slotNeed] at hs hi hslot ⊢
  simp [State.lineOpened, hs, hi, hslot]

theorem State.lineOpened_noRoom (h : (s.readyToOpen d n).standalone = true ∨ (s.readyToOpen d n).freeShadowIndex = none ∨
    (s.readyToOpen d n).freeSlot (slotNeed m) = none) : s.lineOpened d n m = (s.readyToOpen d n, .noRoom) := by
  simp only [State.readyToOpen, slotNeed] at h ⊢
  rcases h with h | h | h
  · simp [State.lineOpened, h]
  · simp [State.lineOpened, h]
  · simp only [State.lineOpened, h]
    cases (s.readShadows.dropOldShadow d n).freeShadowIndex <;> exact ite_self _

section
variable (hi : s.readShadows.shadowOf d n = some i)
include hi

theorem State.lineReleased_shadow (seq : BitVec 32) :
    s.lineReleased d n seq = s.readShadows.setSh i { s.readShadows.sh i with relSeq := seq.toNat } := by
  simp only [State.lineReleased, hi]

theorem State.lineClosed_shadow : s.lineClosed d n = s.readShadows.freeShadow i := by
  simp only [State.lineClosed, hi]

end
end

/-! ### DELTA and FULL at the partner (R265, R267) -/

/-- A gathering that the shadow has not taken, or not freshly. -/
theorem notTaken {e : ShEnt} {seq : Nat} (h : e.lastSeq ≠ seq ∨ e.stale = true) : ¬ (e.lastSeq = seq ∧ (!e.stale) = true) := by
  rintro ⟨taken, fresh⟩
  rcases h with other | stale
  · exact other taken
  · simp [stale] at fresh

section
variable {d i seq next : Nat} {n : Folio} {crc : BitVec 32} {full : Bool} {dat : List Byte} {s u : State} (hu : s.readShadows = u)
include hu

theorem State.lineApply_noShadow (h : u.shadowOf d n = none) : s.lineApply d n seq next crc full dat = (u, .stale) := by
  simp only [State.lineApply, hu, h]

section
variable (hi : u.shadowOf d n = some i)
include hi

/-- A gathering already taken is acknowledged. -/
theorem State.lineApply_taken (hq : (u.sh i).lastSeq = seq) (hs : (u.sh i).stale = false) :
    s.lineApply d n seq next crc full dat = (u, .ack) := by
  simp [State.lineApply, hu, hi, hq, hs]

section
variable (h : (u.sh i).lastSeq ≠ seq ∨ (u.sh i).stale = true)
include h

/-- A FULL not yet taken, whatever its sequence, gives the shadow its state where its CRC matches (log entry 37). -/
theorem State.lineApply_full : s.lineApply d n seq next crc true dat =
    if crc32c (padTo (u.sh i).size dat) = crc then (u.lineTake i seq next (padTo (u.sh i).size dat), .ack)
    else (u.markStale i, .stale) := by
  have new := notTaken h
  simp only [State.lineApply, hu, hi, if_neg new]
  rfl

/-- A DELTA out of its order makes the shadow stale. -/
theorem State.lineApply_outOfOrder (hq : seq ≠ ((u.sh i).lastSeq + 1) % 2 ^ 32) :
    s.lineApply d n seq next crc false dat = (u.markStale i, .seq) := by
  simp only [State.lineApply, hu, hi, if_neg (notTaken h)]
  exact if_pos (by simpa using hq)

end

variable (hq : seq = ((u.sh i).lastSeq + 1) % 2 ^ 32)
include hq

theorem State.lineApply_deltaStale (hs : (u.sh i).stale = true) : s.lineApply d n seq next crc false dat = (u, .stale) := by
  simp [State.lineApply, hu, hi, hq, hs]

/-- The DELTA of the next gathering gives a fresh shadow its state where its CRC matches. -/
theorem State.lineApply_delta {c : List Byte} (hs : (u.sh i).stale = false)
    (hc : u.readLocal (u.sh i).slot (u.sh i).size = .bytes c) :
    s.lineApply d n seq next crc false dat =
      if crc32c (applyDelta c dat) = crc then (u.lineTake i seq next (applyDelta c dat), .ack) else (u.markStale i, .stale) := by
  have new : (u.sh i).lastSeq ≠ seq := by omega
  have inOrder : ¬ ((!false && decide (seq ≠ ((u.sh i).lastSeq + 1) % 2 ^ 32)) = true) := by simp [hq]
  have fresh : ¬ ((!false && (u.sh i).stale) = true) := by simp [hs]
  simp only [State.lineApply, hu, hi, if_neg (notTaken (.inl new)), if_neg inOrder, if_neg fresh, hc]
  rfl

end
end

/-! ### The shadow ring (R266, R267, R316) -/

section
variable {d i : Nat} {n : Folio} {st : StampEntry} {ssrc ts : BitVec 32} {dat : List Byte} {s : State}
  (hi : s.readShadows.shadowOf d n = some i)
include hi

/-- Audio of the home goes to the shadow ring, and a block that cannot be written there makes the shadow stale. -/
theorem State.lineAudioIn_block (hc : st.count ≠ 0) :
    let u := s.readShadows
    let r := u.shadowBlock (u.shFolio i) (u.sh i).lookback { time := st.time.toNat, dat := dat, count := st.count.toNat } st
    s.lineAudioIn d n st ssrc ts dat = if r.2 then r.1.markStale i else r.1 := by
  simp only [State.lineAudioIn, hi, if_neg hc]

theorem State.lineAudioIn_base (hc : st.count = 0) (hr : st.resetMark = true) :
    s.lineAudioIn d n st ssrc ts dat = s.readShadows.baseUpdate (s.readShadows.shFolio i)
      { ssrc := ssrc, baseTs := ts, anchorI := st.first, anchorT := st.time } := by
  simp only [State.lineAudioIn, hi, if_pos hc, if_pos hr]

end

/-! ### LINE transactions in their turn -/

section
variable {src : DevNum} {h : FlowPos} {n : Folio} {seq next crc : BitVec 32} {dat : List Byte} {s u : State} {r : LineResult}
  (hm : s.mainOn = true)
include hm

theorem lineOpen_comes {m : LineParams} (hr : s.lineOpened src.toNat n m = (u, r)) :
    Comes (.lineOpen src h n m) src 2 h (.lineOpen n m) s (u, .say 2 (.lineAck h.tag n 0 r)) :=
  comes_of rfl hm (congrArg (fun a : State × LineResult => (a.1, PeerAns.say 2 (.lineAck h.tag n 0 a.2))) hr)

theorem lineDelta_comes (hr : s.lineApply src.toNat n seq.toNat next.toNat crc false dat = (u, r)) :
    Comes (.lineDelta src h n seq next crc dat) src 2 h (.lineDelta n seq next crc dat) s (u, .say 2 (.lineAck h.tag n seq r)) :=
  comes_of rfl hm (congrArg (fun a : State × LineResult => (a.1, PeerAns.say 2 (.lineAck h.tag n seq a.2))) hr)

theorem lineFull_comes (hr : s.lineApply src.toNat n seq.toNat next.toNat crc true dat = (u, r)) :
    Comes (.lineFull src h n seq next crc dat) src 2 h (.lineFull n seq next crc dat) s (u, .say 2 (.lineAck h.tag n seq r)) :=
  comes_of rfl hm (congrArg (fun a : State × LineResult => (a.1, PeerAns.say 2 (.lineAck h.tag n seq a.2))) hr)

theorem lineRel_comes (hr : s.lineReleased src.toNat n seq = u) :
    Comes (.lineRel src h n seq) src 2 h (.lineRel n seq) s (u, .ack) :=
  comes_of rfl hm (congrArg (·, PeerAns.ack) hr)

theorem lineClose_comes (hr : s.lineClosed src.toNat n = u) :
    Comes (.lineClose src h n seq) src 2 h (.lineClose n seq) s (u, .ack) :=
  comes_of rfl hm (congrArg (·, PeerAns.ack) hr)

theorem lineAudio_comes {st : StampEntry} {ssrc ts : BitVec 32} (hr : s.lineAudioIn src.toNat n st ssrc ts dat = u) :
    Comes (.lineAudio src h n st ssrc ts dat) src 2 h (.lineAudio n st ssrc ts dat) s (u, .ack) :=
  comes_of rfl hm (congrArg (·, PeerAns.ack) hr)

end
end Sys2Proof.Machine

/-- Settles O42: each LINE transaction in its turn is what the shadow of its folio makes of it. -/
theorem liningAtPartner : Obligations.LiningAtPartner := by
  refine ⟨fun src h n m seq next crc dat s hm => ?_, fun src h n st ssrc ts dat i s => fun hm hi => ⟨fun hc =>
    lineAudio_comes hm (State.lineAudioIn_block hi hc), fun hc hr => lineAudio_comes hm (State.lineAudioIn_base hi hc hr)⟩⟩
  intro d u t opens delta full need
  refine ⟨fun i slot hs hi hslot => lineOpen_comes hm (State.lineOpened_room hs hi hslot),
    fun hn => lineOpen_comes hm (State.lineOpened_noRoom hn), fun i hi => ?_, fun hn =>
      ⟨lineDelta_comes hm (State.lineApply_noShadow rfl hn), lineFull_comes hm (State.lineApply_noShadow rfl hn)⟩⟩
  intro e
  refine ⟨lineRel_comes hm (State.lineReleased_shadow hi seq), lineClose_comes hm (State.lineClosed_shadow hi),
    fun hq hs => ⟨lineDelta_comes hm (State.lineApply_taken rfl hi hq hs), lineFull_comes hm (State.lineApply_taken rfl hi hq hs)⟩,
    fun hnew => ⟨fun hc => ?_, fun hc => ?_, fun hq => lineDelta_comes hm (State.lineApply_outOfOrder rfl hi hnew hq)⟩,
    fun hq => ⟨fun hs => lineDelta_comes hm (State.lineApply_deltaStale rfl hi hq hs), fun hs _ c hr =>
      ⟨fun hc => ?_, fun hc => ?_⟩⟩⟩
  · exact lineFull_comes hm ((State.lineApply_full rfl hi hnew).trans (if_pos hc))
  · exact lineFull_comes hm ((State.lineApply_full rfl hi hnew).trans (if_neg hc))
  · exact lineDelta_comes hm ((State.lineApply_delta rfl hi hq hs hr).trans (if_pos hc))
  · exact lineDelta_comes hm ((State.lineApply_delta rfl hi hq hs hr).trans (if_neg hc))

end

section
/-! PROOFS. Ownership leases at their holder and at the quorum's members, and the watch of peers (R263, R271 to R273, R276 to
R278, R339, R340). -/

open Sys2Proof Sys2Proof.Machine
-- One declaration after the other, as in the tests: the threads of one compile share its memory limit.
set_option Elab.async false

namespace Sys2Proof.Machine

/-! ### The holder of a lease (R271, R272, R276, R278) -/

section
variable {s : State}

section
variable (hm : s.mainOn = true)
include hm

theorem leaseRenewSend_due (hr : s.renews = true) (hj : s.lease.autoJoin = false) (hd : s.lease.renewAt ≤ s.now) :
    Leads .leaseRenewSend s ({ s with lease := { s.lease with renewAt := s.now + 10 * ms } } : State).sendRenew :=
  leads_mainEv rfl hm (if_neg (by simp [hr, hj, hd]))

/-- The answer of a member of the quorum set counts. -/
theorem leaseGrant_ofMember {m : DevNum} {h : FlowPos} {r : LeaseReply}
    (hq : (s.answered m.toNat h.tag (.done [] 0)).quorum.contains m.toNat = true) :
    Comes (.leaseGrant m h r) m 3 h (.leaseReply h.tag r) s
      ((s.answered m.toNat h.tag (.done [] 0)).leaseAnswer m.toNat r, .ack) :=
  comes_of rfl hm (congrArg (·, PeerAns.ack) (if_pos hq))

theorem leaseExpiry_due (ha : s.standalone = false) (hl : s.bit R.TOILE_LEASE_leased = true)
    (hd : s.fld R.TOILE_LEASE_EXP_expiry ≤ s.now) : Leads .leaseExpiry s (s.put R.TOILE_LEASE_leased 0).fence :=
  leads_mainEv rfl hm (if_neg (by simp [ha, hl, hd]))

end

variable {p : Port}

section
variable (hp : Permit s p (R.TOILE_CMD_op.addr 0 0)) (hb : s.bit R.TOILE_CMD_STATUS_busy = false)
include hp hb

/-- REJOIN forgets every folio, and joins where there is a quorum set. -/
theorem rejoin_forgets : Leads (.rejoin p) s
    ((if s.endFolCmd.forgetFolios.quorum.isEmpty then s.endFolCmd.forgetFolios
      else s.endFolCmd.forgetFolios.sendJoin).put R.TOILE_CMD_STATUS_result 0) :=
  leads_regCmd rfl hp (if_neg (by simp [hb]))

theorem rejoin_alone (hq : s.endFolCmd.forgetFolios.quorum = []) :
    Leads (.rejoin p) s (s.endFolCmd.forgetFolios.put R.TOILE_CMD_STATUS_result 0) := by
  have forgets := rejoin_forgets hp hb
  rwa [if_pos (by simp [hq])] at forgets

theorem rejoin_joins (hq : s.endFolCmd.forgetFolios.quorum ≠ []) :
    Leads (.rejoin p) s (s.endFolCmd.forgetFolios.sendJoin.put R.TOILE_CMD_STATUS_result 0) := by
  have forgets := rejoin_forgets hp hb
  rwa [if_neg (by simp [hq])] at forgets

end

section
variable {v : BitVec 64} (hp : Permit s p (R.TOILE_QUORUM_members.addr 0 0))
include hp

theorem toileQuorumWrite_sameMode (h : v.getLsbD 63 = s.standalone) :
    Leads (.toileQuorumWrite p v) s (s.setQuorum v.toNat false) :=
  leads_regCmd rfl hp (by simp only [h, bne_self_eq_false]; rfl)

theorem toileQuorumWrite_newMode (h : v.getLsbD 63 ≠ s.standalone) (hf : s.dir.all (fun d => d.2.st == .free) = true) :
    Leads (.toileQuorumWrite p v) s (s.setQuorum v.toNat true) :=
  leads_regCmd rfl hp (by simp only [bne_iff_ne.2 h, hf]; rfl)

/-- While a folio is not FREE a write that changes standalone is ignored (R278). -/
theorem toileQuorumWrite_ignored (h : v.getLsbD 63 ≠ s.standalone) (hf : s.dir.all (fun d => d.2.st == .free) = false) :
    exec (.toileQuorumWrite p v) s = .next s :=
  exec_regCmd_self rfl hp (if_pos (by rw [bne_iff_ne.2 h, hf]; rfl))

end
end

/-! ### What a member makes of a request (R273, R276, R277, R339) -/

section
variable {d e : Nat} {tag : BitVec 16} {s u : State}

section
variable {x : DevNum} {e : BitVec 32} (hu : s.readQrec x.toNat = u)
include hu

theorem State.memberPromote_granted (hv : (u.qrec x.toNat).valid = true) (he : e.toNat < (u.qrec x.toNat).epoch) :
    s.memberPromote d tag x e = (u, some (.promoted x)) := by
  simp [State.memberPromote, hu, hv, he]

/-- A promotion that names the recorded epoch is held, in the place of one held before. -/
theorem State.memberPromote_held (hv : (u.qrec x.toNat).valid = true) (he : (u.qrec x.toNat).epoch = e.toNat) :
    s.memberPromote d tag x e = ({ u with lease := { u.lease with
      heldPromotes := u.lease.heldPromotes.filter (fun g => !(g.x == x && g.e == e && g.src.toNat == d))
        ++ [{ x := x, e := e, src := BitVec.ofNat 12 d, tag := tag }] } }, none) := by
  simp [State.memberPromote, hu, hv, he]

theorem State.memberPromote_refused (h : (u.qrec x.toNat).valid = false ∨ (u.qrec x.toNat).epoch < e.toNat) :
    s.memberPromote d tag x e = (u, some (.promoteRefused x)) := by
  rcases h with hv | he
  · simp [State.memberPromote, hu, hv]
  · simp only [State.memberPromote, hu, if_neg (Nat.lt_asymm he), if_neg he.ne, ite_self]

end

variable (hu : s.readQrec d = u)
include hu

theorem State.memberJoins_atOnce
    (h : (u.qrec d).valid = false ∨ (u.qrec d).revoked = true ∨ (u.qrec d).expiry + 10 * ms ≤ u.now) :
    s.memberJoins d tag e = ((u.memberJoin d e).1, some (u.memberJoin d e).2) := by
  simp only [State.memberJoins, hu]
  exact if_pos (h.imp_left (fun hv => by simp [hv]))

theorem State.memberJoins_held (hv : (u.qrec d).valid = true) (hr : (u.qrec d).revoked = false)
    (hx : u.now < (u.qrec d).expiry + 10 * ms) :
    s.memberJoins d tag e = ({ u with lease := { u.lease with
      heldJoins := u.lease.heldJoins.filter (fun g => g.1.toNat ≠ d) ++ [(BitVec.ofNat 12 d, tag)] } }, none) := by
  simp only [State.memberJoins, hu]
  exact if_neg (by simp [hv, hr, hx])

theorem State.memberResigns_takes (hv : (u.qrec d).valid = true) (he : (u.qrec d).epoch = e) :
    s.memberResigns d e = ((u.revoke d).grantHeld d, true) := by
  simp [State.memberResigns, State.memberResign, hu, hv, he]

theorem State.memberResigns_refuses (h : (u.qrec d).valid = false ∨ (u.qrec d).epoch ≠ e) :
    s.memberResigns d e = (u, false) := by
  have other : ¬ ((u.qrec d).valid ∧ (u.qrec d).epoch = e) := by
    rintro ⟨hv, he⟩
    rcases h with h | h
    · simp [h] at hv
    · exact h he
  simp [State.memberResigns, State.memberResign, hu, if_neg other]

end

/-! ### Requests to a member in their turn (R271, R273, R276, R277, R339) -/

section
variable {src x : DevNum} {h : FlowPos} {e : BitVec 32} {t : BitVec 64} {s u : State} (hm : s.mainOn = true)
include hm

section
variable (hs : s.serves = true)
include hs

theorem leaseRenew_comes : Comes (.leaseRenew src h e t) src 3 h (.leaseRenew e t) s
    ((s.renewed src.toNat e.toNat t.toNat).1, .say 3 (.leaseReply h.tag (s.renewed src.toNat e.toNat t.toNat).2)) :=
  comes_of rfl hm (if_neg (by simp [hs]))

theorem leasePromote_answered {r : LeaseReply} (hr : s.memberPromote src.toNat h.tag x e = (u, some r)) :
    Comes (.leasePromote src h x e) src 3 h (.leasePromote x e) s (u, .say 3 (.leaseReply h.tag r)) :=
  comes_of rfl hm ((if_neg (by simp [hs])).trans (by rw [hr]; rfl))

theorem leasePromote_silent (hr : s.memberPromote src.toNat h.tag x e = (u, none)) :
    Comes (.leasePromote src h x e) src 3 h (.leasePromote x e) s (u, .silent) :=
  comes_of rfl hm ((if_neg (by simp [hs])).trans (by rw [hr]; rfl))

theorem leaseJoin_answered {r : LeaseReply} (hr : s.memberJoins src.toNat h.tag e.toNat = (u, some r)) :
    Comes (.leaseJoin src h e) src 3 h (.leaseJoin e) s (u, .say 3 (.leaseReply h.tag r)) :=
  comes_of rfl hm ((if_neg (by simp [hs])).trans (by rw [hr]; rfl))

theorem leaseJoin_silent (hr : s.memberJoins src.toNat h.tag e.toNat = (u, none)) :
    Comes (.leaseJoin src h e) src 3 h (.leaseJoin e) s (u, .silent) :=
  comes_of rfl hm ((if_neg (by simp [hs])).trans (by rw [hr]; rfl))

theorem leaseResign_acknowledged (hr : s.memberResigns src.toNat e.toNat = (u, true)) :
    Comes (.leaseResign src h e) src 3 h (.leaseResign e) s (u, .say 3 (.resignAck h.tag)) :=
  comes_of rfl hm ((if_neg (by simp [hs])).trans (by rw [hr]; rfl))

/-- A RESIGN that is not taken is answered as a refused renewal (log entry 22). -/
theorem leaseResign_refused (hr : s.memberResigns src.toNat e.toNat = (u, false)) :
    Comes (.leaseResign src h e) src 3 h (.leaseResign e) s
      (u, .say 3 (.leaseReply h.tag (.renewRefused (BitVec.ofNat 32 (u.qrec src.toNat).epoch)))) :=
  comes_of rfl hm ((if_neg (by simp [hs])).trans (by rw [hr]; rfl))

end

/-- A device that does not serve as a member answers nothing (R277, R278). -/
theorem leaseRequests_notServing (hs : s.serves = false) :
    Comes (.leaseRenew src h e t) src 3 h (.leaseRenew e t) s (s, .silent) ∧
    Comes (.leasePromote src h x e) src 3 h (.leasePromote x e) s (s, .silent) ∧
    Comes (.leaseJoin src h e) src 3 h (.leaseJoin e) s (s, .silent) ∧
    Comes (.leaseResign src h e) src 3 h (.leaseResign e) s (s, .silent) := by
  have idle : (!s.serves) = true := by simp [hs]
  exact ⟨comes_of rfl hm (if_pos idle), comes_of rfl hm (if_pos idle), comes_of rfl hm (if_pos idle),
    comes_of rfl hm (if_pos idle)⟩

end

/-! ### What a member does once its time has come (R271, R273, R276, R277) -/

section
variable {x : DevNum} {s : State} (hm : s.mainOn = true)
include hm

section
variable (hd : (s.qrec x.toNat).expiry + 10 * ms ≤ s.now)
include hd

theorem promoteHoldExpiry_due (hh : s.lease.heldPromotes.any (fun g => g.x == x) = true) :
    Leads (.promoteHoldExpiry x) s (((s.readQrec x.toNat).revoke x.toNat).grantHeld x.toNat) := by
  have held : ¬ s.lease.heldPromotes.all (fun h => h.x ≠ x) = true := by
    obtain ⟨g, hg, hx⟩ := List.any_eq_true.1 hh
    exact fun none => of_decide_eq_true (List.all_eq_true.1 none g hg) (eq_of_beq hx)
  exact leads_mainEv rfl hm (if_neg (not_or.2 ⟨held, Nat.not_lt.2 hd⟩))

theorem joinAnswerDue_answers {g : DevNum × BitVec 16} (hg : s.lease.heldJoins.find? (fun g => g.1 = x) = some g) :
    let u := s.readQrec x.toNat
    let a := ({ u with lease := { u.lease with heldJoins := u.lease.heldJoins.filter (fun g => g.1 ≠ x) } } : State).memberJoin
      x.toNat 0
    Leads (.joinAnswerDue x) s (a.1.memberSay x.toNat g.2 a.2) := by
  refine leads_mainEv rfl hm ?_
  rw [hg]
  exact if_neg (Nat.not_lt.2 hd)

end

theorem grantExpiry_due (hg : (s.lease.grants.find? (fun g => g.1 = x.toNat ∧ g.2 ≤ s.now)).isSome = true) :
    Leads (.grantExpiry x) s
      (({ s with lease := { s.lease with grants := SMap.del s.lease.grants x.toNat } } : State).event 0x0C 4 0xFF 0xFFFFF
        x.toNat) := by
  obtain ⟨g, found⟩ := Option.isSome_iff_exists.1 hg
  exact leads_mainEv rfl hm (by simp only [found])

theorem quorumQuietEnd_due (hq : s.lease.quietUntil ≠ 0) (hd : s.lease.quietUntil ≤ s.now) :
    Leads .quorumQuietEnd s { s with lease := { s.lease with quietUntil := 0 } } :=
  leads_mainEv rfl hm (if_neg (not_or.2 ⟨hq, Nat.not_lt.2 hd⟩))

end
end Sys2Proof.Machine

/-- Settles O43: the holder's events and commands once due, the member's answers by its record of the device. -/
theorem leases : Obligations.Leases := by
  refine ⟨fun p m h r v s => ⟨fun hm => ⟨leaseRenewSend_due hm, leaseGrant_ofMember hm, leaseExpiry_due hm⟩, fun hp hb =>
      ⟨rejoin_alone hp hb, rejoin_joins hp hb⟩, fun hp => ⟨toileQuorumWrite_sameMode hp, toileQuorumWrite_newMode hp,
      toileQuorumWrite_ignored hp⟩⟩, fun src x h e t s hm => ?_⟩
  refine ⟨fun hs => ⟨leaseRenew_comes hm hs, ⟨fun hv => ⟨fun he => ?_, fun he => ?_⟩, fun hr => ?_⟩, fun hj => ?_,
      fun hv hr hx => ?_, fun hv he => ?_, fun hr => ?_⟩, leaseRequests_notServing hm,
    fun hh hd => promoteHoldExpiry_due hm hd hh, fun g hg hd => joinAnswerDue_answers hm hd hg, grantExpiry_due hm, quorumQuietEnd_due hm⟩
  · exact leasePromote_answered hm hs (State.memberPromote_granted rfl hv he)
  · exact leasePromote_silent hm hs (State.memberPromote_held rfl hv he)
  · exact leasePromote_answered hm hs (State.memberPromote_refused rfl hr)
  · exact leaseJoin_answered hm hs (State.memberJoins_atOnce rfl hj)
  · exact leaseJoin_silent hm hs (State.memberJoins_held rfl hv hr hx)
  · exact leaseResign_acknowledged hm hs (State.memberResigns_takes rfl hv he)
  · exact leaseResign_refused hm hs (State.memberResigns_refuses rfl hr)

namespace Sys2Proof.Machine

/-! ### The watch of peers (R263, R273) -/

section
variable {dev : DevNum} {h : FlowPos} {s : State} (hm : s.mainOn = true)
include hm

theorem beatSend_due (hd : s.lease.beatAt ≤ s.now) : Leads .beatSend s
    ((({ s with lease := { s.lease with beatAt := s.now + 500 * us } } : State).rewatch s.watchList).sendBeats s.watchList) :=
  leads_mainEv rfl hm (if_neg (Nat.not_lt.2 hd))

/-- A BEAT in its turn keeps its peer alive. -/
theorem beat_comes {epoch : BitVec 32} :
    Comes (.beat dev h epoch) dev 3 h (.beat epoch) s (s.beatHeard dev.toNat epoch, .ack) :=
  comes_of rfl hm rfl

theorem beatTimeout_due (hw : (s.peer dev.toNat).watched = true) (hs : s.watches dev.toNat = true)
    (hd : (s.peer dev.toNat).lastBeat + 2 * ms ≤ s.now ∨ s.candidates dev.toNat = []) :
    Leads (.beatTimeout dev) s (s.peerLost dev.toNat ((s.candidates dev.toNat).getLast?.getD 0xFF)) :=
  leads_mainEv rfl hm ((if_neg (by simp [hw, hs])).trans (if_pos hd))

theorem promoteResend_due {t : Nat} (ht : (s.peer dev.toNat).promoteAt = some t) (hl : (s.peer dev.toNat).lost = true)
    (hd : t + ms ≤ s.now) : Leads (.promoteResend dev) s (s.sendPromote dev.toNat) :=
  leads_mainEv rfl hm (by simp only [ht, if_pos (And.intro hl hd)])

end
end Sys2Proof.Machine

/-- Settles O44: BEATs and PROMOTE go out once due, and a watched peer without one is lost. -/
theorem peerWatch : Obligations.PeerWatch := by
  intro dev h epoch s hm
  exact ⟨beatSend_due hm, beat_comes hm, beatTimeout_due hm, fun t => promoteResend_due hm⟩

end

section
/-! PROOFS. Time trim, the management PHY and the UART (R261, R262, R309, R318, R320, R326, R342). -/

open Sys2Proof Sys2Proof.Machine
-- One declaration after the other, as in the tests: the threads of one compile share its memory limit.
set_option Elab.async false

namespace Sys2Proof.Machine

/-- An event of the always-on domain, with its power on, leaves its effect. -/
theorem leads_aonEv {i : Instr} {s t : State} {eff : State → State} (hi : exec i s = .next (s.aonEv eff))
    (ha : s.pwr.aon = true) (he : eff s = t) : Leads i s t := by
  rw [Leads, hi, aonEv_ok ha, he]

/-! ### Trimming device time (R261, R262, R309) -/

section
variable {p : Port} {v : BitVec 64} {s : State}

/-- PTP acts at a device that is its own time root, follows no PTP as a root or has lock on a port (log entry 89). -/
theorem State.ptpActs_iff : s.ptpActs = true ↔ s.timeOwn = true ∧
    (s.bit R.TOILE_TIME_CFG_root_ok = false ∨ s.bit R.ETH_PTP_STAT_lock 0 = true ∨ s.bit R.ETH_PTP_STAT_lock 1 = true) := by
  simp [State.ptpActs, or_assoc]

section
variable (hp : Permit s p (R.ETH_TIME_ADJ_offset_ns.addr 0 0))
include hp

theorem ethTimeAdj_acts (h : s.ptpActs = true) :
    Leads (.ethTimeAdj p v) s (s.removeOffset (BitVec.ofNat 32 v.toNat).toInt) :=
  leads_regCmd rfl hp (if_pos h)

theorem ethTimeAdj_ignored (h : ¬ s.ptpActs = true) : exec (.ethTimeAdj p v) s = .next s :=
  exec_regCmd_self rfl hp (if_neg h)

end

section
variable (hp : Permit s p (R.ETH_TIME_FREQ_ppb.addr 0 0))
include hp

theorem ethTimeFreq_own (h : s.timeOwn = true) :
    Leads (.ethTimeFreq p v) s (s.put R.ETH_TIME_FREQ_ppb (v.toNat % 2 ^ 24)) :=
  leads_regCmd rfl hp (if_pos h)

theorem ethTimeFreq_ignored (h : s.timeOwn = false) : exec (.ethTimeFreq p v) s = .next s :=
  exec_regCmd_self rfl hp (if_neg (by simp [h]))

end
end

/-! ### The UART (R320, R326, R342) -/

section
variable {p : Port} {v : BitVec 64} {b : Byte} {taken : Bool} {s : State}

/-- While the Colophon runs, a character is taken, a framing error and a loss show at once. -/
theorem uartReceive_running (ha : s.pwr.aon = true) (h : s.colo.shown = none) :
    Leads (.uartReceive b true true) s { s with colo := { s.colo with uartRx := s.colo.uartRx ++ [b] } } ∧
    Leads (.uartReceive b false taken) s (s.put R.MISC_UART_STAT_framing_err 1) ∧
    Leads (.uartReceive b true false) s (s.put R.MISC_UART_STAT_rx_overrun 1) := by
  have runs : ¬ s.colo.shown.isSome = true := by simp [h]
  exact ⟨leads_aonEv rfl ha (if_neg runs), leads_aonEv rfl ha (if_neg runs), leads_aonEv rfl ha (if_neg runs)⟩

/-- While the Colophon restarts, what the UART receives is kept for its end. -/
theorem uartReceive_restarting (ha : s.pwr.aon = true) (h : s.colo.shown.isSome = true) :
    Leads (.uartReceive b true true) s { s with colo := { s.colo with rxWait := s.colo.rxWait ++ [b] } } ∧
    Leads (.uartReceive b false taken) s { s with colo := { s.colo with framingWait := true } } ∧
    Leads (.uartReceive b true false) s { s with colo := { s.colo with overrunWait := true } } :=
  ⟨leads_aonEv rfl ha (if_pos h), leads_aonEv rfl ha (if_pos h), leads_aonEv rfl ha (if_pos h)⟩

section
variable (hp : Permit s p (R.MISC_UART_CFG_baud.addr 0 0))
include hp

theorem uartCfgWrite_running (h : s.colo.shown = none) :
    Leads (.uartCfgWrite p v) s (s.put R.MISC_UART_CFG_baud (bits v.toNat 0 22)) :=
  leads_regCmd rfl hp (if_neg (by simp [h]))

theorem uartCfgWrite_restarting (h : s.colo.shown.isSome = true) :
    Leads (.uartCfgWrite p v) s { s with colo := { s.colo with cfgWait := some (bits v.toNat 0 22) } } :=
  leads_regCmd rfl hp (if_pos h)

end
end
end Sys2Proof.Machine

/-- Settles O51: offsets go by `ptpActs`, frequencies by `timeOwn`, and the UART by whether the Colophon restarts. -/
theorem timeTrimAndBoardLinks : Obligations.TimeTrimAndBoardLinks := by
  intro p v up taken b s
  refine ⟨fun hp => ⟨fun own lock => ethTimeAdj_acts hp (State.ptpActs_iff.2 ⟨own, lock⟩), fun h => ?_⟩,
    fun hp => ⟨ethTimeFreq_own hp, ethTimeFreq_ignored hp⟩, fun ha => ⟨leads_aonEv rfl ha rfl, uartReceive_running ha,
    uartReceive_restarting ha⟩, fun hp => ⟨uartCfgWrite_running hp, uartCfgWrite_restarting hp⟩⟩
  refine ethTimeAdj_ignored hp (fun acts => ?_)
  obtain ⟨own, lock⟩ := State.ptpActs_iff.1 acts
  exact h.elim (by simp [own]) (· lock)

end

section
/-! PROOFS. Alignment groups, audio bindings, gains and routes, and the module buses (R291, R292, R296, R301 to R306, R321,
R322, R325). -/

open Sys2Proof Sys2Proof.Machine
-- One declaration after the other, as in the tests: the threads of one compile share its memory limit.
set_option Elab.async false

namespace Sys2Proof.Machine

/-! ### Alignment groups (R291, R292, R296, R301) -/

section
variable {p : Port} {k : GrpId} {t : BitVec 64} {fr : List PortFrame} {s : State}

section
variable (hp : Permit s p (R.AUD_GRP_START_time.addr k 0)) (h0 : s.grpState k = 0)
include hp h0

/-- An idle group is armed for a time far enough ahead, at a rate within 1 ppm. -/
theorem audGrpStart_arms (ht : s.now + 100 * us ≤ t.toNat) (hr : s.rateOk k = true) : Leads (.audGrpStart p k t) s
    ((s.put R.AUD_GRP_STAT_state 1 k).updAgrp k (fun g => { start := t.toNat, queue := g.queue, dropped := g.dropped })) :=
  leads_regCmd rfl hp (by simp [h0, Nat.not_lt.2 ht, hr])

/-- A start for a time too near is refused as late. -/
theorem audGrpStart_late (ht : t.toNat < s.now + 100 * us) (hr : (s.put R.AUD_GRP_STAT_late 1 k).rateOk k = true) :
    Leads (.audGrpStart p k t) s (s.put R.AUD_GRP_STAT_late 1 k) :=
  leads_regCmd rfl hp (by simp [h0, ht, hr])

end

section
variable (hp : Permit s p (R.AUD_GRP_CTRL_stop.addr k 0))
include hp

/-- A running group takes note of the stop until its next block boundary. -/
theorem audGrpStop_running (h : s.grpState k = 2) :
    Leads (.audGrpStop p k) s (s.updAgrp k (fun g => { g with stopping := true })) :=
  leads_regCmd rfl hp (by simp only [h])

theorem audGrpStop_armed (h : s.grpState k = 1) : Leads (.audGrpStop p k) s (s.grpIdle k) :=
  leads_regCmd rfl hp (by simp only [h])

theorem audGrpStop_idle (h : s.grpState k = 0) : exec (.audGrpStop p k) s = .next s :=
  exec_regCmd_self rfl hp (by simp only [h])

end

/-- A group that does not run has no frames. -/
theorem groupFrame_notRunning (h : s.grpState k ≠ 2) : exec (.groupFrame k fr) s = .next s :=
  exec_mainEv_self rfl (if_pos h)

section
variable (hm : s.mainOn = true)
include hm

/-- At its time an armed group runs, and its pending ports start. -/
theorem groupFrameZero_starts (h : s.grpState k = 1) (ht : (s.agrp k).start ≤ s.now) : Leads (.groupFrameZero k) s
    (((s.members k).filter (fun a => s.bit R.SAP_STAT_pending a)).foldl (fun (s : State) a => s.sapGo a)
      (((s.members k).foldl (fun (s : State) a => s.iecSpent a) s).put R.AUD_GRP_STAT_state 2 k)) :=
  leads_mainEv rfl hm (if_neg (by simp [h, ht]))

/-- A stop asked of a running group takes effect at a block boundary. -/
theorem groupFrame_stops (h : s.grpState k = 2) (hs : ((s.blockEnd k).agrp k).stopping = true)
    (hf : ((s.blockEnd k).agrp k).frame % 64 = 0) :
    Leads (.groupFrame k fr) s (((s.blockEnd k).bindBoundary k).grpIdle k) :=
  leads_mainEv rfl hm (by simp [h, hs, hf])

theorem groupFrame_runs (h : s.grpState k = 2) (hs : ((s.blockEnd k).agrp k).stopping = false) :
    Leads (.groupFrame k fr) s ((s.blockEnd k).grpFrame k fr) :=
  leads_mainEv rfl hm (by simp [h, hs])

theorem blockComplete_ends : Leads (.blockComplete k) s (s.blockEnd k) := leads_mainEv rfl hm rfl

/-- The oldest block of the group's buffer leaves it and goes to the folios of its parts. -/
theorem portBlockWrite_oldest {b : ABlk} {rest : List ABlk} (hq : (s.agrp k).queue = b :: rest) :
    Leads (.portBlockWrite k) s ((s.updAgrp k (fun g => { g with queue := rest })).reading (b.parts.map (·.folio))
      (fun s => b.parts.foldl (fun (s : State) p => s.partWrite b p) s)) :=
  leads_mainEv rfl hm (by simp only [hq])

end
end

/-! ### Bindings (R301, R305) -/

section
variable {p : Port} {n : Folio} {s : State} (hp : Permit s p (R.AUD_BIND_CMD_op.addr 0 0))
include hp

section
variable {g c0 C : Nat} (hg : g = s.fld R.AUD_BIND_ARG_group) (h0 : c0 = s.fld R.AUD_BIND_ARG_c0)
  (hC : C = s.fld R.AUD_BIND_ARG_count + 1)
include hg h0 hC

/-- Here `g`, `c0` and `C` are the group, the first entry and the number of entries that the argument register names. -/
theorem audBind_binds (h : s.bindCheck n g c0 C = 0) : Leads (.audBind p n) s ((s.bindNow n g c0 C).audDone n 0) := by
  subst hg h0 hC
  exact leads_regCmd rfl hp (if_neg (not_not.2 h))

theorem audBind_fails (h : s.bindCheck n g c0 C ≠ 0) : Leads (.audBind p n) s (s.audDone n (s.bindCheck n g c0 C)) := by
  subst hg h0 hC
  exact leads_regCmd rfl hp (if_pos h)

end

/-- A folio without a binding has none to end (log entry 44). -/
theorem audUnbind_unbound (h : s.abinds.find? (fun b => b.folio = n) = none) :
    Leads (.audUnbind p n) s (s.audDone n 1) :=
  leads_regCmd rfl hp (by simp only [h])

section
variable {b : ABind} (h : s.abinds.find? (fun b => b.folio = n) = some b)
include h

/-- In a running group the binding ends at the next block boundary. -/
theorem audUnbind_running (h2 : s.grpState b.grp = 2) : Leads (.audUnbind p n) s ((s.endBind n).audDone n 0) :=
  leads_regCmd rfl hp (by simp only [h, h2, if_true])

/-- In a group that does not run the binding ends at once. -/
theorem audUnbind_notRunning (h2 : s.grpState b.grp ≠ 2) :
    Leads (.audUnbind p n) s (((s.endBind n).bindBoundary b.grp).audDone n 0) :=
  leads_regCmd rfl hp (by simp only [h, h2, if_false])

end
end

/-! ### Module presence and identity (R306, R321, R322) -/

section
variable {a : SapId} {s : State} (hm : s.mainOn = true)
include hm

theorem prsntChange_appears : Leads (.prsntChange a true) s ((s.put R.SAP_STAT_prsnt 1 a).modThere a) :=
  leads_mainEv rfl hm rfl

theorem prsntChange_goes : Leads (.prsntChange a false) s ((s.put R.SAP_STAT_prsnt 0 a).modGone a) :=
  leads_mainEv rfl hm rfl

/-- The read of the port at the head of a free bus leaves what it found. -/
theorem moduleIdentityRead_taken {ack : Bool} {rec : List Byte} (hr : (s.i2c (a.val / 4)).run = none)
    (hh : (s.i2c (a.val / 4)).ident.head? = some a.val) :
    Leads (.moduleIdentityRead a ack rec) s (s.identTaken a (recStatus ack rec) (recClass ack rec) rec) :=
  leads_mainEv rfl hm (if_neg (by simp [hr, hh]))

end

/-! ### Spine transfers on a module bus (R325) -/

section
variable {p : Port} {g : Fin 4} {v : BitVec 64} {s : State}

/-- The five commands of a module bus in their common frame, each under its own operation: discarded while the bus is busy,
refused with result 4, or waiting for the bus. -/
theorem i2cCmd_answers {i : Instr} {op : Nat} (hi : exec i s = .next (s.i2cCmd p g op v))
    (hp : Permit s p (R.MISC_I2C_CMD_op.addr g 0)) (ho : bits v.toNat 0 3 = op) :
    (s.bit R.MISC_I2C_STAT_busy g = true → exec i s = .next s) ∧
    (s.bit R.MISC_I2C_STAT_busy g = false →
      (s.i2cRefused g v.toNat = true → Leads i s (s.i2cRefuse g)) ∧
      (s.i2cRefused g v.toNat = false → Leads i s ((s.updI2c g (fun x => { x with wait := some v })).i2cNext g))) := by
  refine ⟨fun hb => exec_regCmd_self hi hp (if_pos (.inr hb)), fun hb => ?_⟩
  have free : ¬ (bits v.toNat 0 3 ≠ op ∨ s.bit R.MISC_I2C_STAT_busy g = true) := by simp [ho, hb]
  exact ⟨fun hr => leads_regCmd hi hp ((if_neg free).trans (if_pos hr)),
    fun hr => leads_regCmd hi hp ((if_neg free).trans (if_neg (by simp [hr])))⟩

/-- A transfer that waits starts with its address and its bytes on the bus. -/
theorem State.i2cStart_waiting (h : (s.i2c g).wait = some v) : s.i2cStart g =
    (s.updI2c g (fun x => { x with run := some v, wait := none })).send (.bus g (s.busSend g v)) := by
  simp only [State.i2cStart, h]

section
variable (hm : s.mainOn = true) {w : BitVec 64} (hr : (s.i2c g).run = some w)
include hm hr

theorem i2cTransferEnd_done {r : BusResult} {dat : List Byte} : Leads (.i2cTransferEnd g r dat) s
    ((s.i2cData g (dat.take (i2cMost w.toNat))).i2cDone g (busCode r)
      (i2cCount w.toNat (dat.take (i2cMost w.toNat)).length)) :=
  leads_mainEv rfl hm (by simp only [hr])

theorem sclTimeout_done : Leads (.sclTimeout g) s (s.i2cDone g 5 0) :=
  leads_mainEv rfl hm (if_pos (by simp [hr]))

end
end
end Sys2Proof.Machine

/-- Settles O46: each command goes by the group's state, each frame by the stop asked of the group. -/
theorem alignmentGroups : Obligations.AlignmentGroups := by
  intro p k t fr s
  refine ⟨fun hp h0 => ⟨audGrpStart_arms hp h0, fun ht _ hr => audGrpStart_late hp h0 ht hr⟩,
    fun hp => ⟨audGrpStop_running hp, audGrpStop_armed hp, audGrpStop_idle hp⟩, fun hm => ⟨groupFrameZero_starts hm,
    fun h => ⟨groupFrame_stops hm h, groupFrame_runs hm h⟩, groupFrame_notRunning, blockComplete_ends hm,
    fun b rest => portBlockWrite_oldest hm⟩⟩

/-- Settles O48: bindings by the first check that fails and by the group's state; gains, routes and streams by their own
functions. -/
theorem audioBindingsAndChannels : Obligations.AudioBindingsAndChannels := by
  intro p n ch o v s
  refine ⟨fun hp => ⟨audBind_binds hp rfl rfl rfl, audBind_fails hp rfl rfl rfl, audUnbind_unbound hp,
    fun b h => ⟨audUnbind_running hp h, audUnbind_notRunning hp h⟩⟩, fun hp => leads_regCmd rfl hp rfl,
    fun hp => leads_regCmd rfl hp rfl, fun hm => ⟨leads_mainEv rfl hm rfl, leads_mainEv rfl hm rfl⟩,
    fun hp => leads_regCmd rfl hp rfl⟩

/-- Settles O49: presence and identity as events of the main domain, the five bus commands by their common frame. -/
theorem moduleBus : Obligations.ModuleBus := by
  refine ⟨fun a ack rec s hm => ⟨prsntChange_appears hm, prsntChange_goes hm, moduleIdentityRead_taken hm⟩,
    fun p g v r dat s => ⟨fun hp => ⟨i2cCmd_answers rfl hp, i2cCmd_answers rfl hp, i2cCmd_answers rfl hp,
      i2cCmd_answers rfl hp, i2cCmd_answers rfl hp⟩, State.i2cStart_waiting,
      fun hm w hr => ⟨i2cTransferEnd_done hm hr, sclTimeout_done hm hr⟩⟩⟩

end

section
/-! PROOFS. Register commands that their port may not give (R2, R12, R27, R336, R361, R387). -/

open Sys2Proof Sys2Proof.Machine
-- One declaration after the other, as in the tests: the threads of one compile share its memory limit.
set_option Elab.async false

namespace Sys2Proof.Machine

/-- Each command that a register write gives stands in the frame of a command of that register. -/
theorem exec_commandReg {i : Instr} {p : Port} {a : Nat} (h : commandReg i = some (p, a)) (s : State) :
    ∃ eff, exec i s = .next (s.regCmd p a eff) := by
  cases i
  all_goals cases h
  all_goals exact ⟨_, rfl⟩

end Sys2Proof.Machine

/-- Settles O7: each command stands in the one frame that refuses it or loses it. -/
theorem refusedCommands : Obligations.RefusedCommands := by
  intro i p a s hi
  obtain ⟨eff, he⟩ := exec_commandReg hi s
  rw [he]
  exact ⟨fun hq hw => congrArg _ (regCmd_denied hq hw), fun hq => congrArg _ (regCmd_quiet hq),
    fun hw hd hr => congrArg _ (regCmd_lost hw (.inl ⟨hd, hr⟩)), fun hw ha hm => congrArg _ (regCmd_lost hw (.inr ⟨ha, hm⟩))⟩

end

section
/-! PROOFS. Signed requests of the management service (R343, R361 to R363, Table 14-9). -/

open Sys2Proof Sys2Proof.Machine
-- One declaration after the other, as in the tests: the threads of one compile share its memory limit.
set_option Elab.async false

namespace Sys2Proof.Machine

/-! ### The frame of a signed request (R362) -/

section
variable {i : Instr} {rom : Bool} {code : Nat} {args : List Byte} {q : SignedReq} {s : State}
  {eff : State → State × MgmtStatus × List Byte}
  (hi : exec i s = .next (s.aonEv (fun s => s.signed rom code args q eff)))
  (ha : s.pwr.aon = true) (hon : s.mgmtOn rom = true)
include hi ha hon

/-- A request with an old challenge is answered STALE, one whose signature fails SIG; neither draws a new challenge. -/
theorem leads_signed_checked :
    (q.chal ≠ s.colo.chal → Leads i s (s.coloCheck.respond .stale)) ∧
    (q.chal = s.colo.chal → s.reqSigned code args q = false → Leads i s (s.coloCheck.respond .sig)) :=
  ⟨fun hc => leads_aonEv hi ha (by simp [State.signed, hon, hc]),
    fun hc hs => leads_aonEv hi ha (by simp [State.signed, hon, hc, hs])⟩

/-- An accepted request takes its effect, draws a new challenge and is answered. -/
theorem leads_signed (hc : q.chal = s.colo.chal) (hs : s.reqSigned code args q = true) {t : State} {st : MgmtStatus}
    {res : List Byte} (he : eff s.coloCheck = (t, st, res)) : Leads i s (t.drawChal.respond st res) :=
  leads_aonEv hi ha (by simp [State.signed, hon, hc, hs, he])

end

/-! ### Registers and the test port -/

section
variable {q : SignedReq} {addr : BitVec 64} {cnt : Nat} {vals : List (BitVec 64)} {token : List Byte} {s : State}
  (ha : s.pwr.aon = true) (hon : s.mgmtOn false = true) (hc : q.chal = s.colo.chal)
include ha hon hc

theorem regRead_accepted (hs : s.reqSigned 0x10 (toLE 8 addr.toNat ++ toLE 2 cnt) q = true) (h8 : addr.toNat % 8 = 0)
    (hn : cnt ≤ 64) : Leads (.regRead q addr cnt) s (s.coloCheck.drawChal.respond .ok
      ((List.range cnt).flatMap (fun k => toLE 8 (s.coloCheck.regRead (addr.toNat + 8 * k)).toNat))) :=
  leads_signed rfl ha hon hc hs (if_neg (by simp [h8, hn, State.mayRead]))

/-- REG_WRITE writes one register after the other at P1; one write that is refused makes the answer DENIED. -/
theorem mgmtRegWrite_accepted
    (hs : s.reqSigned 0x11 (toLE 8 addr.toNat ++ vals.flatMap (fun v => toLE 8 v.toNat)) q = true)
    (hn : vals.length ≤ 64) (hin : inControl addr.toNat = true) {regs : List (Nat × BitVec 64)}
    (hr : regs = vals.zipIdx.map (fun x => (addr.toNat + 8 * x.2, x.1))) :
    Leads (.mgmtRegWrite q addr vals) s
      ((regs.foldl (fun (s : State) x => s.ctlWrite .p1 x.1 64 x.2) s.coloCheck).drawChal.respond
        (if regs.any (fun x => !s.coloCheck.mayWrite .p1 (x.1 / 8 * 8)) then .denied
         else if addr.toNat % 8 ≠ 0 then .args else .ok)) := by
  refine leads_signed rfl ha hon hc hs ((if_neg (by simp [hn, hin])).trans ?_)
  rw [hr, ← List.not_all_eq_any_not]

theorem jtagUnlock_accepted (hs : s.reqSigned 0x40 token q = true) (ht : s.coloCheck.ticketOk token 7 = true)
    (hb : mfield token 24 16 = s.coloCheck.colo.chal.toNat) (he : s.coloCheck.now < mfield token 40 8)
    (hz : allZero ((token.drop 48).take 40) = true) :
    Leads (.jtagUnlock q token) s ((s.coloCheck.unlock (mfield token 40 8)).drawChal.respond .ok) :=
  leads_signed rfl ha hon hc hs (if_neg (by simp [ht, hb, he, hz]))

end

/-! ### Slots -/

section
variable {q : SignedReq} {off : SlotPlace} {dat : List Byte} {s : State}
  (ha : s.pwr.aon = true) (hon : s.mgmtOn true = true) (hc : q.chal = s.colo.chal)
include ha hon hc

/-- A write to the booted slot or to the identity region is refused. -/
theorem slotWrite_refused (hs : s.reqSigned 0x21 (toLE 1 off.slot ++ toLE 4 off.off ++ dat) q = true)
    (h : off.slot.val ≠ s.coloCheck.otherSlot ∨ identityAt < off.off + dat.length) :
    Leads (.slotWrite q off dat) s (s.coloCheck.drawChal.respond .slot) :=
  leads_signed rfl ha hon hc hs (if_pos h)

section
variable {k : Nat} {v : State} (hk : k = s.coloCheck.otherSlot) (hv : v = s.coloCheck.flashUsed k)
  (hp : (v.flash k).present = true)
include hk hv hp

theorem slotErase_accepted (hs : s.reqSigned 0x20 [] q = true) :
    Leads (.slotErase q) s ((v.updFlash k (fun f =>
      { f with bytes := f.bytes.filter (fun p => decide (identityAt ≤ p.1)) })).drawChal.respond .ok) := by
  subst hk hv
  exact leads_signed rfl ha hon hc hs (if_neg (by simp [hp]))

theorem slotWrite_accepted (hs : s.reqSigned 0x21 (toLE 1 off.slot ++ toLE 4 off.off ++ dat) q = true)
    (ho : off.slot.val = k) (hl : dat.length ≤ 1024) (hi : off.off + dat.length ≤ identityAt) :
    Leads (.slotWrite q off dat) s ((v.updFlash k (fun f => f.write off.off dat)).drawChal.respond .ok) := by
  subst hk hv
  exact leads_signed rfl ha hon hc hs ((if_neg (by simp [ho, hi])).trans (if_neg (by simp [hp, hl])))

theorem slotCommit_accepted (hs : s.reqSigned 0x22 [] q = true) :
    Leads (.slotCommit q) s ((v.updFlash k (fun f =>
      f.write 0 (toLE 4 0x4C534D47 ++ toLE 4 (v.fld R.COLO_BOOT_seq + 1) ++ [0xFF]))).drawChal.respond .ok) := by
  subst hk hv
  exact leads_signed rfl ha hon hc hs (if_neg (by simp [hp]))

end

theorem coloRestart_accepted (hs : s.reqSigned 0x23 [] q = true) :
    Leads (.coloRestart q) s
      ((if s.coloCheck.colo.phase = .running then s.coloCheck.coloRestart else s.coloCheck.chooseSlot).drawChal.respond .ok) :=
  leads_signed rfl ha hon hc hs rfl

end
end Sys2Proof.Machine

/-- Settles O53: the checks of a signed request come first, in one frame; each request's effect follows. -/
theorem signedRequests : Obligations.SignedRequests := by
  intro q addr cnt off vals dat token s ha
  refine ⟨fun hon => ⟨leads_signed_checked rfl ha hon, leads_signed_checked rfl ha hon, leads_signed_checked rfl ha hon,
      leads_signed_checked rfl ha hon⟩,
    fun hon => ⟨leads_signed_checked rfl ha hon, leads_signed_checked rfl ha hon, leads_signed_checked rfl ha hon,
      regRead_accepted ha hon, fun hc hs hn hin => mgmtRegWrite_accepted ha hon hc hs hn hin rfl, jtagUnlock_accepted ha hon⟩,
    fun hon hc => ⟨slotWrite_refused ha hon hc, fun hp => ⟨slotErase_accepted ha hon hc rfl rfl hp,
      slotWrite_accepted ha hon hc rfl rfl hp, slotCommit_accepted ha hon hc rfl rfl hp⟩⟩,
    fun hon hc => coloRestart_accepted ha hon hc⟩

end

section
/-! PROOFS. The Spine, retiring and hoop maintenance (R328, R335 to R337, R340, R344, Table 13-5). -/

open Sys2Proof Sys2Proof.Machine
-- One declaration after the other, as in the tests: the threads of one compile share its memory limit.
set_option Elab.async false

namespace Sys2Proof.Machine

/-- An event of the always-on domain whose effect changes nothing. -/
theorem exec_aonEv_self {i : Instr} {s : State} {eff : State → State} (hi : exec i s = .next (s.aonEv eff))
    (he : eff s = s) : exec i s = .next s := by
  cases ha : s.pwr.aon
  · rw [hi, aonEv_off ha]
  · rw [leads_aonEv hi ha he, State.within_self]

/-! ### The Spine (R335, R336, R343) -/

section
variable {s : State} (hm : s.mainOn = true)
include hm

/-- A Spine that runs, starts or restarts is stopped by a mismatch of a lockstep pair. -/
theorem lockstepMismatch_stops {pair : Fin 8} (h0 : s.spine.phase ≠ .off) (h1 : s.spine.phase ≠ .stopped) :
    Leads (.lockstepMismatch pair) s (s.spineStop pair) :=
  leads_mainEv rfl hm (if_neg (by simp [h0, h1]))

theorem spineRestart_begins (h : s.spine.phase ≠ .off) : Leads .spineRestart s s.spineSram.spineAgain :=
  leads_mainEv rfl hm (if_neg h)

theorem spineReady_runs (h : s.spine.phase = .starting ∨ s.spine.phase = .restarting) : Leads .spineReady s
    (({ s with spine := { s.spine with phase := .running } } : State).setBit R.COLO_READY0_ready 4 true) :=
  leads_mainEv rfl hm (if_pos h)

theorem spineCarryTimeout_retires (h : s.spine.phase = .restarting) (ht : s.spine.since + s.carryNs ≤ s.now) :
    Leads .spineCarryTimeout s ((s.errLog { cls := 8, inst := 0, level := 4, kind := 0x84 }).retireNow true) :=
  leads_mainEv rfl hm (if_pos ⟨h, ht⟩)

/-- With HBM trained and the Colophon running, an image that a slot holds starts a Spine that is off. -/
theorem spineOsLoaded_starts (hc : s.colo.phase = .running) (hh : s.hbmUp = true) (h : s.spine.phase = .off) {u : State}
    {m img : List Byte} (hl : s.loadPart 2 = (u, some (m, img))) : Leads .spineOsLoaded s (u.spineBoot m img) :=
  leads_mainEv rfl hm ((if_neg (by simp [hc, hh, h])).trans (by rw [hl]))

end

/-! ### Retiring (R328, R337, R340) -/

section
variable {s : State} {k : ClockSource}

theorem clockFault_retires (ha : s.pwr.aon = true) (h : s.clockRuns k = true) : Leads (.clockFault k) s
    ((s.errLog { cls := 7, inst := 0, level := 4, kind := 0x81 }).retireNow true) :=
  leads_aonEv rfl ha (if_pos h)

theorem clockFault_stopped (h : s.clockRuns k = false) : exec (.clockFault k) s = .next s :=
  exec_aonEv_self rfl (if_neg (by simp [h]))

/-- The first acknowledgement of a RESIGN by a member of the quorum is heard. -/
theorem State.resignTaken_first {m : DevNum} (hr : s.retire.resignAt.isSome = true) (hq : s.quorum.contains m.toNat = true)
    (hk : s.retire.acks.contains m = false) : s.resignTaken m.toNat = s.resignHeard m := by
  have same : BitVec.ofNat 12 m.toNat = m := by simp
  have asked : s.retire.resignAt.isNone = false := by simp [← Option.not_isSome, hr]
  simp only [State.resignTaken, same, asked, hq, hk, Bool.false_eq_true, Bool.not_true, or_self, if_false]

section
variable (hm : s.mainOn = true)
include hm

/-- The fence of a retire comes once, when nothing is in flight or 5 ms have passed. -/
theorem retireFence_due (h1 : s.fld R.COLO_SERVICE_state = 1) (hr : s.retire.resignAt = none)
    (hd : s.drainedAll = true ∨ s.retire.since + 5 * ms ≤ s.now) : Leads .retireFence s s.retireFence :=
  leads_mainEv rfl hm (if_pos ⟨h1, by simp [hr], hd⟩)

theorem resignAck_heard {m : DevNum} {fp : FlowPos} {u : State} (hu : u = s.answered m.toNat fp.tag (.done [] 0))
    (hr : u.retire.resignAt.isSome = true) (hq : u.quorum.contains m.toNat = true) (hk : u.retire.acks.contains m = false) :
    Comes (.resignAck m fp) m 3 fp (.resignAck fp.tag) s (u.resignHeard m, .ack) := by
  subst hu
  exact comes_of rfl hm (congrArg (·, PeerAns.ack) (State.resignTaken_first hr hq hk))

theorem resignTimeout_due {t : Nat} (ht : s.retire.resignAt = some t) (hd : t + ms ≤ s.now)
    (hs : s.retire.silent = false) (ho : s.standalone = false) : Leads .resignTimeout s s.retireSilent :=
  leads_mainEv rfl hm (by simp [ht, hd, hs, ho])

end
end

/-! ### Hoop maintenance (R344) -/

section
variable {p : Port} {h : HoopId} {s : State}

section
variable (hp : Permit s p (R.HOOP_MAINT_drain.addr h 0))
include hp

theorem hoopDrain_set : Leads (.hoopDrain p h true) s ((s.put R.HOOP_MAINT_drain 1 h).drainOn h) :=
  leads_regCmd rfl hp rfl

theorem hoopDrain_cleared : Leads (.hoopDrain p h false) s ((s.put R.HOOP_MAINT_drain 0 h).drainStat h) :=
  leads_regCmd rfl hp rfl

theorem ucodeLoad_busy (hb : s.bit R.HOOP_MAINT_busy h = true) : exec (.ucodeLoad p h) s = .next s :=
  exec_regCmd_self rfl hp (if_pos hb)

section
variable (hb : s.bit R.HOOP_MAINT_busy h = false)
include hb

theorem ucodeLoad_undrained (hd : s.bit R.HOOP_MAINT_drained h = false) :
    Leads (.ucodeLoad p h) s (s.put R.HOOP_MAINT_result 1 h) :=
  leads_regCmd rfl hp ((if_neg (by simp [hb])).trans (if_pos (by simp [hd])))

theorem ucodeLoad_drained (hd : s.bit R.HOOP_MAINT_drained h = true) : Leads (.ucodeLoad p h) s (s.ucodeStart h) :=
  leads_regCmd rfl hp ((if_neg (by simp [hb])).trans (if_neg (by simp [hd])))

end
end

section
variable {a : Nat} (hm : s.mainOn = true) (hb : s.bit R.HOOP_MAINT_busy h = true) (ha : a = s.fld R.HOOP_UCODE_addr h)
include hm hb ha

theorem ucodeLoadDone_misaligned (h4 : a % 4096 ≠ 0) : Leads (.ucodeLoadDone h) s (s.ucodeEnd h 2) := by
  subst ha
  exact leads_mainEv rfl hm ((if_neg (by simp [hb])).trans (if_pos h4))

section
variable {mf : List Byte} {u : State} (h4 : a % 4096 = 0) (hu : s.ucodeRead h a 320 = (some mf, u, false))
include h4 hu

/-- A manifest that is not signed, or that names more bytes than HBM has, is refused. -/
theorem ucodeLoadDone_refused (hs : u.manifestSigned mf 3 = false ∨ hbmSize < mfield mf 16 8) :
    Leads (.ucodeLoadDone h) s (u.ucodeEnd h 2) := by
  subst ha
  refine leads_mainEv rfl hm ((if_neg (by simp [hb])).trans ((if_neg (by simp [h4])).trans ?_))
  rw [hu]
  exact if_pos (by simpa using hs)

/-- A signed manifest and an image of its digest: the new microcode runs. -/
theorem ucodeLoadDone_accepted (hs : u.manifestSigned mf 3 = true) (hl : mfield mf 16 8 ≤ hbmSize) {img : List Byte}
    {v : State} (hv : u.ucodeRead h (a + 4096) (mfield mf 16 8) = (some img, v, false)) (hd : digestOk mf img = true) :
    Leads (.ucodeLoadDone h) s
      (((v.freeVal.2.runs 3 h mf).put R.HOOP_UCODE_VER_version (v.freeVal.1.toNat % 2 ^ 32) h).ucodeEnd h 0) := by
  subst ha
  refine leads_mainEv rfl hm ((if_neg (by simp [hb])).trans ((if_neg (by simp [h4])).trans ?_))
  rw [hu]
  refine (if_neg (by simp [hs, hl])).trans ?_
  rw [hv]
  exact if_neg (by simp [hd])

end
end
end
end Sys2Proof.Machine

/-- Settles O56: the Spine by its phase, a retire by its step, a microcode load by the checks of its image. -/
theorem spineAndRetire : Obligations.SpineAndRetire := by
  refine ⟨fun pair m img u s hm => ⟨lockstepMismatch_stops hm, spineRestart_begins hm, spineReady_runs hm,
      spineCarryTimeout_retires hm, fun hc hh h hl => spineOsLoaded_starts hm hc hh h hl⟩,
    fun p m fp k s => ⟨fun hp => leads_regCmd rfl hp rfl, fun hm => ⟨retireFence_due hm, resignAck_heard hm rfl,
      fun t => resignTimeout_due hm⟩, clockFault_retires, clockFault_stopped⟩,
    fun p h mf img u v s => ⟨fun hp => ⟨hoopDrain_set hp, hoopDrain_cleared hp, ucodeLoad_busy hp,
      fun hb => ⟨ucodeLoad_undrained hp hb, ucodeLoad_drained hp hb⟩⟩, fun hm hb => ⟨ucodeLoadDone_misaligned hm hb rfl,
      fun h4 hu => ⟨ucodeLoadDone_refused hm hb rfl h4 hu,
        fun hs hl hv hd => ucodeLoadDone_accepted hm hb rfl h4 hu hs hl hv hd⟩⟩⟩⟩

end

section
/-! PROOFS. Boot and resets (R2, R343, R356, R357, R365, R373, R387). -/

open Sys2Proof Sys2Proof.Machine
-- One declaration after the other, as in the tests: the threads of one compile share its memory limit.
set_option Elab.async false

namespace Sys2Proof.Machine

/-! ### What the start of the device leaves of the fuse array (R347) -/

theorem foldl_fuses {α : Type} {g : State → α → State} (hg : ∀ s x, (g s x).fuses = s.fuses) (l : List α) (s : State) :
    (l.foldl g s).fuses = s.fuses := by
  induction l generalizing s with
  | nil => rfl
  | cons x l ih => rw [List.foldl_cons, ih, hg]

@[simp] theorem State.setBit_fuses (s : State) (f : Fld) (b : Nat) (v : Bool) : (s.setBit f b v).fuses = s.fuses := rfl

@[simp] theorem State.runs_fuses (s : State) (kind index : Nat) (m : List Byte) : (s.runs kind index m).fuses = s.fuses := rfl

@[simp] theorem State.freeVal_fuses (s : State) : s.freeVal.2.fuses = s.fuses := rfl

@[simp] theorem State.alertStat_fuses (s : State) : s.alertStat.fuses = s.fuses := by
  unfold State.alertStat; split <;> rfl

@[simp] theorem State.updFlash_fuses (s : State) (k : Nat) (f : Flash → Flash) : (s.updFlash k f).fuses = s.fuses := by
  unfold State.updFlash; split <;> rfl

@[simp] theorem State.flashUsed_fuses (s : State) (k : Nat) : (s.flashUsed k).fuses = s.fuses := by
  unfold State.flashUsed
  extract_lets t
  have ht : t.fuses = s.fuses := State.updFlash_fuses _ _ _
  split
  · exact ht
  · exact ht

@[simp] theorem State.loadPart_fuses (s : State) (kind : Nat) : (s.loadPart kind).1.fuses = s.fuses := by
  unfold State.loadPart
  extract_lets k t u
  have ht : t.fuses = s.fuses := State.flashUsed_fuses _ _
  have hu : u.fuses = s.fuses := (State.flashUsed_fuses _ _).trans ht
  split
  · exact ht
  · split
    · exact hu
    · exact hu

theorem State.fuses_of_loadPart {s u : State} {kind : Nat} {x : Option (List Byte × List Byte)}
    (h : s.loadPart kind = (u, x)) : u.fuses = s.fuses := by
  rw [← State.loadPart_fuses s kind, h]

/-- Hoop microcode first, then link firmware: each is read from a slot, and noted for every hoop or link. -/
@[simp] theorem State.loadFirmware_fuses (s : State) : s.loadFirmware.fuses = s.fuses := by
  unfold State.loadFirmware
  extract_lets t
  have ht : t.fuses = s.fuses := by
    unfold t
    split
    next u m _ hl =>
      exact (foldl_fuses (fun _ _ => by rfl) _ u.freeVal.2).trans ((State.freeVal_fuses u).trans (State.fuses_of_loadPart hl))
    next u hl => exact State.fuses_of_loadPart hl
  split
  next u m _ hl => exact (foldl_fuses (fun _ _ => by rfl) _ _).trans ((State.fuses_of_loadPart hl).trans ht)
  next u hl => exact (State.fuses_of_loadPart hl).trans ht

@[simp] theorem State.enginesAttach_fuses (s : State) : s.enginesAttach.fuses = s.fuses := by
  unfold State.enginesAttach
  split
  · exact foldl_fuses (fun s e => (reported_event s _ _ _ _ _).fuses) _ _
  · rfl

@[simp] theorem State.setFenced_fuses (s : State) (b : Bool) : (s.setFenced b).fuses = s.fuses := by
  unfold State.setFenced
  exact (foldl_fuses (fun _ _ => by rfl) _ _).trans (State.put_fuses s _ _ _ _)

@[simp] theorem State.mainUp_fuses (s : State) : s.mainUp.fuses = s.fuses := by
  unfold State.mainUp
  extract_lets _ _ t u
  have hu : u.fuses = s.fuses := State.setFenced_fuses t true
  rw [State.enginesAttach_fuses, State.loadFirmware_fuses, hu]

@[simp] theorem State.tryMain_fuses (s : State) : s.tryMain.fuses = s.fuses := by
  unfold State.tryMain
  split
  · exact State.mainUp_fuses s
  · rfl

@[simp] theorem State.startUp_fuses (s : State) : s.startUp.fuses = s.fuses := State.alertStat_fuses _

@[simp] theorem State.uartResume_fuses (s : State) : s.uartResume.fuses = s.fuses := by
  unfold State.uartResume
  extract_lets c t u v
  have ht : t.fuses = s.fuses := by unfold t; split <;> rfl
  have hu : u.fuses = s.fuses := by unfold u; split <;> exact ht
  have hv : v.fuses = s.fuses := by unfold v; split <;> exact hu
  exact hv

@[simp] theorem State.coloRunning_fuses (s : State) : s.coloRunning.fuses = s.fuses := by
  unfold State.coloRunning
  extract_lets boot t _ u v
  have ht : t.fuses = s.fuses := by
    unfold t
    split
    · exact State.updFlash_fuses _ _ _
    · rfl
  have hv : v.fuses = s.fuses := by unfold v; split <;> exact ht
  rw [State.alertStat_fuses, State.setBit_fuses, State.setBit_fuses, State.uartResume_fuses, hv]

/-! ### The frames of pins and of commands that may blow fuses -/

/-- An edge of AON_POR_N or RST_N leaves its effect. -/
theorem leads_pinEv {i : Instr} {s t : State} {eff : State → State} (hi : exec i s = .next (s.pinEv eff)) (he : eff s = t) :
    Leads i s t := by rw [Leads, hi, State.pinEv, he]

/-- An edge that changes nothing. -/
theorem exec_pinEv_self {i : Instr} {s : State} {eff : State → State} (hi : exec i s = .next (s.pinEv eff)) (he : eff s = s) :
    exec i s = .next s := by rw [leads_pinEv hi he, State.within_self]

/-- An effect that keeps the fuse array is framed as any other. -/
theorem State.fused_kept {s t : State} (h : t.fuses = s.fuses) : s.fused t = s.within t := by
  rw [State.fused, h, ← State.within_fuses s t]

theorem leads_secEv {i : Instr} {s t : State} {eff : State → State} (hi : exec i s = .next (s.secEv eff))
    (ha : s.pwr.aon = true) (he : eff s = t) (hf : t.fuses = s.fuses) : Leads i s t := by
  rw [Leads, hi, secEv_ok ha, he, State.fused_kept hf]

theorem exec_secEv_self {i : Instr} {s : State} {eff : State → State} (hi : exec i s = .next (s.secEv eff)) (he : eff s = s) :
    exec i s = .next s := by
  cases ha : s.pwr.aon
  · rw [hi, secEv_off ha]
  · rw [leads_secEv hi ha he rfl, State.within_self]

/-! ### AON_POR_N and RST_N (R2, R373, R387, R393) -/

section
variable {adr : BitVec 5} {s : State}

/-- Without power no land is driven: neither domain runs, and no boundary cell has power (R2, Tables 11-6, 12-6, 16-7). -/
theorem State.landShown_unpowered (ha : s.pwr.aon = false) (hm : s.mainOn = false) (d : Land) :
    s.landShown d = .highZ ∨ s.landShown d = .released ∨ s.landShown d = .dark := by
  have shown : s.landShown d = s.land d := if_neg (by simp [ha])
  rw [shown]
  cases d <;> simp [State.land, State.mainLand, State.aonLand, ha, hm]

theorem aonPor_rises (ha : s.pwr.aon = false) : Leads (.aonPor true adr) s (s.aonUp adr) :=
  leads_pinEv rfl (by simp [ha])

theorem aonPor_high (ha : s.pwr.aon = true) : exec (.aonPor true adr) s = .next s :=
  exec_pinEv_self rfl (by simp [ha])

/-- The level of RST_N that the device has already is no edge. -/
theorem rstN_same {b : Bool} (h : s.pwr.rstHigh = b) : exec (.rstN b) s = .next s :=
  exec_pinEv_self rfl (if_pos h.symm)

/-- An edge of RST_N is taken note of; with the always-on power it also resets the device or boots it. -/
theorem rstN_edge {b : Bool} {t : State} (h : s.pwr.rstHigh = !b)
    (ht : t = { s with pwr := { s.pwr with rstHigh := b } }) :
    (s.pwr.aon = true → Leads (.rstN b) s (if b then t.bootRun else t.deviceReset)) ∧
    (s.pwr.aon = false → Leads (.rstN b) s t) := by
  subst ht
  have edge : ¬ b = s.pwr.rstHigh := by simp [h]
  exact ⟨fun ha => leads_pinEv rfl ((if_neg edge).trans (if_neg (by simp [ha]))),
    fun ha => leads_pinEv rfl ((if_neg edge).trans (if_pos (by simp [ha])))⟩

end

/-! ### The Colophon and HBM come ready (R343, R356, R365) -/

section
variable {s : State}

theorem State.mayStart_iff : s.mayStart = true ↔
    s.colo.phase = .starting ∧ (s.colo.trying = false ∨ s.colo.age ≤ tryNs) := by
  simp only [State.mayStart, Bool.and_eq_true, Bool.or_eq_true, Bool.not_eq_true', beq_iff_eq, decide_eq_true_eq]

section
variable (ha : s.pwr.aon = true) (hp : s.colo.phase = .starting)
include ha hp

section
variable (ht : s.colo.trying = false ∨ s.colo.age ≤ 3000 * ms)
include ht

/-- After a boot in STANDBY, with RST_N high, the rails start. -/
theorem colophonReady_boots (h : s.colo.shown = none) (h1 : s.coloRunning.pwrState = 1)
    (hr : s.coloRunning.pwr.rstHigh = true) : Leads (.colophonReady false) s s.coloRunning.startUp :=
  leads_secEv rfl ha ((if_pos (State.mayStart_iff.2 ⟨hp, ht⟩)).trans (if_pos ⟨by simp [h], h1, hr⟩)) (by simp)

/-- After a restart of the Colophon alone the rails stay as they are. -/
theorem colophonReady_restarted (h : s.colo.shown.isSome = true) :
    Leads (.colophonReady false) s s.coloRunning.tryMain :=
  leads_secEv rfl ha ((if_pos (State.mayStart_iff.2 ⟨hp, ht⟩)).trans (if_neg (by simp [Option.isSome_iff_ne_none.1 h])))
    (by simp)

end

theorem colophonBootWatchdog_due (ht : s.colo.trying = true) (h3 : 3000 * ms ≤ s.colo.age) :
    Leads .colophonBootWatchdog s s.chooseSlot :=
  leads_aonEv rfl ha (if_pos ⟨hp, ht, h3⟩)

end

/-- A Colophon that does not start comes ready by no event, and is given up by none. -/
theorem colophon_notStarting (h : s.colo.phase ≠ .starting) :
    exec (.colophonReady false) s = .next s ∧ exec .colophonBootWatchdog s = .next s :=
  ⟨exec_secEv_self rfl (if_neg (fun m => h (State.mayStart_iff.1 m).1)), exec_aonEv_self rfl (if_neg (fun m => h m.1))⟩

theorem hbmTrained_once (hm : s.mainOn = true) (hh : s.hbmUp = false) : Leads .hbmTrained s s.hbmReady :=
  leads_mainEv rfl hm (if_neg (by simp [hh]))

end

/-! ### DEVICE_RESET (R370, R373) -/

section
variable {p : Port} {s : State} (hp : Permit s p (R.PWR_CMD_op.addr 0 0))
include hp

theorem deviceReset_accepted (h : s.pwrState = 1 ∨ s.pwrState = 3) :
    Leads (.deviceReset p) s (s.put R.PWR_STAT_cmd_result 0).deviceReset.bootRun :=
  leads_regCmd rfl hp (if_neg (by omega))

/-- While the rails switch the command is refused as BUSY. -/
theorem deviceReset_busy (h : s.pwrState = 2 ∨ s.pwrState = 4) :
    Leads (.deviceReset p) s (s.put R.PWR_STAT_cmd_result 2) :=
  leads_regCmd rfl hp (if_pos h)

end
end Sys2Proof.Machine

/-- Settles O57: pins by their edge, the Colophon by its phase; its start keeps the fuse array, so that it leads to its effect
whole. -/
theorem bootAndResets : Obligations.BootAndResets := by
  intro p adr d s
  exact ⟨leads_pinEv rfl rfl, State.landShown_unpowered rfl rfl d, aonPor_rises, aonPor_high,
    fun h => ⟨rstN_same h, rstN_edge h rfl⟩, fun h => ⟨rstN_same h, rstN_edge h rfl⟩,
    fun ha => ⟨fun hp ht => ⟨colophonReady_boots ha hp ht, colophonReady_restarted ha hp ht⟩, colophonBootWatchdog_due ha⟩,
    colophon_notStarting, hbmTrained_once, fun hp => ⟨deviceReset_accepted hp, deviceReset_busy hp⟩⟩

end

section
/-! PROOFS. The frame that every command stands in, and which commands may blow fuses (R347, R349, Table 14-9). -/

open Sys2Proof Sys2Proof.Machine
-- One declaration after the other, as in the tests: the threads of one compile share its memory limit.
set_option Elab.async false

namespace Sys2Proof.Machine

/-! ### Every command but those that may blow fuses leaves what its frame leaves -/

@[simp] theorem State.within_mainEv (s : State) (eff : State → State) : s.within (s.mainEv eff) = s.mainEv eff := by
  cases h : s.mainOn <;> simp [State.mainEv, h]

@[simp] theorem State.within_aonEv (s : State) (eff : State → State) : s.within (s.aonEv eff) = s.aonEv eff := by
  cases h : s.pwr.aon <;> simp [State.aonEv, h]

@[simp] theorem State.within_pinEv (s : State) (eff : State → State) : s.within (s.pinEv eff) = s.pinEv eff :=
  State.within_within _ _

@[simp] theorem State.within_issue (s : State) (c : CoreId) (w : W64) (z : Nat) (body : M (BitVec 52)) :
    s.within (s.issue c w z body) = s.issue c w z body := by
  unfold State.issue
  split <;> simp

/-- The commands that may blow fuses (R347, R349, Table 14-9). -/
def mayBlowFuses : Instr → Bool
  | .claim _ _ => true
  | .svnAdvance _ => true
  | .returnCmd _ => true
  | .colophonReady _ => true
  | _ => false

/-- Neither an event of the main domain nor a command that a register write gives: a core's instruction, an event of the
always-on domain or of a pin, a register write itself. -/
theorem exec_within_other {i : Instr} (hm : mainEvent i = false) (hr : commandReg i = none) (hf : mayBlowFuses i = false)
    (s : State) : ∃ t, exec i s = .next t ∧ s.within t = t := by
  cases i
  all_goals cases hm
  all_goals cases hr
  all_goals cases hf
  case illegalInstruction c w =>
    refine ⟨_, rfl, ?_⟩
    split <;> simp
  all_goals exact ⟨_, rfl, by simp only [State.within_issue, State.within_aonEv, State.within_pinEv, State.within_ctlWrite]⟩

theorem exec_within {i : Instr} (hf : mayBlowFuses i = false) (s : State) : ∃ t, exec i s = .next t ∧ s.within t = t := by
  cases hm : mainEvent i
  case true =>
    obtain ⟨eff, he⟩ := exec_mainEvent hm s
    exact ⟨_, he, State.within_mainEv s eff⟩
  case false =>
    cases hr : commandReg i with
    | some x =>
      obtain ⟨eff, he⟩ := exec_commandReg hr s
      exact ⟨_, he, State.within_regCmd s _ _ eff⟩
    | none => exact exec_within_other hm hr hf s

/-- A step either leaves the fuse array as it was or runs one of those commands. -/
theorem step_fuses {s t : State} (h : step s = .next t) :
    t.fuses = s.fuses ∨ ∃ i l, s.pending = i :: l ∧ mayBlowFuses i = true ∧ exec i { s with pending := l } = .next t := by
  unfold step at h
  split at h
  · cases h
    exact .inl rfl
  · next i l hp =>
    cases hf : mayBlowFuses i
    case true => exact .inr ⟨i, l, hp, hf, h⟩
    case false =>
      obtain ⟨u, hu, hw⟩ := exec_within hf { s with pending := l }
      obtain rfl : u = t := by rw [hu] at h; exact Host.Outcome.next.inj h
      exact .inl (by rw [← hw]; rfl)

theorem mayBlowFuses_cases {i : Instr} (h : mayBlowFuses i = true) : (∃ chal ticket, i = .claim chal ticket) ∨
    (∃ q, i = .svnAdvance q) ∨ (∃ q, i = .returnCmd q) ∨ (∃ b, i = .colophonReady b) := by
  unfold mayBlowFuses at h
  split at h
  · exact .inl ⟨_, _, rfl⟩
  · exact .inr (.inl ⟨_, rfl⟩)
  · exact .inr (.inr (.inl ⟨_, rfl⟩))
  · exact .inr (.inr (.inr ⟨_, rfl⟩))
  · cases h

end Sys2Proof.Machine

/-- Settles O5: a command that is none of the four keeps the fuse array, as its frame does, and so does a tick. -/
theorem onlyFuseCommandsBlowFuses : Obligations.OnlyFuseCommandsBlowFuses := by
  intro s t h hne
  rcases step_fuses h with hk | ⟨i, l, hp, hf, -⟩
  · exact absurd hk hne
  · exact ⟨i, l, hp, mayBlowFuses_cases hf⟩

end

section
/-! PROOFS. What a retire, and with it a check of the Colophon's SRAM, leaves of the fuse array (R347). -/

open Sys2Proof Sys2Proof.Machine
-- One declaration after the other, as in the tests: the threads of one compile share its memory limit.
set_option Elab.async false

namespace Sys2Proof.Machine

/-! ### Reports, counters and memory -/

@[simp] theorem State.count_fuses (s : State) (f : Fld) (n i j : Nat) : (s.count f n i j).fuses = s.fuses :=
  (reported_count s f n i j).fuses

@[simp] theorem State.errLog_fuses (s : State) (e : ErrRec) : (s.errLog e).fuses = s.fuses := (reported_errLog s e).fuses

@[simp] theorem State.event_fuses (s : State) (a b c d e : Nat) : (s.event a b c d e).fuses = s.fuses :=
  (reported_event s a b c d e).fuses

@[simp] theorem State.checkLines_fuses (s : State) (a n : Nat) : (s.checkLines a n).fuses = s.fuses :=
  (reported_checkLines s a n).fuses

@[simp] theorem State.sramCheck_fuses (s : State) (a n : Nat) : (s.sramCheck a n).fuses = s.fuses :=
  (reported_sramCheck s a n).fuses

@[simp] theorem State.post_fuses (s : State) (dev cls : Nat) (m : Note) : (s.post dev cls m).fuses = s.fuses :=
  (sent_post s dev cls m).fuses

@[simp] theorem State.hwWrite_fuses (s : State) (a : Nat) (bs : List Byte) : (s.hwWrite a bs).fuses = s.fuses :=
  (reported_hbmWrite _ a bs).fuses.trans (sent_keepImages s a bs.length).fuses

@[simp] theorem State.writeLocal_fuses (s : State) (a : Nat) (bs : List Byte) : (s.writeLocal a bs).fuses = s.fuses := by
  unfold State.writeLocal
  split <;> simp

@[simp] theorem State.writeToile_fuses (s : State) (who : Requester) (a : Nat) (bs : List Byte) :
    (s.writeToile who a bs).fuses = s.fuses := by
  unfold State.writeToile
  split
  · exact State.writeLocal_fuses _ _ _
  · exact (sent_writeRemote _ _ _ _ _ _).fuses

@[simp] theorem State.setRing_fuses (s : State) (n : Folio) (e : RingE) : (s.setRing n e).fuses = s.fuses :=
  State.hwWrite_fuses _ _ _

@[simp] theorem State.stampRead_fuses (s : State) (e : RingE) (i k : Nat) : (s.stampRead e i k).fuses = s.fuses :=
  foldl_fuses (fun s l => (reported_checkLine s l false).fuses) _ s

/-! ### Committed copies, and the unload of a binder that is swapped out -/

@[simp] theorem State.restartNext_fuses (s : State) (n : Folio) : (s.restartNext n).fuses = s.fuses := rfl

@[simp] theorem State.swapOut_fuses (s : State) (n : Folio) : (s.swapOut n).fuses = s.fuses := by
  change (if !(s.ent n).resident then s else State.updFol (State.updEnt _ n _) n _).fuses = s.fuses
  split
  · rfl
  · rw [State.updFol_fuses, State.updEnt_fuses]
    split
    · dsimp only
      split <;> simp
    · extract_lets lost hd fresh
      have hf : fresh.fuses = lost.fuses := by
        unfold fresh
        split
        · exact State.writeToile_fuses _ _ _ _
        · rfl
      exact (State.restartNext_fuses _ n).trans (hf.trans (State.sramCheck_fuses _ _ _))

@[simp] theorem State.startCore_fuses (s : State) (c : Nat) (b : BitVec 12) (entry : BitVec 52) :
    (s.startCore c b entry).fuses = s.fuses := by simp [State.startCore]

@[simp] theorem State.stopCore_fuses (s : State) (c : Nat) : (s.stopCore c).fuses = s.fuses := by simp [State.stopCore]

@[simp] theorem State.unloadTiles_fuses (s : State) (h : Nat) (b : BitVec 12) : (s.unloadTiles h b).fuses = s.fuses := rfl

@[simp] theorem State.tcStat_fuses (s : State) (h : Nat) : (s.tcStat h).fuses = s.fuses := rfl

@[simp] theorem State.unloadFrom_fuses (s : State) (b : BitVec 12) (h : Nat) : (s.unloadFrom b h).fuses = s.fuses := by
  unfold State.unloadFrom
  extract_lets t u v w
  rw [State.tcStat_fuses]
  unfold w
  split
  · refine (foldl_fuses (fun s j => ?_) _ v).trans rfl
    dsimp only
    split <;> simp
  · exact (foldl_fuses (fun s j => State.stopCore_fuses s _) _ v).trans rfl

@[simp] theorem State.swapUnload_fuses (s : State) (b : BitVec 12) : (s.swapUnload b).fuses = s.fuses := by
  unfold State.swapUnload
  split
  · rfl
  · split
    · rfl
    · exact foldl_fuses (fun s h => State.unloadFrom_fuses s b h) _ s

@[simp] theorem State.moveNow_fuses (s : State) (n : Folio) (h : BitVec 4) : (s.moveNow n h).fuses = s.fuses := by
  simp [State.moveNow]

/-! ### Folios that join a section -/

@[simp] theorem State.allotRoom_fuses (fuel : Nat) (s : State) (h : Nat) (needs : List Nat) :
    (s.allotRoom h needs fuel).1.fuses = s.fuses := by
  induction fuel generalizing s with
  | zero => rfl
  | succ fuel ih =>
    unfold State.allotRoom
    split
    · rfl
    · split
      · rfl
      · rw [ih, State.swapOut_fuses]

@[simp] theorem State.memberRoom_fuses (s : State) (h ser : Nat) (k : Section) (res : Bool) :
    (s.memberRoom h ser k res).1.fuses = s.fuses := by
  unfold State.memberRoom
  extract_lets u needs
  have room := State.allotRoom_fuses (storeCopies + 1) (s.updSect h ser (fun x => { x with table := none })) h needs
  split <;> (rename_i heq; rw [heq] at room; exact room)

@[simp] theorem State.advanceRd_fuses (s : State) (n : Folio) : (s.advanceRd n).fuses = s.fuses :=
  (State.updFol_fuses _ _ _).trans (State.setRing_fuses _ _ _)

@[simp] theorem State.join_fuses (s : State) (h ser : Nat) (n : Folio) : (s.join h ser n).1.fuses = s.fuses := by
  unfold State.join
  split
  · rfl
  · next k _ =>
    extract_lets res s0 t old
    have ht : t.fuses = s.fuses := by unfold t; split <;> simp
    have room := (State.memberRoom_fuses t h ser k res).trans ht
    split
    · next heq => rw [heq] at room; exact room
    · next u l heq =>
      rw [heq] at room
      extract_lets g retried fresh m v w x y
      have hy : y.fuses = s.fuses := by
        have hv : v.fuses = u.fuses := by unfold v; split <;> simp
        exact hv.trans room
      dsimp only
      split
      · exact hy
      · rw [State.swapUnload_fuses, hy]

@[simp] theorem State.closeSection_fuses (s : State) (h ser : Nat) : (s.closeSection h ser).fuses = s.fuses := rfl

@[simp] theorem State.joinOrClose_fuses (s : State) (h ser : Nat) (n : Folio) : (s.joinOrClose h ser n).fuses = s.fuses := by
  have join := State.join_fuses s h ser n
  unfold State.joinOrClose
  split
  · next heq => rw [heq] at join; exact join
  · next heq =>
    rw [heq] at join
    split
    · split <;> exact join
    · exact join

@[simp] theorem State.wakeHoop_fuses (s : State) (h : Nat) : (s.wakeHoop h).fuses = s.fuses := by
  unfold State.wakeHoop
  split <;> rfl

@[simp] theorem State.schedStat_fuses (s : State) (h : Nat) : (s.schedStat h).fuses = s.fuses := rfl

@[simp] theorem State.drainStat_fuses (s : State) (h : Nat) : (s.drainStat h).fuses = s.fuses := by
  unfold State.drainStat
  split <;> rfl

/-! ### Folios that change their state or their hoop -/

@[simp] theorem State.readyHere_fuses (s : State) (n : Folio) : (s.readyHere n).fuses = s.fuses := by
  unfold State.readyHere
  extract_lets h t b u
  have ht : t.fuses = s.fuses := by simp [t]
  have hu : u.fuses = t.fuses := by
    unfold u
    split
    · split <;> simp
    · rfl
  rw [State.schedStat_fuses, hu, ht]

@[simp] theorem State.rehome_fuses (s : State) (n : Folio) (h : BitVec 4) : (s.rehome n h).fuses = s.fuses := by
  unfold State.rehome
  extract_lets old t u
  have hu : u.fuses = t.fuses := by unfold u; split <;> simp
  simp [hu, t]

@[simp] theorem State.drainFolio_fuses (s : State) (n : Folio) : (s.drainFolio n).fuses = s.fuses := by
  unfold State.drainFolio
  extract_lets e
  split
  · split <;> simp
  · rfl

@[simp] theorem State.enterReady_fuses (s : State) (n : Folio) : (s.enterReady n).fuses = s.fuses := by
  simp [State.enterReady]

@[simp] theorem State.enterIdle_fuses (s : State) (n : Folio) : (s.enterIdle n).fuses = s.fuses := by
  simp [State.enterIdle]

@[simp] theorem State.checkReady_fuses (s : State) (n : Folio) : (s.checkReady n).fuses = s.fuses := by
  unfold State.checkReady
  split <;> simp

@[simp] theorem State.updFlow_fuses (s : State) (k : Nat) (f : Flow → Flow) : (s.updFlow k f).fuses = s.fuses := by
  unfold State.updFlow
  extract_lets t a
  split
  · exact State.hwWrite_fuses t _ _
  · rfl

@[simp] theorem State.unboundEntries_fuses (s : State) (c0 n : Nat) : (s.unboundEntries c0 n).fuses = s.fuses :=
  foldl_fuses (fun s _ => State.put_fuses s _ _ _ _) _ s

@[simp] theorem State.unbindSource_fuses (s : State) (n : Folio) : (s.unbindSource n).fuses = s.fuses := by
  unfold State.unbindSource
  extract_lets t u v
  have ht : t.fuses = s.fuses := by
    unfold t
    exact foldl_fuses (fun s _ => State.updFlow_fuses s _ _) _ s
  have hu : u.fuses = t.fuses := by
    unfold u
    exact foldl_fuses (fun s _ => State.unboundEntries_fuses s _ _) _ t
  exact hu.trans ht

@[simp] theorem State.discardRing_fuses (s : State) (n : Folio) : (s.discardRing n).fuses = s.fuses := by
  unfold State.discardRing
  extract_lets t e gh k
  have ht : t.fuses = s.fuses := State.checkLines_fuses s _ _
  split
  · exact ht
  · split
    · exact ht
    · rw [State.setRing_fuses, ht]

@[simp] theorem State.enterClosing_fuses (s : State) (n : Folio) : (s.enterClosing n).fuses = s.fuses := by
  simp [State.enterClosing]

@[simp] theorem State.boundary_fuses (s : State) (n : Folio) : (s.boundary n).fuses = s.fuses := by
  unfold State.boundary
  extract_lets h t
  have ht : t.fuses = s.fuses := by unfold t; split <;> simp
  split
  · exact State.enterClosing_fuses s n
  · simp [ht]

/-! ### Sections that are abandoned -/

@[simp] theorem State.stallEvent_fuses (s : State) (h : Nat) (k : Section) : (s.stallEvent h k).fuses = s.fuses := by
  unfold State.stallEvent
  extract_lets thr
  split <;> simp

@[simp] theorem State.abandonMember_fuses (s : State) (h : Nat) (counted : Bool) (m : Member) :
    (s.abandonMember h counted m).fuses = s.fuses := by
  unfold State.abandonMember
  extract_lets n a b a' b'
  split
  · rfl
  · split
    · rw [State.boundary_fuses, State.count_fuses]; rfl
    · rw [State.enterReady_fuses]; rfl

@[simp] theorem State.dissolve_fuses (s : State) (h : Nat) (k : Section) (counted : Bool) :
    (s.dissolve h k counted).fuses = s.fuses := by
  unfold State.dissolve
  extract_lets t u v
  have hv : v.fuses = u.fuses := foldl_fuses (fun s m => State.abandonMember_fuses s h counted m) _ u
  simp [hv, u, t]

@[simp] theorem State.abandonFatal_fuses (s : State) (h : Nat) (k : Section) : (s.abandonFatal h k).fuses = s.fuses := by
  unfold State.abandonFatal
  extract_lets t
  have ht : t.fuses = s.fuses := foldl_fuses (fun s d => by split <;> rfl) _ s
  rw [State.dissolve_fuses, ht]

@[simp] theorem State.abandonAll_fuses (s : State) : s.abandonAll.fuses = s.fuses :=
  foldl_fuses (fun s h => foldl_fuses (fun s k => State.abandonFatal_fuses s h k) _ s) _ s

/-! ### A retire, and the check of the Colophon's SRAM -/

@[simp] theorem State.setQrec_fuses (s : State) (d : Nat) (r : QRec) : (s.setQrec d r).fuses = s.fuses :=
  State.writeLocal_fuses _ _ _

@[simp] theorem State.memberResign_fuses (s : State) (d e : Nat) : (s.memberResign d e).1.fuses = s.fuses := by
  unfold State.memberResign
  extract_lets t r
  have ht : t.fuses = s.fuses := State.checkLines_fuses s _ _
  split
  · exact (State.setQrec_fuses _ _ _).trans ht
  · exact ht

@[simp] theorem State.fence_fuses (s : State) : s.fence.fuses = s.fuses := by
  unfold State.fence
  split <;> simp

@[simp] theorem State.sendResign_fuses (s : State) : s.sendResign.fuses = s.fuses := by
  unfold State.sendResign
  extract_lets e
  refine foldl_fuses (fun s m => ?_) _ s
  split
  · dsimp only
    split <;> exact State.memberResign_fuses _ _ _
  · exact State.post_fuses _ _ _ _

@[simp] theorem State.retireFence_fuses (s : State) : s.retireFence.fuses = s.fuses := by
  unfold State.retireFence
  extract_lets t r u
  have hu : u.fuses = s.fuses := State.fence_fuses s
  split
  · rfl
  · split
    · rw [State.alertStat_fuses, State.put_fuses, hu]
    · rw [State.sendResign_fuses, hu]

@[simp] theorem State.retireLog_fuses (s : State) (fatal : Bool) : (s.retireLog fatal).fuses = s.fuses :=
  State.errLog_fuses _ _

@[simp] theorem State.retireBegin_fuses (s : State) (fatal : Bool) : (s.retireBegin fatal).fuses = s.fuses := by
  simp [State.retireBegin]

@[simp] theorem State.retireTurns_fuses (s : State) : s.retireTurns.fuses = s.fuses := by
  unfold State.retireTurns
  split <;> simp

@[simp] theorem State.retireNow_fuses (s : State) (fatal : Bool) : (s.retireNow fatal).fuses = s.fuses := by
  unfold State.retireNow
  extract_lets st t
  have ht : t.fuses = s.fuses := by unfold t; split <;> simp
  split
  · rfl
  · split
    · rw [State.retireFence_fuses, State.abandonAll_fuses, ht]
    · exact ht

@[simp] theorem State.coloCheck_fuses (s : State) : s.coloCheck.fuses = s.fuses := by
  unfold State.coloCheck
  extract_lets bad t
  have ht : t.fuses = s.fuses := State.sramCheck_fuses s _ _
  split
  · rw [State.retireNow_fuses, State.sramDrop_fuses, ht]
  · exact ht

end Sys2Proof.Machine

end

section
/-! PROOFS. The commands that blow fuses, and the fuse array as an invariant (R347, R349, R350). -/

open Sys2Proof Sys2Proof.Machine
-- One declaration after the other, as in the tests: the threads of one compile share its memory limit.
set_option Elab.async false

namespace Sys2Proof.Machine

/-! ### Fuse arrays that only grow -/

theorem Fuses.kept_trans {a b c : Fuses} (hab : a.kept b) (hbc : b.kept c) : a.kept c := by
  obtain ⟨hl, hs, hd, hr⟩ := hab
  obtain ⟨kl, ks, kd, kr⟩ := hbc
  refine ⟨hl.trans kl, hs.trans ks, ?_, ?_⟩
  · rw [← hd, BitVec.and_assoc, kd]
  · cases a; cases b; cases c
    simp_all

/-- Every fuse that is blown in the first array is blown in the second, which Table 14-1 has if it has the first. -/
def Fuses.Grows (a b : Fuses) : Prop := a.kept b ∧ (a.legal → b.legal)

theorem Fuses.Grows.refl (a : Fuses) : a.Grows a := ⟨a.kept_refl, id⟩

theorem Fuses.Grows.trans {a b c : Fuses} (h : a.Grows b) (g : b.Grows c) : a.Grows c :=
  ⟨Fuses.kept_trans h.1 g.1, g.2 ∘ h.2⟩

theorem Fuses.grows_lifecycle (a : Fuses) {n : Nat} (hn : n ≤ 3) : a.Grows { a with lifecycle := max a.lifecycle n } :=
  ⟨⟨le_max_left _ _, le_rfl, BitVec.and_self, rfl⟩, fun ⟨hl, hs⟩ => ⟨max_le hl hn, hs⟩⟩

theorem Fuses.grows_svnFloor (a : Fuses) {n : Nat} (hn : n ≤ 64) : a.Grows { a with svnFloor := max a.svnFloor n } :=
  ⟨⟨le_rfl, le_max_left _ _, BitVec.and_self, rfl⟩, fun ⟨hl, hs⟩ => ⟨hl, max_le hs hn⟩⟩

theorem Fuses.grows_ownerDigest (a : Fuses) (d : BitVec 512) : a.Grows { a with ownerDigest := a.ownerDigest ||| d } :=
  ⟨⟨le_rfl, le_rfl, by ext; simp; tauto, rfl⟩, id⟩

/-! ### The commands that may blow fuses let the array grow -/

@[simp] theorem State.fuseRegs_fuses (s : State) : s.fuseRegs.fuses = s.fuses := by
  unfold State.fuseRegs
  extract_lets f t u
  have ht : t.fuses = s.fuses :=
    foldl_fuses (fun s _ => (State.put_fuses _ _ _ _ _).trans (State.put_fuses s _ _ _ _)) _ s
  have hu : u.fuses = t.fuses := (State.put_fuses _ _ _ _ _).trans (State.put_fuses t _ _ _ _)
  exact ((State.put_fuses _ _ _ _ _).trans (State.put_fuses u _ _ _ _)).trans (hu.trans ht)

@[simp] theorem State.drawChal_fuses (s : State) : s.drawChal.fuses = s.fuses := rfl

@[simp] theorem State.respond_fuses (s : State) (st : MgmtStatus) (res : List Byte) : (s.respond st res).fuses = s.fuses := rfl

theorem State.grows_transition {a : Fuses} {s : State} {n : Nat} (h : a.Grows s.fuses) (hn : n ≤ 3) :
    a.Grows (s.transition n).fuses := h.trans (s.fuses.grows_lifecycle hn)

section
variable {s : State} {eff : State → State × MgmtStatus × List Byte} (he : ∀ u : State, u.fuses.Grows (eff u).1.fuses)
include he

theorem State.request_grows (rom : Bool) (chal : BitVec 128) : s.fuses.Grows (s.request rom chal eff).fuses := by
  have taken := he s.coloCheck
  rw [State.coloCheck_fuses] at taken
  unfold State.request
  split_ifs
  · exact .refl _
  · rw [State.respond_fuses, State.coloCheck_fuses]
    exact .refl _
  · exact taken

theorem State.signed_grows (rom : Bool) (code : Nat) (args : List Byte) (q : SignedReq) :
    s.fuses.Grows (s.signed rom code args q eff).fuses := by
  have taken := he s.coloCheck
  rw [State.coloCheck_fuses] at taken
  unfold State.signed
  split_ifs
  · exact .refl _
  · rw [State.respond_fuses, State.coloCheck_fuses]
    exact .refl _
  · rw [State.respond_fuses, State.coloCheck_fuses]
    exact .refl _
  · exact taken

end

theorem State.secEv_grows {s : State} {eff : State → State} (he : s.fuses.Grows (eff s).fuses) :
    s.fuses.Grows (s.secEv eff).fuses := by
  unfold State.secEv
  split
  · exact he
  · exact .refl _

theorem State.coloStart_grows (s : State) (provision : Bool) : s.fuses.Grows (s.coloStart provision).fuses := by
  unfold State.coloStart
  extract_lets t u
  have hu : s.fuses.Grows u.fuses := by
    rw [← State.coloRunning_fuses s]
    unfold u
    split
    · exact State.grows_transition (.refl _) (by decide)
    · exact .refl _
  split
  · rwa [State.startUp_fuses]
  · rwa [State.tryMain_fuses]

theorem claim_grows (chal : BitVec 128) (ticket : List Byte) {s t : State} (h : exec (.claim chal ticket) s = .next t) :
    s.fuses.Grows t.fuses := by
  obtain rfl := Host.Outcome.next.inj h
  refine State.secEv_grows (State.request_grows (fun u => ?_) false chal)
  dsimp only
  split_ifs
  · exact .refl _
  · exact .refl _
  · refine State.grows_transition ?_ (by decide)
    rw [State.fuseRegs_fuses]
    exact u.fuses.grows_ownerDigest _

theorem svnAdvance_grows (q : SignedReq) {s t : State} (h : exec (.svnAdvance q) s = .next t) : s.fuses.Grows t.fuses := by
  obtain rfl := Host.Outcome.next.inj h
  refine State.secEv_grows (State.signed_grows (fun u => ?_) false 0x31 [] q)
  rw [State.fuseRegs_fuses]
  exact u.fuses.grows_svnFloor (min_le_right _ _)

theorem returnCmd_grows (q : SignedReq) {s t : State} (h : exec (.returnCmd q) s = .next t) : s.fuses.Grows t.fuses := by
  obtain rfl := Host.Outcome.next.inj h
  refine State.secEv_grows (State.signed_grows (fun u => ?_) false 0x32 [] q)
  split_ifs
  · exact .refl _
  · exact State.grows_transition (.refl _) le_rfl

theorem colophonReady_grows (b : Bool) {s t : State} (h : exec (.colophonReady b) s = .next t) : s.fuses.Grows t.fuses := by
  obtain rfl := Host.Outcome.next.inj h
  refine State.secEv_grows ?_
  split
  · exact s.coloStart_grows b
  · exact .refl _

theorem exec_grows {i : Instr} {s t : State} (hf : mayBlowFuses i = true) (h : exec i s = .next t) : s.fuses.Grows t.fuses := by
  rcases mayBlowFuses_cases hf with ⟨chal, ticket, rfl⟩ | ⟨q, rfl⟩ | ⟨q, rfl⟩ | ⟨b, rfl⟩
  · exact claim_grows chal ticket h
  · exact svnAdvance_grows q h
  · exact returnCmd_grows q h
  · exact colophonReady_grows b h

/-- In every step the fuse array grows, if it changes at all. -/
theorem step_grows {s t : State} (h : step s = .next t) : s.fuses.Grows t.fuses := by
  rcases step_fuses h with hk | ⟨i, l, -, hf, he⟩
  · rw [hk]
    exact .refl _
  · exact (exec_grows hf he :)

end Sys2Proof.Machine

/-- Settles O4: a fuse array that only grows keeps what is blown, and stays one that Table 14-1 has. -/
theorem fuseArrayInvariant : Obligations.FuseArrayInvariant := by
  intro f s t hk hl h
  obtain ⟨kept, legal⟩ := step_grows h
  exact ⟨Fuses.kept_trans hk kept, legal hl⟩

namespace Sys2Proof.Machine

/-! ### What each command that blows fuses leaves (R347, R349, R350) -/

/-- A command that may blow fuses leaves its effect with the fuses that it blew. -/
theorem exec_secEv {i : Instr} {s t : State} {eff : State → State} (hi : exec i s = .next (s.secEv eff))
    (ha : s.pwr.aon = true) (he : eff s = t) : exec i s = .next (s.fused t) := by rw [hi, secEv_ok ha, he]

/-- An unsigned request with the current challenge takes its effect and is answered. -/
theorem State.request_taken {s t : State} {rom : Bool} {chal : BitVec 128} {eff : State → State × MgmtStatus × List Byte}
    {st : MgmtStatus} {res : List Byte} (hon : s.mgmtOn rom = true) (hc : chal = s.colo.chal)
    (he : eff s.coloCheck = (t, st, res)) : s.request rom chal eff = t.respond st res := by
  simp [State.request, hon, hc, he]

/-- An accepted signed request takes its effect, draws a new challenge and is answered. -/
theorem State.signed_taken {s t : State} {rom : Bool} {code : Nat} {args : List Byte} {q : SignedReq}
    {eff : State → State × MgmtStatus × List Byte} {st : MgmtStatus} {res : List Byte} (hon : s.mgmtOn rom = true)
    (hc : q.chal = s.colo.chal) (hs : s.reqSigned code args q = true) (he : eff s.coloCheck = (t, st, res)) :
    s.signed rom code args q eff = t.drawChal.respond st res := by
  simp [State.signed, hon, hc, hs, he]

section
variable {chal : BitVec 128} {ticket : List Byte} {q : SignedReq} {s : State} (ha : s.pwr.aon = true)
include ha

section
variable (hon : s.mgmtOn false = true)
include hon

theorem claim_taken (hc : chal = s.colo.chal) (hl : s.coloCheck.lifecycle = 1)
    (hp : s.coloCheck.bit R.SEC_LIFECYCLE_pending = false) (ht : s.coloCheck.ticketOk ticket 6 = true) {t : State}
    (h : t = { s.coloCheck with fuses := { s.coloCheck.fuses with
      ownerDigest := s.coloCheck.fuses.ownerDigest ||| BitVec.ofNat 512 (mfield ticket 24 64) } }) :
    exec (.claim chal ticket) s = .next (s.fused ((t.fuseRegs.transition 2).respond .ok)) := by
  subst h
  exact exec_secEv rfl ha (State.request_taken hon hc ((if_neg (by simp [hl, hp])).trans (if_neg (by simp [ht]))))

section
variable (hc : q.chal = s.colo.chal)
include hc

theorem svnAdvance_taken (hs : s.reqSigned 0x31 [] q = true) {v : Nat} {t : State}
    (hv : v = ((s.coloCheck.colo.images.find? (fun i => i.kind == 1)).map (·.svn)).getD 0)
    (h : t = { s.coloCheck with fuses := { s.coloCheck.fuses with svnFloor := max s.coloCheck.fuses.svnFloor (min v 64) } }) :
    exec (.svnAdvance q) s = .next (s.fused (t.fuseRegs.drawChal.respond .ok)) := by
  subst hv h
  exact exec_secEv rfl ha (State.signed_taken hon hc hs rfl)

section
variable (hs : s.reqSigned 0x32 [] q = true)
include hs

theorem returnCmd_taken (hp : s.coloCheck.bit R.SEC_LIFECYCLE_pending = false)
    (hl : s.coloCheck.lifecycle = 1 ∨ s.coloCheck.lifecycle = 2) :
    exec (.returnCmd q) s = .next (s.fused ((s.coloCheck.transition 3).drawChal.respond .ok)) :=
  exec_secEv rfl ha (State.signed_taken hon hc hs (if_neg (not_or.2 ⟨by omega, by simp [hp]⟩)))

/-- In MANUFACTURE, and once in RETURN, there is nothing to return from. -/
theorem returnCmd_refused (h1 : s.coloCheck.lifecycle ≠ 1) (h2 : s.coloCheck.lifecycle ≠ 2) :
    exec (.returnCmd q) s = .next (s.fused (s.coloCheck.drawChal.respond .state)) :=
  exec_secEv rfl ha (State.signed_taken hon hc hs (if_pos (.inl ⟨h1, h2⟩)))

end
end
end

/-- As the vendor's firmware comes ready in MANUFACTURE, it goes on to PROVISIONED. -/
theorem colophonReady_provisions (hm : s.mayStart = true) (hp : s.coloRunning.mayProvision = true) {t : State}
    (h : t = s.coloRunning.transition 1) : exec (.colophonReady true) s =
      .next (s.fused (if s.colo.shown.isNone ∧ t.pwrState = 1 ∧ t.pwr.rstHigh then t.startUp else t.tryMain)) := by
  subst h
  refine exec_secEv rfl ha ((if_pos hm).trans ?_)
  simp only [State.coloStart, hp, Bool.and_self, if_true]

end
end Sys2Proof.Machine

/-- Settles O54: CLAIM is an unsigned request, SVN_ADVANCE and RETURN are signed ones, each with its own effect on the fuses. -/
theorem fuseCommands : Obligations.FuseCommands := by
  intro chal ticket q s ha
  exact ⟨fun hon => ⟨fun hc hl hp ht => claim_taken ha hon hc hl hp ht rfl,
      fun hc hs => svnAdvance_taken ha hon hc hs rfl rfl,
      fun hc hs hp => ⟨returnCmd_taken ha hon hc hs hp, returnCmd_refused ha hon hc hs⟩⟩,
    fun hm hp => colophonReady_provisions ha hm hp rfl⟩

end

section
/-! PROOFS. Unsigned requests and attestation (R358, R359, R361, R362). -/

open Sys2Proof Sys2Proof.Machine
-- One declaration after the other, as in the tests: the threads of one compile share its memory limit.
set_option Elab.async false

namespace Sys2Proof.Machine

/-! ### Requests of the management service (R361, R362) -/

section
variable {i : Instr} {chal : BitVec 128} {s : State} {eff : State → State × MgmtStatus × List Byte}
  (hi : exec i s = .next (s.aonEv (fun s => s.request true chal eff))) (ha : s.pwr.aon = true)
  (hon : s.mgmtOn true = true)
include hi ha hon

/-- An unsigned request with an old challenge is answered STALE. -/
theorem leads_request_stale (hc : chal ≠ s.colo.chal) : Leads i s (s.coloCheck.respond .stale) :=
  leads_aonEv hi ha (by simp [State.request, hon, hc])

theorem leads_request (hc : chal = s.colo.chal) {t : State} {st : MgmtStatus} {res : List Byte}
    (he : eff s.coloCheck = (t, st, res)) : Leads i s (t.respond st res) :=
  leads_aonEv hi ha (State.request_taken hon hc he)

end

/-- Without its firmware the Colophon answers no request. -/
theorem State.mgmtOn_silent {s : State} (h : s.colo.phase = .off ∨ s.colo.phase = .stopped ∨ s.colo.phase = .starting)
    (rom : Bool) : s.mgmtOn rom = false := by
  rcases h with h | h | h <;> simp [State.mgmtOn, h]

section
variable {chal : BitVec 128} {nonce : List Byte} {s : State}

theorem getChallenge_silent (h : s.mgmtOn true = false) : exec (.getChallenge chal) s = .next s :=
  exec_aonEv_self rfl (if_pos (by simp [h]))

theorem attest_silent (h : s.mgmtOn false = false) : exec (.attest chal nonce) s = .next s :=
  exec_aonEv_self rfl (if_pos (by simp [h]))

theorem challengeRefresh_early (h : s.pwr.up < s.colo.chalAt + 60000 * ms) : exec .challengeRefresh s = .next s :=
  exec_aonEv_self rfl (if_neg (fun ⟨_, due⟩ => absurd h (Nat.not_lt.2 due)))

section
variable (ha : s.pwr.aon = true)
include ha

theorem challengeRefresh_due (hon : s.mgmtOn true = true) (h : s.colo.chalAt + 60000 * ms ≤ s.pwr.up) :
    Leads .challengeRefresh s s.drawChal := leads_aonEv rfl ha (if_pos ⟨hon, h⟩)

section
variable (hon : s.mgmtOn false = true) (hc : chal = s.colo.chal) (hn : nonce.length = 32)
include hon hc hn

/-- With no request of SEC_ATT_CMD running an ATTEST is answered at once. -/
theorem attest_answered (h : s.att = none) : Leads (.attest chal nonce) s (s.respond .ok (s.attReport nonce)) :=
  leads_aonEv rfl ha (by simp [hon, hc, hn, h])

theorem attest_waits {r : AttRun} (h : s.att = some r) :
    Leads (.attest chal nonce) s { s with attWait := s.attWait ++ [nonce] } :=
  leads_aonEv rfl ha (by simp [hon, hc, hn, h])

end
end
end

/-! ### Requests of SEC_ATT_CMD (R358, R359) -/

/-- What a request makes with its buffer in HBM at `a`: a report of the nonce read there, or bytes that need none. -/
def State.attMade (s : State) (make : AttMake) (a : Nat) : State :=
  match make with
  | .fixed l => { s with att := some { buf := a, dat := l, result := 0 } }
  | .nonce f => match s.hbmRead a 32 with
    | (s, some nonce) => { s with att := some { buf := a, dat := f nonce, result := 0 } }
    | (s, none) => { s with att := some { buf := a, dat := [], result := 2 } }

theorem State.attMade_nonce {s u : State} {a : Nat} {f : List Byte → List Byte} {nonce : List Byte}
    (h : s.hbmRead a 32 = (u, some nonce)) :
    s.attMade (.nonce f) a = { u with att := some { buf := a, dat := f nonce, result := 0 } } := by
  simp only [State.attMade, h]

theorem State.attMade_unreadable {s u : State} {a : Nat} {f : List Byte → List Byte} (h : s.hbmRead a 32 = (u, none)) :
    s.attMade (.nonce f) a = { u with att := some { buf := a, dat := [], result := 2 } } := by
  simp only [State.attMade, h]

section
variable {i : Instr} {p : Port} {size : Nat} {make : AttMake} {s : State}
  (hi : exec i s = .next (s.attCmd p size make)) (hp : Permit s p (R.SEC_ATT_CMD_op.addr 0 0))
include hi hp

/-- While a request runs another is discarded. -/
theorem attCmd_busy (hb : s.bit R.SEC_ATT_STAT_busy = true) : exec i s = .next s := exec_regCmd_self hi hp (if_pos hb)

section
variable (hb : s.bit R.SEC_ATT_STAT_busy = false) {a : Nat} (ha : a = s.fld R.SEC_ATT_BUF_buf) {b : State}
  (hbusy : b = s.put R.SEC_ATT_STAT_busy 1)
include hb ha hbusy

/-- A buffer that is not aligned, or does not lie in HBM. -/
theorem attCmd_noBuffer (h : a % 64 ≠ 0 ∨ hbmSize < a + size) :
    Leads i s { b with att := some { buf := a, dat := [], result := 1 } } := by
  subst ha hbusy
  exact leads_regCmd hi hp ((if_neg (by simp [hb])).trans (if_pos h))

section
variable (h64 : a % 64 = 0) (hs : a + size ≤ hbmSize)
include h64 hs

theorem attCmd_unpowered (hm : s.mainOn = false) : Leads i s { b with att := some { buf := a, dat := [], result := 2 } } := by
  subst ha hbusy
  have off : (s.put R.SEC_ATT_STAT_busy 1).mainOn = false := hm
  exact leads_regCmd hi hp ((if_neg (by simp [hb])).trans ((if_neg (by omega)).trans (if_pos (by simp [off]))))

theorem attCmd_made (hm : s.mainOn = true) : Leads i s (b.attMade make a) := by
  subst ha hbusy
  have on : (s.put R.SEC_ATT_STAT_busy 1).mainOn = true := hm
  exact leads_regCmd hi hp ((if_neg (by simp [hb])).trans ((if_neg (by omega)).trans (if_neg (by simp [on]))))

end
end
end

section
variable {p : Port} {s : State} (hp : Permit s p (R.SEC_ATT_CMD_op.addr 0 0)) (hb : s.bit R.SEC_ATT_STAT_busy = false)
  {a : Nat} (ha : a = s.fld R.SEC_ATT_BUF_buf) (h64 : a % 64 = 0) (hm : s.mainOn = true)
include hp hb ha h64 hm

/-- A report takes its nonce from the buffer. -/
theorem attReport_made {nonce : List Byte} {u : State} (hs : a + (256 + 96 * s.attEntries.length) ≤ hbmSize)
    (h : (s.put R.SEC_ATT_STAT_busy 1).hbmRead a 32 = (u, some nonce)) :
    Leads (.attReport p) s { u with att := some { buf := a, dat := s.attReport nonce, result := 0 } } := by
  rw [← State.attMade_nonce h]
  exact attCmd_made rfl hp hb ha rfl h64 hs hm

theorem attReport_unreadable {u : State} (hs : a + (256 + 96 * s.attEntries.length) ≤ hbmSize)
    (h : (s.put R.SEC_ATT_STAT_busy 1).hbmRead a 32 = (u, none)) :
    Leads (.attReport p) s { u with att := some { buf := a, dat := [], result := 2 } } := by
  rw [← State.attMade_unreadable h]
  exact attCmd_made rfl hp hb ha rfl h64 hs hm

theorem attCert_made (hs : a + 256 ≤ hbmSize) : Leads (.attCert p) s
    { s.put R.SEC_ATT_STAT_busy 1 with att := some { buf := a, dat := s.certificate, result := 0 } } :=
  attCmd_made (make := .fixed s.certificate) rfl hp hb ha rfl h64 hs hm

end

/-! ### The end of a request (R359) -/

section
variable {s : State} {r : AttRun} (hr : s.att = some r) (ha : s.pwr.aon = true)
include hr ha

theorem attDone_writes (h0 : r.result = 0) (hm : s.mainOn = true) :
    Leads .attDone s ((s.hwWrite r.buf r.dat).attEnd 0) := leads_aonEv rfl ha (by simp only [hr, h0, hm]; rfl)

/-- With the main domain off there is no buffer to write. -/
theorem attDone_unpowered (h0 : r.result = 0) (hm : s.mainOn = false) : Leads .attDone s (s.attEnd 2) :=
  leads_aonEv rfl ha (by simp only [hr, h0, hm]; rfl)

theorem attDone_failed (h0 : r.result ≠ 0) : Leads .attDone s (s.attEnd r.result) :=
  leads_aonEv rfl ha (by simp only [hr]; exact if_pos h0)

end
end Sys2Proof.Machine

/-- Settles O52: requests go by the challenge in their common frame, those of SEC_ATT_CMD by their buffer in another. -/
theorem unsignedRequests : Obligations.UnsignedRequests := by
  refine ⟨fun chal nonce s ha => ⟨fun hon => ⟨fun hc => ⟨leads_request rfl ha hon hc rfl, leads_request rfl ha hon hc rfl⟩,
      fun hc => ⟨leads_request_stale rfl ha hon hc, leads_request_stale rfl ha hon hc⟩, challengeRefresh_due ha hon,
      challengeRefresh_early⟩, fun _ _ => rfl,
      fun hon hc hn => ⟨attest_answered ha hon hc hn, fun r => attest_waits ha hon hc hn⟩,
      fun h => ⟨getChallenge_silent (State.mgmtOn_silent h true), attest_silent (State.mgmtOn_silent h false)⟩⟩,
    fun p u nonce s => ⟨fun hp => ?_, fun r hr ha => ⟨attDone_writes hr ha, attDone_unpowered hr ha, attDone_failed hr ha⟩⟩⟩
  exact ⟨fun hb => ⟨attCmd_busy rfl hp hb, attCmd_busy rfl hp hb⟩,
    fun hb hbuf => ⟨attCmd_noBuffer rfl hp hb rfl rfl (by omega), attCmd_noBuffer rfl hp hb rfl rfl hbuf⟩,
    fun hb h64 => ⟨fun hs hm => ⟨attReport_made hp hb rfl h64 hm hs, attReport_unreadable hp hb rfl h64 hm hs⟩,
      fun hs hm => attCert_made hp hb rfl h64 hm hs,
      fun hs hm => ⟨attCmd_unpowered rfl hp hb rfl rfl h64 hs hm,
        attCmd_unpowered (size := 256) rfl hp hb rfl rfl h64 (by omega) hm⟩⟩⟩

end

section
/-! PROOFS. The test port (R363). -/

open Sys2Proof Sys2Proof.Machine
-- One declaration after the other, as in the tests: the threads of one compile share its memory limit.
set_option Elab.async false

namespace Sys2Proof.Machine

/-! ### The instructions of the test port (R363) -/

section
variable {pins pre : List Bool} {s : State} (ha : s.pwr.aon = true)
include ha

section
variable (hu : s.bit R.SEC_DEBUG_unlocked = false)
include hu

theorem samplePreload_locked : Leads (.samplePreload pins pre) s (s.shiftBypass pre) :=
  leads_aonEv rfl ha (if_pos (by simp [State.unlocked, hu]))

theorem extest_locked : Leads (.extest pins) s (s.shiftBypass []) :=
  leads_aonEv rfl ha (if_pos (by simp [State.unlocked, hu]))

theorem debugAccess_locked (x : DebugOp) : Leads (.debugAccess x) s (s.shiftBypass []) :=
  leads_aonEv rfl ha (if_pos (by simp [State.unlocked, hu]))

end

section
variable (hu : s.bit R.SEC_DEBUG_unlocked = true)
include hu

theorem samplePreload_unlocked :
    Leads (.samplePreload pins pre) s { s with jtag := { s.jtag with preload := pre, drive := false, out := pins } } :=
  leads_aonEv rfl ha (if_neg (by simp [State.unlocked, hu]))

theorem extest_unlocked : Leads (.extest pins) s { s with jtag := { s.jtag with drive := true, out := pins } } :=
  leads_aonEv rfl ha (if_neg (by simp [State.unlocked, hu]))

end
end

/-! ### The lands under boundary scan (R363) -/

/-- Whether a land's boundary cell has power is the rails' matter alone. -/
theorem State.cellOn_congr {s u : State} (h : u.pwr = s.pwr) (d : Land) : u.cellOn d = s.cellOn d := by
  cases d <;> simp only [State.cellOn, h]

theorem State.landShown_unscanned {s : State} {d : Land} (h : s.bit R.SEC_DEBUG_unlocked = false ∨ s.cellOn d = false) :
    s.landShown d = s.land d := if_neg (by rcases h with h | h <;> simp [h])

theorem State.landShown_scanned {s : State} {d : Land} (ha : s.pwr.aon = true) (hu : s.bit R.SEC_DEBUG_unlocked = true)
    (hj : s.jtag.drive = true) (hd : s.cellOn d = true) : s.landShown d = .boundary := if_pos ⟨ha, hu, hj, hd⟩

/-! ### The debug access (R363) -/

/-- A write of a whole word of control space is the command of its register. -/
theorem State.ctlWrite_word {s : State} {p : Port} {r : BitVec 64} (v : W64) (h8 : r.toNat % 8 = 0)
    (hr : inControl r.toNat = true) : s.ctlWrite p r.toNat 64 v = s.regCmd p r.toNat (fun s => s.writeReg p r.toNat v) := by
  have frame := regWrite_frame (p := p) (v := v) (s := s) r.isLt h8 hr
  rw [BitVec.ofNat_toNat, BitVec.setWidth_eq] at frame
  exact Host.Outcome.next.inj frame

section
variable {s : State} (ha : s.pwr.aon = true) (hu : s.bit R.SEC_DEBUG_unlocked = true)
include ha hu

section
variable {r : BitVec 64} (h8 : r.toNat % 8 = 0) (hr : inControl r.toNat = true)
include h8 hr

theorem debugReadReg_shifts : Leads (.debugAccess (.readReg r)) s (s.shiftOut (toLE 8 (s.regRead r.toNat).toNat)) :=
  leads_aonEv rfl ha ((if_neg (by simp [State.unlocked, hu])).trans (if_neg (by simp [h8, hr, State.mayRead, hu])))

theorem debugWriteReg_writes (v : W64) :
    Leads (.debugAccess (.writeReg r v)) s (s.regCmd .p6 r.toNat (fun s => s.writeReg .p6 r.toNat v)) :=
  leads_aonEv rfl ha ((if_neg (by simp [State.unlocked, hu])).trans (State.ctlWrite_word v h8 hr))

end

section
variable {m : BitVec 40} (hm : s.mainOn = true)
include hm

/-- A read of memory that has its bytes at hand makes the checks of a read and shifts them out. -/
theorem debugReadMem_shifts {n : Nat} {l : List Byte} (ho : oneArea m.toNat n = true) (hb : s.bufOff m.toNat n = false)
    (hh : areaOf m.toNat ≠ .hole) (hc : areaOf m.toNat ≠ .ctl) (hl : s.readLocal m.toNat n = .bytes l) :
    Leads (.debugAccess (.readMem m n)) s ((s.checked (localAddr m.toNat) n).shiftOut l) := by
  refine leads_aonEv rfl ha ((if_neg (by simp [State.unlocked, hu])).trans ((if_neg (by simp [hm, ho, hb])).trans ?_))
  split
  · next h => exact absurd h hh
  · next h => exact absurd h hc
  · simp only [hl]

theorem debugWriteMem_writes {dat : List Byte} (hd : dat ≠ []) (ho : oneArea m.toNat dat.length = true)
    (h : areaOf m.toNat = .hbm) : Leads (.debugAccess (.writeMem m dat)) s (s.writeLocal m.toNat dat) :=
  leads_aonEv rfl ha ((if_neg (by simp [State.unlocked, hu])).trans ((if_neg hd).trans (State.memStore_local hm ho (.inl h))))

end
end

/-! ### The expiry of an unlock (R363) -/

section
variable {s : State} {t : Nat} (ht : s.jtag.expiry = some t)
include ht

theorem jtagExpiry_due (ha : s.pwr.aon = true) (h : t < s.now) : Leads .jtagExpiry s
    (({ s with jtag := { s.jtag with expiry := none, drive := false } } : State).put R.SEC_DEBUG_unlocked 0) :=
  leads_aonEv rfl ha (by simp only [ht]; exact if_pos h)

theorem jtagExpiry_early (h : s.now ≤ t) : exec .jtagExpiry s = .next s :=
  exec_aonEv_self rfl (by simp only [ht]; exact if_neg (Nat.not_lt.2 h))

end
end Sys2Proof.Machine

/-- Settles O55: each instruction goes by the lock of the port, and what EXTEST drives by the land's power. -/
theorem testPort : Obligations.TestPort := by
  intro tdi pins pre r v m n l dat d s ha
  exact ⟨leads_aonEv rfl ha rfl, leads_aonEv rfl ha rfl, State.landShown_unscanned,
    fun hu => ⟨samplePreload_locked ha hu, extest_locked ha hu, debugAccess_locked ha hu _, debugAccess_locked ha hu _⟩,
    fun hu => ⟨samplePreload_unlocked ha hu,
      ⟨extest_unlocked ha hu, fun hd => State.landShown_scanned ha hu rfl ((State.cellOn_congr rfl d).trans hd)⟩,
      fun h8 hr => ⟨debugReadReg_shifts ha hu h8 hr, debugWriteReg_writes ha hu h8 hr v⟩,
      fun hm => debugReadMem_shifts ha hu hm, fun hm => debugWriteMem_writes ha hu hm⟩,
    fun _ ht h => jtagExpiry_due ht ha h, fun _ ht => jtagExpiry_early ht⟩

end

section
/-! PROOFS. The duty of the power cap (R381): what each loop makes of it, and its range. -/

open Sys2Proof Sys2Proof.Machine
-- One declaration after the other, as in the tests: the threads of one compile share its memory limit.
set_option Elab.async false

namespace Sys2Proof.Machine

/-! ### What leaves the power part of the state alone -/

theorem Sent.pwr {s t : State} (h : Sent s t) : t.pwr = s.pwr := by rw [h]

theorem State.writeToile_pwr (s : State) (who : Requester) (a : Nat) (bs : List Byte) :
    (s.writeToile who a bs).pwr = s.pwr := by
  unfold State.writeToile
  split
  · unfold State.writeLocal
    split
    · exact (reported_hbmWrite _ _ _).pwr.trans (sent_keepImages s _ bs.length).pwr
    all_goals rfl
  · exact (sent_writeRemote _ _ _ _ _ _).pwr

theorem State.restartPage_pwr (s : State) (n : Folio) : (s.restartPage n).pwr = s.pwr := by
  unfold State.restartPage
  extract_lets page hd t
  change t.pwr = s.pwr
  unfold t
  split
  · exact s.writeToile_pwr _ _ _
  · rfl

theorem foldl_pwr {α : Type} {g : State → α → State} (hg : ∀ s x, (g s x).pwr = s.pwr) (l : List α) (s : State) :
    (l.foldl g s).pwr = s.pwr := by
  induction l generalizing s with
  | nil => rfl
  | cons x l ih => rw [List.foldl_cons, ih, hg]

/-- The frame of an effect keeps the power part that the effect left. -/
@[simp] theorem State.within_pwr (s t : State) : (s.within t).pwr = t.pwr :=
  foldl_pwr (fun t _ => foldl_pwr (fun t _ => t.restartPage_pwr _) _ t) _ t

@[simp] theorem State.alertStat_pwr (s : State) : s.alertStat.pwr = s.pwr := by
  unfold State.alertStat
  split <;> rfl

@[simp] theorem State.count_pwr (s : State) (f : Fld) (n i j : Nat) : (s.count f n i j).pwr = s.pwr :=
  (reported_count s f n i j).pwr

@[simp] theorem State.dutyStat_pwr (s : State) : s.dutyStat.pwr = s.pwr := rfl

@[simp] theorem State.capEvent_pwr (s : State) (inst since : Nat) : (s.capEvent inst since).pwr = s.pwr :=
  (reported_event _ _ _ _ _ _).pwr

/-! ### Events of the rail VDD_CORE -/

/-- The always-on power and the rail VDD_CORE are on, so that both power loops run. -/
abbrev State.coreRail (s : State) : Prop := s.pwr.aon = true ∧ s.pwr.enables.getLsbD 0 = true

/-- An event of a power loop leaves the power part that its effect leaves, or the one before where VDD_CORE is off. -/
theorem coreRail_pwr {i : Instr} {s t : State} {eff : State → State}
    (hi : exec i s = .next (s.aonEv (fun s => if s.pwr.enables.getLsbD 0 then eff s else s))) (ht : exec i s = .next t) :
    t.pwr = if s.coreRail then (eff s).pwr else s.pwr := by
  obtain rfl := Host.Outcome.next.inj (hi.symm.trans ht)
  by_cases ha : s.pwr.aon = true
  · by_cases hc : s.pwr.enables.getLsbD 0 = true
    · simp only [aonEv_ok ha, State.within_pwr, State.coreRail, ha, hc, and_self, if_true]
    · simp only [aonEv_ok ha, State.within_pwr, State.coreRail, hc, and_false, if_false, Bool.false_eq_true]
  · simp only [aonEv_off (Bool.eq_false_iff.2 ha), State.coreRail, ha, false_and, if_false, Bool.false_eq_true]

theorem avsRead_pwr {r : AvsReading} {s t : State} (h : exec (.avsRead r) s = .next t) :
    t.pwr = if s.coreRail then (s.powerSample r).pwr else s.pwr := coreRail_pwr rfl h

theorem powerCapTick_pwr {s t : State} (h : exec .powerCapTick s = .next t) :
    t.pwr = if s.coreRail then s.slowLoop.pwr else s.pwr := coreRail_pwr rfl h

/-! ### The duty after the fast loop (R381) -/

/-- The fast loop gives back a step of the duty. -/
abbrev State.fastBack (s : State) (p : Nat) : Prop :=
  100 * p < 97 * (s.peakW * 1000000) ∧ s.pwr.capDuty < s.pwr.slowTop ∧ s.pwr.fastMoved + 100 * us ≤ s.now

/-- The duty that the fast loop sets on a power of p µW. -/
def State.fastDuty (s : State) (p : Nat) : Nat :=
  let d := s.pwr.capDuty
  if s.peakW * 1000000 < p then max 1 (min (d - 1) (Config.capFall d p)) else if s.fastBack p then d + 1 else d

/-- The fast loop sets its duty, and leaves the slow loop's. -/
theorem State.fastLoop_duty (s : State) (p : Nat) :
    (s.fastLoop p).pwr.capDuty = s.fastDuty p ∧ (s.fastLoop p).pwr.slowTop = s.pwr.slowTop := by
  have back : (decide (100 * p < 97 * (s.peakW * 1000000)) && decide (s.pwr.capDuty < s.pwr.slowTop) &&
      decide (s.pwr.fastMoved + 100 * us ≤ s.now)) = true ↔ s.fastBack p := by
    simp only [Bool.and_eq_true, decide_eq_true_eq, and_assoc]
  unfold State.fastLoop
  simp only [apply_ite State.pwr, State.capEvent_pwr, State.dutyStat_pwr, ite_self, and_true]
  exact if_congr decide_eq_true_iff rfl (if_congr back rfl rfl)

/-- The fast loop's duty depends on the power cap's registers, the duties, the time of the last move and the time alone. -/
theorem State.fastDuty_congr {s t : State} {p : Nat} (hp : t.peakW = s.peakW) (hd : t.pwr.capDuty = s.pwr.capDuty)
    (ht : t.pwr.slowTop = s.pwr.slowTop) (hm : t.pwr.fastMoved = s.pwr.fastMoved) (hn : t.now = s.now) :
    t.fastDuty p = s.fastDuty p := by
  simp only [State.fastDuty, State.fastBack, hp, hd, ht, hm, hn]

/-- The state with the VDD_CORE current of a reading. -/
def State.withCurrent (s : State) (r : AvsReading) : State := { s with pwr := { s.pwr with coreMa := r.ma } }

/-- What a reading leaves for the fast loop: the current, its power shown and taken as a sample of the slow loop. -/
def State.sampled (s : State) (r : AvsReading) : State :=
  let p := (s.withCurrent r).power
  { s.put R.PWR_POWER_present_w (min (p / 1000000) 65535) with pwr := { s.pwr with
    coreMa := r.ma, avsPrev := if r.reached then none else s.pwr.avsPrev, samples := s.pwr.samples ++ [(s.now, p)] } }

/-- A reading runs the fast loop on the power with its current. -/
theorem State.powerSample_eq (s : State) (r : AvsReading) :
    s.powerSample r = (s.sampled r).fastLoop (s.withCurrent r).power := rfl

/-- The register of the power shown is not the one of the power cap. -/
theorem State.peakW_present {s t : State} {v : Nat} (h : t.ctl = (s.put R.PWR_POWER_present_w v).ctl) :
    t.peakW = s.peakW := by
  have cap : R.PWR_CAP_cap_w.Clear R.PWR_POWER_present_w := by decide
  have peak : R.PWR_CAP_peak_w.Clear R.PWR_POWER_present_w := by decide
  have same (f : Fld) : t.fld f = (s.put R.PWR_POWER_present_w v).fld f := by rw [State.fld, h, State.fld]
  simp only [State.peakW, State.capW, same, s.fld_put_clear cap, s.fld_put_clear peak]

/-- A reading of the VDD_CORE current sets the duty of the fast loop on the power with that current. -/
theorem State.powerSample_duty (s : State) (r : AvsReading) :
    (s.powerSample r).pwr.capDuty = s.fastDuty (s.withCurrent r).power ∧
    (s.powerSample r).pwr.slowTop = s.pwr.slowTop := by
  rw [State.powerSample_eq]
  obtain ⟨duty, top⟩ := State.fastLoop_duty (s.sampled r) (s.withCurrent r).power
  exact ⟨duty.trans (State.fastDuty_congr (State.peakW_present (s := s) rfl) rfl rfl rfl rfl), top⟩

section
variable {s : State} {p : Nat}

/-- A power above the peak lowers the duty, unless it is 1. -/
theorem State.fastDuty_above (h1 : 1 ≤ s.pwr.capDuty) (h : s.peakW * 1000000 < p) :
    (s.pwr.capDuty = 1 ∧ s.fastDuty p = 1) ∨ s.fastDuty p < s.pwr.capDuty := by
  rw [State.fastDuty, if_pos h]
  omega

theorem State.fastDuty_back (h : p ≤ s.peakW * 1000000) (hb : s.fastBack p) : s.fastDuty p = s.pwr.capDuty + 1 :=
  (if_neg (Nat.not_lt.2 h)).trans (if_pos hb)

theorem State.fastDuty_stays (h : p ≤ s.peakW * 1000000) (hb : ¬ s.fastBack p) : s.fastDuty p = s.pwr.capDuty :=
  (if_neg (Nat.not_lt.2 h)).trans (if_neg hb)

theorem State.fastDuty_range (h1 : 1 ≤ s.pwr.capDuty) (ht : s.pwr.capDuty ≤ s.pwr.slowTop) :
    1 ≤ s.fastDuty p ∧ s.fastDuty p ≤ s.pwr.slowTop := by
  by_cases h : s.peakW * 1000000 < p
  · rw [State.fastDuty, if_pos h]
    omega
  · by_cases hb : s.fastBack p
    · rw [State.fastDuty_back (Nat.le_of_not_lt h) hb]
      exact ⟨by omega, hb.2.1⟩
    · rw [State.fastDuty_stays (Nat.le_of_not_lt h) hb]
      exact ⟨h1, ht⟩

end

/-! ### The duties after the slow loop (R381) -/

/-- The mean power in µW of the slow loop's window. -/
def State.slowMean (s : State) : Nat :=
  let l := s.pwr.samples.filter (fun (x : Nat × Nat) => decide (s.now ≤ x.1 + s.windowMs * ms))
  if l = [] then 0 else (l.map (·.2)).sum / l.length

/-- The slow loop gives back a step of the duty. -/
abbrev State.slowBack (s : State) : Prop :=
  100 * s.slowMean < 95 * (s.capW * 1000000) ∧ s.pwr.slowTop < 16 ∧ s.pwr.slowMoved + 10 * ms ≤ s.now

/-- A turn of the slow loop moves a duty x. -/
def State.slowMove (s : State) (x : Nat) : Nat :=
  if s.capW * 1000000 < s.slowMean then max 1 (x - 1) else if s.slowBack then x + 1 else x

/-- The slow loop moves the duty, and with it the one that the fast loop may raise it to. -/
theorem State.slowLoop_duty (s : State) :
    s.slowLoop.pwr.capDuty = s.slowMove s.pwr.capDuty ∧ s.slowLoop.pwr.slowTop = s.slowMove s.pwr.slowTop := by
  have back : (decide (100 * s.slowMean < 95 * (s.capW * 1000000)) && decide (s.pwr.slowTop < 16) &&
      decide (s.pwr.slowMoved + 10 * ms ≤ s.now)) = true ↔ s.slowBack := by
    simp only [Bool.and_eq_true, decide_eq_true_eq, and_assoc]
  unfold State.slowLoop
  simp only [apply_ite State.pwr, State.alertStat_pwr, State.count_pwr, State.capEvent_pwr, State.dutyStat_pwr, State.put_pwr,
    ite_self]
  exact ⟨if_congr decide_eq_true_iff rfl (if_congr back rfl rfl), if_congr decide_eq_true_iff rfl (if_congr back rfl rfl)⟩

section
variable {s : State} {x : Nat}

theorem State.slowMove_above (h : s.capW * 1000000 < s.slowMean) : s.slowMove x = max 1 (x - 1) := if_pos h

theorem State.slowMove_back (h : s.slowMean ≤ s.capW * 1000000) (hb : s.slowBack) : s.slowMove x = x + 1 :=
  (if_neg (Nat.not_lt.2 h)).trans (if_pos hb)

theorem State.slowMove_stays (h : s.slowMean ≤ s.capW * 1000000) (hb : ¬ s.slowBack) : s.slowMove x = x :=
  (if_neg (Nat.not_lt.2 h)).trans (if_neg hb)

theorem State.slowMove_range (h1 : 1 ≤ s.pwr.capDuty) (ht : s.pwr.capDuty ≤ s.pwr.slowTop) (h16 : s.pwr.slowTop ≤ 16) :
    1 ≤ s.slowMove s.pwr.capDuty ∧ s.slowMove s.pwr.capDuty ≤ s.slowMove s.pwr.slowTop ∧
      s.slowMove s.pwr.slowTop ≤ 16 := by
  by_cases h : s.capW * 1000000 < s.slowMean
  · rw [State.slowMove_above h, State.slowMove_above h]
    omega
  · have le := Nat.le_of_not_lt h
    by_cases hb : s.slowBack
    · have room : s.pwr.slowTop < 16 := hb.2.1
      rw [State.slowMove_back le hb, State.slowMove_back le hb]
      omega
    · rw [State.slowMove_stays le hb, State.slowMove_stays le hb]
      exact ⟨h1, ht, h16⟩

end
end Sys2Proof.Machine

/-- Settles O60: both loops move the duty by a case of its own each, and every case keeps the range. -/
theorem capDutyInRange : Obligations.CapDutyInRange := by
  intro r s t h1 ht h16
  obtain ⟨fastDuty, fastTop⟩ := s.powerSample_duty r
  obtain ⟨slowDuty, slowTop⟩ := s.slowLoop_duty
  refine ⟨fun h => ?_, fun ha hc => ⟨fun h => ?_, fun h => ?_⟩⟩
  · by_cases on : s.coreRail
    · rcases h with h | h
      · obtain ⟨low, top⟩ := State.fastDuty_range h1 ht
        rw [avsRead_pwr h, if_pos on, fastDuty, fastTop]
        exact ⟨low, top, h16⟩
      · rw [powerCapTick_pwr h, if_pos on, slowDuty, slowTop]
        exact State.slowMove_range h1 ht h16
    · have same : t.pwr = s.pwr := by
        rcases h with h | h
        · rw [avsRead_pwr h, if_neg on]
        · rw [powerCapTick_pwr h, if_neg on]
      rw [same]
      exact ⟨h1, ht, h16⟩
  · rw [avsRead_pwr h, if_pos ⟨ha, hc⟩, fastDuty]
    exact ⟨State.fastDuty_above h1, fun le => ⟨State.fastDuty_back le, State.fastDuty_stays le⟩⟩
  · rw [powerCapTick_pwr h, if_pos ⟨ha, hc⟩, slowDuty]
    exact ⟨State.slowMove_above, fun le => ⟨State.slowMove_back le, State.slowMove_stays le⟩⟩

end

section
/-! PROOFS. Power states, and the clocks, rails, temperatures and hoops that power control governs (R19, R367 to R373, R375,
R376, R378 to R381). -/

open Sys2Proof Sys2Proof.Machine
-- One declaration after the other, as in the tests: the threads of one compile share its memory limit.
set_option Elab.async false

namespace Sys2Proof.Machine

/-! ### STANDBY and RUN (R370) -/

section
variable {p : Port} {s : State} (hp : Permit s p (R.PWR_CMD_op.addr 0 0))
include hp

/-- A PWR_CMD whose own work is `eff` is refused as BUSY while the rails switch. -/
theorem pwrCmd_busy {i : Instr} {eff : State → State} (hi : exec i s = .next (s.pwrCmd p eff))
    (h : s.pwrState = 2 ∨ s.pwrState = 4) : Leads i s (s.put R.PWR_STAT_cmd_result 2) :=
  leads_regCmd hi hp (if_pos h)

/-- Else it does its work. -/
theorem pwrCmd_works {i : Instr} {eff : State → State} {t : State} (hi : exec i s = .next (s.pwrCmd p eff))
    (h : ¬ (s.pwrState = 2 ∨ s.pwrState = 4)) (he : eff s = t) : Leads i s t :=
  leads_regCmd hi hp ((if_neg h).trans he)

section
variable (h3 : s.pwrState = 3)
include h3

theorem standby_accepted (h : s.fld R.COLO_SERVICE_state = 2 ∨ s.dir.all (fun d => d.2.st == .free) = true) :
    Leads (.standby p) s s.stopping :=
  pwrCmd_works hp rfl (by omega) ((if_pos h).trans (if_pos h3))

/-- A device that is not retired and holds a folio that is not FREE stays in RUN. -/
theorem standby_refused (hr : s.fld R.COLO_SERVICE_state ≠ 2) (hf : s.dir.all (fun d => d.2.st == .free) = false) :
    Leads (.standby p) s (s.put R.PWR_STAT_cmd_result 1) :=
  pwrCmd_works hp rfl (by omega) (if_neg (by simp only [hr, hf, Bool.false_eq_true, or_self, not_false_eq_true]))

theorem run_refused : Leads (.run p) s (s.put R.PWR_STAT_cmd_result 1) :=
  pwrCmd_works hp rfl (by omega) (if_neg (by omega))

end

theorem run_accepted (h1 : s.pwrState = 1) (hr : s.pwr.rstHigh = true) :
    Leads (.run p) s (s.put R.PWR_STAT_cmd_result 0).startUp :=
  pwrCmd_works hp rfl (by omega) (if_pos ⟨h1, hr⟩)

end

/-! ### Rails that come, that do not, and that fail (R367, R371, R372) -/

section
variable {r : Fin 8} {s : State}

theorem State.rail_awaited (h2 : s.pwrState = 2) (hw : s.pwr.awaits = some r.val) :
    ¬ (s.pwrState ≠ 2 ∨ s.pwr.awaits ≠ some r.val) := not_or.2 ⟨not_not.2 h2, not_not.2 hw⟩

section
variable (ha : s.pwr.aon = true) (h2 : s.pwrState = 2) (hw : s.pwr.awaits = some r.val)
include ha h2 hw

theorem powerGood_next {n : Nat} (hn : railAfter r.val = some n) (h4 : r.val ≠ 4) :
    Leads (.powerGood r) s (s.enableRail n) :=
  leads_aonEv rfl ha ((if_neg (State.rail_awaited h2 hw)).trans (by simp only [hn, if_neg h4]))

/-- After VDDQ the main domain leaves reset, where it may. -/
theorem powerGood_vddq {n : Nat} (hn : railAfter r.val = some n) (h4 : r.val = 4) :
    Leads (.powerGood r) s (s.enableRail n).tryMain :=
  leads_aonEv rfl ha ((if_neg (State.rail_awaited h2 hw)).trans (by simp only [hn, if_pos h4]))

theorem powerGood_last (hn : railAfter r.val = none) : Leads (.powerGood r) s s.railsUp :=
  leads_aonEv rfl ha ((if_neg (State.rail_awaited h2 hw)).trans (by simp only [hn]))

theorem pgTimeout_awaited : Leads (.pgTimeout r) s (s.railMissing r.val) :=
  leads_aonEv rfl ha (if_pos ⟨h2, hw⟩)

end

/-- A power-good that nothing awaits neither comes nor is missing. -/
theorem powerGood_unawaited (hw : s.pwr.awaits ≠ some r.val) :
    exec (.powerGood r) s = .next s ∧ exec (.pgTimeout r) s = .next s :=
  ⟨exec_aonEv_self rfl (if_pos (.inr hw)), exec_aonEv_self rfl (if_neg (fun h => hw h.2))⟩

theorem powerDown_falls (ha : s.pwr.aon = true) (h : s.downMay = true) : Leads .powerDown s s.railsDown :=
  leads_aonEv rfl ha (if_pos h)

theorem powerDown_notYet (h : s.downMay = false) : exec .powerDown s = .next s :=
  exec_aonEv_self rfl (if_neg (Bool.eq_false_iff.1 h))

end

section
variable {a : Fin 10} {s : State}

theorem railFault_enabled (h8 : a.val < 8) (ha : s.pwr.aon = true) (he : s.pwr.enables.getLsbD a = true) :
    Leads (.railFault a) s (s.railFault a) :=
  leads_aonEv rfl ha ((if_neg (Nat.not_le.2 h8)).trans (if_pos he))

theorem railFault_disabled (h8 : a.val < 8) (he : s.pwr.enables.getLsbD a = false) : exec (.railFault a) s = .next s :=
  exec_aonEv_self rfl ((if_neg (Nat.not_le.2 h8)).trans (if_neg (Bool.eq_false_iff.1 he)))

/-- A fault of an always-on rail acts as a power-up. -/
theorem railFault_alwaysOn (h8 : 8 ≤ a.val) (ha : s.pwr.aon = true) : Leads (.railFault a) s s.aonReset.powerUpBoot :=
  leads_aonEv rfl ha ((if_pos h8).trans (if_pos ha))

end
end Sys2Proof.Machine

/-- Settles O58: commands by the power state, a power-good by the rail that is awaited, a rail's fault by its enable. -/
theorem powerStates : Obligations.PowerStates := by
  intro p r a s
  exact ⟨fun hp => ⟨fun h => ⟨pwrCmd_busy hp rfl h, pwrCmd_busy hp rfl h⟩, fun h3 =>
      ⟨standby_accepted hp h3, standby_refused hp h3, run_refused hp h3⟩, run_accepted hp⟩,
    fun ha h2 hw => ⟨fun n => powerGood_next ha h2 hw, fun n => powerGood_vddq ha h2 hw, powerGood_last ha h2 hw,
      pgTimeout_awaited ha h2 hw⟩,
    powerGood_unawaited, powerDown_falls, powerDown_notYet, railFault_enabled, railFault_disabled, railFault_alwaysOn⟩

namespace Sys2Proof.Machine

/-! ### The arithmetic clock and the RTC (R368, R373, R375, R376) -/

section
variable {p : Port} {v : BitVec 64} {s : State}

section
variable {t : State} (ht : t = s.arithSet v.toNat) (hp : Permit s p (R.PWR_ARITH_target.addr 0 0))
include ht hp

/-- A target that the clock has reached, with no change in progress, begins none. -/
theorem pwrArithWrite_there (h : t.fld R.PWR_ARITH_present = t.arithTarget) (hb : t.bit R.PWR_ARITH_busy = false) :
    Leads (.pwrArithWrite p v) s t := by
  subst ht
  exact leads_regCmd rfl hp (if_pos ⟨h, by simp only [hb, Bool.not_false]⟩)

theorem pwrArithWrite_elsewhere (h : t.fld R.PWR_ARITH_present ≠ t.arithTarget) :
    Leads (.pwrArithWrite p v) s t.arithGo := by
  subst ht
  exact leads_regCmd rfl hp (if_neg (fun there => h there.1))

end

theorem dvfsStep_idle (h : s.bit R.PWR_ARITH_busy = false) : exec .dvfsStep s = .next s :=
  exec_aonEv_self rfl (if_neg (Bool.eq_false_iff.1 h))

section
variable (ha : s.pwr.aon = true)
include ha

theorem dvfsStep_busy (h : s.bit R.PWR_ARITH_busy = true) : Leads .dvfsStep s s.dvfsMove :=
  leads_aonEv rfl ha (if_pos h)

theorem avsTimeout_awaited {mv : Nat} (h : s.pwr.avsPrev = some mv) : Leads .avsTimeout s (s.avsAbandon mv) :=
  leads_aonEv rfl ha (by simp only [h])

theorem arithPllStop_due {t : Nat} (hi : s.pwr.arithIdle = some t) (hauto : s.bit R.PWR_ARITH_pll_auto = true)
    (hoff : s.hoopsOff = true) (hd : t + 100 * ms ≤ s.now) :
    Leads .arithPllStop s { s with pwr := { s.pwr with arithPll := false, arithIdle := none } } :=
  leads_aonEv rfl ha (by simp only [hi, hauto, hoff, hd, and_self, if_true])

theorem oscillatorTrim_notes (edge : Bool) :
    Leads (.oscillatorTrim edge) s { s with pwr := { s.pwr with edges := edge } } :=
  leads_aonEv rfl ha rfl

end

section
variable (hp : Permit s p (R.PWR_RTC_ticks.addr 0 0))
include hp

theorem pwrRtcWrite_standby (h : s.pwrState = 1) : Leads (.pwrRtcWrite p v) s (s.put R.PWR_RTC_ticks v.toNat) :=
  leads_regCmd rfl hp (if_pos h)

theorem pwrRtcWrite_ignored (h : s.pwrState ≠ 1) : exec (.pwrRtcWrite p v) s = .next s :=
  exec_regCmd_self rfl hp (if_neg h)

end
end

/-! ### Power and temperature (R368, R369, R380, R381) -/

section
variable {ma : AvsReading} {s : State}

/-- With VDD_CORE on, a reading of its current runs the fast loop, and a tick the slow one. -/
theorem powerLoops_run (ha : s.pwr.aon = true) (h : s.pwr.enables.getLsbD 0 = true) :
    Leads (.avsRead ma) s (s.powerSample ma) ∧ Leads .powerCapTick s s.slowLoop :=
  ⟨leads_aonEv rfl ha (if_pos h), leads_aonEv rfl ha (if_pos h)⟩

theorem powerLoops_off (h : s.pwr.enables.getLsbD 0 = false) :
    exec (.avsRead ma) s = .next s ∧ exec .powerCapTick s = .next s :=
  ⟨exec_aonEv_self rfl (if_neg (Bool.eq_false_iff.1 h)), exec_aonEv_self rfl (if_neg (Bool.eq_false_iff.1 h))⟩

theorem railEvents_taken (vals : List RailReading) (als : List RailStatus) (ha : s.pwr.aon = true) :
    Leads (.pmbusPoll vals) s ((List.range 10).foldl (fun (s : State) r =>
      s.railPolled r (vals.find? (fun x => x.rail.val == r))) s) ∧
    Leads (.pmbAlert als) s (als.foldl (fun (s : State) x => s.railAlert x) s) :=
  ⟨leads_aonEv rfl ha rfl, leads_aonEv rfl ha rfl⟩

theorem thermalSample_taken (temps : List (BitVec 8)) (hm : s.mainOn = true) :
    Leads (.thermalSample temps) s (s.thermals (temps.take 49)) :=
  leads_mainEv rfl hm rfl

end

/-! ### Hoop sleep and wake (R19, R378, R379) -/

section
variable {h : HoopId} {s : State} (hm : s.mainOn = true)

theorem hoopPowerOff_kept (ho : s.hoopMayOff h = false) : exec (.hoopPowerOff h) s = .next s :=
  exec_mainEv_self rfl (if_neg (Bool.eq_false_iff.1 ho))

theorem hoopWakeDone_early {t : Nat} (hw : (s.hoop h).waking = some t) (hd : s.now < t + 40 * us) :
    exec (.hoopWakeDone h) s = .next s :=
  exec_mainEv_self rfl (by simp only [hw, if_pos hd])

include hm

theorem hoopPowerOff_idle (ho : s.hoopMayOff h = true) : Leads (.hoopPowerOff h) s (s.hoopDown h) :=
  leads_mainEv rfl hm (if_pos ho)

theorem hoopWakeGrant_grants : Leads .hoopWakeGrant s s.grantWakes := leads_mainEv rfl hm rfl

theorem hoopWakeDone_due {t : Nat} (hw : (s.hoop h).waking = some t) (hd : t + 40 * us ≤ s.now) :
    Leads (.hoopWakeDone h) s (s.hoopUp h) :=
  leads_mainEv rfl hm (by simp only [hw, if_neg (Nat.not_lt.2 hd)])

end
end Sys2Proof.Machine

/-- Settles O59: the arithmetic clock by its target, the power loops by VDD_CORE, a hoop by what keeps it on and by the time of
its grant. -/
theorem powerControl : Obligations.PowerControl := by
  refine ⟨fun p v edge s => ⟨fun hp => ⟨pwrArithWrite_there rfl hp, pwrArithWrite_elsewhere rfl hp⟩, dvfsStep_idle,
      fun ha => ?_, fun hp => ⟨pwrRtcWrite_standby hp, pwrRtcWrite_ignored hp⟩⟩,
    fun ma vals als temps s => ⟨powerLoops_run, powerLoops_off, railEvents_taken vals als, thermalSample_taken temps⟩,
    fun h s hm => ⟨hoopPowerOff_idle hm, hoopPowerOff_kept, hoopWakeGrant_grants hm, fun t hw =>
      ⟨hoopWakeDone_due hm hw, hoopWakeDone_early hw⟩⟩⟩
  exact ⟨dvfsStep_busy ha, fun mv => avsTimeout_awaited ha, fun t => arithPllStop_due ha, oscillatorTrim_notes ha edge⟩

end

section
/-! PROOFS. One step: the front command on the rest of the queue, the queue first in first out, and memory in its canonical
form (log entry 65). -/

open Sys2Proof Sys2Proof.Machine
-- One declaration after the other, as in the tests: the threads of one compile share its memory limit.
set_option Elab.async false

namespace Sys2Proof.Machine

/-- The second state has the queue of the first, and memory in canonical form where the first has. -/
def QueueKept (s t : State) : Prop := t.pending = s.pending ∧ (Memory.wf s.mem = true → Memory.wf t.mem = true)

theorem QueueKept.refl (s : State) : QueueKept s s := ⟨rfl, id⟩

/-- Every effect in the common frame. -/
theorem queueKept_within (s t : State) : QueueKept s (s.within t) := ⟨rfl, fun h => State.within_wf h t⟩

/-- The frame of the commands that may blow fuses differs from the common one in the fuses alone. -/
theorem queueKept_secEv (s : State) (eff : State → State) : QueueKept s (s.secEv eff) := by
  cases ha : s.pwr.aon
  · rw [secEv_off ha]
    exact .refl s
  · rw [secEv_ok ha]
    exact queueKept_within s (eff s)

/-- Each command that may blow fuses stands in the frame of one. -/
theorem exec_mayBlowFuses {i : Instr} (h : mayBlowFuses i = true) (s : State) : ∃ eff, exec i s = .next (s.secEv eff) := by
  rcases mayBlowFuses_cases h with ⟨chal, ticket, rfl⟩ | ⟨q, rfl⟩ | ⟨q, rfl⟩ | ⟨b, rfl⟩
  all_goals exact ⟨_, rfl⟩

theorem queueKept_exec {i : Instr} {s t : State} (h : exec i s = .next t) : QueueKept s t := by
  cases hf : mayBlowFuses i
  case true =>
    obtain ⟨eff, he⟩ := exec_mayBlowFuses hf s
    obtain rfl : s.secEv eff = t := Host.Outcome.next.inj (he.symm.trans h)
    exact queueKept_secEv s eff
  case false =>
    obtain ⟨u, hu, hw⟩ := exec_within hf s
    obtain rfl : u = t := Host.Outcome.next.inj (hu.symm.trans h)
    rw [← hw]
    exact queueKept_within s u

theorem step_cons {s : State} {c : Instr} {rest : List Instr} (h : s.pending = c :: rest) :
    step s = exec c { s with pending := rest } := by
  rw [step, h]

end Sys2Proof.Machine

/-- Settles O3: a command runs on the queue's rest, which its frame keeps; a tick stands in the same frame. -/
theorem queueAndMemoryForm : Obligations.QueueAndMemoryForm := by
  intro s t h
  cases hq : s.pending with
  | nil =>
    obtain rfl : s.tick = t := Host.Outcome.next.inj ((step_empty hq).symm.trans h)
    obtain ⟨hp, hm⟩ := queueKept_within s s.aonRun.mainRun
    exact ⟨hp.trans hq, hm⟩
  | cons c rest => exact queueKept_exec ((step_cons hq).symm.trans h)

/-- Settles O1: the front of the queue decides the step. -/
theorem stepRunsFrontCommand : Obligations.StepRunsFrontCommand := by
  intro c rest s h
  exact step_cons h

end
